-- ==== Sys2Proof/Word.lean ====
section
/-!
DEFINITION. The plain number and byte types of the model: bytes, little-endian fields (R5), saturating
counts, and the sparse table in which the block's numbered entries are kept.
-/
namespace Sys2Proof

/-- One byte. -/
abbrev Byte := BitVec 8

/-- A run of bytes, lowest address first (R5). -/
abbrev Bytes := List Byte

/-- Saturating count: `a + k`, at most `2^bits - 1`. Log entry 70 (DESIGN CHOICE). -/
def satAdd (bits a k : Nat) : Nat := min (a + k) (2 ^ bits - 1)

/-- Ceiling division. -/
def ceilDiv (a b : Nat) : Nat := (a + b - 1) / b

/-- A sparse table: entries in rising order of key. An unlisted key holds no entry. Log entry 70 (DESIGN CHOICE). -/
abbrev Tbl (α : Type) := List (Nat × α)

/-- The entry of key `k`. -/
def Tbl.get? {α : Type} : Tbl α → Nat → Option α
  | [], _ => none
  | (j, a) :: t, k => if j = k then some a else Tbl.get? t k

/-- Put entry `a` at key `k`, keeping the keys in rising order. -/
def Tbl.put {α : Type} : Tbl α → Nat → α → Tbl α
  | [], k, a => [(k, a)]
  | (j, b) :: t, k, a =>
    if j = k then (k, a) :: t
    else if k < j then (k, a) :: (j, b) :: t
    else (j, b) :: Tbl.put t k a

/-- Remove the entry of key `k`. -/
def Tbl.del {α : Type} : Tbl α → Nat → Tbl α
  | [], _ => []
  | (j, b) :: t, k => if j = k then t else (j, b) :: Tbl.del t k

/-- The entry of key `k`, or `d` where there is none. -/
def Tbl.getD {α : Type} (t : Tbl α) (k : Nat) (d : α) : α := (Tbl.get? t k).getD d

/-- The same change to every entry. -/
def Tbl.mapV {α : Type} (t : Tbl α) (f : Nat → α → α) : Tbl α := t.map fun e => (e.1, f e.1 e.2)

/-- The lowest key below `n` that has no entry. -/
def Tbl.firstFree {α : Type} (t : Tbl α) (n : Nat) : Option Nat :=
  (List.range n).find? fun k => (Tbl.get? t k).isNone

end Sys2Proof
end

