-- ==== Sys2Proof/Syntax.lean ====
section
/-!
DEFINITION. The commands the block takes: one constructor of `Instr` for each row of
spec/opcode_table.json, with the operands that the row's event brings from outside the block.
-/
namespace Sys2Proof

/-- Who makes an access: host-port function 0 through BAR0, a tenant view of BAR4 (R442), both with the request's
T bit `tee` (R295), or a fabric endpoint through fabric port `port` (0 to 3) (R25, R303). Log entry 71 (DEDUCED). -/
inductive Requester where
  | host (tee : Bool)
  | view (tee : Bool) (partition : Nat)
  | fabric (port endpoint : Nat)
deriving DecidableEq, Repr

/-- The register space that a register access reaches: SC space (or, for a `view` requester, its tenant
view), BAR2 with the MSI-X table (R439), Bobbin local space (R363, R387), and the configuration space of the host-port
function, of which R263 and R368 name a few fields. -/
inductive Space where
  | sc
  | bar2
  | bobbin
  | config
deriving DecidableEq, Repr

/-- Which part of a 64-bit register a read takes (R10). -/
inductive Half where
  | whole
  | low
  | high
deriving DecidableEq, Repr

/-- What a read of memory delivers (R171, R374): data, data with poison in it, or a failed access. Log entry 14 (DEDUCED). -/
inductive ReadData where
  | data (bytes : Bytes)
  | poisoned
  | failed
deriving DecidableEq, Repr

/-- The areas of a queue (R172). -/
inductive QueueArea where
  | fetch
  | status
  | completion
deriving DecidableEq, Repr

/-- Element formats of R33. -/
inductive Fmt where
  | mxfp4 | e3m2 | e2m3 | e4m3 | e5m2 | mxint8 | mxint4 | s2 | t2 | bf16 | fp32
deriving DecidableEq, Repr

/-- Vector-unit operations of R47. -/
inductive VecOp where
  | fma | add | sub | mul | min | max | cmpLt | cmpEq | exp2 | log2 | recip | rsqrt
  | iadd | isub | imul | icmpLt | iand | ior | ixor | ishl | ishr
  | ladd | lsub | lcmpLt | lmin | lmax
deriving DecidableEq, Repr

/-- Reduction and atomic operations of R87. -/
inductive RedOp where
  | add | min | max | or | and
deriving DecidableEq, Repr

/-- Element formats of reductions (R87). -/
inductive RedFmt where
  | fp32 | bf16 | int32 | int64
deriving DecidableEq, Repr

/-- Cluster-cache hints (R76). -/
inductive Hint where
  | normal
  | stream
  | keep
  | discard (uses : Nat)
deriving DecidableEq, Repr

/-- The activation operand of an engine pass: read already coded, or quantised by the tile from an FP32
source (R53). Rows are lists of element codes or FP32 codes. -/
inductive Activation where
  | coded (rows : List (List Nat)) (scales : List (List Byte))
  | quantised (rows : List (List (BitVec 32)))
deriving DecidableEq, Repr

/-- One engine pass (R31, R42): weight columns with their scales, and the activation rows. `group` numbers
are counted by the block; `accRow` is the first accumulator row. -/
structure EnginePass where
  engine  : Nat
  wFmt    : Fmt
  aFmt    : Fmt
  wElems  : List (List Nat)
  wScales : List (List Byte)
  act     : Activation
  accRow  : Nat
  clear   : Bool
deriving DecidableEq, Repr

/-- One step of a tile's opaque stitch code that the block's documented units carry out: the arithmetic
units of R42 to R49, stores (R81), reductions (R87) and sequence-table updates (R230). -/
inductive TileOp where
  | pass (p : EnginePass)
  | drain (row : Nat) (dst : Nat)
  | toBf16 (dst : Nat) (xs : List (BitVec 32))
  | quantise (dst : Nat) (fmt : Fmt) (xs : List (BitVec 32))
  | dequantise (dst : Nat) (fmt : Fmt) (scale : Byte) (codes : List Nat)
  | vector (dst : Nat) (op : VecOp) (a b c : List (BitVec 64))
  | hamming (dst : Nat) (query : Bytes) (codes : List Bytes) (threshold : Option Nat)
  | store (binding offset : Nat) (hint : Hint) (data : Bytes)
  | reduce (binding offset : Nat) (fmt : RedFmt) (op : RedOp) (data : Bytes)
  | seqUpdate (index advance : Nat) (finish : Bool)
deriving DecidableEq, Repr

/-- A read that a strand issues (R66): binding and offset, size in bytes, hint. -/
structure Gather where
  strand  : Nat
  binding : Nat
  offset  : Nat
  size    : Nat
  hint    : Hint
deriving DecidableEq, Repr

/-- The answer to an ATS Translation Request (R264, R273). -/
inductive XlatAnswer where
  | granted (target size : Nat) (read write : Bool)
  | noPermission
  | unsupported
deriving DecidableEq, Repr

/-- PRG Response codes (R273). -/
inductive PrgCode where
  | success | invalid | failure
deriving DecidableEq, Repr

/-- Responses of a receiving side (R279). -/
inductive FabricCode where
  | ok (data : Bytes) (poisoned : Bool)
  | notPresent | denied | noWindow | fenced
deriving DecidableEq, Repr

/-- Where an uncorrectable word was found (R379). -/
inductive WordPlace where
  | cleanLine (cluster line half : Nat)
  | dirtyLine (cluster line half : Nat)
  | tileState (core : Nat)
  | liveInput (core : Nat)
  | tier (cluster addr : Nat)
  | coreControl (core : Nat)
  | clusterControl (cluster : Nat)
  | queueState (queue : Nat)
  | admittedCopy (queue : Nat)
  | partitionState (partition : Nat)
  | dieState (die : Nat)
deriving DecidableEq, Repr

/-- Tile errors of R379. -/
inductive TileErr where
  | staging | unusedBinding | pointer | seqView
deriving DecidableEq, Repr

/-- How a poisoned word reached its consumer (R391). Log entry 58 (DEDUCED). -/
inductive PoisonFrom where
  | tier | cache | storedPoison
deriving DecidableEq, Repr

/-- A domain handling an error when another strikes (R382). -/
inductive Domain where
  | core (k : Nat)
  | cluster (c : Nat)
  | queue (q : Nat)
  | partition (p : Nat)
  | die (d : Nat)
deriving DecidableEq, Repr

/-- What the scrub found in one word (R423). `folio` says that the word lies in a folio page. -/
inductive ScrubFind where
  | clean | corrected (symbol : Nat) | uncorrectable | poison
deriving DecidableEq, Repr

/-- Why a partition reset starts (R398), as TRIGGER of R400 names it. -/
inductive ResetTrigger where
  | management | error | tdiStop | destruction | classB
deriving DecidableEq, Repr

/-- Boundary inputs with a filter (R457). -/
inductive Pin where
  | coolantOk | timeStrobe | resetN | tamperN | hardCap | wake
deriving DecidableEq, Repr

/-- A reading of the sensor of a cluster, or of a base die, in units of 0.125 °C (R415, R418). -/
structure ThermalReading where
  base    : Bool
  unit    : Nat
  eighths : Nat
deriving DecidableEq, Repr

/-- One end's collision of R456 apart, the result of testing one bundle's lanes. -/
structure BundleTest where
  bundle : Nat
  sparesNewlyUsed : Nat
  goodLanes : Nat
deriving DecidableEq, Repr

/-- The commands. Each constructor is one row of spec/opcode_table.json, in the table's order. Log entry 57 (DESIGN CHOICE). -/
inductive Instr where
  -- register accesses
  | registerWrite (r : Requester) (sp : Space) (offset size : Nat) (v : BitVec 64)
  | badScAccess (r : Requester) (write : Bool) (offset size : Nat)
  | scBadAccessRead (r : Requester) (half : Half)
  | scQcountsRead (r : Requester) (q : Nat) (half : Half)
  | scQdb (r : Requester) (q : Nat) (v : BitVec 32)
  | doorbellTokenAccrual (q : Nat)
  -- slots
  | slotFetch (q : Nat)
  | slotArrival (q : Nat) (d : ReadData)
  | externalConstantsReadDone (q seq : Nat) (d : ReadData)
  | overrideTableReadDone (q seq : Nat) (d : ReadData)
  | nop (q seq : Nat)
  | launch (q seq : Nat)
  | chainStore (q seq : Nat) (d : ReadData)
  | chainRun (q seq : Nat)
  | adviseNormal (q seq : Nat)
  | adviseHot (q seq : Nat)
  | adviseCold (q seq : Nat)
  | adviseWillNeed (q seq : Nat)
  | adviseDontNeed (q seq : Nat)
  | adviseReleaseKeep (q seq : Nat)
  | prefetchNearTier (q seq : Nat)
  | prefetchClusterCache (q seq : Nat)
  | prefetchBoth (q seq : Nat)
  | adviceAck (q seq : Nat)
  | fenceQueue (q seq : Nat)
  | fenceContext (q seq : Nat)
  | fenceFinish (q seq : Nat)
  | seqAdmit (q seq : Nat)
  | seqRetireOne (q seq : Nat)
  | seqRetireGroup (q seq : Nat)
  | seqRetireContext (q seq : Nat)
  | seqEntryFreed (entry : Nat)
  | folioOpenRead (q seq : Nat) (resultMapped : Bool)
  | folioOpenDraft (q seq : Nat) (resultMapped : Bool)
  | folioClose (q seq : Nat) (resultMapped : Bool)
  | folioPublish (q seq : Nat) (resultMapped : Bool)
  | pageListReadDone (q seq : Nat) (d : ReadData)
  -- execution
  | phaseStart (q seq phase : Nat)
  | baste (core : Nat)
  | tileStart (core : Nat) (gathers : List Gather)
  | contextSwitchDone (core : Nat)
  | tileCommitStart (core : Nat) (work : List TileOp)
  | commitPhaseEnd (core : Nat)
  | gatherReturn (core request : Nat) (more : List Gather)
  | reductionApply (cluster slice : Nat)
  | granuleCommit (cluster : Nat)
  | sharedPageCopyDone (folio version page : Nat)
  | memData (port tag : Nat) (words : List (BitVec 288))
  | memAck (port tag : Nat)
  | backInval (line : Nat)
  | snoop (line : Nat)
  | launchFinish (q seq : Nat)
  | queueWriteAccepted (q : Nat)
  | queueAreaAccessFail (q : Nat) (area : QueueArea)
  | interruptLost (q : Nat)
  | scQctlStop (r : Requester) (q : Nat)
  | scQctlResume (r : Requester) (q : Nat)
  | queueGuilty (q : Nat) (admittedCopy : Bool)
  | monitorTick
  | fallbackSwitch (q seq : Nat)
  | hemForcedTack (q seq : Nat)
  | forcedTack (core : Nat)
  | idleStrandsTimeout (core : Nat)
  | abandonDone (core : Nat)
  | commonsSwitch (ctx : Nat)
  | commonsSwitchDone
  -- translation
  | translationCompletion (die slot : Nat) (a : XlatAnswer)
  | pageListFill (die slot : Nat)
  | faultBatchFlush (die ctx : Nat)
  | faultRingWriteFail (ctx : Nat)
  | prgResponse (group : Nat) (c : PrgCode)
  | faultRetry (fault : Nat)
  | consumerPoll (ctx : Nat)
  | consumerReadDone (ctx count : Nat)
  | unresolvedFault (q seq cause : Nat)
  | atsInvalidateRequest (tag : Nat) (pasid : Option Nat) (base length : Nat)
  | invalidationCompletion (tag : Nat)
  | inboundRequest (endpoint window offset : Nat) (write : Bool) (len : Nat) (data : Bytes)
  | fabricResponse (request : Nat) (c : FabricCode)
  | fabricResponseTimeout (request : Nat)
  | hostWriteErrorAnswer (q seq : Nat)
  | hostReadErrorAnswer (request : Nat)
  | linkHeld (port : Nat)
  | linkUp (port : Nat)
  | linkUnencrypted (port : Nat)
  | abortNoticeReceived (group origin serial : Nat)
  -- time and background
  | frameBoundary
  | backgroundSlot (ageing : List (Nat × Bool))
  | scrubResult (port addr : Nat) (found : ScrubFind)
  | msBoundary (blockWatts : Nat) (clusterWatts : List (Nat × Nat))
  | powerWindowEnd (joules : List (Nat × Nat))
  | timeStrobe (v : BitVec 64) (parity : BitVec 8)
  | strobeTimeout
  | reanchor
  -- errors
  | wordUncorrectable (place : WordPlace) (syndrome : BitVec 32)
  | poisonConsumed (core : Nat) (from_ : PoisonFrom)
  | tileError (core : Nat) (e : TileErr)
  | clusterQuarantine (cluster : Nat)
  | escalated (d : Domain)
  | mirrorServed (cluster folio page word : Nat) (mirror back : BitVec 288)
  | mirrorCopyDone (folio version : Nat)
  | errPop (queue : Nat) (v : BitVec 32)
  | errQstatRead (queue : Nat) (half : Half)
  | partitionResetStart (p : Nat) (t : ResetTrigger)
  | partitionResetDrainDone (p : Nat)
  | partitionResetEnd (p : Nat)
  | blockFatal (die : Nat)
  | revocationDrainBound (extent : Nat)
  | revocationInvalidated (extent : Nat)
  | zeroingDone (extent : Nat)
  -- mailbox
  | scMbNotice (r : Requester) (ch : Nat) (v : BitVec 64)
  | noticeTake (bobbin : Nat)
  | messageReadDone (ch : Nat) (d : ReadData)
  | capabilityCheck (ch : Nat)
  | busyAnswer (ch : Nat)
  | replyPosted (ch : Nat) (accepted : Bool)
  | scMbAck (r : Requester) (ch : Nat) (v : BitVec 32)
  | replyHoldExpiry (ch : Nat)
  | capabilityExpiry (capId : Nat)
  | partitionReset (ch : Nat)
  | queueReset (ch : Nat)
  | queueStop (ch : Nat)
  | queueStopResume (ch : Nat)
  | errorLogRead (ch : Nat)
  | folioRepair (ch : Nat) (source : List (BitVec 288)) (readBack : List (BitVec 288))
  | spdmMessage (ch : Nat)
  | attest (ch : Nat)
  | keyZeroise (ch : Nat)
  | signerRevoke (ch : Nat)
  | rollbackAdvance (ch : Nat)
  | fwReboot (ch : Nat)
  | requesterSet (ch : Nat)
  | requesterSetRemove (ch : Nat)
  | ownerSet (ch : Nat)
  | partitionCreate (ch : Nat)
  | partitionDestroy (ch : Nat)
  | layoutChange (ch : Nat)
  | partitionSet (ch : Nat)
  | regulatorSet (ch : Nat)
  | contextCreate (ch : Nat)
  | contextDelete (ch : Nat)
  | contextSet (ch : Nat)
  | queueCreate (ch : Nat)
  | queueDelete (ch : Nat)
  | extentGrant (ch : Nat)
  | extentRights (ch : Nat)
  | extentRevoke (ch : Nat)
  | inboundWindowSet (ch : Nat)
  | powerCapSet (ch : Nat)
  | mbGroupPower (ch : Nat)
  | graphRegister (ch : Nat) (image : Bytes) (clean : Bool)
  | graphPatch (ch : Nat) (image : Bytes) (clean : Bool)
  | graphUnregister (ch : Nat)
  | folioRegister (ch : Nat)
  | folioSet (ch : Nat)
  | folioLookup (ch : Nat)
  | folioUnregister (ch : Nat)
  | telemetryRead (ch : Nat)
  | snapshot (ch : Nat)
  | powerRead (ch : Nat)
  | firmwareTelemetrySample
  | extentCheckAnswer (ch : Nat) (ok : Bool) (mcGroup : Nat)
  | extentCheckTimeout (ch : Nat)
  | extentRevokeReq (grant : Nat) (partition : Option Nat)
  | nearTierReport (size : Nat)
  | bootData (data : Option Bytes)
  -- interrupt controller
  | icDoorbellFire (v : BitVec 32)
  | icDoorbellDeassert (v : BitVec 32)
  | icAck (core : Nat)
  | icEoi (core : Nat) (v : BitVec 32)
  | icSetPending (v : BitVec 32)
  | icClearPending (v : BitVec 32)
  | stormWindowExpiry (source : Nat)
  | sleepReq
  | icWake (pin : Bool)
  | msixUnmask (entry : Option Nat)
  -- security
  | scTamperN (held : Nat)
  | debugUnlockAttempt
  | classBGlitch (die : Bool) (unit : Nat)
  | retireFuseBlown
  | partitionKeyRenewed (p : Nat)
  | getVersion (session : Nat)
  | getCapabilities (session : Nat)
  | negotiateAlgorithms (session : Nat) (common : Bool)
  | getDigests (session : Nat)
  | getCertificate (session slot offset length : Nat)
  | challenge (session slot : Nat) (nonce : BitVec 256)
  | getMeasurements (session index slot : Nat) (signed : Bool) (nonce : BitVec 256)
  | keyExchange (session : Nat) (requester : Requester) (bound : Option Nat) (mutAuth : Bool)
  | finish (session : Nat) (ok : Bool) (rootDigest : Option (BitVec 384))
  | heartbeat (session : Nat)
  | keyUpdate (session : Nat)
  | endSession (session : Nat)
  | chunkSend (session handle index : Nat) (chunk : Bytes) (last : Bool)
  | chunkGet (session handle index : Nat)
  | spdmSessionLoss (session : Nat)
  | getTdispVersion (session p : Nat)
  | getTdispCapabilities (session p : Nat)
  | lockInterfaceRequest (session p : Nat)
  | getDeviceInterfaceReport (session p : Nat)
  | getDeviceInterfaceState (session p : Nat)
  | startInterfaceRequest (session p : Nat)
  | stopInterfaceRequest (session p : Nat)
  | ideKmKeyProg (session p keyBits : Nat)
  -- power, thermal, boundary
  | scHardCapAssert (held : Nat)
  | scHardCapDeassert (held : Nat)
  | thermalSample (readings : List ThermalReading)
  | coolantStop (held : Nat)
  | droopDetect (core : Nat) (excess : Bool)
  | scResetNAssert (held : Nat)
  | scResetNDeassert (held : Nat) (coolantOk hardCap : Bool)
  | romDone (selfTestOk : Bool)
  | keysDone (ok : Bool)
  | imageChecked (ageing : List (Nat × Nat))
  | memoryPortReady (port : Nat)
  | memoryPortTimeout (port : Nat)
  | trainingDone (tests : List BundleTest)
  | timeLimitExpiry
  | bridgeFlitReplay (bundle : Nat) (again : Nat)
  | bridgeRetrainStart (bundle : Nat)
  | bridgeRetrainEnd (t : BundleTest)
  | widthReq (r : Requester) (v : BitVec 64)
  | retrain (r : Requester) (v : BitVec 64)
  | bridgeWidthChange
  | scSignalsRead (r : Requester) (half : Half)
  | scRbIndex (r : Requester) (lane : Nat) (v : BitVec 64)
  | captureDone (r : Requester) (lane : Nat)
  | slotRetireCommand (ch : Nat)
  | icStatusRead (half : Half)
  | bootReadTimeout
  | thimbleDomainGlitch
  | partitionCertificateIssued (p : Nat)
  | inputGlitch (pin : Pin) (width : Nat)
  | slewComplete
  | faultRingWriteAccepted (ctx : Nat)
  | priEnable (p : Nat)
  | regulatorTokenAccrual (port : Nat)
  | layoutClearingDone (p : Nat)
deriving DecidableEq, Repr

end Sys2Proof
end

