-- ==== Sys2Proof/Decode.lean ====
section
/-!
DEFINITION. Decoding of command words. spec/opcode_table.json gives no row any bits: the block takes commands, not
words.
-/
namespace Sys2Proof

/-- The command that a word spells by the table's bits: none, since no row of the table has bits. Log entry 2 (DEDUCED). -/
def decodeTableWord (_nbits _w : Nat) : Option Instr := none

end Sys2Proof
end

