-- ==== Sys2Proof/Config.lean ====
section
/-!
DEFINITION. The free values: what the spec leaves open or takes from outside standards whose functions it only
names. None has a body, so a proof holds whatever they are. Log entries 11 and 12 (DESIGN CHOICE).
-/
namespace Sys2Proof.Config

open Sys2Proof

/-- SHA-384 (R100, R313, R319); the spec names the function and does not define it. -/
opaque sha384 : Bytes → BitVec 384

/-- HMAC-SHA-384 of a key and a message (R303, R311). -/
opaque hmac384 : Bytes → Bytes → BitVec 384

/-- HKDF-SHA-384 with a label and inputs, to 576 bits (R309). -/
opaque hkdf : Bytes → String → List Nat → BitVec 576

/-- The unique device secret of a root slot (R307). -/
opaque deviceSecret : Nat → Bytes

/-- ECDSA P-384 signature of a message under a key (R312, R319): 96 bytes read as one number. -/
opaque ecdsaSign : BitVec 576 → Bytes → BitVec 768

/-- Whether an ECDSA P-384 signature verifies: public key, message, signature (R314). -/
opaque ecdsaVerify : Bytes → Bytes → Bytes → Bool

/-- The ROM's digests of the four firmware signing keys (R314), and the digest of Thimble's ROM (R318). -/
opaque signerDigest : Nat → BitVec 384
opaque romDigest : BitVec 384

/-- AES-XTS-256 of one 64-byte line under a memory key, with the line's pool address as tweak (R289). -/
opaque xtsEncrypt : BitVec 512 → Nat → BitVec 512 → BitVec 512
opaque xtsDecrypt : BitVec 512 → Nat → BitVec 512 → BitVec 512

/-- Output of the on-die entropy source, by draw (R309). -/
opaque entropy : Nat → BitVec 256

/-- The result of exp2, log2, reciprocal or reciprocal square root within its 2 ulp (R47), by draw. -/
opaque vecApprox : Nat → VecOp → BitVec 32 → BitVec 32

/-- How the vector unit writes the result of a compare (R47 names the operation, not its result's code). -/
opaque compareCode : Bool → BitVec 64

/-- The row of a group that the seam check samples (R54): launch sequence, engine, tile, group. -/
opaque sampleRow : Nat → Nat → Nat → Nat → Nat

/-- The order in which an engine adds the block results of one output element (R42): draw, place in the order. -/
opaque blockOrder : Nat → Nat → Nat

/-- An undefined value of `n` bits, by draw. -/
opaque freeBits : Nat → Nat → Nat

/-- A certificate's bytes, by subject and key (R312). -/
opaque certificate : String → BitVec 576 → Bytes

/-- The ephemeral and session keys that Thimble derives in an SPDM exchange (R309), by draw. -/
opaque sessionKey : Nat → BitVec 384

/-- The content of an SPDM response whose layout SPDM 1.3 gives and this spec does not. -/
opaque spdmContent : String → Nat → Bytes

end Sys2Proof.Config
end

