-- ==== Sys2Proof/Machine/State.lean ====
section
/-!
DEFINITION. The state of the block: every register, table, queue, buffer and pin that the spec names, as plain
data. The block's own parts stand in one structure each, in the order of the spec's chapters; `State` gathers
them, with the queue of waiting commands. Times are natural numbers of nanoseconds. Where the spec gives no reset value, log
entries 6 to 10 name the model's (DESIGN CHOICE, PRESUMED); the model's own fields are those of log entries 2, 11 and 13.
-/
namespace Sys2Proof.Machine

open Sys2Proof

/-! ### What the block puts on its ports -/

/-- A status record (R162). -/
structure StatusRecord where
  sequence     : Nat := 0
  status       : Nat := 0
  cause        : Nat := 0
  guestTag     : Nat := 0
  ct           : Nat := 0
  failedShards : Nat := 0
  variant      : Nat := 0xFFFF
deriving DecidableEq, Repr

/-- A completion word (R160). -/
structure CompletionWord where
  retiredSeq : Nat := 0
  epoch      : Nat := 0
  state      : Nat := 0
  cflags     : Nat := 0
deriving DecidableEq, Repr

/-- A folio result record (R248). -/
structure FolioResult where
  sequence : Nat := 0
  status   : Nat := 0
  op       : Nat := 0
  vstate   : Nat := 0
  version  : Nat := 0
  current  : Nat := 0
  held     : Nat := 0
  length   : Nat := 0
deriving DecidableEq, Repr

/-- A quality record (R58); the 32-bit counts are already saturated. -/
structure QualityRecord where
  sequence   : Nat := 0
  status     : Nat := 0
  variant    : Nat := 0
  qflags     : Nat := 0
  escPhases  : Nat := 0
  sampled    : Nat := 0
  diverged   : Nat := 0
  maxQ       : BitVec 32 := 0
  elemSat    : Nat := 0
  scaleClamp : Nat := 0
  nanOut     : Nat := 0
  tilesRun   : Nat := 0
  tilesRerun : Nat := 0
  ctWritten  : Nat := 0
  guestTag   : Nat := 0
deriving DecidableEq, Repr

/-- A write or message that a queue owes its guest, in the order of R161. -/
inductive GuestWrite where
  | quality (address : Nat) (r : QualityRecord)
  | folioResult (address : Nat) (r : FolioResult)
  | verdict (r : StatusRecord)
  | final (r : StatusRecord)
  | word (w : CompletionWord)
  | completionInterrupt
  | eventInterrupt
deriving DecidableEq, Repr

/-- An error record (R383). -/
structure ErrRecord where
  recordSeq : Nat := 0
  ct        : Nat := 0
  error     : Nat := 0
  action    : Nat := 0
  level     : Nat := 0
  domain    : Nat := 0
  partition : Nat := 0xFF
  context   : Nat := 0xFF
  queue     : Nat := 0xFFFF
  rflags    : Nat := 0
  symbol    : Nat := 0xFF
  tile      : Nat := 0xFFFFFFFF
  launchSeq : Nat := 0
  address   : Nat := 0
  syndrome  : Nat := 0
  count     : Nat := 1
  lost      : Nat := 0
deriving DecidableEq, Repr

/-- A reply of the mailbox (R338) without its body. -/
structure ReplyHeader where
  opcode      : Nat := 0
  status      : Nat := 0
  token       : Nat := 0
  retryAfter  : Nat := 0
  gate        : Nat := 0
  cls         : Nat := 0
  detail      : Nat := 0
  attrIndex   : Nat := 0xFFFF
  takenCt     : Nat := 0
  doneCt      : Nat := 0
  neededBytes : Nat := 0
deriving DecidableEq, Repr

/-- What leaves the block through one of its ports (R1). Log entry 13 (DESIGN CHOICE). -/
inductive Out where
  /-- The answer to a register read. -/
  | regValue (r : Requester) (v : BitVec 64)
  /-- A Completer Abort, or an error response on a fabric port (R26, R332). -/
  | errorResponse (r : Requester)
  /-- An Unsupported Request, or an error response (R333). -/
  | unsupported (r : Requester)
  /-- The answer to a register read in Bobbin local space. -/
  | icValue (v : BitVec 64)
  /-- A write or message to the guest of queue `q`, issued on its PATH. -/
  | guest (q : Nat) (w : GuestWrite)
  /-- A read of a slot: queue, ring index (R30). -/
  | slotRead (q index : Nat)
  /-- A read of guest memory of a context: address, bytes. -/
  | guestRead (q seq address bytes : Nat)
  /-- A commit's write to host memory: queue, launch, address, bytes (R443). -/
  | hostWrite (q seq address : Nat) (data : Bytes)
  /-- An MSI-X message of an entry (R368). -/
  | msix (entry : Nat)
  /-- A fabric interrupt message: endpoint, vector, partition (R369). -/
  | fabricInt (endpoint vector partition : Nat)
  /-- A memory-port request: port, tag, address, words, write (R450). -/
  | mem (port tag address words : Nat) (write : Bool)
  /-- The words of a write, in the word code, after encryption (R449). -/
  | memWords (port tag : Nat) (words : List (BitVec 288))
  /-- A scrub read-modify-write (R423). -/
  | memRmw (port address : Nat)
  /-- ADVICE for the extent manager (R450): port, kind, offset, length, time. -/
  | advice (port kind folio offset length whenCt : Nat)
  /-- BI_DONE (R451). -/
  | biDone (line : Nat)
  /-- SNOOP_DATA (R451): the committed content of a dirty line, or empty. -/
  | snoopData (line : Nat) (words : Option (List (BitVec 256)))
  /-- ATS Translation Request: request, PASID, address, No-Write (R263). -/
  | xlatRequest (id pasid address : Nat) (noWrite : Bool)
  /-- A Page Request Group: group, PASID, addresses (R270). -/
  | pageRequests (group pasid : Nat) (addresses : List Nat)
  /-- An Invalidation Completion (R268). -/
  | invalDone (tag : Nat)
  /-- A Stop Marker for a PASID (R263). -/
  | stopMarker (pasid : Nat)
  /-- A fault-ring entry (R271): context, FSEQ, address, access, source, queue, tag, launch sequence. -/
  | faultEntry (ctx fseq address access source queue tag launchSeq : Nat)
  /-- A read of CONSUMER_ADDR (R272). -/
  | consumerRead (ctx address : Nat)
  /-- A fabric request: request, endpoint, window, offset, bytes, written data, port (R278). -/
  | fabricReq (id endpoint window offset bytes : Nat) (data : Option Bytes) (port : Nat)
  /-- The answer to an inbound request (R280). -/
  | inboundAnswer (endpoint code : Nat)
  /-- An abort notice (R403). -/
  | abortNotice (group origin reason serial : Nat)
  /-- A mailbox message read (R337): channel, address. -/
  | mailRead (ch address bytes : Nat)
  /-- A mailbox reply write (R337): channel, header, body. -/
  | mailReply (ch : Nat) (h : ReplyHeader) (body : Bytes)
  /-- A NOTIFY message of the mailbox (R335). -/
  | mailNotify (ch mode vector : Nat)
  /-- An SPDM or TDISP response: session, response name. -/
  | spdm (session : Nat) (response : String) (content : Bytes)
  /-- BOOT_READ, BOOT_REPORT, FAULT_REPORT, EXTENT_CHECK, EXTENT_RELEASED of R452. -/
  | bootRead (offset bytes : Nat)
  | bootReport (stage reason fwVersion : Nat)
  | faultReport (what : String) (detail : Nat)
  | extentCheck (grant base granules : Nat)
  | extentReleased (grant : Nat)
  /-- A dump of a resetting partition (R400): extent base, header area, and each core's area. -/
  | dump (base : Nat) (header : Bytes) (cores : List Bytes)
  /-- A snapshot written at its destination (R436). -/
  | snapshot (base : Nat) (content : Bytes)
  /-- A telemetry sample that firmware stores (R421). -/
  | telemetryStored (ct : Nat)
deriving DecidableEq, Repr

/-! ### Fuses and start-up (R307, R308, R462 to R466) -/

/-- The fused values; they outlive every reset. Log entry 7 (DESIGN CHOICE). -/
structure Fuses where
  /-- CONFIG of SC_CAP: true for Full (R2, R28). -/
  full           : Bool := true
  stepping       : BitVec 8 := 0
  retired        : BitVec 16 := 0
  rollback       : Nat := 0
  signersRevoked : BitVec 4 := 0
  debugLocked    : Bool := true
  ownerBanks     : List (BitVec 384) := []
  serial         : BitVec 64 := 0
  /-- Fused bin of each core (R406); unlisted cores hold BIN_850. -/
  bins           : Tbl Nat := []
  /-- The block's own fabric endpoint (R369, R403). -/
  endpoint       : Nat := 0
deriving DecidableEq, Repr

/-- Boot stages of R462. -/
inductive Stage where
  | reset | rom | keys | image | training | time | ready | failed
deriving DecidableEq, Repr

/-- Why the block is stopped (R26): not, a class A alarm (R322), or a coolant or CRITICAL stop (R416). -/
inductive Stopped where
  | no | classA | coolant
deriving DecidableEq, Repr

/-- Start-up and image state (R313, R462 to R464). -/
structure Boot where
  stage          : Stage := .reset
  reason         : Nat := 0
  stopped        : Stopped := .no
  /-- SC_RESET_N has been deasserted through its filter. -/
  outOfReset     : Bool := false
  mpReady        : BitVec 32 := 0
  mpFailed       : BitVec 32 := 0
  bridgeTrained  : Bool := false
  doeOn          : Bool := false
  mailboxOn      : Bool := false
  timeExpired    : Bool := false
  readyNs        : Nat := 0
  /-- Local time of the deassertion of SC_RESET_N, and of the entries into TRAINING and TIME. -/
  startNs        : Nat := 0
  trainingNs     : Nat := 0
  timeNs         : Nat := 0
  /-- The bytes of the boot store read so far (R313, R452). -/
  image          : Bytes := []
  /-- A BOOT_READ is outstanding since this local time (R452). -/
  bootReadAt     : Option Nat := none
  fwVerified     : Bool := false
  fwVersion      : Nat := 0
  fwSvn          : Nat := 0
  signer         : Nat := 0
  microcodeRev   : Nat := 0
  thimbleDigest  : BitVec 384 := 0
  bobbinDigest   : BitVec 384 := 0
  microcodeDigest : BitVec 384 := 0
  nearTierBytes  : Nat := 0
  /-- Scrub interval F (R422); 0 before firmware sets it. -/
  scrubF         : Nat := 0
deriving DecidableEq, Repr

/-! ### Cluster time (R122 to R138) -/

/-- States of the time logic (R124). -/
inductive TimeState where
  | unlocked | locked | holdover | stepPending
deriving DecidableEq, Repr

structure Time where
  /-- Local nanoseconds elapsed: the clock of durations (R131). -/
  now           : Nat := 0
  /-- The internal CT (R123); it has no meaning in UNLOCKED. -/
  ct            : Nat := 0
  state         : TimeState := .unlocked
  /-- The time logic has been released (R465). -/
  released      : Bool := false
  goodRun       : Nat := 0
  /-- Local time of the last strobe that met the spacing and parity rules (R125). -/
  lastStrobe    : Option Nat := none
  /-- Whether the 1,500 ns count since the last accepted strobe has expired. -/
  expired       : Bool := false
  /-- The part of the offset that the slew has not yet removed, in ns (R126), and the phase of its 2,000 ns. -/
  slew          : Int := 0
  /-- SLEWING of R137: a slew has begun and its completion has not been seen. -/
  slewing       : Bool := false
  slewPhase     : Nat := 0
  /-- Offset of the pending step (R132), and the frame in which it was detected. -/
  delta         : Int := 0
  stepFrame     : Nat := 0
  /-- A slew to be applied after the anchor, and a strobe lost in STEP_PENDING (R135). -/
  slewAfter     : Int := 0
  lostInStep    : Bool := false
  holdoverSince : Option Nat := none
  /-- Bound in force before the step (R137). -/
  boundBefore   : Nat := 0xFFFF
  timeStep      : Bool := false
  holdoverSeen  : Bool := false
  rejectedSeen  : Bool := false
  stepDelta     : Int := 0
  stepAt        : Nat := 0
  steps         : Nat := 0
  holdovers     : Nat := 0
  rejected      : Nat := 0
  /-- First frame on the internal scale whose boundary has not yet been applied, and the first frame that is not
  counted full for new promises after an anchor (R134). -/
  frameDone     : Nat := 0
  fullThrough   : Nat := 0
  /-- The last 1 ms boundary and 100 ms window that were applied (R293, R292). -/
  msDone        : Nat := 0
  windowDone    : Nat := 0
deriving DecidableEq, Repr

/-- SC_BAD_ACCESS (R29). -/
structure BadAccess where
  count      : Nat := 0
  lastKind   : Nat := 0
  lastOffset : Nat := 0
deriving DecidableEq, Repr

/-! ### Graph images (R100 to R118) -/

structure Variant where
  fallbackRole : Bool
  isDefault    : Bool
  promisable   : Bool
  fallback     : Option Nat
  resumeMask   : Nat
  expectedNs   : Nat
  wcetNs       : Nat
  firstMap     : Nat
  mapCount     : Nat
  firstTile    : Nat
  tileCount    : Nat
  clusters     : Nat
  nearRate     : Nat
  capRate      : Nat
  engineNs     : Nat
deriving DecidableEq, Repr

structure Binding where
  kind      : Nat
  access    : Nat
  minLength : Nat
  dflt      : Nat
  dfltVersion : Nat
  alignLog2 : Nat
deriving DecidableEq, Repr

structure PhaseMap where
  phase         : Nat
  barrierAfter  : Bool
  usesSeqTable  : Bool
  shards        : Nat
  quadsPerShard : Nat
  firstTile     : Nat
  tileCount     : Nat
  wcetNs        : Nat
  expectedNs    : Nat
  weightTag     : Nat
  kvTag         : Nat
  reshardFirst  : Nat
  reshardN      : Nat
  tolAbs        : BitVec 32
  tolRel        : BitVec 32
  threshold     : Nat
  policy        : Nat
deriving DecidableEq, Repr

structure Reshard where
  op         : Nat
  format     : Nat
  redop      : Nat
  src        : Nat
  dst        : Nat
  bytes      : Nat
  fromShards : Nat
  toShards   : Nat
deriving DecidableEq, Repr

structure TileDef where
  phase        : Nat
  reductionsF  : Bool
  seamEligible : Bool
  lastOfPhase  : Bool
  lastOfLaunch : Bool
  sameCore     : Bool
  usesHamming  : Bool
  strands      : Nat
  stitchEntry  : Nat
  cyclesMax    : Nat
  liveBytes    : Nat
  live         : List (Nat × Nat)
  reductions   : Nat
  staging      : Nat
  commits      : List Nat
  predN        : Nat
  succs        : List Nat
  shard        : Nat
  planEndNs    : Nat
deriving DecidableEq, Repr

structure GraphImage where
  imageBytes     : Nat
  microcodeMin   : Nat
  gflags         : Nat
  variants       : List Variant
  bindings       : List Binding
  phaseMaps      : List PhaseMap
  reshards       : List Reshard
  tiles          : List TileDef
  constBytes     : Nat
  qualityBinding : Option Nat
  digest         : BitVec 384
deriving DecidableEq, Repr

/-- A live version of a graph (R120): number, image, where it is stored, and the launches bound to it. -/
structure GraphVersion where
  number  : Nat
  image   : GraphImage
  address : Nat
  bound   : Nat := 0
  /-- The extent that stores the version has been revoked (R121). -/
  revoked : Bool := false
deriving DecidableEq, Repr

/-- An entry of the graph table (R119). -/
structure Graph where
  owner      : Nat := 0
  generation : Nat := 0
  registered : Bool := false
  /-- Current version number; 0 for none. -/
  current    : Nat := 0
  versions   : List GraphVersion := []
deriving DecidableEq, Repr

/-! ### Queues, slots and launches -/

/-- A guest vector (R367). -/
structure GuestVector where
  mode     : Nat := 0
  entry    : Nat := 0
  endpoint : Nat := 0
  vector   : Nat := 0
deriving DecidableEq, Repr

/-- Queue attributes (R140). PATH: 0 host port, 1 to 4 FP0 to FP3, with the guest's endpoint. -/
structure QueueAttrs where
  context      : Nat := 0
  format       : Nat := 0
  ringBase     : Nat := 0
  ringLog2     : Nat := 0
  statusBase   : Nat := 0
  completion   : Nat := 0
  path         : Nat := 0
  pathEndpoint : Nat := 0
  promiseOk    : Bool := false
  maxInflight  : Nat := 0
  dbRate       : Nat := 0
  complVector  : GuestVector := {}
  eventVector  : GuestVector := {}
deriving DecidableEq, Repr

/-- Queue states of R168. -/
inductive QState where
  | disabled | active | stopped | guilty | draining | blocked
deriving DecidableEq, Repr

/-- Log entry 64 (DEDUCED). -/
structure Queue where
  state        : QState := .disabled
  partition    : Nat := 0
  epoch        : Nat := 0
  attrs        : QueueAttrs := {}
  tail         : Nat := 0
  /-- Sequence number of the next slot to fetch, of the last admitted or refused, of the last retired. -/
  nextSeq      : Nat := 1
  admittedSeq  : Nat := 0
  retiredSeq   : Nat := 0
  /-- A slot read is under way (R30). -/
  fetching     : Bool := false
  pendingTail  : Option Nat := none
  tokens       : Nat := 0
  /-- Doorbell tokens have accrued since this local time, so many of them (R158). -/
  tokenBase    : Nat := 0
  tokenCount   : Nat := 0
  tiles        : Nat := 0
  tilesShown   : Nat := 0
  dbAbsorbed   : Nat := 0
  dbStale      : Nat := 0
  dbBad        : Nat := 0
  resumeFailed : Nat := 0
  pathFetch    : Bool := false
  pathStatus   : Bool := false
  pathCompl    : Bool := false
  intLost      : Bool := false
  mgmtStop     : Bool := false
  guestStop    : Bool := false
  blockPoint   : Nat := 0
  /-- Since the last completion word: a doorbell was absorbed, a CT step was detected, a slot with INTERRUPT
  retired. -/
  absorbedF    : Bool := false
  stepF        : Bool := false
  interruptF   : Bool := false
  /-- Writes and messages owed to the guest, oldest first; the first is issued (R161). -/
  writes       : List GuestWrite := []
  /-- Records held while an area cannot be accessed (R172). -/
  held         : List GuestWrite := []
  /-- A resumption is under way, up to this tail (R173). -/
  resuming     : Option Nat := none
  /-- A reset or deletion is under way: 0 none, 1 queue reset, 2 partition reset, 3 deletion. -/
  drainKind    : Nat := 0
  newAttrs     : Option QueueAttrs := none
deriving DecidableEq, Repr

/-- A relocated binding (R108, R109). -/
inductive Reloc where
  | unused
  | guestVa (address : Nat)
  | extent (address : Nat)
  | folioRead (folio version : Nat)
  | folioOutput (folio version : Nat) (staging : Bool)
  | quality (address : Nat)
  | seqTable (group : Nat)
  | scratch (bytes : Nat)
deriving DecidableEq, Repr

/-- The figures of an accepted promise (R184, R185), on the internal scale. -/
structure Promise where
  deadline  : Nat
  effective : Nat
  hem       : Nat
  origin    : Nat
  budget    : Nat
  reserve   : Nat
  /-- I at the admission: the scale of R184 and I_adm of R411. -/
  scaleI    : Nat
deriving DecidableEq, Repr

/-- Where a tile of a launch stands. -/
inductive TilePlace where
  | waiting
  | running (core : Nat)
  | committing (core : Nat)
  | committed
deriving DecidableEq, Repr

structure TileState where
  place     : TilePlace := .waiting
  preds     : Nat := 0
  commitCt  : Option Nat := none
  rerun     : Bool := false
  replayed  : Bool := false
  doneCore  : Nat := 0
  /-- Live ranges of the tile saved in the cluster's ways (R220). -/
  saved     : Bool := false
deriving DecidableEq, Repr

/-- Counts of a tile or launch (R51, R54 to R58). -/
structure Counts where
  elemSat    : Nat := 0
  scaleClamp : Nat := 0
  nanOut     : Nat := 0
  nanIn      : Nat := 0
  sampled    : Nat := 0
  diverged   : Nat := 0
  maxQ       : BitVec 32 := 0
  saturated  : Bool := false
deriving DecidableEq, Repr

/-- A phase of the running variant of a launch. -/
structure PhaseState where
  map        : Nat
  started    : Bool := false
  ended      : Bool := false
  rerun      : Bool := false
  exceeded   : Bool := false
  sampled    : Nat := 0
  diverged   : Nat := 0
  reshards   : Nat := 0
  /-- Work lists of the phase's shards: entry indices (R229), and the CT of the build. -/
  lists      : List (List Nat) := []
  builtCt    : Nat := 0
deriving DecidableEq, Repr

/-- How a slot stands between its fetch and its retirement. -/
inductive SlotState where
  /-- Fetched; waits for its external constants (true) or its override table. -/
  | readingConsts
  | readingOverrides
  /-- Admitted; its operation has not yet taken effect. -/
  | admitted
  /-- Its operation is under way. -/
  | running
  /-- Its work has ended with this status and cause; LAUNCH_FINISH follows. -/
  | ended
  | finished
deriving DecidableEq, Repr

/-- An entry of the outstanding launch table (R140, R433): one admitted, unretired slot. -/
structure Slot where
  queue       : Nat
  seq         : Nat
  partition   : Nat := 0
  context     : Nat := 0
  state       : SlotState := .admitted
  raw         : Bytes := []
  opcode      : Nat := 0
  promised    : Bool := false
  flags       : Nat := 0
  guestTag    : Nat := 0
  /-- Order of admission in the block, and the entry of the outstanding launch table. -/
  order       : Nat := 0
  entry       : Nat := 0
  admitCt     : Nat := 0
  graph       : Nat := 0
  version     : Nat := 0
  image       : Option GraphImage := none
  variant     : Nat := 0xFFFF
  primary     : Nat := 0xFFFF
  phases      : Nat := 0
  consts      : Bytes := []
  overrides   : Bytes := []
  bindings    : List Reloc := []
  promise     : Option Promise := none
  placed      : List Nat := []
  placedF     : List Nat := []
  switchDecided : Bool := false
  switched    : Bool := false
  /-- A tack point of the launch has come since the switch was decided (R198). -/
  tack        : Bool := false
  /-- Origin of the fallback's plan (R199). -/
  planF       : Nat := 0
  overrun     : Bool := false
  phaseStates : List PhaseState := []
  tiles       : Tbl TileState := []
  firstStart  : Option Nat := none
  tilesDone   : Nat := 0
  tilesRerun  : Nat := 0
  counts      : Counts := {}
  qflags      : Nat := 0
  escPhases   : Nat := 0
  failedPhase : Option Nat := none
  failedShards : Nat := 0
  partialCause : Nat := 0
  status      : Nat := 0
  cause       : Nat := 0
  /-- Slots that a FENCE or a CHAIN_NEXT successor waits for, as (queue, sequence). -/
  covers      : List (Nat × Nat) := []
  /-- Sequence-table entries that a SEQ_RETIRE named. -/
  named       : List Nat := []
  /-- Lines still to be filled, and advice still to be acknowledged (R96). -/
  fills       : Nat := 0
  adviceOut   : Bool := false
  publishing  : Option (List Nat) := none
  /-- Extents that the slot's bindings or range lie in (R258), and pages reserved for its outputs and not yet
  taken (R252). -/
  usesExtents : List Nat := []
  pagesLeft   : Nat := 0
  /-- An unresolved fault of the launch that has not yet ended it (R274). -/
  unresolved  : Option Nat := none
  waitNs      : Nat := 0
  waitSince   : Option Nat := none
  /-- A read that the slot's checks wait for met an unresolved answer (R155, R110). -/
  unreadable  : Bool := false
  /-- The quality record has been written (R60). -/
  qualityDone : Bool := false
deriving DecidableEq, Repr

/-- A reservation in a partition's calendar (R190): launch, cluster, frames, engine-ns, near and capacity rate. -/
structure Hold where
  queue     : Nat
  seq       : Nat
  context   : Nat
  cluster   : Nat
  first     : Nat
  last      : Nat
  engine    : Nat
  near      : Nat
  cap       : Nat
  reserve   : Bool
  releasing : Bool := false
deriving DecidableEq, Repr

/-- An affinity-table entry (R207). -/
structure Affinity where
  tag    : Nat
  warmth : Tbl Nat := []
deriving DecidableEq, Repr

/-! ### Partitions and contexts -/

/-- A regulator (R90), with its token balance in bytes. -/
structure Regulator where
  share   : Nat := 0
  ceiling : Nat := 65535
  burst   : Nat := 4
  pendShare   : Option Nat := none
  pendCeiling : Option Nat := none
  pendBurst   : Option Nat := none
  /-- A lowered SHARE waits for the launches admitted before this order number (R93). -/
  lowerAfter  : Option Nat := none
  tokens  : Nat := 4096
  /-- Bytes issued without tokens in the present frame, against CEILING (R91). -/
  excess  : Nat := 0
deriving DecidableEq, Repr

inductive PState where
  | free | active | resetting | destroying
deriving DecidableEq, Repr

inductive Tdi where
  | unlocked | locked | run | error
deriving DecidableEq, Repr

/-- First way and ways in one cluster (R286). -/
structure Ways where
  first : Nat := 0
  ways  : Nat := 0
deriving DecidableEq, Repr

/-- The counters of R425. -/
structure PTel where
  launches    : Nat := 0
  tiles       : Nat := 0
  near        : Nat := 0
  cap         : Nat := 0
  hits        : Nat := 0
  misses      : Nat := 0
  sampled     : Nat := 0
  diverged    : Nat := 0
  elemSat     : Nat := 0
  scaleClamp  : Nat := 0
  nanOut      : Nat := 0
  partials    : Nat := 0
  poisoned    : Nat := 0
  translation : Nat := 0
  quality     : Nat := 0
deriving DecidableEq, Repr

/-- Admission counters of R206. -/
structure PAdm where
  accepted  : Nat := 0
  refDeadline : Nat := 0
  refEngine : Nat := 0
  refMemory : Nat := 0
  refOther  : Nat := 0
  fallbacks : Nat := 0
  broken    : Nat := 0
  overrun   : Nat := 0
  byCause   : Tbl Nat := []
  nextHem   : Nat := 0
  promiseLimit : Nat := 12
  startAllow   : Nat := 40960
  issueNew     : Nat := 16
deriving DecidableEq, Repr

/-- Indications of R291. -/
structure PEvents where
  timeSteps : Nat := 0
  queuePath : Nat := 0
  tdiErrors : Nat := 0
  resets    : Nat := 0
deriving DecidableEq, Repr

/-- A layout change that waits for a frame boundary (R288). -/
structure LayoutChange where
  quads : List Nat
  ways  : Tbl Ways
deriving DecidableEq, Repr

structure Partition where
  state        : PState := .free
  kind         : Nat := 0
  quads        : List Nat := []
  ways         : Tbl Ways := []
  queueFirst   : Nat := 0
  queueCount   : Nat := 0
  regs         : Tbl Regulator := []
  promiseLimit : Nat := 12
  startAllow   : Nat := 40960
  pendLimit    : Option Nat := none
  pendAllow    : Option Nat := none
  sliceNs      : Nat := 0
  pendSlice    : Option Nat := none
  seqLimit     : Nat := 0
  /-- Quotas per die; keys 0 and 1. -/
  atcQuota     : Tbl Nat := []
  faultQuota   : Tbl Nat := []
  priOff       : Bool := false
  /-- A management stop is in force on every queue (R295). -/
  mgmtStop     : Bool := false
  /-- The memory key: creation count and key, when there is one (R289, R311). -/
  keyCount     : Nat := 0
  key          : Option (BitVec 512) := none
  keyId        : Nat := 0
  keyCheck     : Nat := 0
  identity     : Option (BitVec 576) := none
  certIssued   : Bool := false
  createCt     : Nat := 0
  tdi          : Tdi := .unlocked
  /-- The session in which the TDI was locked (R295). -/
  tdiSession   : Option Nat := none
  /-- A partition reset has ended since the TDI entered ERROR (R295). -/
  resetSinceError : Bool := false
  stopWanted   : Bool := false
  ideKey       : Option Nat := none
  jobGroup     : Nat := 0
  sent         : Nat := 0
  received     : Nat := 0
  holds        : List Hold := []
  affinity     : Tbl Affinity := []
  pendLayout   : Option LayoutChange := none
  /-- Quads and ways whose clearing is under way (R290), as quads, and clusters with their old ways. -/
  clearQuads   : List Nat := []
  clearWays    : Tbl Ways := []
  events       : PEvents := {}
  adm          : PAdm := {}
  tel          : PTel := {}
  eventsShown  : PEvents := {}
  admShown     : PAdm := {}
  telShown     : PTel := {}
  pxlatShown   : Nat := 0
  watts        : Nat := 0
  wattsAt      : Nat := 0
  /-- The running reset: fence CT and local time, step reached, trigger, key gone (R323, R399). -/
  resetCt      : Nat := 0
  resetStep    : Nat := 0
  resetTrigger : Nat := 0
  resetRecord  : Nat := 0
  keyGone      : Bool := false
  /-- Channels whose reply waits for the end of a reset or destruction (R344). -/
  replyTo      : List Nat := []
deriving DecidableEq, Repr

/-- An outbound window (R278). -/
structure OutWindow where
  endpoint : Nat
  remote   : Nat
  length   : Nat
  wrights  : Nat
  ports    : Nat
deriving DecidableEq, Repr

/-- A hold of a context on a folio version (R246): folio, version, opens; a draft when `draft`. -/
structure FolioHold where
  folio   : Nat
  version : Nat
  opens   : Nat
  draft   : Bool
deriving DecidableEq, Repr

/-- Accounting of R216. -/
structure Account where
  engine   : Nat := 0
  discard  : Nat := 0
  wait     : Nat := 0
  ordinary : Nat := 0
  forced   : Nat := 0
  switchNs : Nat := 0
deriving DecidableEq, Repr

structure Context where
  partition   : Nat
  index       : Nat
  fabric      : Bool := false
  pasid       : Nat := 0
  share       : Nat := 0
  pendShare   : Option Nat := none
  windows     : Tbl OutWindow := []
  ringBase    : Nat := 0
  ringLog2    : Nat := 0
  consumerAddr : Nat := 0
  faultVector : GuestVector := {}
  /-- Next FSEQ, and the consumer count last read (R271, R272). -/
  fseq        : Nat := 1
  consumer    : Nat := 0
  ringBroken  : Bool := false
  /-- Fault-ring entries written and not yet accepted. -/
  ringWrites  : List Nat := []
  overflow    : Bool := false
  overflows   : Nat := 0
  unresolved  : Nat := 0
  faultTotal  : Nat := 0
  /-- Chain table: entry to stored 128-byte image (R152). -/
  chain       : Tbl Bytes := []
  holds       : List FolioHold := []
  acct        : Account := {}
  acctShown   : Account := {}
  arith       : Counts := {}
  arithShown  : Counts := {}
  shownFaults : Nat := 0
  shownFlags  : Nat := 0
deriving DecidableEq, Repr

/-- A sequence-table entry (R225). States: 0 FREE, 1 ACTIVE, 2 FINISHED, 3 RETIRING, 4 REVOKED. -/
structure SeqEntry where
  key         : Nat
  group       : Nat
  state       : Nat := 1
  home        : Nat := 0xFF
  context     : Nat
  partition   : Nat
  position    : Nat
  maxPosition : Nat
  waitSteps   : Nat := 0
  kvBase      : Nat
  kvBytes     : Nat
  sampling    : Nat
  lastStep    : Nat := 0
deriving DecidableEq, Repr

/-! ### Extents and folios -/

/-- STATE of R237. -/
inductive EState where
  | free | granted | fenced | invalidating | zeroing
deriving DecidableEq, Repr

structure Extent where
  base         : Nat
  granules     : Nat
  state        : EState := .granted
  mcGroup      : Nat := 0
  keyPartition : Nat := 0
  eflags       : Nat := 0
  rMask        : BitVec 64 := 0
  wMask        : BitVec 64 := 0
  pubMask      : BitVec 64 := 0
  grant        : Nat := 0
  fenceCt      : Nat := 0
  /-- Local time of the fence, for the drain bound (R259). -/
  fenceNs      : Nat := 0
  /-- The partitions losing rights; all 64 for the whole extent. -/
  losing       : BitVec 64 := 0
  whole        : Bool := false
  drained      : Bool := false
  /-- Revocations asked and waiting (R470): `none` for the whole extent. -/
  waiting      : List (Option Nat × Option Nat) := []
  /-- Channels whose reply waits (R344). -/
  replyTo      : List Nat := []
deriving DecidableEq, Repr

/-- A page of a version: its pool address and its mirror's (R244, R255). -/
structure Page where
  addr   : Nat
  mirror : Option Nat := none
deriving DecidableEq, Repr

/-- VSTATE of R243. -/
inductive VState where
  | free | draft | staging | current | superseded
deriving DecidableEq, Repr

/-- A version slot (R242). -/
structure VSlot where
  version     : Nat := 0
  base        : Nat := 0
  vstate      : VState := .free
  quarantined : Bool := false
  revoked     : Bool := false
  /-- REPAIR_BLOCKED of R395. -/
  repairBlocked : Bool := false
  sourceValid : Bool := false
  mirror      : Nat := 0
  holderP     : Nat := 0xFF
  holderX     : Nat := 0xFF
  opens       : Nat := 0
  bound       : Nat := 0
  source      : Nat := 0
  pages       : Tbl Page := []
  /-- Discarded when the last launch that writes it finishes (R257). -/
  discardAfter : Bool := false
  /-- The launch that holds a staging version. -/
  launch      : Option (Nat × Nat) := none
  /-- Pages being copied or zeroed (R253). -/
  copying     : List Nat := []
deriving DecidableEq, Repr

/-- A folio-table entry (R241). -/
structure Folio where
  owner      : Nat := 0
  generation : Nat := 0
  registered : Bool := false
  name       : Bytes := []
  length     : Nat := 0
  readers    : BitVec 64 := 0
  publishers : BitVec 64 := 0
  current    : Nat := 0
  nextVersion : Nat := 1
  duplex     : Bool := false
  slots      : List VSlot := []
deriving DecidableEq, Repr

/-- A quarantine-table entry (R395). -/
structure Quarantine where
  folio : Nat
  page  : Nat
  words : List Nat
  whole : Bool
deriving DecidableEq, Repr

/-! ### Translation (R261 to R283) -/

/-- An ATC entry (R265, R266). -/
structure Atc where
  folio     : Bool := false
  partition : Nat
  tagA      : Nat
  /-- HOST: virtual address of the first page. FOLIO: first page index. -/
  first     : Nat
  version   : Nat := 0
  pageLog2  : Nat
  run       : Nat
  target    : Nat
  mirror    : Nat := 0
  read      : Bool := true
  write     : Bool := false
  pinned    : Nat := 0
  lastUse   : Nat := 0
deriving DecidableEq, Repr

/-- An outstanding Translation Request or page-list read (R267), with the requests that joined it. -/
structure XlatReq where
  folio     : Bool := false
  partition : Nat
  context   : Nat
  tagA      : Nat
  version   : Nat := 0
  page      : Nat
  write     : Bool := false
  waiters   : List Nat
  /-- An invalidation covered the page while the request was outstanding (R283). -/
  reissue   : Bool := false
  /-- The partition has been reset or the context deleted: the answer is discarded (R399). -/
  dead      : Bool := false
deriving DecidableEq, Repr

/-- Where a fault record stands (R270, R272, R275, R276). -/
inductive FaultAt where
  | batch | delivered (group : Nat) | ring (fseq : Nat) | buffer | heldByStream
  /-- Answered with Success: its Translation Request is made again (R272). -/
  | retrying
deriving DecidableEq, Repr

structure FaultRec where
  id        : Nat
  die       : Nat
  context   : Nat
  partition : Nat
  page      : Nat
  write     : Bool
  source    : Nat
  queue     : Nat
  guestTag  : Nat
  launchSeq : Nat
  place     : FaultAt := .batch
  firstNs   : Nat
  retryAt   : Nat := 0
  interval  : Nat := 2048
  /-- Memory requests held by the fault. -/
  waiters   : List Nat
deriving DecidableEq, Repr

structure Inval where
  tag   : Nat
  /-- Requests issued with the removed translations that have not completed, and cores whose commit phase uses
  them. -/
  reqs  : List Nat
  cores : List Nat
deriving DecidableEq, Repr

/-- An inbound window (R280). -/
structure InWindow where
  ident     : Nat
  partition : Nat
  context   : Nat := 0
  folio     : Bool
  target    : Nat
  version   : Nat := 0
  length    : Nat
  read      : Bool
  write     : Bool
  endpoints : List Nat
deriving DecidableEq, Repr

/-! ### Clusters, cores and memory requests -/

/-- Where a memory request stands. -/
inductive ReqAt where
  | translating
  | missQueue
  | port (port tag : Nat)
  /-- A word of the primary is uncorrectable: the mirror's word is being read (R393). -/
  | mirror (word : Nat)
  | fabric
  | host
  | faulted
  | ready
deriving DecidableEq, Repr

/-- Who waits for a memory request. -/
inductive ReqFor where
  | gather (core strand : Nat)
  | fill (queue seq : Nat)
  | writeBack
  | commit (core : Nat)
  | adder
  /-- A request of an abandoned tile that stays with its fault (R223). -/
  | parked (queue seq tile : Nat)
  /-- A commit's write through a fabric window (R279). -/
  | commitWrite (queue seq : Nat)
  /-- A read that Spine makes for a slot's checks (R155, R110, R152, R250). -/
  | spine (queue seq : Nat)
deriving DecidableEq, Repr

/-- Log entry 14 (DEDUCED). -/
structure MemReq where
  who       : ReqFor
  partition : Nat
  cluster   : Nat
  /-- Pool address, or the address in the context's space for `space` true. -/
  address   : Nat
  guest     : Bool := false
  context   : Nat := 0
  bytes     : Nat
  write     : Bool := false
  hint      : Hint := .normal
  /-- A miss allocates as KEEP (R96, R98). -/
  keep      : Bool := false
  /-- The tier that serves the address, for the regulators (R91). -/
  near      : Bool := false
  place     : ReqAt
  poison    : Bool := false
  /-- Pool address of the first poisoned word among those asked for; 0 for none (R383). -/
  poisonAt  : Nat := 0
  /-- The bytes that were asked for, where the request was widened to whole lines: pool address and length. -/
  needAt    : Nat := 0
  needBytes : Nat := 0
  /-- The words to be written, or those read. -/
  words     : List (BitVec 288) := []
  /-- The bytes that a commit writes through a window. -/
  data      : Bytes := []
  /-- The folio, version and page that the address was taken from (R244), for R393 and R394. -/
  folio     : Option (Nat × Nat × Nat) := none
  /-- Up time of the fabric port at the issue (R447). -/
  upNs      : Nat := 0
  port      : Nat := 0
deriving DecidableEq, Repr

/-- An inbound write that waits for the rest of its lines (R85, R280): owner, cluster, address, bytes, endpoint. -/
structure Merge where
  partition : Nat
  cluster   : Nat
  address   : Nat
  data      : Bytes
  endpoint  : Nat
deriving DecidableEq, Repr

/-- A committed cluster-cache line (R72); a tile's staged writes stand in its core's record. -/
structure Line where
  cluster   : Nat
  way       : Nat
  partition : Nat
  /-- Line number: pool address / 64. -/
  line      : Nat
  words     : List (BitVec 288)
  dirty     : Bool := false
  keep      : Bool := false
  useCount  : Option Nat := none
  lastUse   : Nat := 0
deriving DecidableEq, Repr

/-- An accepted reduction or atomic (R87, R88). -/
structure Reduction where
  cluster   : Nat
  slice     : Nat
  partition : Nat
  address   : Nat
  fmt       : RedFmt
  op        : RedOp
  data      : Bytes
  poisoned  : Bool := false
deriving DecidableEq, Repr

/-- A bulk-mover job (R86): bytes left in granules, and what it serves. Log entry 14 (DEDUCED). -/
structure MoverJob where
  queue     : Nat
  seq       : Nat
  partition : Nat
  reshard   : Nat
  granules  : Nat
deriving DecidableEq, Repr

inductive Strand where
  | idle | ready | waiting | parked
deriving DecidableEq, Repr

/-- What a core does. -/
inductive CoreMode where
  | free
  | switching (until_ : Nat)
  | running
  | abandoning
  | committing
deriving DecidableEq, Repr

/-- A staged write of the running tile: relocated binding, offset, bytes, hint. -/
structure StagedWrite where
  binding : Nat
  offset  : Nat
  hint    : Hint
  data    : Bytes
deriving DecidableEq, Repr

/-- A reduction or atomic of the running tile: binding, offset, elements (R87). -/
structure StagedReduction where
  binding : Nat
  offset  : Nat
  fmt     : RedFmt
  op      : RedOp
  data    : Bytes
deriving DecidableEq, Repr

/-- The tile that a core ran at the fence of a partition reset: launch, tile, strand states, outstanding gathers and the
address of the oldest fault of each strand (R400). -/
structure FencedTile where
  queue   : Nat
  seq     : Nat
  tile    : Nat
  strands : Tbl Strand
  gathers : Tbl Nat
  faults  : Tbl Nat
deriving DecidableEq, Repr

structure Core where
  mode       : CoreMode := .free
  queue      : Nat := 0
  seq        : Nat := 0
  tile       : Nat := 0
  context    : Option Nat := none
  partition  : Nat := 0
  startNs    : Nat := 0
  strands    : Tbl Strand := []
  /-- Local time since which every used strand has been PARKED or IDLE (R222). -/
  idleSince  : Option Nat := none
  forced     : Bool := false
  replay     : Bool := false
  failed     : Bool := false
  counts     : Counts := {}
  staged     : List StagedWrite := []
  stagedBytes : Nat := 0
  reductions : List StagedReduction := []
  seqUpdates : List (Nat × Nat × Bool) := []
  uses       : List Nat := []
  /-- Reads to be issued when the switch to the tile is done. -/
  startReads : List Gather := []
  /-- ATC entries that the tile holds pinned (R117, R269). -/
  pins       : List Nat := []
  acc        : Tbl (List (BitVec 32)) := []
  /-- Pool address of the first poisoned word that reached the running tile; 0 for none (R383). -/
  poisonAt   : Nat := 0
  /-- Codes that the Hamming unit has emitted in threshold mode for the running tile (R49). -/
  hamEmitted : Nat := 0
  scratch    : Tbl Byte := []
  /-- Live ranges that the tile received, and the core's shadow registers hold weights (R224). -/
  basted     : Option (Nat × Nat × Nat) := none
  /-- Slice: context and local time of its start (R215). -/
  slice      : Option (Nat × Nat) := none
  lastContext : Option Nat := none
  switchedAt : Nat := 0
  bin        : Nat := 0
  binPending : Bool := false
  agedFloor  : Bool := false
  excessSeen : Bool := false
  stretchExcess : Nat := 0
  stretchAt  : Option Nat := none
  /-- What the core ran when the fence of a running partition reset was raised (R400). -/
  atFence    : Option FencedTile := none
deriving DecidableEq, Repr

/-- What a sequencer keeps to divide engine time among contexts (R214): virtual times by context key, the contexts that had
a startable SHARED tile, and the context of SHARE 0 that was served last. -/
structure Shares where
  vtime      : Tbl Nat := []
  startables : List Nat := []
  lastZero   : Nat := 0
deriving DecidableEq, Repr

structure Cluster where
  quarantined : Bool := false
  throttled   : Bool := false
  celsius8    : Nat := 0
  shares      : Shares := {}
  mover       : List MoverJob := []
deriving DecidableEq, Repr

/-! ### Mailbox (R327 to R350) -/

inductive ChState where
  | idle | pending | serving | replied
deriving DecidableEq, Repr

/-- An attribute record of R336. -/
structure Attr where
  id    : Nat
  index : Nat
  value : Bytes
deriving DecidableEq, Repr

/-- A capability (R303). -/
structure Capability where
  capId      : Nat
  rights     : BitVec 16
  uses       : Nat
  partitions : BitVec 64
  notAfter   : Nat
  requester  : BitVec 32
  reserved   : Bool
  tag        : BitVec 128
deriving DecidableEq, Repr

/-- A request message (R335, R336). -/
structure Message where
  opcode    : Nat
  notify    : Nat
  token     : Nat
  notifyVector : Nat
  capZero   : Bool
  cap       : Capability
  capBytes  : Bytes
  partition : Nat
  context   : Nat
  queue     : Nat
  object    : Nat
  attrs     : List Attr
  data      : Bytes
deriving DecidableEq, Repr

/-- How far a served command is. -/
inductive Serve where
  | none
  | reading
  | read
  /-- The capability check passed (or none is needed): the command's effect may be applied. -/
  | allowed
  /-- The command waits for hardware, Thimble or the extent manager. -/
  | waiting
  /-- The reply is formed; its write is issued. -/
  | replying
deriving DecidableEq, Repr

structure Channel where
  state    : ChState := .idle
  port     : Nat := 0
  opcode   : Nat := 0
  serial   : Nat := 0
  origin   : BitVec 32 := 0
  pagesM1  : Nat := 0
  address  : Nat := 0
  acceptCt : Nat := 0
  acceptNs : Nat := 0
  acceptNo : Nat := 0
  takeCt   : Nat := 0
  serve    : Serve := .none
  message  : Option Message := none
  gate     : Nat := 0
  header   : ReplyHeader := {}
  body     : Bytes := []
  replyStatus : Nat := 0
  replySerial : Nat := 0
  replyBytes  : Nat := 0
  replyLost   : Bool := false
  repliedNs   : Nat := 0
  /-- Local time of an outstanding EXTENT_CHECK (R452). -/
  checkAt     : Option Nat := none
  /-- Bobbin core that serves the channel; none while the command waits. -/
  bobbin      : Option Nat := none
  /-- RETRY_AFTER of an S_BUSY answer under way (R347). -/
  busyRetry   : Option Nat := none
deriving DecidableEq, Repr

/-- TELEMETRY_READ's sample (R346, R427). -/
structure Sample where
  ct       : Nat := 0
  takenNs  : Nat := 0
  records  : Tbl PTel := []
  scrubCorrected : Nat := 0
  scrubUncorrectable : Nat := 0
  nearPassCt : Nat := 0
  sramPassCt : Nat := 0
  calPasses : Nat := 0
  bridgeAdapts : Nat := 0
  binLowerings : Nat := 0
deriving DecidableEq, Repr

structure Mailbox where
  groups   : BitVec 8 := 0xFF
  chans    : Tbl Channel := []
  level    : Nat := 0
  busyAnswers : Nat := 0
  refused  : Nat := 0
  accepted : Nat := 0
  sample   : Sample := {}
deriving DecidableEq, Repr

/-! ### Root of trust (R301 to R326) -/

/-- An entry of the use table (R305). -/
structure CapUse where
  used     : Nat
  notAfter : Nat
deriving DecidableEq, Repr

/-- An SPDM session (R316, R317). -/
structure Session where
  requester  : BitVec 32
  bound      : Option Nat := none
  versioned  : Bool := false
  capable    : Bool := false
  negotiated : Bool := false
  exchanged  : Bool := false
  mutAuth    : Bool := false
  established : Bool := false
  keyUpdates : Nat := 0
  /-- A request and a response that travel in parts, and the index of the next part (R316, R339). -/
  chunks     : Bytes := []
  chunkNext  : Nat := 0
  large      : Bytes := []
deriving DecidableEq, Repr

structure Security where
  requesters   : List (BitVec 32) := [0]
  bootNonce    : BitVec 256 := 0
  creationCount : Nat := 1
  keysDerived  : Bool := false
  capKey       : Option (BitVec 384) := none
  cdi          : BitVec 384 := 0
  deviceKey    : Option (BitVec 576) := none
  aliasKey     : Option (BitVec 576) := none
  uses         : Tbl CapUse := []
  sessions     : Tbl Session := []
  classB       : Nat := 0
  /-- Local times of the class B events of the last 1,000,000,000 ns (R321). -/
  classBAt     : List Nat := []
  debugEnabled : Bool := false
  unlockSeen   : Bool := false
  /-- The slot whose retire fuse is being blown, with the local time of the alarm (R322). -/
  retiring     : Option Nat := none
  /-- The channel whose SLOT_RETIRE waits for the fuse (R344). -/
  retireReply  : Option Nat := none
deriving DecidableEq, Repr

/-! ### Interrupt controller (R351 to R366) -/

/-- States of R354. -/
inductive SrcState where
  | inactive | pending | active | activePending
deriving DecidableEq, Repr

structure Src where
  enable   : Bool := false
  wake     : Bool := false
  priority : Nat := 15
  target   : Nat := 0
  state    : SrcState := .inactive
  level    : Bool := false
  storm    : Bool := false
  fires    : Nat := 0
  /-- Local time at which the open storm window opened (R361). -/
  window   : Option Nat := none
deriving DecidableEq, Repr

structure IcCore where
  /-- Acknowledged sources and their priorities, top first (R357). -/
  stack   : List (Nat × Nat) := []
  primask : Nat := 16
  /-- A source whose ENABLE was cleared while it was the candidate, and the local time (R360). -/
  lingering : Option (Nat × Nat) := none
deriving DecidableEq, Repr

structure Ic where
  srcs         : Tbl Src := []
  cores        : Tbl IcCore := []
  stormLast    : Nat := 0
  storms       : Nat := 0
  badEoi       : Nat := 0
  sleepRefused : Bool := false
  restored     : Bool := false
  asleep       : Bool := false
  /-- An enabled source with WAKE fired during the present sleep. -/
  wakeFire     : Bool := false
  /-- The retention registers (R362): sources, cores, IC_STORM_LAST. -/
  keptSrcs     : Tbl Src := []
  keptCores    : Tbl IcCore := []
  keptStorm    : Nat := 0
deriving DecidableEq, Repr

/-- MSI-X state of the host-port function (R368, R439). -/
structure MsixEntry where
  address : BitVec 64 := 0
  data    : BitVec 32 := 0
  masked  : Bool := true
  pending : Bool := false
deriving DecidableEq, Repr

/-- Log entry 10 (PRESUMED). -/
structure Msix where
  enable   : Bool := false
  funcMask : Bool := false
  entries  : Tbl MsixEntry := []
deriving DecidableEq, Repr

/-! ### Errors (R383 to R404) -/

/-- A record queue (R386, R387). -/
structure ErrQueue where
  records : List ErrRecord := []
  overrun : Bool := false
  lost    : Nat := 0
  /-- Records lost since the last record stored. -/
  lostNow : Nat := 0
deriving DecidableEq, Repr

structure Errors where
  nextSeq     : Nat := 1
  queues      : Tbl ErrQueue := []
  log         : List ErrRecord := []
  logDropped  : Nat := 0
  fatal       : Bool := false
  escalations : Nat := 0
  recordsLost : Nat := 0
  quarantine  : List Quarantine := []
  /-- SERIAL of the next abort notice, and the last notices applied, newest first (R403, R404). -/
  abortSerial : Nat := 0
  lastAborts  : List (Nat × Nat × Nat) := []
  /-- Queues whose guilt is being handled (R381). -/
  handlingQ   : List Nat := []
deriving DecidableEq, Repr

/-! ### Power, background, readback, boundary -/

/-- Log entry 9 (DESIGN CHOICE). -/
structure Power where
  softCap    : Nat := 1150
  pendCap    : Option Nat := none
  issueSoft  : Nat := 16
  hardCap    : Bool := false
  overSoft   : Bool := false
  hardEvents : Nat := 0
  /-- Base-die and cluster readings are in units of 0.125 °C; cluster power in W (R418). -/
  baseTemp   : Tbl Nat := []
  clusterWatts : Tbl Nat := []
  blockWatts : Nat := 0
  sampleCt   : Nat := 0
deriving DecidableEq, Repr

structure Background where
  frames      : Nat := 0
  nearBlock   : Nat := 0
  cacheBlock  : Nat := 0
  scratchBlock : Nat := 0
  nearPassCt  : Nat := 0
  cachePassed : Bool := false
  scratchPassed : Bool := false
  sramPassCt  : Nat := 0
  corrected   : Nat := 0
  uncorrectable : Nat := 0
  /-- Frames since the last calibration pass ended, and since every bridge lane was last adapted (R421). -/
  calFrames   : Nat := 0
  calPasses   : Nat := 0
  laneFrames  : Nat := 0
  adapts      : Nat := 0
  binLowerings : Nat := 0
  /-- The first frame whose background slot has not yet been opened. -/
  slotDone    : Nat := 0
deriving DecidableEq, Repr

/-- A readback lane (R428). -/
structure Lane where
  state   : Nat := 0
  cls     : Nat := 0
  item    : Nat := 0
  result  : Nat := 0
  bytes   : Nat := 0
  serial  : Nat := 0
  origin  : Option Requester := none
  ct      : Nat := 0
  data    : Bytes := []
deriving DecidableEq, Repr

structure FPort where
  /-- 0 ABSENT or untrained, 1 UP, 2 HELD. -/
  state     : Nat := 0
  encrypted : Bool := false
  heldEvents : Nat := 0
  timeouts  : Nat := 0
  /-- Local time since which the link is up, and its earlier up time (R447). -/
  upSince   : Option Nat := none
  upTotal   : Nat := 0
  /-- Messages held while the link is not up, oldest first (R446). -/
  held      : List Out := []
deriving DecidableEq, Repr

structure Bridge where
  /-- Widths of bundles D0 to D1 and D1 to D0: 0 for 1,024, 1 for 512, 2 for 256. -/
  width01     : Nat := 0
  width10     : Nat := 0
  retraining01 : Bool := false
  retraining10 : Bool := false
  widthPending : Bool := false
  spares01    : Nat := 0
  spares10    : Nat := 0
  retrains    : Nat := 0
  replays     : Nat := 0
  /-- CT of the latest replays of each bundle, newest first (R453). -/
  replayAt01  : List Nat := []
  replayAt10  : List Nat := []
  widthReq    : Nat := 0
  good01      : Nat := 1024
  good10      : Nat := 1024
deriving DecidableEq, Repr

/-- Log entry 9 (DESIGN CHOICE). -/
structure Pins where
  coolantOk : Bool := false
  hardCap   : Bool := false
  tamper    : Bool := false
  glitches  : Nat := 0
deriving DecidableEq, Repr

/-- The commons (R297, R298). -/
structure Commons where
  running  : Option Nat := none
  switching : Option Nat := none
  sliceNs  : Nat := 0
  shares   : Shares := {}
deriving DecidableEq, Repr

/-! ### Outcomes -/

/-- The reasons a step ends in a fault. -/
inductive Fault where
  /-- No meaning raises it: the spec gives every command of the block an effect or none. Safe. -/
  | unraised
deriving DecidableEq, Repr

/-- The reasons a step is refused. -/
inductive Refusal where
  /-- Raised by an arm of `exec` whose command has no meaning yet. Safe. -/
  | notModelled (mnemonic : String)
deriving DecidableEq, Repr

/-! ### The whole state -/

/-- The block. `pending` is the queue of waiting commands, first in, first out; `free` counts the free values
drawn and `out` lists what the block has put on its ports, newest first (both the model's own). -/
structure State where
  pending  : List Instr := []
  free     : Nat := 0
  out      : List Out := []
  fuses    : Fuses := {}
  boot     : Boot := {}
  time     : Time := {}
  pins     : Pins := {}
  bad      : BadAccess := {}
  sec      : Security := {}
  mail     : Mailbox := {}
  ic       : Ic := {}
  msix     : Msix := {}
  errs     : Errors := {}
  power    : Power := {}
  bg       : Background := {}
  lanes    : Tbl Lane := []
  fports   : Tbl FPort := []
  bridge   : Bridge := {}
  commons  : Commons := {}
  parts    : Tbl Partition := []
  ctxs     : Tbl Context := []
  queues   : Tbl Queue := []
  slots    : List Slot := []
  admitted : Nat := 0
  graphs   : Tbl Graph := []
  seqs     : Tbl SeqEntry := []
  extents  : Tbl Extent := []
  folios   : Tbl Folio := []
  atc      : Tbl Atc := []
  xlats    : Tbl XlatReq := []
  faults   : List FaultRec := []
  faultNo  : Nat := 0
  groupNo  : Nat := 0
  /-- What the host configures of the function: PRI, and its Outstanding Page Request Allocation (R263). -/
  pri      : Bool := true
  pageAlloc : Nat := 512
  invals   : List Inval := []
  inbound  : Tbl InWindow := []
  reqs     : Tbl MemReq := []
  reqNo    : Nat := 0
  cores    : Tbl Core := []
  clusters : Tbl Cluster := []
  lines    : List Line := []
  /-- CT up to which each port's regulators have accrued tokens (R91). -/
  accrued  : Tbl Nat := []
  /-- BACK_INVAL (false) and SNOOP (true) of lines that a commit phase in progress writes (R451). -/
  dirWaits : List (Nat × Bool) := []
  adders   : List Reduction := []
  merges   : List Merge := []
deriving DecidableEq, Repr

/-- The block right after reset: SC_RESET_N asserted, stage RESET (R462), every table empty, every register at
the reset value of its table. -/
def State.reset : State := {}

end Sys2Proof.Machine
end

