-- ==== Sys2Proof/Machine/Ops.lean ====
section
/-!
DEFINITION. The named operations over the state that every family of commands shares: reading and changing one
entry of a table, time scales, who may do what, what leaves through the ports, the interrupt controller's fires,
error records, and the writes that a queue owes its guest.
-/
namespace Sys2Proof.Machine

open Sys2Proof

/-! ### One entry of each table -/

def State.queue (s : State) (q : Nat) : Queue := s.queues.getD q {}
def State.modQueue (s : State) (q : Nat) (f : Queue → Queue) : State :=
  { s with queues := s.queues.put q (f (s.queue q)) }

def State.part (s : State) (p : Nat) : Partition := s.parts.getD p {}
def State.modPart (s : State) (p : Nat) (f : Partition → Partition) : State :=
  { s with parts := s.parts.put p (f (s.part p)) }

/-- The key of context `x` of partition `p`. Log entry 57 (DESIGN CHOICE). -/
def ctxKey (p x : Nat) : Nat := 64 * p + x

def State.ctx? (s : State) (k : Nat) : Option Context := s.ctxs.get? k
def State.modCtx (s : State) (k : Nat) (f : Context → Context) : State :=
  match s.ctxs.get? k with
  | some c => { s with ctxs := s.ctxs.put k (f c) }
  | none => s

def State.chan (s : State) (ch : Nat) : Channel := s.mail.chans.getD ch {}
def State.modChan (s : State) (ch : Nat) (f : Channel → Channel) : State :=
  { s with mail := { s.mail with chans := s.mail.chans.put ch (f (s.chan ch)) } }

def State.core (s : State) (k : Nat) : Core := s.cores.getD k {}
def State.modCore (s : State) (k : Nat) (f : Core → Core) : State :=
  { s with cores := s.cores.put k (f (s.core k)) }

def State.cluster (s : State) (c : Nat) : Cluster := s.clusters.getD c {}
def State.modCluster (s : State) (c : Nat) (f : Cluster → Cluster) : State :=
  { s with clusters := s.clusters.put c (f (s.cluster c)) }

def State.fport (s : State) (n : Nat) : FPort := s.fports.getD n {}
def State.modFport (s : State) (n : Nat) (f : FPort → FPort) : State :=
  { s with fports := s.fports.put n (f (s.fport n)) }

def State.lane (s : State) (l : Nat) : Lane := s.lanes.getD l {}
def State.modLane (s : State) (l : Nat) (f : Lane → Lane) : State :=
  { s with lanes := s.lanes.put l (f (s.lane l)) }

def State.modExtent (s : State) (e : Nat) (f : Extent → Extent) : State :=
  match s.extents.get? e with
  | some x => { s with extents := s.extents.put e (f x) }
  | none => s

def State.modFolio (s : State) (i : Nat) (f : Folio → Folio) : State :=
  match s.folios.get? i with
  | some x => { s with folios := s.folios.put i (f x) }
  | none => s

def State.modGraph (s : State) (i : Nat) (f : Graph → Graph) : State :=
  match s.graphs.get? i with
  | some x => { s with graphs := s.graphs.put i (f x) }
  | none => s

/-- The entry of the outstanding launch table of slot `seq` of queue `q`. -/
def State.slot? (s : State) (q seq : Nat) : Option Slot :=
  s.slots.find? fun e => e.queue == q && e.seq == seq

def State.modSlot (s : State) (q seq : Nat) (f : Slot → Slot) : State :=
  { s with slots := s.slots.map fun e => if e.queue == q && e.seq == seq then f e else e }

def State.dropSlot (s : State) (q seq : Nat) : State :=
  { s with slots := s.slots.filter fun e => !(e.queue == q && e.seq == seq) }

/-- Put `o` on a port of the block. Log entry 13 (DESIGN CHOICE). -/
def State.emit (s : State) (o : Out) : State := { s with out := o :: s.out }

/-- Draw a fresh free value's number. Log entry 11 (DESIGN CHOICE). -/
def State.draw (s : State) : State := { s with free := s.free + 1 }

/-! ### Configuration (R2, R3, R16) -/

def State.nClusters (s : State) : Nat := if s.fuses.full then 16 else 8
def State.nCores (s : State) : Nat := 16 * s.nClusters
def State.nQuads (s : State) : Nat := 4 * s.nClusters
def State.nPorts (s : State) : Nat := 2 * s.nClusters
def State.nFports (s : State) : Nat := if s.fuses.full then 4 else 2
def State.nDies (s : State) : Nat := if s.fuses.full then 2 else 1

/-- Cluster of a core, of a quad, and die of a cluster (R4, R17). -/
def clusterOfCore (k : Nat) : Nat := k / 16
def clusterOfQuad (n : Nat) : Nat := n / 4
def dieOfCluster (c : Nat) : Nat := c / 8

/-- The home die of a partition: that of its lowest quad, D0 when it holds none (R20). -/
def Partition.homeDie (p : Partition) : Nat :=
  match p.quads.min? with
  | some n => dieOfCluster (clusterOfQuad n)
  | none => 0

/-- The number of the partition's quads in cluster `c` (R188). -/
def Partition.quadsIn (p : Partition) (c : Nat) : Nat :=
  (p.quads.filter fun n => clusterOfQuad n == c).length

/-- The ways of the partition in cluster `c`. -/
def Partition.waysIn (p : Partition) (c : Nat) : Ways := p.ways.getD c {}

/-- Whether core `k` belongs to the partition. -/
def Partition.hasCore (p : Partition) (k : Nat) : Bool := p.quads.contains (k / 4)

/-! ### Time scales (R128, R129, R132) -/

/-- The frame number of a CT value (R129). -/
def frameOf (ct : Nat) : Nat := ct / 8192

/-- An internal CT value in the scale in force for records: plus Δ while a step is pending (R132). -/
def State.outScale (s : State) (t : Nat) : Nat :=
  if s.time.state = .stepPending then ((t : Int) + s.time.delta).toNat else t

/-- SC_CT_NOW (R136): zero in UNLOCKED (R128). -/
def State.ctNow (s : State) : Nat :=
  if s.time.state = .unlocked then 0 else s.outScale s.time.ct

/-- A domain CT converted to the internal scale (R132). -/
def State.inScale (s : State) (t : Nat) : Nat :=
  if s.time.state = .stepPending then ((t : Int) - s.time.delta).toNat else t

/-! ### Requesters (R25, R303, R306, R441, R442) -/

/-- The identity of a requester in the form of REQUESTER in R303. Log entry 71 (DEDUCED). -/
def identOf : Requester → BitVec 32
  | .host _ => 0
  | .view _ _ => 0
  | .fabric _ e => BitVec.ofNat 32 (0x80000000 + e)

/-- The port of arrival in the encoding of SC_MB_STATE (R330). -/
def portOf : Requester → Nat
  | .host _ => 0
  | .view _ _ => 0
  | .fabric n _ => n + 1

/-- Management authority (R306); never through a tenant view (R442). -/
def State.isMgmt (s : State) : Requester → Bool
  | .view _ _ => false
  | r => s.sec.requesters.contains (identOf r)

/-- Whether a requester is bound to a context: a host-port request through BAR0 counts as bound to every HOST
context (R441), a view to every context of its partition (R442), a fabric endpoint to the FABRIC contexts whose
window 0 it owns (R262). Log entries 38 (DEDUCED), 71 (DEDUCED). -/
def boundTo (r : Requester) (c : Context) : Bool :=
  match r with
  | .host _ => !c.fabric
  | .view _ p => c.partition == p
  | .fabric _ e => c.fabric && match c.windows.get? 0 with
    | some w => w.endpoint == e
    | none => false

/-- Whether a requester is one of partition `p`: bound to one of its contexts, or its view. -/
def State.ofPart (s : State) (r : Requester) (p : Nat) : Bool :=
  (match r with | .view _ v => v == p | _ => false)
    || s.ctxs.any fun e => e.2.partition == p && boundTo r e.2

/-- Whether a host-port request reaches the ranges of the partition's TDI (R295). Log entry 71 (DEDUCED). -/
def Partition.admits (u : Partition) (r : Requester) : Bool :=
  match r with
  | .fabric _ _ => true
  | .host t | .view t _ =>
    match u.tdi with
    | .unlocked => true
    | .locked => t
    | .run => t
    | .error => false

/-- The partition whose queue range holds queue `q` (R285). -/
def State.partOfQueue (s : State) (q : Nat) : Option Partition :=
  (s.parts.find? fun e => e.2.state != .free && e.2.queueFirst ≤ q && q < e.2.queueFirst + e.2.queueCount).map (·.2)

/-- Whether a requester reaches the page of queue `q` (R25): one bound to the context that owns it, under the state of
the partition's TDI (R295); no tenant view holds a queue page (R442). Log entry 38 (DEDUCED). -/
def State.reachesQueue (s : State) (r : Requester) (q : Nat) : Bool :=
  match r with
  | .view _ _ => false
  | _ =>
    let u := s.queue q
    (s.partOfQueue q).all (fun p => p.admits r)
      && (u.state == .disabled || ((s.ctx? (ctxKey u.partition u.attrs.context)).any fun c => boundTo r c))

/-! ### A stopped block (R26, R322, R416) -/

/-- Whether the block acts at all: it is not held in reset and not stopped. Log entry 4 (DEDUCED). -/
def State.live (s : State) : Bool := s.boot.stopped == .no && s.boot.outOfReset

/-- Run `f` when the block acts; a stopped block, or one held in reset, does nothing.
Log entries 3 (DESIGN CHOICE), 4 (DEDUCED). -/
def State.whenLive (s : State) (f : State → State) : State := if s.live then f s else s

/-- Run `f` when `b` holds, else change nothing: an event whose condition does not hold does not occur.
Log entry 3 (DESIGN CHOICE). -/
def State.when (s : State) (b : Bool) (f : State → State) : State := if b then f s else s

/-- Answer a register access of a stopped block with an error (R26), else run `f`. Log entry 4 (DEDUCED). -/
def State.access (s : State) (r : Requester) (f : State → State) : State :=
  if s.boot.stopped == .no then (if s.boot.outOfReset then f s else s) else s.emit (.errorResponse r)

/-! ### The interrupt controller's fires (R352, R354, R361) -/

/-- The sources with a level trigger (R352). -/
def isLevelSource (n : Nat) : Bool :=
  n == 3 || n == 7 || (128 ≤ n && n ≤ 146) || (160 ≤ n && n ≤ 415) || (416 ≤ n && n ≤ 419)

/-- The state after a fire (R354). -/
def SrcState.fired : SrcState → SrcState
  | .inactive => .pending
  | .pending => .pending
  | .active => .activePending
  | .activePending => .activePending

/-- Whether a storm window is open at `now` (R361). -/
def Src.windowOpen (r : Src) (now : Nat) : Bool :=
  match r.window with
  | some w => now < w + 8000
  | none => false

/-- A fire recorded without storm counting: source 0, and fires during sleep. -/
def Src.fireQuiet (r : Src) : Src := { r with state := r.state.fired }

/-- A fire with storm counting; the Bool says that the source was masked as a storm (R361). -/
def Src.fire (r : Src) (now : Nat) : Src × Bool :=
  let r' := r.fireQuiet
  if !r.enable then (r', false)
  else if !r.windowOpen now then ({ r' with window := some now, fires := 1 }, false)
  else if r.fires + 1 ≥ 65 then ({ r' with enable := false, storm := true }, true)
  else ({ r' with fires := r.fires + 1 }, false)

def Ic.src (c : Ic) (n : Nat) : Src :=
  if c.asleep then c.keptSrcs.getD n {} else c.srcs.getD n {}

/-- Change one source: the live register, or the retained one during sleep (R362). -/
def Ic.setSrc (c : Ic) (n : Nat) (r : Src) : Ic :=
  if c.asleep then { c with keptSrcs := c.keptSrcs.put n r } else { c with srcs := c.srcs.put n r }

/-- A fire of source `n` (R354), with the storm rule of R361; during sleep it is recorded in the retained state, and
one of an enabled source with WAKE asks for the wake (R362). -/
def Ic.fire (c : Ic) (n now : Nat) : Ic :=
  if c.asleep then
    let r := c.src n
    { c.setSrc n r.fireQuiet with wakeFire := c.wakeFire || (r.enable && r.wake) }
  else if n == 0 then c.setSrc n (c.src n).fireQuiet
  else
    let (r, storm) := (c.src n).fire now
    let c := c.setSrc n r
    if storm then
      let c := { c with stormLast := n, storms := satAdd 16 c.storms 1 }
      c.setSrc 0 (c.src 0).fireQuiet
    else c

/-- An asserting or deasserting message of a level source (R354). -/
def Ic.setLevel (c : Ic) (n : Nat) (b : Bool) (now : Nat) : Ic :=
  let r := c.src n
  if b then
    if r.level then c else (c.setSrc n { r with level := true }).fire n now
  else
    c.setSrc n { r with level := false, state := if r.state = .pending then .inactive else r.state }

def State.icFire (s : State) (n : Nat) : State := { s with ic := s.ic.fire n s.time.now }
/-- Log entry 15 (DEDUCED). -/
def State.icLevel (s : State) (n : Nat) (b : Bool) : State := { s with ic := s.ic.setLevel n b s.time.now }

/-! ### Error records (R383 to R387) -/

/-- Record queue of a core, a cluster, a die, or the block (R387), and the interrupt source of each (R352). -/
def errOfCore (k : Nat) : Nat := k
def errOfCluster (c : Nat) : Nat := 256 + c
def errOfDie (d : Nat) : Nat := 272 + d
def errOfBlock : Nat := 274

def errSource (i : Nat) : Nat :=
  if i < 256 then 160 + i else if i < 272 then 128 + (i - 256) else if i < 274 then 144 + (i - 272) else 146

def Errors.queue (e : Errors) (i : Nat) : ErrQueue := e.queues.getD i {}

/-- Whether a WORD_CORRECTED record merges into the newest stored record (R386). -/
def ErrRecord.mergesInto (r newest : ErrRecord) : Bool :=
  r.error == 1 && newest.error == 1 && newest.domain == r.domain && newest.level == r.level
    && newest.address == r.address

/-- Store a record in queue `i` (R386). Log entry 29 (DEDUCED). -/
def Errors.store (e : Errors) (i : Nat) (r : ErrRecord) : Errors :=
  let q := e.queue i
  let merged := match q.records.getLast? with
    | some n => r.mergesInto n
    | none => false
  if merged then
    let rs := q.records.dropLast ++ (q.records.getLast?.toList.map fun n => { n with count := satAdd 32 n.count 1 })
    { e with queues := e.queues.put i { q with records := rs } }
  else if q.records.length ≥ 4 then
    let q' := { q with overrun := true, lost := satAdd 32 q.lost 1, lostNow := satAdd 32 q.lostNow 1 }
    { e with queues := e.queues.put i q', recordsLost := satAdd 16 e.recordsLost 1 }
  else
    let fl := if q.lostNow == 0 then r.rflags else r.rflags ||| 2
    let r := { r with recordSeq := e.nextSeq, lost := q.lostNow, rflags := fl }
    let q' := { q with records := q.records ++ [r], lostNow := 0 }
    { e with nextSeq := e.nextSeq + 1, queues := e.queues.put i q' }

/-- Store an error record raised now, and assert the queue's interrupt source (R352, R386). -/
def State.logError (s : State) (i : Nat) (r : ErrRecord) : State :=
  let s := { s with errs := s.errs.store i { r with ct := s.ctNow } }
  s.icLevel (errSource i) !(s.errs.queue i).records.isEmpty

/-- Remove the oldest record of a queue, and deassert its source when it becomes empty (R387). -/
def State.popError (s : State) (i : Nat) : State :=
  let q := s.errs.queue i
  let s := { s with errs := { s.errs with queues := s.errs.queues.put i { q with records := q.records.tail } } }
  if (s.errs.queue i).records.isEmpty then s.icLevel (errSource i) false else s

/-- Put records at the end of the firmware log of 4,096, dropping the oldest (R386). -/
def Errors.toLog (e : Errors) (rs : List ErrRecord) : Errors :=
  let all := e.log ++ rs
  let excess := all.length - 4096
  { e with log := all.drop excess, logDropped := satAdd 32 e.logDropped excess }

/-- SC_BAD_ACCESS after one access of `kind` at `offset` (R29). -/
def BadAccess.add (b : BadAccess) (kind offset : Nat) : BadAccess :=
  { count := satAdd 32 b.count 1, lastKind := kind, lastOffset := offset / 16 % 2 ^ 24 }

/-- Count one access that R26 turns away. -/
def State.badAccess (s : State) (kind offset : Nat) : State := { s with bad := s.bad.add kind offset }

/-- A read that R26 turns away returns zero. -/
def State.badRead (s : State) (r : Requester) (kind offset : Nat) : State :=
  (s.badAccess kind offset).emit (.regValue r 0)

/-! ### Fabric ports and guest interrupts (R165, R368, R369, R446) -/

/-- Give a message to the link of port `n`: it leaves when the link is up, and is held otherwise (R446). -/
def State.viaPort (s : State) (n : Nat) (o : Out) : State :=
  if (s.fport n).state == 1 then s.emit o
  else s.modFport n fun f => { f with held := f.held ++ [o] }

/-- The first port of a PORTS mask whose link is up (R278). -/
def State.upPort (s : State) (mask : Nat) : Option Nat :=
  (List.range 4).find? fun n => mask / 2 ^ n % 2 == 1 && (s.fport n).state == 1

/-- Give a message to a guest along a PATH: the host port, or a fabric port (R140). -/
def State.viaPath (s : State) (path : Nat) (o : Out) : State :=
  if path == 0 then s.emit o else s.viaPort (path - 1) o

/-- What became of an interrupt message: it went to the port, it was lost (R368), or nothing had to be sent now. -/
inductive SendResult where
  | sent | lost | done
deriving DecidableEq, Repr

/-- Send a guest vector's message (R367 to R369). A message to a masked entry sets its Pending Bit. -/
def State.sendVector (s : State) (path part : Nat) (v : GuestVector) : State × SendResult :=
  if v.mode == 1 then
    if !s.msix.enable then (s, .lost)
    else
      let e := s.msix.entries.getD v.entry {}
      if s.msix.funcMask || e.masked then
        ({ s with msix := { s.msix with entries := s.msix.entries.put v.entry { e with pending := true } } }, .done)
      else (s.emit (.msix v.entry), .sent)
  else if v.mode == 2 then (s.viaPath path (.fabricInt v.endpoint v.vector part), .sent)
  else (s, .done)

/-! ### What a queue owes its guest (R159 to R165, R172) -/

/-- STATE of SC_QSTAT (R168). -/
def QState.code : QState → Nat
  | .disabled => 0 | .active => 1 | .stopped => 2 | .guilty => 3 | .draining => 4 | .blocked => 5

/-- Whether the queue's records and words are held: an area cannot be accessed (R172, R174). -/
def Queue.pathBroken (u : Queue) : Bool := u.pathFetch || u.pathStatus || u.pathCompl

def Queue.holdsWrites (u : Queue) : Bool :=
  (u.state == .blocked || u.state == .guilty) && u.pathBroken && u.resuming.isNone

/-- The vector of an interrupt of the queue's list. -/
def Queue.vectorOf (u : Queue) : GuestWrite → Option GuestVector
  | .completionInterrupt => some u.attrs.complVector
  | .eventInterrupt => some u.attrs.eventVector
  | _ => none

/-- Issue the write at the head of the queue's list: a record or word goes out on PATH; an interrupt is sent, and one
that is lost, masked or of mode NONE makes way for the next (R165, R368).
Log entries 13 (DESIGN CHOICE), 55 (DESIGN CHOICE), 64 (DEDUCED). -/
def State.issueWrites : Nat → State → Nat → State
  | 0, s, _ => s
  | n + 1, s, q =>
    let u := s.queue q
    match u.writes with
    | [] => s
    | w :: rest =>
      match u.vectorOf w with
      | none => s.viaPath u.attrs.path (.guest q w)
      | some v =>
        match s.sendVector u.attrs.path u.partition v with
        | (s, .sent) => s
        | (s, .lost) => State.issueWrites n (s.modQueue q fun u => { u with writes := rest, intLost := true }) q
        | (s, .done) => State.issueWrites n (s.modQueue q fun u => { u with writes := rest }) q

/-- Log entry 64 (DEDUCED). -/
def State.issueHead (s : State) (q : Nat) : State := s.issueWrites (s.queue q).writes.length q

/-- Put a write at the end of the queue's list; the first of the list is issued at once (R161). -/
def State.pushWrite (s : State) (q : Nat) (w : GuestWrite) : State :=
  let first := (s.queue q).writes.isEmpty
  let s := s.modQueue q fun u => { u with writes := u.writes ++ [w] }
  if first then s.issueHead q else s

/-- A record that falls due: written, held while the path is broken (R172), or discarded when the path is broken and
the queue is being reset (R174, R175). -/
def State.pushRecord (s : State) (q : Nat) (w : GuestWrite) : State :=
  if (s.queue q).state == .draining && (s.queue q).pathBroken then s
  else if (s.queue q).holdsWrites then s.modQueue q fun u => { u with held := u.held ++ [w] }
  else s.pushWrite q w

/-- The completion word that the queue shows now (R160). -/
def Queue.word (u : Queue) (broken : Bool) : CompletionWord :=
  { retiredSeq := u.retiredSeq, epoch := u.epoch, state := u.state.code,
    cflags := (if broken then 1 else 0) + (if u.absorbedF then 2 else 0) + (if u.stepF then 4 else 0) }

/-- Write the completion word, and its interrupt when it passes a slot with INTERRUPT (R161, R165); nothing while
the path is broken (R172) or a resumption still writes what was held (R173). -/
def State.writeWord (s : State) (q : Nat) (broken : Bool) : State :=
  let u := s.queue q
  if u.holdsWrites || u.resuming.isSome || u.state == .disabled || (u.state == .draining && u.pathBroken) then s
  else
    let s := s.pushWrite q (.word (u.word broken))
    let s := if u.interruptF then s.pushWrite q .completionInterrupt else s
    s.modQueue q fun u => { u with absorbedF := false, stepF := false, interruptF := false }

/-- Change the queue's state: the word is written and EVENT_VECTOR sent (R161, R165). -/
def State.setQState (s : State) (q : Nat) (st : QState) : State :=
  let s := s.modQueue q fun u => { u with state := st }
  (s.writeWord q false).pushWrite q .eventInterrupt

end Sys2Proof.Machine
end

