-- ==== Sys2Proof/Machine/BootOps.lean ====
section
/-!
DEFINITION. Boot stages (R462 to R465) as every command reaches them: entering a stage, READY and FAILED, with the
reports to the PC9 (R452).
-/
namespace Sys2Proof.Machine

open Sys2Proof

/-- STAGE of SC_BOOT (R462). -/
def Stage.code : Stage → Nat
  | .reset => 0 | .rom => 1 | .keys => 2 | .image => 3 | .training => 4 | .time => 5 | .ready => 6 | .failed => 15

/-! REASON values of R463. -/

namespace BootReason

abbrev noRootSlot : Nat := 1
abbrev imageRefused : Nat := 2
abbrev thimbleFault : Nat := 3
abbrev bridgeFailed : Nat := 4
abbrev noMemory : Nat := 5

end BootReason

/-- Enter a stage and report it to the PC9 (R452). Log entry 45 (DEDUCED). -/
def State.enterStage (s : State) (st : Stage) (reason : Nat) : State :=
  let s := { s with boot := { s.boot with stage := st, reason := reason } }
  s.emit (.bootReport st.code reason s.boot.fwVersion)

/-- Start-up stops with a REASON (R463). -/
def State.failBoot (s : State) (reason : Nat) : State := s.enterStage .failed reason

/-- The entry into READY (R463 to R465): the mailbox opens. -/
def State.becomeReady (s : State) (expired : Bool) : State :=
  { s with boot := { s.boot with mailboxOn := true, timeExpired := expired, readyNs := s.time.now - s.boot.startNs }
    }.enterStage .ready 0

/-! ### SC_RESET_N (R457, R462, R463) -/

/-- The fuses after a fuse that is being programmed (R461). -/
def State.fusesDone (s : State) : Fuses :=
  match s.sec.retiring with
  | some n => { s.fuses with retired := s.fuses.retired ||| BitVec.ofNat 16 (2 ^ n) }
  | none => s.fuses

/-- The whole block resets: only the fuses outlive it. The model's own fields and the local clock go on.
Log entry 6 (DESIGN CHOICE). -/
def State.wholeReset (s : State) : State :=
  { State.reset with pending := s.pending, free := s.free, out := s.out, fuses := s.fusesDone, time := { now := s.time.now } }

/-- The block stops for heat or for loss of coolant (R416); a stop by a class A alarm stands. -/
def State.coolantStop (s : State) : State :=
  if s.boot.stopped == .classA then s else { s with boot := { s.boot with stopped := .coolant } }

/-- The block comes out of reset with two of its filtered inputs at these levels: stage ROM. Log entry 6 (DESIGN CHOICE). -/
def State.comeUp (s : State) (coolantOk hardCap : Bool) : State :=
  let s := { s with
    boot := { s.boot with outOfReset := true, startNs := s.time.now }
    pins := { s.pins with coolantOk := coolantOk, hardCap := hardCap }
    power := { s.power with hardCap := hardCap, hardEvents := if hardCap then 1 else 0 } }
  let s := if hardCap then s.icLevel 7 true else s
  let s := s.enterStage .rom 0
  if coolantOk then s else s.coolantStop

/-- FW_REBOOT's reboot (R344), as if SC_RESET_N had been asserted and released: the inputs keep their levels.
Log entry 45 (DEDUCED). -/
def State.reboot (s : State) : State := s.wholeReset.comeUp s.pins.coolantOk s.pins.hardCap

end Sys2Proof.Machine
end

