-- ==== Sys2Proof/Machine/Flags.lean ====
section
/-!
DEFINITION. Status codes (R11), causes (R13, R148, R149, R192, R273, R391), why a launch ends (R13, R14), and the
flag fields that the block computes: QFLAGS (R59) and DETAIL codes of mailbox replies (R340).
-/
namespace Sys2Proof.Machine

open Sys2Proof

namespace Status

abbrev ok : Nat := 0x0000
abbrev okFallback : Nat := 0x0001
abbrev partialShards : Nat := 0x0002
abbrev okQuality : Nat := 0x0003
abbrev cannotPromise : Nat := 0x0101
abbrev queueStopped : Nat := 0x0102
abbrev noGraph : Nat := 0x0103
abbrev badSlot : Nat := 0x0104
abbrev quota : Nat := 0x0105
abbrev promiseBroken : Nat := 0x0201
abbrev poisoned : Nat := 0x0301
abbrev revoked : Nat := 0x0302
abbrev translation : Nat := 0x0303
abbrev conflict : Nat := 0x0401
abbrev noVersionSlot : Nat := 0x0402
abbrev folioQuarantined : Nat := 0x0403
abbrev abortedPeer : Nat := 0x0501
abbrev abortedReset : Nat := 0x0502
abbrev queueGuilty : Nat := 0x0503
abbrev busy : Nat := 0x0601

end Status

/-- Why a slot that has not finished is ended by the block. -/
inductive EndWhy where
  | reset
  | power
  | poison (source : Nat)
  | revoked
  | link
  | peer
  | translation
  | queueReset
  | guilty (cause : Nat)
  | unresolved (cause : Nat)
deriving DecidableEq, Repr

/-- Status and cause of a slot that ends for a reason: an accepted promise breaks with the cause of R13, every other
slot takes the last column of R13 (R14); a queue reset (R175), guilt (R176) and an unresolved fault (R274) end every
class alike. -/
def EndWhy.status (w : EndWhy) (promised : Bool) : Nat × Nat :=
  match w with
  | .reset => if promised then (Status.promiseBroken, 1) else (Status.abortedReset, 0)
  | .power => (Status.promiseBroken, 2)
  | .poison c => if promised then (Status.promiseBroken, 3) else (Status.poisoned, c)
  | .revoked => if promised then (Status.promiseBroken, 4) else (Status.revoked, 0)
  | .link => (Status.promiseBroken, 5)
  | .peer => if promised then (Status.promiseBroken, 6) else (Status.abortedPeer, 0)
  | .translation => (Status.promiseBroken, 7)
  | .queueReset => (Status.abortedReset, 0)
  | .guilty c => (Status.queueGuilty, c)
  | .unresolved c => (Status.translation, c)

/-- Whether a status is one with which work completes, so that a later failure before the finish replaces it
(R392). -/
def isCompletion (status : Nat) : Bool := status ≤ 3

/-- QFLAGS (R59) of a launch: bits set in the slot as they arise, with SEAM_APPLIED, NAN_SEEN and COUNT_SAT from the
counts. -/
def qflagsOf (e : Slot) : Nat :=
  let c := e.counts
  let b (v : Bool) (k : Nat) : Nat := if v then 2 ^ k else 0
  e.qflags ||| b (c.sampled != 0) 0 ||| b (c.nanIn != 0 || c.nanOut != 0) 4 ||| b c.saturated 5

/-- Bits of QFLAGS that events set. -/
abbrev qfExceeded : Nat := 2
abbrev qfEscalated : Nat := 4
abbrev qfQuality : Nat := 8
abbrev qfRerunAbandoned : Nat := 64

/-- Add a tile's counts to those of a launch (R52, R58): 32-bit saturating sums, COUNT_SAT remembered. -/
def Counts.plus (a b : Counts) : Counts :=
  let big : Nat := 2 ^ 32
  { elemSat := satAdd 32 a.elemSat b.elemSat, scaleClamp := satAdd 32 a.scaleClamp b.scaleClamp,
    nanOut := satAdd 32 a.nanOut b.nanOut, nanIn := satAdd 32 a.nanIn b.nanIn,
    sampled := satAdd 32 a.sampled b.sampled, diverged := satAdd 32 a.diverged b.diverged,
    maxQ := if a.maxQ.toNat < b.maxQ.toNat then b.maxQ else a.maxQ,
    saturated := a.saturated || b.saturated || big ≤ a.elemSat + b.elemSat || big ≤ a.scaleClamp + b.scaleClamp
      || big ≤ a.nanOut + b.nanOut || big ≤ a.sampled + b.sampled || big ≤ a.diverged + b.diverged }

/-- Add a tile's counts to the arithmetic telemetry of its context (R426), whose rows have 64 bits. -/
def Counts.plusTile (a b : Counts) : Counts :=
  { a.plus b with sampled := satAdd 64 a.sampled b.sampled, diverged := satAdd 64 a.diverged b.diverged }

end Sys2Proof.Machine
end

