-- ==== Sys2Proof/Machine/Operands.lean ====
section
/-!
DEFINITION. The operand forms: bytes and bit fields (R5), submission slots of PAQ 2.1 and PAQ 1.3 (R144, R181),
handles (R119, R240), mailbox messages and their attributes (R335, R336, R342), capabilities (R303) and guest
vectors (R367), and the byte layouts of the records that the block writes (R160, R162, R248, R58, R383).
-/
namespace Sys2Proof.Machine

open Sys2Proof

/-! ### Bytes and bits -/

/-- The little-endian number in `n` bytes from offset `o`; bytes beyond the end read as zero (R5). -/
def le (b : Bytes) (o n : Nat) : Nat :=
  ((b.drop o).take n).foldr (fun x acc => x.toNat + 256 * acc) 0

/-- The `n` bytes of a number, little-endian. Log entry 70 (DESIGN CHOICE). -/
def toLe : Nat → Nat → Bytes
  | 0, _ => []
  | n + 1, v => BitVec.ofNat 8 v :: toLe n (v / 256)

/-- Bits [lo+n-1:lo] of a number. -/
def bitsAt (v lo n : Nat) : Nat := v / 2 ^ lo % 2 ^ n

/-- Bit `i` of a number. -/
def bitAt (v i : Nat) : Bool := bitsAt v i 1 == 1

/-- Whether every byte of a run is zero. -/
def allZero (b : Bytes) : Bool := b.all (· == 0)

/-- Whether bytes [o, o+n) are zero. -/
def zeroAt (b : Bytes) (o n : Nat) : Bool := allZero ((b.drop o).take n)

/-- `n` zero bytes. -/
def zeros (n : Nat) : Bytes := List.replicate n 0

/-- A two's-complement number of `n` bits. -/
def signedAt (v n : Nat) : Int := if v < 2 ^ (n - 1) then v else (v : Int) - 2 ^ n

/-- What a read of part of a 64-bit register returns (R10). -/
def halfOf (h : Half) (v : Nat) : BitVec 64 :=
  match h with
  | .whole => BitVec.ofNat 64 v
  | .low => BitVec.ofNat 64 (v % 2 ^ 32)
  | .high => BitVec.ofNat 64 (v / 2 ^ 32 % 2 ^ 32)

/-- Whether a read takes the upper or the lower half of a register: only the RC fields that lie there clear. -/
def readsHigh (h : Half) : Bool := h != .low
def readsLow (h : Half) : Bool := h != .high

/-! ### Submission slots (R144 to R150, R181, R182) -/

/-- A PAQ 1.3 slot as the PAQ 2.1 slot with the same fields (R182). Log entry 72 (DEDUCED). -/
def slotOf13 (b : Bytes) : Bytes :=
  b.take 20 ++ zeros 4 ++ zeros 8 ++ (b.drop 24).take 8 ++ (b.drop 32).take 2 ++ zeros 6 ++ zeros 10 ++ zeros 6
    ++ (b.drop 48).take 16 ++ zeros 48

namespace SlotField

def fOpcode (b : Bytes) : Nat := le b 0 2
def fClass (b : Bytes) : Nat := le b 2 1
def fFlags (b : Bytes) : Nat := le b 3 1
def fTag (b : Bytes) : Nat := le b 4 4
def fGraph (b : Bytes) : Nat := le b 8 8
def fVariant (b : Bytes) : Nat := le b 16 2
def fPhase (b : Bytes) : Nat := le b 18 2
def fDeadline (b : Bytes) : Nat := le b 24 8
def fConstAddr (b : Bytes) : Nat := le b 32 8
def fConstLen (b : Bytes) : Nat := le b 40 2
def fOverrideAddr (b : Bytes) : Nat := le b 48 8
def fOverrideN (b : Bytes) : Nat := le b 56 2
/-- Inline constants, or the arguments of other opcodes. -/
def fConsts (b : Bytes) : Bytes := (b.drop 64).take 64

end SlotField

/-- Flags of R145. -/
def flagAlways (f : Nat) : Bool := bitAt f 0
def flagInterrupt (f : Nat) : Bool := bitAt f 1
def flagAllOrNothing (f : Nat) : Bool := bitAt f 2
def flagConsts (f : Nat) : Bool := bitAt f 3
def flagChainNext (f : Nat) : Bool := bitAt f 4
def flagKeep (f : Nat) : Bool := bitAt f 5

/-- The first 64 bits of a handle split (R119). -/
structure GraphHandle where
  index : Nat
  owner : Nat
  reserved : Nat
  generation : Nat

def graphHandle (h : Nat) : GraphHandle :=
  { index := bitsAt h 0 12, owner := bitsAt h 12 6, reserved := bitsAt h 18 14, generation := bitsAt h 32 32 }

def mkGraphHandle (i owner gen : Nat) : Nat := i + owner * 2 ^ 12 + gen % 2 ^ 32 * 2 ^ 32

/-- A folio handle split (R240): INDEX, OWNER, reserved bits, GENERATION. -/
structure FolioHandle where
  index : Nat
  owner : Nat
  reserved : Nat
  generation : Nat

def folioHandle (h : Nat) : FolioHandle :=
  { index := bitsAt h 0 14, owner := bitsAt h 14 6, reserved := bitsAt h 20 12, generation := bitsAt h 32 32 }

def mkFolioHandle (i owner gen : Nat) : Nat := i + owner * 2 ^ 14 + gen % 2 ^ 32 * 2 ^ 32

/-! ### Guest vectors (R367) -/

def guestVector (v : Nat) : GuestVector :=
  { mode := bitsAt v 0 2, entry := bitsAt v 2 11, endpoint := bitsAt v 13 17, vector := bitsAt v 32 32 }

/-- The vector's number again, as readback shows attributes (R432). -/
def GuestVector.bits (g : GuestVector) : Nat :=
  g.mode + g.entry * 2 ^ 2 + g.endpoint * 2 ^ 13 + g.vector * 2 ^ 32

/-- Whether a vector obeys R367 by itself: mode below 3, reserved bits zero, unused fields zero, and the mode fits
the path. -/
def vectorOk (v path : Nat) : Bool :=
  let g := guestVector v
  bitsAt v 30 2 == 0 && g.mode < 3
    && (g.mode == 1 || g.entry == 0) && (g.mode == 2 || (g.endpoint == 0 && g.vector == 0))
    && (g.mode == 0 || (g.mode == 1 && path == 0) || (g.mode == 2 && path != 0))

/-! ### Mailbox messages (R335, R336, R342) -/

/-- Bytes 24 to 71 of a message as a capability (R303). -/
def parseCap (b : Bytes) : Capability :=
  { capId := le b 0 4, rights := BitVec.ofNat 16 (le b 4 2), uses := le b 6 1,
    partitions := BitVec.ofNat 64 (le b 8 8), notAfter := le b 16 8, requester := BitVec.ofNat 32 (le b 24 4),
    reserved := !(zeroAt b 7 1 && zeroAt b 28 4 && bitsAt (le b 4 2) 11 5 == 0),
    tag := BitVec.ofNat 128 (le b 32 16) }

/-- The size of the VALUE of an attribute (R342); 0 for an ID that R342 does not define. -/
def attrSize (id : Nat) : Nat :=
  if (1 ≤ id && id ≤ 0x0B) || (0x10 ≤ id && id ≤ 0x12) || (0x20 ≤ id && id ≤ 0x2B) || id == 0x40 || id == 0x43
    || id == 0x52 || id == 0x53 then 8
  else if id == 0x13 || id == 0x14 || id == 0x31 || id == 0x41 || id == 0x42 || id == 0x50 then 32
  else if id == 0x30 || id == 0x32 || id == 0x51 then 64
  else 0

/-- The largest INDEX of an attribute, plus one (R342). -/
def attrIndexes (id : Nat) : Nat :=
  if id == 0x03 then 16 else if id == 0x09 || id == 0x0A then 2 else if id == 0x0B then 64
  else if id == 0x13 then 16 else 1

/-- Read `n` attribute records from the bytes of the body; the error is the position of the record that breaks
R336 or R342. -/
def parseAttrs : Nat → Nat → Bytes → List Attr → Except Nat (List Attr × Bytes)
  | 0, _, b, acc => .ok (acc.reverse, b)
  | n + 1, k, b, acc =>
    let id := le b 0 2
    let ix := le b 2 2
    let sz := le b 4 2
    if b.length < 8 + sz || sz == 0 || sz != attrSize id || !zeroAt b 6 2 || ix ≥ attrIndexes id
        || acc.any (fun a => a.id == id && a.index == ix) then .error k
    else parseAttrs n (k + 1) (b.drop (8 + sz)) ({ id := id, index := ix, value := (b.drop 8).take sz } :: acc)

/-- Why a message breaks the format, with ATTR_INDEX; or the message (R335, R336). `pages` is PAGES_M1. -/
def parseMessage (noticeOpcode pagesM1 : Nat) (b : Bytes) : Except (Nat × Nat) Message :=
  if le b 0 1 != noticeOpcode then .error (1, 0xFFFF)
  else
    let bytes := le b 4 4
    let cap := (b.drop 24).take 48
    if le b 1 1 != 1 || le b 2 1 > 2 || !zeroAt b 3 1 || bytes < 144 || bytes > (pagesM1 + 1) * 4096
        || b.length < bytes || !zeroAt b 20 4 || !zeroAt b 72 56 || !zeroAt b 134 2
        || (le b 2 1 == 0 && le b 16 4 != 0) || (le b 2 1 == 1 && le b 16 4 ≥ 2048) || le b 132 2 > 1024 then .error (2, 0xFFFF)
    else
      let body := (b.take bytes).drop 144
      let base (attrs : List Attr) (data : Bytes) : Message :=
        { opcode := le b 0 1, notify := le b 2 1, token := le b 8 8, notifyVector := le b 16 4,
          capZero := allZero cap, cap := parseCap cap, capBytes := cap, partition := le b 128 1,
          context := le b 129 1, queue := le b 130 2, object := le b 136 8, attrs := attrs, data := data }
      if noticeOpcode == 0x20 then
        if le b 132 2 != 0 || body.length < le b 136 8 then .error (2, 0xFFFF)
        else .ok (base [] (body.take (le b 136 8)))
      else match parseAttrs (le b 132 2) 0 body [] with
        | .error k => .error (2, k)
        | .ok (as, rest) => if rest.isEmpty then .ok (base as []) else .error (2, 0xFFFF)

/-- The first attribute of an ID and INDEX. -/
def Message.attr? (m : Message) (id index : Nat) : Option Bytes :=
  (m.attrs.find? fun a => a.id == id && a.index == index).map (·.value)

/-- An integer attribute. -/
def Message.num? (m : Message) (id : Nat) : Option Nat := (m.attr? id 0).map fun v => le v 0 8

/-- Every attribute of an ID, with its INDEX. -/
def Message.all (m : Message) (id : Nat) : List (Nat × Bytes) :=
  (m.attrs.filter fun a => a.id == id).map fun a => (a.index, a.value)

/-! ### Byte layouts of records -/

/-- R162. -/
def StatusRecord.bytes (r : StatusRecord) : Bytes :=
  toLe 8 r.sequence ++ toLe 2 r.status ++ toLe 2 r.cause ++ toLe 4 r.guestTag ++ toLe 8 r.ct
    ++ toLe 4 r.failedShards ++ toLe 2 r.variant ++ zeros 2

/-- R160. -/
def CompletionWord.bytes (w : CompletionWord) : Bytes :=
  toLe 8 w.retiredSeq ++ toLe 1 w.epoch ++ toLe 1 w.state ++ toLe 1 w.cflags ++ zeros 5

/-- R248. -/
def FolioResult.bytes (r : FolioResult) : Bytes :=
  toLe 8 r.sequence ++ toLe 2 r.status ++ toLe 1 r.op ++ toLe 1 r.vstate ++ toLe 4 r.version ++ toLe 4 r.current
    ++ toLe 4 r.held ++ toLe 8 r.length

/-- R58. -/
def QualityRecord.bytes (r : QualityRecord) : Bytes :=
  toLe 8 r.sequence ++ toLe 2 r.status ++ toLe 2 r.variant ++ toLe 2 r.qflags ++ toLe 2 r.escPhases
    ++ toLe 4 r.sampled ++ toLe 4 r.diverged ++ toLe 4 r.maxQ.toNat ++ toLe 4 r.elemSat ++ toLe 4 r.scaleClamp
    ++ toLe 4 r.nanOut ++ toLe 4 r.tilesRun ++ toLe 4 r.tilesRerun ++ toLe 8 r.ctWritten ++ toLe 4 r.guestTag
    ++ zeros 4

/-- R383. -/
def ErrRecord.bytes (r : ErrRecord) : Bytes :=
  toLe 8 r.recordSeq ++ toLe 8 r.ct ++ toLe 2 r.error ++ toLe 1 r.action ++ toLe 1 r.level ++ toLe 2 r.domain
    ++ toLe 1 r.partition ++ toLe 1 r.context ++ toLe 2 r.queue ++ toLe 1 r.rflags ++ toLe 1 r.symbol
    ++ toLe 4 r.tile ++ toLe 8 r.launchSeq ++ toLe 8 r.address ++ toLe 4 r.syndrome ++ toLe 4 r.count
    ++ toLe 4 r.lost ++ zeros 4

/-- The reply header (R338), for a reply of `n` bytes in all. -/
def ReplyHeader.bytes (h : ReplyHeader) (n : Nat) : Bytes :=
  toLe 1 h.opcode ++ toLe 1 1 ++ toLe 2 h.status ++ toLe 4 n ++ toLe 8 h.token ++ toLe 8 h.retryAfter
    ++ toLe 1 h.gate ++ toLe 1 h.cls ++ toLe 2 h.detail ++ toLe 2 h.attrIndex ++ zeros 2 ++ toLe 8 h.takenCt
    ++ toLe 8 h.doneCt ++ toLe 4 h.neededBytes ++ zeros 12

end Sys2Proof.Machine
end

