-- ==== Sys2Proof/Machine/MailOps.lean ====
section
/-!
DEFINITION. Replies of the mailbox: DETAIL codes and their status (R340), classes (R345), forming a reply (R337 to
R339) and answering the commands that wait for an event (R344).
-/
namespace Sys2Proof.Machine

open Sys2Proof

namespace Detail

abbrev none : Nat := 0
abbrev opcode : Nat := 1
abbrev format : Nat := 2
abbrev gate : Nat := 3
abbrev notFound : Nat := 4
abbrev state : Nat := 5
abbrev range : Nat := 6
abbrev limit : Nat := 7
abbrev unreadable : Nat := 8
abbrev image : Nat := 9
abbrev busy : Nat := 10
abbrev abandoned : Nat := 11

end Detail

/-- STATUS of a DETAIL (R340). -/
def detailStatus (d : Nat) : Nat :=
  if d == Detail.none then Status.ok
  else if d == Detail.notFound then Status.noGraph
  else if d == Detail.limit then Status.quota
  else if d == Detail.busy then Status.busy
  else if d == Detail.abandoned then Status.abortedReset
  else Status.badSlot

/-- CLASS of an opcode (R345). An opcode outside every class is served as class 5. -/
def opcodeClass (op : Nat) : Nat :=
  if 0x10 ≤ op && op ≤ 0x1F then 1 else if 0x20 ≤ op && op ≤ 0x2F then 2 else if 0x30 ≤ op && op ≤ 0x4F then 3
  else if 0x50 ≤ op && op ≤ 0x5F then 4 else 5

/-- The internal CT, zero while it has no meaning. -/
def State.ctInt (s : State) : Nat := if s.time.state = .unlocked then 0 else s.time.ct

/-- The requester whose notice a channel carries, from its port and origin (R330). -/
def Channel.requester (c : Channel) : Requester :=
  if c.port == 0 then .host false else .fabric (c.port - 1) (bitsAt c.origin.toNat 0 17)

/-- The bytes of a channel's message block (R339). -/
def Channel.blockBytes (c : Channel) : Nat := (c.pagesM1 + 1) * 4096

/-- Whether a reply body fits the message block (R339). -/
def State.replyFits (s : State) (ch n : Nat) : Bool := 64 + n ≤ (s.chan ch).blockBytes

/-- The reply header of a channel's command (R338). -/
def State.replyHeader (s : State) (ch detail attrIndex needed retryAfter : Nat) : ReplyHeader :=
  let c := s.chan ch
  let readable := detail != Detail.unreadable
  { opcode := (if readable then c.message.map (·.opcode) else none).getD c.opcode
    status := detailStatus detail
    token := if readable then (c.message.map (·.token)).getD 0 else 0
    retryAfter := retryAfter, gate := c.gate, cls := opcodeClass c.opcode, detail := detail
    attrIndex := attrIndex, takenCt := if c.takeCt == 0 then 0 else s.outScale c.takeCt
    doneCt := s.ctNow, neededBytes := needed }

/-- Form a reply and issue its write on the channel's port (R337). -/
def State.replyWith (s : State) (ch detail : Nat) (body : Bytes) (attrIndex needed retryAfter : Nat) : State :=
  let h := s.replyHeader ch detail attrIndex needed retryAfter
  let s := s.modChan ch fun c => { c with serve := .replying, header := h, body := body, bobbin := none }
  s.viaPath (s.chan ch).port (.mailReply ch h body)

/-- A refusal with a DETAIL. -/
def State.refuse (s : State) (ch detail : Nat) : State := s.replyWith ch detail [] 0xFFFF 0 0

/-- A refusal that names the attribute record that breaks a rule. -/
def State.refuseAttr (s : State) (ch detail index : Nat) : State := s.replyWith ch detail [] index 0 0

/-- The reply of a command that took effect. -/
def State.accept (s : State) (ch : Nat) (body : Bytes) : State := s.replyWith ch Detail.none body 0xFFFF 0 0

/-- The reply header only, with NEEDED_BYTES, for a reply that does not fit (R339). -/
def State.tooLong (s : State) (ch n : Nat) : State := s.replyWith ch Detail.limit [] 0xFFFF (64 + n) 0

/-- The command waits for an event; its Bobbin core is released (R345). -/
def State.park (s : State) (ch : Nat) : State := s.modChan ch fun c => { c with serve := .waiting, bobbin := none }

/-- Answer every channel of a list. -/
def State.acceptAll (s : State) (chs : List Nat) (body : Bytes) : State := chs.foldl (fun s ch => s.accept ch body) s

/-- The channels whose waiting command satisfies a test. -/
def State.waitingChans (s : State) (t : Message → Bool) : List Nat :=
  (s.mail.chans.filter fun e => e.2.serve == .waiting && e.2.message.any t).map (·.1)

end Sys2Proof.Machine
end

