-- ==== Sys2Proof/Machine/KeyOps.lean ====
section
/-!
DEFINITION. Keys of the root of trust (R307 to R312): the active slot, the derivations of R309, a partition's keys, and
their zeroisation. The functions that the derivations name are free values of `Config`.
-/
namespace Sys2Proof.Machine

open Sys2Proof

/-- The active slot: the lowest whose retire fuse is not blown (R307). Log entries 7 (DESIGN CHOICE), 28 (DEDUCED). -/
def Fuses.activeSlot (f : Fuses) : Option Nat := (List.range 16).find? fun i => !f.retired.getLsbD i

/-- The unique device secret of the active slot. -/
def State.uds (s : State) : Bytes := s.fuses.activeSlot.elim [] Config.deviceSecret

/-- DEBUG_STATE (R319). -/
def State.debugState (s : State) : Nat :=
  (if s.fuses.debugLocked then 1 else 0) + (if s.sec.debugEnabled then 2 else 0) + (if s.sec.unlockSeen then 4 else 0)

/-- The bytes of a derived value, lowest first. Log entry 12 (DESIGN CHOICE). -/
def bytesOf {n : Nat} (k : BitVec n) : Bytes := toLe (n / 8) k.toNat

/-- The memory key of partition `p` at creation count `n` (R309). -/
def State.memoryKey (s : State) (p n : Nat) : BitVec 512 :=
  (Config.hkdf s.uds "MEM" [p, s.sec.bootNonce.toNat, n, s.debugState]).extractLsb' 0 512

/-- The identity key of partition `p` at creation count `n` (R309). -/
def State.identityKey (s : State) (p n : Nat) : BitVec 576 :=
  Config.hkdf (bytesOf s.sec.cdi) "PART" [p, s.sec.bootNonce.toNat, n]

/-- KEY_ID (R311). -/
def State.keyIdOf (s : State) (p n : Nat) : Nat := s.fuses.activeSlot.getD 0 + 16 * p + 1024 * (n % 2 ^ 22)

/-- The three ASCII bytes "KCV" (R311). -/
def kcv : Bytes := [0x4B, 0x43, 0x56]

/-- KEY_CHECK (R311): bytes 0 to 3 of the HMAC; byte 0 of a digest is its lowest byte. -/
def keyCheckOf (k : BitVec 512) : Nat := (Config.hmac384 (bytesOf k) kcv).toNat % 2 ^ 32

/-- A new partition instance: its keys come from the next creation count (R289, R309, R323). -/
def State.newInstance (s : State) (p : Nat) : State :=
  let n := s.sec.creationCount
  let key := s.memoryKey p n
  let s := s.modPart p fun u =>
    { u with keyCount := n, key := some key, keyId := s.keyIdOf p n, keyCheck := keyCheckOf key
             identity := some (s.identityKey p n), certIssued := false }
  { s with sec := { s.sec with creationCount := n + 1 } }

/-- Zeroise a partition's keys and those of the sessions bound to it (R311, R312, R323). -/
def State.zeroise (s : State) (p : Nat) : State :=
  let s := s.modPart p fun u =>
    { u with key := none, keyId := 0, keyCheck := 0, identity := none, certIssued := false, ideKey := none }
  { s with sec := { s.sec with sessions := s.sec.sessions.filter fun e => e.2.bound != some p } }

/-- A class A alarm (R322): every derived key is zeroised, the block stops, and the retire fuse of the active slot is to
be blown. A second alarm is part of the first (R326). Log entry 28 (DEDUCED). -/
def State.classA (s : State) : State :=
  if s.boot.stopped == .classA then s
  else
    let s := s.emit (.faultReport "CLASS_A" (s.fuses.activeSlot.getD 16))
    { s with
      parts := s.parts.mapV fun _ u =>
        { u with key := none, keyId := 0, keyCheck := 0, identity := none, certIssued := false, ideKey := none }
      sec := { s.sec with capKey := none, cdi := 0, deviceKey := none, aliasKey := none, sessions := [],
                          retiring := s.fuses.activeSlot }
      boot := { s.boot with stopped := .classA } }

end Sys2Proof.Machine
end

