-- ==== Sys2Proof/Machine/Pool.lean ====
section
/-!
DEFINITION. Operations on pool memory's tables: extents and rights (R235 to R239), folios and their version slots
(R240 to R256), folio stores, and graph versions (R119, R120).
-/
namespace Sys2Proof.Machine

open Sys2Proof

/-- Bytes of a granule and of a folio page (R235, R244). -/
abbrev pageBytes : Nat := 2 ^ 21

/-! ### Extents -/

def Extent.covers (e : Extent) (addr : Nat) : Bool := e.base ≤ addr && addr < e.base + e.granules * pageBytes

/-- The extent table entry that holds a pool address. -/
def State.extentAt (s : State) (addr : Nat) : Option (Nat × Extent) :=
  s.extents.find? fun e => e.2.state != .free && e.2.covers addr

/-- Whether partition `p` may use a right of the extent for work admitted now: it holds the right, and no fence of a
revocation takes it away (R239, R259). -/
def Extent.allows (e : Extent) (mask : BitVec 64) (p : Nat) : Bool :=
  mask.getLsbD p && (e.state == .granted || ((e.state == .fenced || e.state == .invalidating) && !e.losing.getLsbD p))

/-- The granules that a range touches. -/
def granulesOf (addr len : Nat) : List Nat :=
  if len == 0 then [] else
    (List.range ((addr + len - 1) / pageBytes - addr / pageBytes + 1)).map (addr / pageBytes + ·)

/-- Whether a range lies wholly in extents in which the partition holds a right (R239). -/
def State.holdsRight (s : State) (p : Nat) (mask : Extent → BitVec 64) (addr len : Nat) : Bool :=
  addr + len ≤ 2 ^ 64 && (granulesOf addr len).all fun g =>
    match s.extentAt (g * pageBytes) with
    | some (_, e) => e.allows (mask e) p
    | none => false

/-- The keys of the extents that a range touches. -/
def State.extentsOf (s : State) (addr len : Nat) : List Nat :=
  ((granulesOf addr len).filterMap fun g => (s.extentAt (g * pageBytes)).map (·.1)).eraseDups

/-! ### Version slots -/

def VSlot.live (v : VSlot) : Bool := v.vstate != .free

/-- The live slot of a version. -/
def Folio.slot? (f : Folio) (v : Nat) : Option VSlot := f.slots.find? fun x => x.live && x.version == v

def Folio.modSlot (f : Folio) (v : Nat) (g : VSlot → VSlot) : Folio :=
  { f with slots := f.slots.map fun x => if x.live && x.version == v then g x else x }

/-- Put `x` into the first free slot under NEXT_VERSION (R243); `none` when all eight are taken. -/
def takeFirst (x : VSlot) : List VSlot → Option (List VSlot)
  | [] => none
  | y :: t => if y.live then (takeFirst x t).map (y :: ·) else some (x :: t)

def Folio.take (f : Folio) (x : VSlot) : Option (Folio × Nat) :=
  (takeFirst { x with version := f.nextVersion } f.slots).map fun l =>
    ({ f with slots := l, nextVersion := f.nextVersion + 1 }, f.nextVersion)

/-- A version's place among the live ones: the version that number 0 names is the current one. -/
def Folio.resolve (f : Folio) (v : Nat) : Option VSlot := f.slot? (if v == 0 then f.current else v)

/-- The folio that a handle names, with its index (R240). -/
def State.namedFolio (s : State) (h : Nat) : Option (Nat × Folio) :=
  let g := folioHandle h
  match s.folios.get? g.index with
  | some f =>
    if f.registered && g.reserved == 0 && f.owner == g.owner && f.generation % 2 ^ 32 == g.generation
    then some (g.index, f) else none
  | none => none

def VState.code : VState → Nat
  | .free => 0 | .draft => 1 | .staging => 2 | .current => 3 | .superseded => 4

/-- Whether a version is CURRENT or SUPERSEDED. -/
def VSlot.published (v : VSlot) : Bool := v.vstate == .current || v.vstate == .superseded

/-- The pages that live versions list, mirrors included (R244, R255). -/
def Folio.listedPages (f : Folio) : List Nat :=
  ((f.slots.filter VSlot.live).map fun v => (v.pages.map fun e => e.2.addr :: e.2.mirror.toList).flatten).flatten

def State.listedPages (s : State) : List Nat := (s.folios.map fun e => e.2.listedPages).flatten

/-- The pages of the folio stores of a partition that no version lists, lowest address first (R238, R244). -/
def State.freePages (s : State) (p : Nat) : List Nat :=
  let listed := s.listedPages
  ((s.extents.filter fun e => e.2.allows e.2.pubMask p).map fun e =>
    (List.range e.2.granules).map fun g => e.2.base + g * pageBytes).flatten.filter fun a => !listed.contains a

/-- Pages reserved by the partition's launches and not yet taken (R252). -/
def State.reservedPages (s : State) (p : Nat) : Nat :=
  ((s.slots.filter fun e => e.partition == p && e.state != .finished).map (·.pagesLeft)).sum

/-- Whether a partition has a folio store. -/
def State.hasStore (s : State) (p : Nat) : Bool := s.extents.any fun e => e.2.allows e.2.pubMask p

/-- Remove the FOLIO copies of a version (R268). -/
def State.dropFolioAtc (s : State) (i v : Nat) : State :=
  { s with atc := s.atc.filter fun e => !(e.2.folio && e.2.tagA == i && e.2.version == v) }

/-- Remove quarantine entries whose page no live version lists (R395). -/
def State.sweepQuarantine (s : State) : State :=
  let listed := s.listedPages
  { s with errs := { s.errs with quarantine := s.errs.quarantine.filter fun x => listed.contains x.page } }

/-- Whether a slot is to be freed: superseded and neither opened nor bound (R243), or a discarded draft that no launch
writes any more (R257). -/
def VSlot.idle (v : VSlot) : Bool :=
  v.bound == 0 && ((v.vstate == .superseded && v.opens == 0) || (v.live && v.discardAfter))

/-- An unregistered folio's entry takes a new GENERATION when its last version is freed (R260). -/
def Folio.settle (f : Folio) : Folio :=
  if !f.registered && f.length != 0 && !f.slots.any VSlot.live then
    { owner := f.owner, generation := f.generation + 1 }
  else f

/-- After unregistration every published version counts as formerly current (R260). -/
def VSlot.retire (v : VSlot) : VSlot := if v.vstate == .current then { v with vstate := .superseded } else v

/-- Free the version slots of a folio that R243 and R260 free. -/
def State.sweepFolio (s : State) (i : Nat) : State :=
  match s.folios.get? i with
  | none => s
  | some f =>
    let slots := if f.registered then f.slots else f.slots.map VSlot.retire
    let gone := (slots.filter VSlot.idle).map (·.version)
    let f := { f with slots := slots.map fun v => if VSlot.idle v then {} else v }
    let s := { s with folios := s.folios.put i f.settle }
    (gone.foldl (fun (s : State) v => s.dropFolioAtc i v) s).sweepQuarantine

/-- Discard a draft or staging version (R243, R254). -/
def State.discardVersion (s : State) (i v : Nat) : State :=
  let s := s.modFolio i fun f => { f with slots := f.slots.map fun x => if x.live && x.version == v then {} else x }
  let s := (s.dropFolioAtc i v).sweepFolio i
  { s with ctxs := s.ctxs.mapV fun _ c =>
      { c with holds := c.holds.filter fun h => !(h.draft && h.folio == i && h.version == v) } }

/-- Discard a draft: at once, or when the last launch that writes it finishes (R109, R243, R257). -/
def State.discardDraft (s : State) (i v : Nat) : State :=
  let busy : Bool := ((s.folios.get? i).bind fun f => f.slot? v).any fun x => x.bound != 0
  if busy then
    let s := s.modFolio i fun f => f.modSlot v fun x => { x with discardAfter := true }
    { s with ctxs := s.ctxs.mapV fun _ c =>
        { c with holds := c.holds.filter fun h => !(h.draft && h.folio == i && h.version == v) } }
  else s.discardVersion i v

/-- Close `n` opens of a version, or all of them, on behalf of context `k` (R247). -/
def State.closeOpens (s : State) (k i v n : Nat) : State :=
  let held := match s.ctxs.get? k with
    | some c => ((c.holds.find? fun h => h.folio == i && h.version == v && !h.draft).map (·.opens)).getD 0
    | none => 0
  let gone := min n held
  let s := s.modCtx k fun c =>
    let less := c.holds.map fun h =>
      if h.folio == i && h.version == v && !h.draft then { h with opens := h.opens - gone } else h
    { c with holds := less.filter fun h => h.draft || h.opens != 0 }
  (s.modFolio i fun f => f.modSlot v fun x => { x with opens := x.opens - gone }).sweepFolio i

/-- Close every open and discard every draft of a context that satisfies a test (R247, R257). -/
def State.closeHolds (s : State) (k : Nat) (t : FolioHold → Bool) : State :=
  match s.ctxs.get? k with
  | none => s
  | some c =>
    (c.holds.filter t).foldl (fun s h =>
      if h.draft then s.discardDraft h.folio h.version else s.closeOpens k h.folio h.version h.opens) s

/-- Change BOUND of a version (R242) and free it when nothing holds it. -/
def State.unbindFolio (s : State) (i v : Nat) : State :=
  (s.modFolio i fun f => f.modSlot v fun x => { x with bound := x.bound - 1 }).sweepFolio i

def State.bindFolio (s : State) (i v : Nat) : State :=
  s.modFolio i fun f => f.modSlot v fun x => { x with bound := x.bound + 1 }

/-! ### Graph versions -/

/-- The current version of the graph that a handle names for partition `p` (R119). -/
def State.namedGraph (s : State) (h p : Nat) : Option (Nat × GraphVersion) :=
  let g := graphHandle h
  match s.graphs.get? g.index with
  | some e =>
    if e.registered && g.reserved == 0 && g.owner == e.owner && e.owner == p && e.generation % 2 ^ 32 == g.generation
    then (e.versions.find? fun v => v.number == e.current && !v.revoked).map fun v => (g.index, v)
    else none
  | none => none

/-- Release the versions that are neither current nor bound; an unregistered entry whose last version goes takes a
new GENERATION (R120). -/
def Graph.release (g : Graph) : Graph :=
  let vs := g.versions.filter fun v => (g.registered && v.number == g.current) || v.bound != 0
  if !g.registered && !g.versions.isEmpty && vs.isEmpty then
    { owner := g.owner, generation := g.generation + 1 }
  else { g with versions := vs }

def Graph.bind (g : Graph) (n : Nat) (up : Bool) : Graph :=
  { g with versions := g.versions.map fun v =>
      if v.number == n then { v with bound := if up then v.bound + 1 else v.bound - 1 } else v }

def State.bindGraph (s : State) (i n : Nat) : State := s.modGraph i fun g => g.bind n true
def State.unbindGraph (s : State) (i n : Nat) : State := s.modGraph i fun g => (g.bind n false).release

end Sys2Proof.Machine
end

