-- ==== Sys2Proof/Machine/WordCode.lean ====
section
/-!
DEFINITION. The word code RS(36,32) over GF(2^8) (R370 to R375): encoding, syndromes, the four outcomes of a read,
correction and the poison pattern.
-/
namespace Sys2Proof.Machine

open Sys2Proof

/-- Multiplication by x in GF(2^8) with the polynomial 0x11D (R370). -/
def gfDouble (a : BitVec 8) : BitVec 8 := if a.msb then (a <<< 1) ^^^ 0x1D#8 else a <<< 1

/-- Product in GF(2^8): the sum of the doublings of `a` at the set bits of `b`, lowest first. -/
def gfMulAux : Nat → BitVec 8 → BitVec 8 → BitVec 8
  | 0, _, _ => 0
  | n + 1, a, b => (if b.getLsbD 0 then a else 0) ^^^ gfMulAux n (gfDouble a) (b >>> 1)

def gfMul (a b : BitVec 8) : BitVec 8 := gfMulAux 8 a b

/-- α^j. -/
def gfPow : Nat → BitVec 8
  | 0 => 1
  | j + 1 => gfDouble (gfPow j)

/-- Symbol j of a code word: check symbols are symbols 0 to 3, data byte i is symbol 4 + i (R370, R371). -/
def symbolAt (w : BitVec 288) (j : Nat) : BitVec 8 :=
  if j < 4 then w.extractLsb' (256 + 8 * j) 8 else w.extractLsb' (8 * (j - 4)) 8

/-- S_k = c(α^k) (R372), by Horner's rule from symbol 35 down. -/
def syndromeAux (w : BitVec 288) (x : BitVec 8) : Nat → BitVec 8 → BitVec 8
  | 0, acc => acc
  | j + 1, acc => syndromeAux w x j (gfMul acc x ^^^ symbolAt w j)

def syndrome (w : BitVec 288) (k : Nat) : BitVec 8 := syndromeAux w (gfPow k) 36 0

/-- One step of the division by g(x) = x^4 + 0x0F x^3 + 0x36 x^2 + 0x78 x + 0x40: the remainder r3..r0 takes in
one data byte. -/
def divStep (r : BitVec 8 × BitVec 8 × BitVec 8 × BitVec 8) (d : BitVec 8) :
    BitVec 8 × BitVec 8 × BitVec 8 × BitVec 8 :=
  let f := r.1 ^^^ d
  (r.2.1 ^^^ gfMul f 0x0F, r.2.2.1 ^^^ gfMul f 0x36, r.2.2.2 ^^^ gfMul f 0x78, gfMul f 0x40)

/-- The check symbols c_3, c_2, c_1, c_0 of 32 data bytes (R370). -/
def checkSymbols (d : BitVec 256) : BitVec 8 × BitVec 8 × BitVec 8 × BitVec 8 :=
  ((List.range 32).map fun i => d.extractLsb' (8 * (31 - i)) 8).foldl divStep (0, 0, 0, 0)

/-- The code word of 32 data bytes (R371): CHECK in bits [287:256], c_0 lowest. -/
def encodeWord (d : BitVec 256) : BitVec 288 :=
  let c := checkSymbols d
  ((c.1 ++ c.2.1 ++ c.2.2.1 ++ c.2.2.2 : BitVec 32) ++ d).cast (by decide)

/-- The data of a code word. -/
def dataOf (w : BitVec 288) : BitVec 256 := w.extractLsb' 0 256

/-- The poison pattern of a word: its correct check symbols, every bit of CHECK inverted (R374). -/
def poisonWord (d : BitVec 256) : BitVec 288 := encodeWord d ^^^ ((BitVec.allOnes 32 ++ (0 : BitVec 256)).cast (by decide))

/-- The syndromes S_0 to S_3 in one 32-bit number, S_0 lowest (R383). -/
def syndromes (w : BitVec 288) : BitVec 32 :=
  syndrome w 3 ++ syndrome w 2 ++ syndrome w 1 ++ syndrome w 0

/-- The syndromes of every poisoned word (R374). -/
def poisonSyndromes : BitVec 32 := syndromes (poisonWord 0)

/-- Outcomes of a read (R372). -/
inductive WordOutcome where
  | clean
  | poison
  | correctable (symbol : Nat)
  | uncorrectable
deriving DecidableEq, Repr

/-- The symbol j for which S_1 = S_0 α^j, S_2 = S_1 α^j and S_3 = S_2 α^j. -/
def errorSymbol (w : BitVec 288) : Option Nat :=
  (List.range 36).find? fun j =>
    syndrome w 0 != 0 && syndrome w 1 == gfMul (syndrome w 0) (gfPow j)
      && syndrome w 2 == gfMul (syndrome w 1) (gfPow j) && syndrome w 3 == gfMul (syndrome w 2) (gfPow j)

/-- What a reader finds in a word (R372). -/
def readWord (w : BitVec 288) : WordOutcome :=
  if syndromes w = 0 then .clean
  else if syndromes w = poisonSyndromes then .poison
  else match errorSymbol w with
    | some j => .correctable j
    | none => .uncorrectable

/-- The word with symbol j corrected by adding S_0 (R372). -/
def correctWord (w : BitVec 288) (j : Nat) : BitVec 288 :=
  w ^^^ ((syndrome w 0).zeroExtend 288 <<< (if j < 4 then 256 + 8 * j else 8 * (j - 4)))

/-- The word as it is delivered: corrected, or the poison pattern for poison and for an uncorrectable word. -/
def deliverWord (w : BitVec 288) : BitVec 288 :=
  match readWord w with
  | .clean => w
  | .poison => poisonWord (dataOf w)
  | .correctable j => correctWord w j
  | .uncorrectable => poisonWord (dataOf w)

/-- Whether a delivered word is poison. -/
def isPoison (w : BitVec 288) : Bool := readWord w == .poison

/-- The bytes of a word's data, lowest first, and back. -/
def wordBytes (w : BitVec 288) : Bytes := (List.range 32).map fun i => w.extractLsb' (8 * i) 8

def dataOfBytes (b : Bytes) : BitVec 256 := BitVec.ofNat 256 (b.foldr (fun x acc => x.toNat + 256 * acc) 0)

end Sys2Proof.Machine
end

