-- ==== Sys2Proof/Machine/Memory.lean ====
section
/-!
DEFINITION. The memory side of a cluster: memory requests with their ports, tags and regulators (R70, R90 to R93), the
cluster cache (R72 to R80), words on the ports (R289, R449), and what reading an uncorrectable word does (R375, R394).
-/
namespace Sys2Proof.Machine

open Sys2Proof

/-! ### Requests, ports and regulators -/

/-- The lines that a range touches. -/
def linesOf (addr bytes : Nat) : List Nat :=
  if bytes == 0 then [] else (List.range ((addr + bytes - 1) / 64 - addr / 64 + 1)).map (addr / 64 + ·)

/-- The port of a cluster's request (R70). -/
def portFor (cluster addr : Nat) : Nat := 2 * cluster + bitsAt addr 8 1

def MemReq.portNo (r : MemReq) : Nat := portFor r.cluster r.address

/-- Code words of a request: whole lines, except for a single word that is stored as poison. -/
def MemReq.nWords (r : MemReq) : Nat := if r.bytes == 32 && r.write then 1 else 2 * (linesOf r.address r.bytes).length

/-- Bytes that a request moves between port and memory. -/
def MemReq.moved (r : MemReq) : Nat := 32 * r.nWords

def State.addReq (s : State) (r : MemReq) : State := { s with reqs := s.reqs.put s.reqNo r, reqNo := s.reqNo + 1 }

def State.setReq (s : State) (id : Nat) (r : MemReq) : State := { s with reqs := s.reqs.put id r }

def State.dropReq (s : State) (id : Nat) : State := { s with reqs := s.reqs.del id }

/-- The lowest free tag of a port (R70). -/
def State.freeTag (s : State) (port : Nat) : Option Nat :=
  let used := s.reqs.filterMap fun e =>
    match e.2.place with
    | .port n t => if n == port then some t else none
    | _ => none
  (List.range 4096).find? fun t => !used.contains t

/-- The request that holds a tag of a port. -/
def State.reqAt (s : State) (port tag : Nat) : Option (Nat × MemReq) :=
  s.reqs.find? fun e => e.2.place == .port port tag

/-- Key of a regulator of a port and a tier. -/
def regKey (port : Nat) (near : Bool) : Nat := 2 * port + (if near then 0 else 1)

/-- A tier's rate of one port, in bytes per ns (R71). -/
def tierRate (near : Bool) : Nat := if near then 500 else 125

/-- The ceiling in effect is never below the share in effect (R93). -/
def Regulator.ceilingNow (g : Regulator) : Nat := max g.ceiling g.share

/-- Bytes that a regulator may issue without tokens in one frame (R91). -/
def Regulator.excessLimit (g : Regulator) (near : Bool) : Nat := g.ceilingNow * tierRate near * 8192 / 65536

def State.regOf (s : State) (p port : Nat) (near : Bool) : Regulator := (s.part p).regs.getD (regKey port near) {}

/-- Whether some other partition with tokens waits for the same port and tier (R91). -/
def State.claimed (s : State) (p port : Nat) (near : Bool) : Bool :=
  s.reqs.any fun e => e.2.place == .missQueue && !e.2.guest && e.2.partition != p && e.2.portNo == port
    && e.2.near == near && e.2.moved ≤ (s.regOf e.2.partition port near).tokens

/-- Charge a request to its partition (R91): with tokens it issues at once; without, only from capacity that nobody with
tokens claims, and below CEILING. Background traffic is not charged. -/
def State.charge (s : State) (r : MemReq) : Option State :=
  let port := r.portNo
  let k := regKey port r.near
  let g := s.regOf r.partition port r.near
  let count (t : PTel) : PTel :=
    if r.near then { t with near := satAdd 64 t.near r.moved } else { t with cap := satAdd 64 t.cap r.moved }
  let put (g : Regulator) : State :=
    s.modPart r.partition fun p => { p with regs := p.regs.put k g, tel := count p.tel }
  if 64 ≤ r.partition then some s
  else if r.moved ≤ g.tokens then some (put { g with tokens := g.tokens - r.moved })
  else if !s.claimed r.partition port r.near && g.excess + r.moved ≤ g.excessLimit r.near then
    some (put { g with excess := g.excess + r.moved })
  else none

/-- The memory key of a pool address (R289). -/
def State.keyAt (s : State) (addr : Nat) : Option (BitVec 512) :=
  (s.extentAt addr).bind fun e => (s.part e.2.keyPartition).key

/-- The two words of a line encrypted for the port; a poisoned word is written as poison (R449).
Log entry 12 (DESIGN CHOICE). -/
def encryptPair (key : Option (BitVec 512)) (addr : Nat) (w0 w1 : BitVec 288) : List (BitVec 288) :=
  let plain : BitVec 512 := dataOf w1 ++ dataOf w0
  let c := match key with
    | some k => Config.xtsEncrypt k addr plain
    | none => plain
  let half (w : BitVec 288) (i : Nat) : BitVec 288 :=
    let d := c.extractLsb' (256 * i) 256
    if isPoison w then poisonWord d else encodeWord d
  [half w0 0, half w1 1]

/-- The words of consecutive lines from address `addr`; an odd last word is a poison pattern and goes as it is. -/
def encryptWords (key : Option (BitVec 512)) (addr : Nat) : List (BitVec 288) → List (BitVec 288)
  | w0 :: w1 :: t => encryptPair key addr w0 w1 ++ encryptWords key (addr + 64) t
  | l => l

/-- Whether a delivered word carries data that can be decrypted (R449). -/
def hasData (w : BitVec 288) : Bool :=
  match readWord w with
  | .clean => true
  | .correctable _ => true
  | _ => false

/-- Two delivered words decrypted; a poisoned word is not decrypted (R449). Log entry 12 (DESIGN CHOICE). -/
def decryptPair (key : Option (BitVec 512)) (addr : Nat) (w0 w1 : BitVec 288) : List (BitVec 288) :=
  let coded : BitVec 512 := dataOf w1 ++ dataOf w0
  let d := match key with
    | some k => Config.xtsDecrypt k addr coded
    | none => coded
  let half (w : BitVec 288) (i : Nat) : BitVec 288 := if hasData w then encodeWord (d.extractLsb' (256 * i) 256) else w
  [half w0 0, half w1 1]

def decryptWords (key : Option (BitVec 512)) (addr : Nat) : List (BitVec 288) → List (BitVec 288)
  | w0 :: w1 :: t => decryptPair key addr w0 w1 ++ decryptWords key (addr + 64) t
  | l => l

/-- Put a request on its port with a tag. -/
def State.sendReq (s : State) (id : Nat) (r : MemReq) (tag : Nat) : State :=
  let port := r.portNo
  let s := s.setReq id { r with place := .port port tag }
  let s := s.emit (.mem port tag r.address r.nWords r.write)
  if r.write then s.emit (.memWords port tag (encryptWords (s.keyAt r.address) (r.address / 64 * 64) r.words)) else s

/-- Issue a waiting request when a tag is free and its regulator lets it (R70, R91). -/
def State.tryIssue (s : State) (id : Nat) : State :=
  match s.reqs.get? id with
  | some r =>
    if r.place == .missQueue && !r.guest then
      match s.freeTag r.portNo, s.charge r with
      | some tag, some s => s.sendReq id r tag
      | _, _ => s
    else s
  | none => s

/-- Try every request that waits for a port, oldest first. -/
def State.pumpPort (s : State) (port : Nat) : State :=
  ((s.reqs.filter fun e => e.2.place == .missQueue && !e.2.guest && e.2.portNo == port).map (·.1)).foldl
    State.tryIssue s

/-- A pool request enters the miss queue and issues when it can. Which tier serves it is the extent manager's decision
(R235): a free value. Log entry 23 (DESIGN CHOICE). -/
def State.issuePool (s : State) (id : Nat) (r : MemReq) : State :=
  (s.setReq id { r with place := .missQueue, near := Config.freeBits 1 s.free % 2 == 1 }).draw.tryIssue id

/-- Write words back to the pool on behalf of partition `p`. -/
def State.writeBack (s : State) (p cluster addr bytes : Nat) (words : List (BitVec 288)) : State :=
  let r : MemReq := { who := .writeBack, partition := p, cluster := cluster, address := addr, bytes := bytes, write := true,
                      words := words, place := .missQueue }
  (s.addReq r).issuePool s.reqNo r

/-! ### The cluster cache -/

def setOf (line : Nat) : Nat := line % 16384

/-- The line of a partition, wherever its home is (R74). -/
def State.line? (s : State) (p line : Nat) : Option Line := s.lines.find? fun l => l.partition == p && l.line == line

def State.modLine (s : State) (p line : Nat) (f : Line → Line) : State :=
  { s with lines := s.lines.map fun l => if l.partition == p && l.line == line then f l else l }

/-- Write a line back when it is dirty. -/
def State.flushLine (s : State) (l : Line) : State :=
  if l.dirty then s.writeBack l.partition l.cluster (64 * l.line) 64 l.words else s

/-- Remove the lines that satisfy a test, writing back the dirty ones first when `flush`. -/
def State.dropLines (s : State) (flush : Bool) (t : Line → Bool) : State :=
  let s := if flush then (s.lines.filter t).foldl State.flushLine s else s
  { s with lines := s.lines.filter fun l => !t l }

/-- Victim class of R77; invalid ways come before every class. -/
def Line.victimClass (l : Line) : Nat :=
  match l.keep, l.dirty with
  | false, false => 0
  | false, true => 1
  | true, false => 2
  | true, true => 3

/-- The better victim of two: lower class, then least recently used. -/
def betterVictim : Option Line → Line → Option Line
  | none, b => some b
  | some a, b =>
    if b.victimClass < a.victimClass || (b.victimClass == a.victimClass && b.lastUse < a.lastUse) then some b else some a

/-- The partition's lines in a set of a cluster. -/
def State.setLines (s : State) (p c set : Nat) : List Line :=
  s.lines.filter fun l => l.cluster == c && l.partition == p && setOf l.line == set

/-- The way that a new line takes: a free way of the partition, or the victim's after its write-back (R77). -/
def State.takeWay (s : State) (p c set : Nat) : Option (State × Nat) :=
  let w := (s.part p).waysIn c
  let mine := s.setLines p c set
  match ((List.range w.ways).map (w.first + ·)).find? fun i => !mine.any fun l => l.way == i with
  | some i => some (s, i)
  | none =>
    match mine.foldl betterVictim none with
    | some v => some ((s.flushLine v).dropLines false fun l => l.partition == p && l.line == v.line, v.way)
    | none => none

/-- The least recently used KEEP line of a set, other than `line`. -/
def State.oldestKeep (s : State) (p c set line : Nat) : Option Line :=
  ((s.setLines p c set).filter fun l => l.keep && l.line != line).foldl
    (fun acc l => match acc with | none => some l | some a => if l.lastUse < a.lastUse then some l else some a) none

/-- Make a line KEEP under the limit of R78. -/
def State.keepLine (s : State) (p line : Nat) : State :=
  match s.line? p line with
  | none => s
  | some l =>
    let w := ((s.part p).waysIn l.cluster).ways
    if w ≤ 1 || l.keep then s
    else
      let kept := ((s.setLines p l.cluster (setOf line)).filter (·.keep)).length
      let s := if kept + 1 ≤ w / 2 then s
        else match s.oldestKeep p l.cluster (setOf line) line with
          | some o => s.modLine p o.line fun x => { x with keep := false }
          | none => s
      s.modLine p line fun x => { x with keep := true, useCount := none }

/-- The effect of an access hint on a line that is present (R76, R80). -/
def State.hintLine (s : State) (p line : Nat) (h : Hint) : State :=
  let s := s.modLine p line fun l => { l with lastUse := s.reqNo }
  match h with
  | .normal => s
  | .stream => s
  | .keep => s.keepLine p line
  | .discard n => s.modLine p line fun l => { l with keep := false, useCount := some n }

/-- Put a line into the cluster's ways under a hint (R76 to R78); without ways it is not kept. -/
def State.allocLine (s : State) (p c line : Nat) (words : List (BitVec 288)) (dirty keep : Bool) (h : Hint) : State :=
  match s.takeWay p c (setOf line) with
  | none => if dirty then s.writeBack p c (64 * line) 64 words else s
  | some (s, way) =>
    let l : Line := { cluster := c, way := way, partition := p, line := line, words := words, dirty := dirty,
                      lastUse := s.reqNo }
    let s := { s with lines := s.lines ++ [l] }
    let s := s.hintLine p line h
    if keep && h == .normal then s.keepLine p line else s

/-- Count line hits and misses (R425). -/
def State.countLines (s : State) (p hits misses : Nat) : State :=
  s.modPart p fun u => { u with tel := { u.tel with hits := u.tel.hits + hits, misses := u.tel.misses + misses } }

/-- The first poisoned word among the words that begin at `addr` and hold one of the `n` bytes from `a` on (R376).
Log entry 33 (DESIGN CHOICE). -/
def firstPoison (a n addr : Nat) (words : List (BitVec 288)) : Option Nat :=
  (words.zipIdx.find? fun x => isPoison x.1 && addr + 32 * x.2 < a + n && a < addr + 32 * x.2 + 32).map fun x => addr + 32 * x.2

/-- The first poisoned word of the cached lines of a range of pool memory. -/
def State.cachedPoison (s : State) (p a n : Nat) : Option Nat :=
  (linesOf a n).findSome? fun k => (s.line? p k).bind fun l => firstPoison a n (64 * k) l.words

/-- A line that another partition holds dirty gives this partition a copy of its committed content (R75).
Log entry 53 (DESIGN CHOICE). -/
def State.shareDirty (s : State) (p c line : Nat) : State :=
  if (s.line? p line).isSome then s
  else
    match s.lines.find? fun l => l.line == line && l.dirty with
    | some l => s.allocLine p c line l.words false false .normal
    | none => s

/-- A read of pool memory for a partition: served by its cached lines, or issued to the port (R74). -/
def State.readPool (s : State) (id : Nat) (r : MemReq) : State :=
  let ls := linesOf r.address r.bytes
  let s := ls.foldl (fun s n => s.shareDirty r.partition r.cluster n) s
  if ls.all fun n => (s.line? r.partition n).isSome then
    let poison := s.cachedPoison r.partition r.address r.bytes
    let s := s.countLines r.partition ls.length 0
    let s := ls.foldl (fun s n => s.hintLine r.partition n r.hint) s
    s.setReq id { r with place := .ready, poison := poison.isSome, poisonAt := poison.getD 0 }
  else
    (s.countLines r.partition 0 ls.length).issuePool id
      { r with address := r.address / 64 * 64, bytes := 64 * ls.length, needAt := r.address, needBytes := r.bytes }

/-! ### What a read from a tier finds -/

/-- The folio pages that quarantine entry lists, with the word added (R395). Log entry 66 (DEDUCED). -/
def Quarantine.addWord (x : Quarantine) (w : Nat) : Quarantine :=
  if x.whole || x.words.contains w then x
  else if x.words.length ≥ 8 then { x with whole := true }
  else { x with words := x.words ++ [w] }

/-- Put a word of a folio page into the quarantine table; false when the table is full (R395). Log entry 66 (DEDUCED). -/
def Errors.quarantineWord (e : Errors) (folio page word : Nat) : Errors × Bool :=
  if e.quarantine.any fun x => x.page == page then
    ({ e with quarantine := e.quarantine.map fun x => if x.page == page then x.addWord word else x }, true)
  else if e.quarantine.length ≥ 1024 then (e, false)
  else ({ e with quarantine := e.quarantine ++ [{ folio := folio, page := page, words := [word], whole := false }] }, true)

/-- QUARANTINED on every live version of a folio that lists a page (R394). Log entry 66 (DEDUCED). -/
def Folio.quarantine (f : Folio) (page : Nat) (entered : Bool) : Folio :=
  { f with slots := f.slots.map fun v =>
      if v.live && v.pages.any fun e => e.2.addr == page then
        { v with quarantined := true, repairBlocked := v.repairBlocked || !entered }
      else v }

/-- The folio that lists the page of a pool address, with the page's address. -/
def State.folioAt (s : State) (addr : Nat) : Option (Nat × Nat) :=
  let page := addr / pageBytes * pageBytes
  (s.folios.find? fun e => e.2.slots.any fun v => v.live && v.pages.any fun x => x.2.addr == page).map fun e => (e.1, page)

/-- A word of a folio page is uncorrectable and no mirror serves it (R394). Log entry 66 (DEDUCED). -/
def State.quarantineAt (s : State) (addr : Nat) : State :=
  match s.folioAt addr with
  | none => s
  | some (i, page) =>
    let (errs, entered) := s.errs.quarantineWord i page ((addr - page) / 32)
    { s with errs := errs }.modFolio i fun f => f.quarantine page entered

/-- An error record of a cluster for a pool word. -/
def clusterRecord (c error action addr : Nat) (syn : BitVec 32) : ErrRecord :=
  { error := error, action := action, level := 1, domain := c, address := addr, syndrome := syn.toNat }

/-- A read from a tier finds an uncorrectable word that no mirror serves: poison is stored in the pool, the records are
written, and a folio page is quarantined (R375, R394). `raw` is the word as it stands. Log entry 20 (DEDUCED). -/
def State.storePoison (s : State) (p c addr : Nat) (raw : BitVec 288) (syn : BitVec 32) : State :=
  let s := s.logError (errOfCluster c) { clusterRecord c 2 3 addr syn with partition := p }
  let s := s.logError (errOfCluster c) { clusterRecord c 4 3 addr syn with partition := p }
  (s.writeBack p c addr 32 [poisonWord (dataOf raw)]).quarantineAt addr

/-- The mirror page of a folio page's address, when one is usable (R255, R393). -/
def State.mirrorAt (s : State) (addr : Nat) : Option Nat :=
  let page := addr / pageBytes * pageBytes
  s.folios.findSome? fun e => e.2.slots.findSome? fun v =>
    if v.live && v.mirror == 2 then
      (v.pages.find? fun x => x.2.addr == page).bind fun x => x.2.mirror.map fun m => m + (addr - page)
    else none

end Sys2Proof.Machine
end

