-- ==== Sys2Proof/Machine/Lines.lean ====
section
/-!
DEFINITION. Writing committed bytes into lines (R75, R76, R85), for tiles and for inbound writes (R280).
-/
namespace Sys2Proof.Machine

open Sys2Proof

/-! ### Committed lines -/

/-- The bytes that a tile writes into one line: for each of its 64 bytes the last one staged. -/
def lineBytes (ps : List (Nat × Nat × Bytes × Hint)) (line : Nat) : List (Option Byte) :=
  let mine := ps.filter fun x => x.1 == line
  (List.range 64).map fun b => mine.foldl (fun acc x =>
    match x.2.2.1[b - x.2.1]? with
    | some v => if x.2.1 ≤ b then some v else acc
    | none => acc) none

/-- A word with the staged bytes merged in (R85): a word written whole is clean, a poisoned word written in part stays
poisoned (R375). The Bool says that poison was kept. -/
def mergeWord (w : BitVec 288) (bs : List (Option Byte)) : BitVec 288 × Bool :=
  if bs.all Option.isNone then (w, false)
  else if isPoison w && bs.any Option.isNone then (w, true)
  else (encodeWord (dataOfBytes ((bs.zip (wordBytes w)).map fun x => x.1.getD x.2)), false)

/-- Make committed words of a line visible, with the committing cluster as home (R75); STREAM lines are written to memory
and not kept (R76). -/
def State.commitLine (s : State) (p c line : Nat) (words : List (BitVec 288)) (h : Hint) : State :=
  let old := s.line? p line
  let s := { s with lines := s.lines.filter fun l => l.line != line }
  if h == .stream then s.writeBack p c (64 * line) 64 words
  else match old with
    | some l =>
      if l.cluster == c then
        { s with lines := s.lines ++ [{ l with words := words, dirty := true }] }.hintLine p line h
      else s.allocLine p c line words true false h
    | none => s.allocLine p c line words true false h

/-- Commit one line of a tile's staged bytes. -/
def State.commitStaged (s : State) (p c : Nat) (ps : List (Nat × Nat × Bytes × Hint)) (line : Nat) : State :=
  let bs := lineBytes ps line
  let words := ((s.line? p line).map (·.words)).getD [encodeWord 0, encodeWord 0]
  let a := mergeWord (words.getD 0 0) (bs.take 32)
  let b := mergeWord (words.getD 1 0) (bs.drop 32)
  let hint := ((ps.filter fun x => x.1 == line).getLast?.map fun x => x.2.2.2).getD .normal
  let s := if a.2 || b.2 then s.logError (errOfCluster c) { clusterRecord c 4 3 (64 * line) 0 with partition := p } else s
  s.commitLine p c line [a.1, b.1] hint

/-! ### Inbound writes -/

/-- The cluster that an inbound write of a partition goes through: the first in which it has ways. -/
def State.entryCluster (s : State) (p : Nat) : Nat :=
  ((List.range s.nClusters).find? fun c => ((s.part p).waysIn c).ways != 0).getD 0

/-- The pieces of a pool write, per line. -/
def linePieces (addr : Nat) (data : Bytes) : List (Nat × Nat × Bytes × Hint) :=
  (linesOf addr data.length).map fun l =>
    let lo := max addr (64 * l)
    let hi := min (addr + data.length) (64 * (l + 1))
    (l, lo - 64 * l, (data.drop (lo - addr)).take (hi - lo), .normal)

/-- Lines of a merge that are written in part and not held. -/
def State.mergeMissing (s : State) (m : Merge) : List Nat :=
  ((linePieces m.address m.data).filter fun x => x.2.2.1.length != 64 && (s.line? m.partition x.1).isNone).map (·.1)

/-- Apply an inbound write as a commit of its bytes, and acknowledge it. Log entry 52 (DEDUCED). -/
def State.applyMerge (s : State) (m : Merge) : State :=
  let ps := linePieces m.address m.data
  (((ps.map (·.1)).foldl (fun s l => s.commitStaged m.partition m.cluster ps l) s)).emit (.inboundAnswer m.endpoint 0)

/-- Ask for the rest of the lines of an inbound write. -/
def State.fillMerge (s : State) (m : Merge) : State :=
  (s.mergeMissing m).foldl (fun s l =>
    let s := s.shareDirty m.partition m.cluster l
    if (s.line? m.partition l).isSome then s
    else
      let r : MemReq := { who := .adder, partition := m.partition, cluster := m.cluster, address := 64 * l, bytes := 64,
                          place := .missQueue }
      (s.addReq r).issuePool s.reqNo r) s

/-- Apply every inbound write whose lines are there. -/
def State.applyMerges (s : State) : State :=
  let now := s.merges.filter fun m => (s.mergeMissing m).isEmpty
  now.foldl State.applyMerge { s with merges := s.merges.filter fun m => !(s.mergeMissing m).isEmpty }

end Sys2Proof.Machine
end

