-- ==== Sys2Proof/Machine/Float.lean ====
section
/-!
DEFINITION. The narrow arithmetic (R33 to R49, R87): exact values of the operand formats, rounding to them, engine
block results, the conversion to the MX formats, the vector unit, the Hamming unit and the adders' operations.
-/
namespace Sys2Proof.Machine

open Sys2Proof

/-- An exact value: a NaN, an infinity, or ± m × 2^e; the Bool is the sign, true for minus. -/
inductive Fv where
  | nan
  | inf (neg : Bool)
  | fin (neg : Bool) (m : Nat) (e : Int)
deriving DecidableEq, Repr

namespace Fv

def isNan : Fv → Bool
  | .nan => true
  | _ => false

def isZero : Fv → Bool
  | .fin _ m _ => m == 0
  | _ => false

def neg : Fv → Fv
  | .nan => .nan
  | .inf s => .inf (!s)
  | .fin s m e => .fin (!s) m e

def abs : Fv → Fv
  | .nan => .nan
  | .inf _ => .inf false
  | .fin _ m e => .fin false m e

/-- The product, with R43's special values. -/
def mul : Fv → Fv → Fv
  | .nan, _ => .nan
  | _, .nan => .nan
  | .inf s, .inf t => .inf (s != t)
  | .inf s, .fin t m _ => if m == 0 then .nan else .inf (s != t)
  | .fin t m _, .inf s => if m == 0 then .nan else .inf (s != t)
  | .fin s m e, .fin t n f => .fin (s != t) (m * n) (e + f)

/-- A finite value as a multiple of 2^e, for e at most its exponent. -/
def scaled (s : Bool) (m : Nat) (f e : Int) : Int :=
  let v : Int := m * 2 ^ (f - e).toNat
  if s then -v else v

/-- The exact sum, with R43's special values and the sign of an exact zero. -/
def add : Fv → Fv → Fv
  | .nan, _ => .nan
  | _, .nan => .nan
  | .inf s, .inf t => if s == t then .inf s else .nan
  | .inf s, .fin _ _ _ => .inf s
  | .fin _ _ _, .inf s => .inf s
  | .fin s m e, .fin t n f =>
    let g := min e f
    let v := scaled s m e g + scaled t n f g
    if v == 0 then .fin (m == 0 && n == 0 && s && t) 0 g else .fin (v < 0) v.natAbs g

/-- Whether a < b for numbers; false with a NaN. Zeros of both signs are equal. -/
def lt (a b : Fv) : Bool :=
  match a, b with
  | .nan, _ => false
  | _, .nan => false
  | .inf s, .inf t => s && !t
  | .inf s, .fin _ _ _ => s
  | .fin _ _ _, .inf t => !t
  | .fin s m e, .fin t n f => let g := min e f; scaled s m e g < scaled t n f g

/-- Whether two numbers are equal, +0 equal to -0; false with a NaN. -/
def eqv (a b : Fv) : Bool := !a.isNan && !b.isNan && !lt a b && !lt b a

end Fv

/-! ### Decoding (R34 to R38) -/

/-- The value of a floating code of `eb` exponent and `fb` fraction bits, special codes apart. -/
def decodeFinite (eb fb bias code : Nat) : Fv :=
  let f := bitsAt code 0 fb
  let e := bitsAt code fb eb
  let s := bitAt code (fb + eb)
  if e == 0 then .fin s f (1 - (bias : Int) - fb) else .fin s (2 ^ fb + f) ((e : Int) - bias - fb)

/-- An IEEE-like code with infinities and NaNs in the top exponent. -/
def decodeIeee (eb fb bias code : Nat) : Fv :=
  if bitsAt code fb eb == 2 ^ eb - 1 then (if bitsAt code 0 fb == 0 then .inf (bitAt code (fb + eb)) else .nan)
  else decodeFinite eb fb bias code

def decode32 (w : BitVec 32) : Fv := decodeIeee 8 23 127 w.toNat

/-- A two's-complement element of `n` bits with the implicit factor 2^-k. -/
def decodeInt (n k code : Nat) : Fv :=
  let v := signedAt (code % 2 ^ n) n
  .fin (v < 0) v.natAbs (-(k : Int))

/-- E4M3 as an element or as a scale of S2 and T2 (R34, R36). -/
def decodeE4M3 (code : Nat) : Fv := if code % 128 == 127 then .nan else decodeFinite 4 3 7 (code % 256)

/-- The value of an element code of a format (R35 to R38). -/
def decodeElem (f : Fmt) (code : Nat) : Fv :=
  match f with
  | .mxfp4 => decodeFinite 2 1 1 (code % 16)
  | .e3m2 => decodeFinite 3 2 3 (code % 64)
  | .e2m3 => decodeFinite 2 3 1 (code % 64)
  | .e4m3 => decodeE4M3 code
  | .e5m2 => decodeIeee 5 2 15 (code % 256)
  | .mxint8 => decodeInt 8 6 code
  | .mxint4 => decodeInt 4 2 code
  | .s2 => .fin (bitAt code 1) (if bitAt code 0 then 3 else 1) (-1)
  | .t2 => if code % 4 == 1 then .fin false 1 0 else if code % 4 == 3 then .fin true 1 0 else .fin false 0 0
  | .bf16 => decodeIeee 8 7 127 (code % 65536)
  | .fp32 => decodeIeee 8 23 127 (code % 2 ^ 32)

/-- The value of a scale byte (R34); formats without a scale have scale 1. -/
def decodeScale (f : Fmt) (b : Byte) : Fv :=
  match f with
  | .s2 | .t2 => decodeE4M3 b.toNat
  | .bf16 | .fp32 => .fin false 1 0
  | _ => if b.toNat == 255 then .nan else .fin false 1 ((b.toNat : Int) - 127)

/-- Block size of a format (R33); 16 where no block exists (R42). -/
def blockSize : Fmt → Nat
  | .s2 | .t2 | .bf16 | .fp32 => 16
  | _ => 32

/-! ### Rounding (R42, R45, R46) -/

/-- m / 2^k rounded to nearest, ties to even. -/
def rne (m k : Nat) : Nat :=
  let q := m / 2 ^ k
  let r := m % 2 ^ k
  if k == 0 then m else if 2 ^ (k - 1) < r || (r == 2 ^ (k - 1) && q % 2 == 1) then q + 1 else q

/-- The magnitude code nearest to m × 2^e, ties to even, in a format of `fb` fraction bits and `bias`, exponents
unbounded above. Log entry 50 (DEDUCED). -/
def roundCode (fb bias : Nat) (m : Nat) (e : Int) : Nat :=
  if m == 0 then 0
  else
    let least : Int := 1 - (bias : Int) - fb
    let lsb := max (e + (Nat.log2 m : Int) - fb) least
    let v := if lsb ≤ e then m * 2 ^ (e - lsb).toNat else rne m (lsb - e).toNat
    (lsb - least).toNat * 2 ^ fb + v

def signBit (neg : Bool) (n : Nat) : Nat := if neg then 2 ^ n else 0

/-- Rounding to FP32 (R42, R43). Log entry 50 (DEDUCED). -/
def round32 : Fv → BitVec 32
  | .nan => 0x7FC00000
  | .inf s => BitVec.ofNat 32 (signBit s 31 + 0x7F800000)
  | .fin s m e => BitVec.ofNat 32 (signBit s 31 + min (roundCode 23 127 m e) 0x7F800000)

/-- A block result rounded to FP32: below the smallest subnormal it is a zero (R43). -/
def roundBlock (v : Fv) : BitVec 32 :=
  match v with
  | .fin s m e => if Fv.lt (.fin false m e) (.fin false 1 (-149)) then BitVec.ofNat 32 (signBit s 31) else round32 v
  | _ => round32 v

/-- FP32 to BF16 (R45). -/
def toBf16 (w : BitVec 32) : BitVec 16 :=
  match decode32 w with
  | .nan => 0x7FC0
  | .inf s => BitVec.ofNat 16 (signBit s 15 + 0x7F80)
  | .fin s m e => BitVec.ofNat 16 (signBit s 15 + min (roundCode 7 127 m e) 0x7F80)

def add32 (a b : BitVec 32) : BitVec 32 := round32 (Fv.add (decode32 a) (decode32 b))
def mul32 (a b : BitVec 32) : BitVec 32 := round32 (Fv.mul (decode32 a) (decode32 b))
def sub32 (a b : BitVec 32) : BitVec 32 := round32 (Fv.add (decode32 a) (decode32 b).neg)
def isNan32 (a : BitVec 32) : Bool := (decode32 a).isNan

/-- A quotient of positive finite values rounded to FP32, ties to even: enough quotient bits and a sticky bit. -/
def divFin32 (m : Nat) (e : Int) (n : Nat) (f : Int) : BitVec 32 :=
  let k := 64 + Nat.log2 n
  let q := m * 2 ^ k / n
  let sticky := if m * 2 ^ k % n == 0 then 0 else 1
  round32 (.fin false (2 * q + sticky) (e - f - k - 1))

/-! ### Conversion to an MX format (R46) -/

/-- The largest element exponent (R35, R36). -/
def emax : Fmt → Int
  | .mxfp4 => 2 | .e3m2 => 4 | .e2m3 => 2 | .e4m3 => 8 | .e5m2 => 15 | _ => 0

/-- The largest finite element. -/
def maxElem : Fmt → Fv
  | .mxfp4 => .fin false 6 0 | .e3m2 => .fin false 28 0 | .e2m3 => .fin false 15 (-1) | .e4m3 => .fin false 448 0
  | .e5m2 => .fin false 57344 0 | .mxint8 => .fin false 127 (-6) | _ => .fin false 7 (-2)

/-- The code of a magnitude with its sign. -/
def elemCode (f : Fmt) (s : Bool) (m : Nat) (e : Int) : Nat :=
  let intCode (n k : Nat) : Nat :=
    let v := if 0 ≤ e + k then m * 2 ^ (e + k).toNat else rne m (-(e + k)).toNat
    if s then (2 ^ n - v) % 2 ^ n else v
  match f with
  | .mxfp4 => signBit s 3 + roundCode 1 1 m e
  | .e3m2 => signBit s 5 + roundCode 2 3 m e
  | .e2m3 => signBit s 5 + roundCode 3 1 m e
  | .e4m3 => signBit s 7 + roundCode 3 7 m e
  | .e5m2 => signBit s 7 + roundCode 2 15 m e
  | .mxint8 => intCode 8 6
  | _ => intCode 4 2

/-- One block converted: scale, element codes, saturated elements, whether the scale was clamped, whether the block
was written with scale 0xFF. -/
structure MxBlock where
  scale  : Byte
  codes  : List Nat
  sat    : Nat
  clamp  : Bool
  nan    : Bool
deriving DecidableEq, Repr

/-- One element of a block with scale exponent `x`: its code, and whether it saturated. Log entry 50 (DEDUCED). -/
def mxElem (f : Fmt) (x : Int) (w : BitVec 32) : Nat × Bool :=
  match decode32 w with
  | .fin s m e =>
    if Fv.lt (maxElem f) (.fin false m (e - x)) then
      match maxElem f with
      | .fin _ m' e' => (elemCode f s m' e', true)
      | _ => (0, true)
    else (elemCode f s m (e - x), false)
  | _ => (0, false)

/-- The conversion of one block (R46). -/
def toMx (f : Fmt) (ws : List (BitVec 32)) : MxBlock :=
  let vs := ws.map decode32
  let zerosOf := ws.map fun _ => 0
  let isBad : Fv → Bool
    | .fin _ _ _ => false
    | _ => true
  if vs.any isBad then { scale := 0xFF, codes := zerosOf, sat := 0, clamp := false, nan := true }
  else if vs.all Fv.isZero then { scale := 0x7F, codes := zerosOf, sat := 0, clamp := false, nan := false }
  else
    let top (v : Fv) : List Int :=
      match v with
      | .fin _ m e => if m == 0 then [] else [e + (Nat.log2 m : Int)]
      | _ => []
    let hi := ((vs.map top).flatten.max?).getD 0
    let x := hi - emax f
    let x' := max (-127) (min 127 x)
    let es := ws.map (mxElem f x')
    { scale := BitVec.ofNat 8 (x' + 127).toNat, codes := es.map (·.1), sat := (es.filter (·.2)).length,
      clamp := x' != x, nan := false }

/-- Lists of at most `n` elements; `fuel` bounds the number of pieces. -/
def chunks {α : Type} (n : Nat) : Nat → List α → List (List α)
  | 0, _ => []
  | _, [] => []
  | k + 1, l => l.take n :: chunks n k (l.drop n)

/-- A row converted block by block, 32 values at a time. -/
def toMxRow (f : Fmt) (ws : List (BitVec 32)) : List MxBlock := (chunks 32 (ws.length + 1) ws).map (toMx f)

/-! ### Engine passes (R42, R43) -/

/-- Length of a scale block (R42). -/
def scaleBlock (w a : Fmt) : Nat := min (blockSize w) (blockSize a)

/-- Whether a T2 block is a skip block (R38). -/
def skipBlock (f : Fmt) (codes : List Nat) : Bool := f == .t2 && codes.all (· % 4 == 2)

/-- A NaN among the factors that a scale block meets. -/
def nanFactor (ws as : List Fv) (sw sa : Fv) : Bool := sw.isNan || sa.isNan || (ws ++ as).any Fv.isNan

/-- One scale block's result in FP32 (R42), and whether it counts in NAN_IN (R51). `none` for a skip block. -/
def blockResult (wf af : Fmt) (w a : List Nat) (sw sa : Byte) : Option (BitVec 32 × Bool) :=
  if skipBlock wf w then none
  else
    let ws := w.map (decodeElem wf)
    let as := a.map (decodeElem af)
    let vw := decodeScale wf sw
    let va := decodeScale af sa
    let ps := (ws.zip as).map fun p => Fv.mul p.1 p.2
    let sum := match ps with
      | [] => .fin false 0 0
      | p :: rest => rest.foldl Fv.add p
    let v := if vw.isNan || va.isNan then .nan else Fv.mul sum (Fv.mul vw va)
    some (roundBlock v, v.isNan && nanFactor ws as vw va)

/-- The block results of one output element: a weight column against an activation row. -/
def blockResults (wf af : Fmt) (w : List Nat) (wsc : List Byte) (a : List Nat) (asc : List Byte) :
    List (BitVec 32 × Bool) :=
  let n := scaleBlock wf af
  let nb := ceilDiv w.length n
  (List.range nb).filterMap fun b =>
    blockResult wf af ((w.drop (n * b)).take n) ((a.drop (n * b)).take n) (wsc.getD (n * b / blockSize wf) 0x7F)
      (asc.getD (n * b / blockSize af) 0x7F)

/-- Insert by key, for the engine's own order of additions. -/
def insertKeyed {α : Type} (k : Nat) (a : α) : List (Nat × α) → List (Nat × α)
  | [] => [(k, a)]
  | (j, b) :: t => if k ≤ j then (k, a) :: (j, b) :: t else (j, b) :: insertKeyed k a t

/-- A list in the order that the engine chooses (R42): a free value of the draw. -/
def engineOrder {α : Type} (draw : Nat) (l : List α) : List α :=
  ((l.zipIdx.map fun p => (Config.blockOrder draw p.2, p.1)).foldr (fun p acc => insertKeyed p.1 p.2 acc) []).map (·.2)

/-- One output element: block results added to the accumulator in the engine's order; and its NAN_IN count.
Log entry 50 (DEDUCED). -/
def accumulate (draw : Nat) (acc : BitVec 32) (bs : List (BitVec 32 × Bool)) : BitVec 32 × Nat :=
  ((engineOrder draw (bs.map (·.1))).foldl add32 acc, (bs.filter (·.2)).length)

/-! ### The seam quotient (R55) -/

/-- q of one element, by the first step that applies; the tolerances are FP32. -/
def seamQ (tolAbs tolRel y yref : BitVec 32) : BitVec 32 :=
  let a := decode32 y
  let b := decode32 yref
  if a.eqv b || (a.isNan && b.isNan) then 0
  else if a.isNan || b.isNan then 0x7F800000
  else
    let isInf : Fv → Bool
      | .inf _ => true
      | _ => false
    if isInf a || isInf b then 0x7F800000
    else
      let d := add32 tolAbs (mul32 tolRel (round32 b.abs))
      let n := round32 (decode32 (sub32 y yref)).abs
      match decode32 n, decode32 d with
      | .fin _ m e, .fin _ k f => if k == 0 then 0x7F800000 else divFin32 m e k f
      | .inf _, .fin _ _ _ => 0x7F800000
      | .inf _, _ => 0x7FC00000
      | _, .inf _ => 0
      | _, _ => 0x7FC00000

/-- Whether a q diverges: q > 1. -/
def diverges (q : BitVec 32) : Bool := Fv.lt (.fin false 1 0) (decode32 q)

/-! ### Vector unit (R47, R48) -/

/-- The smaller of two numbers; a tie of zeros of both signs takes the Bool's choice. -/
def fmin (tie : Bool) (a b : BitVec 32) : BitVec 32 :=
  let x := decode32 a
  let y := decode32 b
  if x.isNan || y.isNan then 0x7FC00000 else if x.lt y then a else if y.lt x then b else if tie then a else b

def fmax (tie : Bool) (a b : BitVec 32) : BitVec 32 :=
  let x := decode32 a
  let y := decode32 b
  if x.isNan || y.isNan then 0x7FC00000 else if x.lt y then b else if y.lt x then a else if tie then a else b

/-- exp2, log2, reciprocal and reciprocal square root: R48's special values, else the unit's own result within its
2 ulp. -/
def approx (draw : Nat) (op : VecOp) (a : BitVec 32) : BitVec 32 :=
  match op, decode32 a with
  | _, .nan => 0x7FC00000
  | .exp2, .inf true => 0
  | .exp2, .inf false => 0x7F800000
  | .log2, .inf true => 0x7FC00000
  | .log2, .inf false => Config.vecApprox draw op a
  | .log2, .fin s m _ => if m == 0 then 0xFF800000 else if s then 0x7FC00000 else Config.vecApprox draw op a
  | .recip, .fin s m _ => if m == 0 then (if s then 0xFF800000 else 0x7F800000) else Config.vecApprox draw op a
  | .rsqrt, .inf true => 0x7FC00000
  | .rsqrt, .fin s m _ => if s && m != 0 then 0x7FC00000 else Config.vecApprox draw op a
  | _, _ => Config.vecApprox draw op a

/-- One lane of the vector unit: operands and result in 64 bits, FP32 and INT32 in the low 32. The spec gives no
result for a shift by 32 or more and does not say which right shift a negative operand takes: those are free values. -/
def vecLane (draw : Nat) (op : VecOp) (a b c : BitVec 64) : BitVec 64 :=
  let x := a.truncate 32
  let y := b.truncate 32
  let z := c.truncate 32
  let w (v : BitVec 32) : BitVec 64 := v.zeroExtend 64
  let tie := Config.freeBits 1 draw % 2 == 1
  match op with
  | .fma => w (round32 (Fv.add (Fv.mul (decode32 x) (decode32 y)) (decode32 z)))
  | .add => w (add32 x y)
  | .sub => w (sub32 x y)
  | .mul => w (mul32 x y)
  | .min => w (fmin tie x y)
  | .max => w (fmax tie x y)
  | .cmpLt => Config.compareCode ((decode32 x).lt (decode32 y))
  | .cmpEq => Config.compareCode ((decode32 x).eqv (decode32 y))
  | .exp2 | .log2 | .recip | .rsqrt => w (approx draw op x)
  | .iadd => w (x + y)
  | .isub => w (x - y)
  | .imul => w (x * y)
  | .icmpLt => Config.compareCode (x.slt y)
  | .iand => w (x &&& y)
  | .ior => w (x ||| y)
  | .ixor => w (x ^^^ y)
  | .ishl => if y.toNat < 32 then w (x <<< y.toNat) else w (BitVec.ofNat 32 (Config.freeBits 32 draw))
  | .ishr =>
    if y.toNat < 32 && !x.msb then w (x >>> y.toNat) else w (BitVec.ofNat 32 (Config.freeBits 32 draw))
  | .ladd => a + b
  | .lsub => a - b
  | .lcmpLt => Config.compareCode (a.slt b)
  | .lmin => if a.slt b then a else b
  | .lmax => if a.slt b then b else a

/-- Whether an operation gives FP32 results, whose NaNs count in NAN_OUT (R51). -/
def vecIsFloat : VecOp → Bool
  | .fma | .add | .sub | .mul | .min | .max | .exp2 | .log2 | .recip | .rsqrt => true
  | _ => false

/-- Whether an operation writes 64-bit results. -/
def vecIsWide : VecOp → Bool
  | .ladd | .lsub | .lmin | .lmax => true
  | _ => false

/-- One element dequantised to FP32, exact (R47). -/
def dequant (f : Fmt) (scale : Byte) (code : Nat) : BitVec 32 :=
  round32 (Fv.mul (decodeElem f code) (decodeScale f scale))

/-! ### Hamming unit (R49) -/

def popByte (x : Byte) : Nat := ((List.range 8).filter fun i => x.getLsbD i).length

/-- H = popcount(query XOR code). Log entry 51 (DESIGN CHOICE). -/
def hamming (q c : Bytes) : Nat := ((q.zip c).map fun p => popByte (p.1 ^^^ p.2)).foldl (· + ·) 0

/-! ### Adders (R87) -/

/-- Bytes of an element of a reduction format. -/
def redBytes : RedFmt → Nat
  | .fp32 => 4 | .bf16 => 2 | .int32 => 4 | .int64 => 8

/-- MIN and MAX of the adders on FP32: NaN with either, and −0 below +0. -/
def redMin (a b : BitVec 32) : BitVec 32 := fmin (a.msb) a b
def redMax (a b : BitVec 32) : BitVec 32 := fmax (!a.msb) a b

/-- One element of a reduction or atomic; codes as numbers of the format's width. -/
def redElem (f : RedFmt) (op : RedOp) (a b : Nat) : Nat :=
  match f with
  | .fp32 =>
    let x := BitVec.ofNat 32 a
    let y := BitVec.ofNat 32 b
    match op with
    | .add => (add32 x y).toNat
    | .min => (redMin x y).toNat
    | .max => (redMax x y).toNat
    | _ => a
  | .bf16 =>
    let x := BitVec.ofNat 32 (a * 65536)
    let y := BitVec.ofNat 32 (b * 65536)
    match op with
    | .add => (toBf16 (add32 x y)).toNat
    | .min => (toBf16 (redMin x y)).toNat
    | .max => (toBf16 (redMax x y)).toNat
    | _ => a
  | .int32 =>
    let x := BitVec.ofNat 32 a
    let y := BitVec.ofNat 32 b
    match op with
    | .add => (x + y).toNat
    | .min => (if x.slt y then x else y).toNat
    | .max => (if x.slt y then y else x).toNat
    | .or => (x ||| y).toNat
    | .and => (x &&& y).toNat
  | .int64 =>
    let x := BitVec.ofNat 64 a
    let y := BitVec.ofNat 64 b
    match op with
    | .add => (x + y).toNat
    | .min => (if x.slt y then x else y).toNat
    | .max => (if x.slt y then y else x).toNat
    | .or => (x ||| y).toNat
    | .and => (x &&& y).toNat

/-- Apply the elements of `d` to the bytes of `t`, element by element. -/
def redBytesApply (f : RedFmt) (op : RedOp) : Nat → Bytes → Bytes → Bytes
  | 0, t, _ => t
  | n + 1, t, d =>
    let k := redBytes f
    if d.length < k || t.length < k then t
    else toLe k (redElem f op (le t 0 k) (le d 0 k)) ++ redBytesApply f op n (t.drop k) (d.drop k)

end Sys2Proof.Machine
end

