-- ==== Sys2Proof/Machine/Image.lean ====
section
/-!
DEFINITION. Graph images (R100 to R118, R56, R62): reading the header and the tables, and the checks of registration
in the numbered order of R101.
-/
namespace Sys2Proof.Machine

open Sys2Proof

/-! ### Reading the tables -/

/-- Entry `i` of a table of `size`-byte entries at offset `off`. -/
def tableEntry (b : Bytes) (off size i : Nat) : Bytes := (b.drop (off + size * i)).take size

/-- The entries of a table. -/
def tableEntries (b : Bytes) (off size n : Nat) : List Bytes := (List.range n).map (tableEntry b off size)

/-- 0xFFFF means none. -/
def optIndex (v : Nat) : Option Nat := if v == 0xFFFF then none else some v

/-- The fields of the header that place the tables (R100). -/
structure ImageHeader where
  imageBytes : Nat
  gflags     : Nat
  nVariant   : Nat
  nBinding   : Nat
  nPhase     : Nat
  oVariant   : Nat
  oBinding   : Nat
  oPhase     : Nat
  oReshard   : Nat
  oTile      : Nat
  nTile      : Nat
  oAux       : Nat
  auxBytes   : Nat
  oStitch    : Nat
  stitchBytes : Nat
  constBytes : Nat
  quality    : Nat
  nReshard   : Nat

def parseHeader (b : Bytes) : ImageHeader :=
  { imageBytes := le b 8 4, gflags := le b 16 2, nVariant := le b 18 2, nBinding := le b 20 2, nPhase := le b 22 2,
    oVariant := le b 24 4, oBinding := le b 28 4, oPhase := le b 32 4, oReshard := le b 36 4, oTile := le b 40 4,
    nTile := le b 44 4, oAux := le b 48 4, auxBytes := le b 52 4, oStitch := le b 56 4, stitchBytes := le b 60 4,
    constBytes := le b 64 2, quality := le b 66 2, nReshard := le b 68 2 }

/-- A variant-table entry (R102). -/
def parseVariant (e : Bytes) : Variant :=
  { fallbackRole := le e 2 1 == 1, isDefault := bitAt (le e 3 1) 0, promisable := bitAt (le e 3 1) 1,
    fallback := optIndex (le e 4 2), resumeMask := le e 6 2, expectedNs := le e 8 4, wcetNs := le e 12 4,
    firstMap := le e 16 2, mapCount := le e 18 2, firstTile := le e 20 4, tileCount := le e 24 4,
    clusters := le e 28 2, nearRate := le e 30 2, capRate := le e 32 2, engineNs := le e 36 8 }

/-- A binding-table entry (R107). -/
def parseBinding (e : Bytes) : Binding :=
  { kind := le e 2 1, access := le e 3 1, minLength := le e 8 8, dflt := le e 16 8, dfltVersion := le e 24 4,
    alignLog2 := le e 28 1 }

/-- A phase-mapping descriptor (R112, R56). -/
def parsePhaseMap (e : Bytes) : PhaseMap :=
  { phase := le e 0 1, barrierAfter := bitAt (le e 1 1) 0, usesSeqTable := bitAt (le e 1 1) 1, shards := le e 2 2,
    quadsPerShard := le e 4 2, firstTile := le e 8 4, tileCount := le e 12 4, wcetNs := le e 16 4,
    expectedNs := le e 20 4, weightTag := le e 24 4, kvTag := le e 28 4, reshardFirst := le e 32 4,
    reshardN := le e 36 2, tolAbs := BitVec.ofNat 32 (le e 48 4), tolRel := BitVec.ofNat 32 (le e 52 4),
    threshold := le e 56 2, policy := le e 58 1 }

/-- A re-shard descriptor (R114). -/
def parseReshard (e : Bytes) : Reshard :=
  { op := le e 0 1, format := le e 1 1, redop := le e 2 1, src := le e 4 2, dst := le e 6 2, bytes := le e 8 8,
    fromShards := le e 16 2, toShards := le e 18 2 }

/-- A tile-list entry (R115) with its lists from the auxiliary area. -/
def parseTile (aux e : Bytes) : TileDef :=
  let f := le e 5 1
  { phase := le e 4 1, reductionsF := bitAt f 0, seamEligible := bitAt f 1, lastOfPhase := bitAt f 2,
    lastOfLaunch := bitAt f 3, sameCore := bitAt f 4, usesHamming := bitAt f 5, strands := le e 6 2,
    stitchEntry := le e 8 4, cyclesMax := le e 12 4, liveBytes := le e 16 4,
    live := (tableEntries aux (le e 20 4) 8 (le e 24 2)).map (fun x => (le x 0 4, le x 4 4)),
    reductions := le e 26 2, staging := le e 28 4,
    commits := (tableEntries aux (le e 32 4) 2 (le e 36 2)).map (fun x => le x 0 2),
    predN := le e 38 2, succs := (tableEntries aux (le e 40 4) 4 (le e 44 2)).map (fun x => le x 0 4),
    shard := le e 46 2, planEndNs := le e 48 4 }

/-- The whole image as the block holds it. -/
def parseImage (b : Bytes) : GraphImage :=
  let h := parseHeader b
  let aux := (b.drop h.oAux).take h.auxBytes
  { imageBytes := h.imageBytes, microcodeMin := le b 12 4, gflags := h.gflags,
    variants := (tableEntries b h.oVariant 64 h.nVariant).map parseVariant,
    bindings := (tableEntries b h.oBinding 32 h.nBinding).map parseBinding,
    phaseMaps := (tableEntries b h.oPhase 64 h.nPhase).map parsePhaseMap,
    reshards := (tableEntries b h.oReshard 32 h.nReshard).map parseReshard,
    tiles := (tableEntries b h.oTile 64 h.nTile).map (parseTile aux),
    constBytes := h.constBytes, qualityBinding := optIndex h.quality,
    digest := BitVec.ofNat 384 (le b 80 48) }

/-! ### Names that the checks and the run use -/

/-- ACCESS bits (R107). -/
def Binding.canRead (b : Binding) : Bool := bitAt b.access 0
def Binding.canWrite (b : Binding) : Bool := bitAt b.access 1
def Binding.canReduce (b : Binding) : Bool := bitAt b.access 2
def Binding.overridable (b : Binding) : Bool := bitAt b.access 3

/-- The phase maps of a variant, in its order. -/
def GraphImage.mapsOf (g : GraphImage) (v : Variant) : List PhaseMap := (g.phaseMaps.drop v.firstMap).take v.mapCount

/-- The indices of a phase map's tiles. -/
def PhaseMap.tileIndices (m : PhaseMap) : List Nat := (List.range m.tileCount).map (m.firstTile + ·)

/-- The tiles of a phase map. -/
def GraphImage.tilesOf (g : GraphImage) (m : PhaseMap) : List TileDef := (g.tiles.drop m.firstTile).take m.tileCount

/-- The re-shards that run before a phase. -/
def GraphImage.reshardsOf (g : GraphImage) (m : PhaseMap) : List Reshard := (g.reshards.drop m.reshardFirst).take m.reshardN

/-- The tiles whose successor lists name tile `t`, lowest first (R118). -/
def GraphImage.preds (g : GraphImage) (t : Nat) : List Nat :=
  (List.range g.tiles.length).filter fun i => (g.tiles[i]?).any fun x => x.succs.contains t

/-- The bindings into which a variant reduces (R103): reduction targets of its tiles and of its re-shards. -/
def GraphImage.reduceTargets (g : GraphImage) (v : Variant) : List Nat :=
  let maps := g.mapsOf v
  let ts := (maps.map g.tilesOf).flatten
  ((ts.map (·.commits)).flatten ++ ((maps.map g.reshardsOf).flatten.map (·.dst))).filter fun i =>
    (g.bindings[i]?).any (·.canReduce)

/-- Rank of a phase in the order retrieve, rerank, prefill, decode, publish (R103). -/
def phaseRank (p : Nat) : Nat :=
  match p with
  | 2 => 0 | 3 => 1 | 0 => 2 | 1 => 3 | 4 => 4 | _ => 5

/-- Strictly rising. -/
def rising : List Nat → Bool
  | a :: b :: t => a < b && rising (b :: t)
  | _ => true

/-! ### The checks of R101 -/

/-- Item 1: header fields in range. -/
def headerInRange (b : Bytes) (h : ImageHeader) : Bool :=
  le b 0 4 == 0x47504C53 && le b 4 2 == 2 && le b 6 2 == 128 && 128 ≤ h.imageBytes && h.imageBytes ≤ 2 ^ 26
    && h.imageBytes == b.length && 1 ≤ h.nVariant && h.nVariant ≤ 16 && 1 ≤ h.nBinding && h.nBinding ≤ 1024
    && 1 ≤ h.nPhase && h.nPhase ≤ 80 && 1 ≤ h.nTile && h.nTile ≤ 1048576 && 64 ≤ h.constBytes && h.constBytes ≤ 1088
    && (h.quality == 0xFFFF || h.quality < h.nBinding) && h.nReshard ≤ 4096

/-- Item 2: reserved fields of the header and of every entry are zero. -/
def reservedClear (b : Bytes) (h : ImageHeader) : Bool :=
  h.gflags < 8 && zeroAt b 70 10
    && (tableEntries b h.oVariant 64 h.nVariant).all (fun e =>
      le e 3 1 < 4 && le e 6 2 < 32 && zeroAt e 34 2 && zeroAt e 44 20)
    && (tableEntries b h.oBinding 32 h.nBinding).all (fun e => le e 3 1 < 16 && zeroAt e 4 4 && zeroAt e 29 3)
    && (tableEntries b h.oPhase 64 h.nPhase).all (fun e =>
      le e 1 1 < 4 && zeroAt e 6 2 && zeroAt e 38 10 && zeroAt e 59 5)
    && (tableEntries b h.oReshard 32 h.nReshard).all (fun e => zeroAt e 3 1 && zeroAt e 20 12)
    && (tableEntries b h.oTile 64 h.nTile).all (fun e => le e 5 1 < 64 && zeroAt e 52 12)

/-- The regions of the image: offset and size; the header first. -/
def regionsOf (h : ImageHeader) : List (Nat × Nat) :=
  [(0, 128), (h.oVariant, 64 * h.nVariant), (h.oBinding, 32 * h.nBinding), (h.oPhase, 64 * h.nPhase),
   (h.oReshard, 32 * h.nReshard), (h.oTile, 64 * h.nTile), (h.oAux, h.auxBytes), (h.oStitch, h.stitchBytes)]

/-- No two regions of the list share a byte. -/
def disjointRegions : List (Nat × Nat) → Bool
  | [] => true
  | (o, n) :: t => t.all (fun r => r.2 == 0 || n == 0 || o + n ≤ r.1 || r.1 + r.2 ≤ o) && disjointRegions t

/-- Rules of the variant table (R102, R103) and the last sentence of R118's second rule. -/
def variantOk (g : GraphImage) (id : Nat) (e : Bytes) (v : Variant) : Bool :=
  let maps := g.mapsOf v
  let phases := maps.map (·.phase)
  let primaries := g.variants.filter fun w => w.fallback == some id
  le e 0 2 == id && le e 2 1 ≤ 1 && 1 ≤ v.mapCount && v.mapCount ≤ 5 && v.firstMap + v.mapCount ≤ g.phaseMaps.length
    && v.firstTile + v.tileCount ≤ g.tiles.length && 1 ≤ v.clusters && v.clusters ≤ 16
    && (!v.isDefault || !v.fallbackRole)
    && (if v.fallbackRole then v.fallback.isNone && v.promisable
        else v.resumeMask == 0 && v.fallback.all (fun i => (g.variants[i]?).any (·.fallbackRole)))
    && (List.range 5).all (fun p => !bitAt v.resumeMask p
        || (phases.contains p && primaries.all (fun w => ((g.mapsOf w).map (·.phase)).contains p)))
    && v.expectedNs ≤ v.wcetNs && v.wcetNs == (maps.map (·.wcetNs)).sum && v.wcetNs ≤ 33554432
    && rising (phases.map phaseRank) && phases.all (· ≤ 4)
    && maps.all (fun m => v.firstTile ≤ m.firstTile && m.firstTile + m.tileCount ≤ v.firstTile + v.tileCount)
    && maps.all (fun m => 1 ≤ m.shards && m.shards ≤ v.clusters)
    && (g.reduceTargets v).all (fun i => primaries.all fun w => !(g.reduceTargets w).contains i)
    && ((List.range v.tileCount).all fun k =>
        let i := v.firstTile + k
        (g.tiles[i]?).all fun t =>
          (!t.lastOfLaunch || (t.lastOfPhase && maps.getLast?.any fun m => m.phase == t.phase))
          && (!t.sameCore || ((g.preds i).head?.bind fun f => g.tiles[f]?).all fun f =>
              f.phase == t.phase || !bitAt v.resumeMask f.phase))
    && ((List.range v.tileCount).filter fun k => (g.tiles[v.firstTile + k]?).any (·.lastOfLaunch)).length == 1

/-- Rules of the binding table (R107, R108). -/
def bindingOk (i : Nat) (e : Bytes) (b : Binding) : Bool :=
  le e 0 2 == i && b.kind ≤ 7 && 6 ≤ b.alignLog2 && b.alignLog2 ≤ 21 && (b.kind < 6 || b.dflt == 0)

/-- A finite FP32 tolerance of at least 0 (R56). -/
def toleranceOk (w : BitVec 32) : Bool :=
  match decode32 w with
  | .fin s m _ => !s || m == 0
  | _ => false

/-- Rules of a phase map (R112, R113, R114, R116, R56, R62); `prev` is the map before it in its variant. -/
def phaseMapOk (g : GraphImage) (m : PhaseMap) : Bool :=
  let ts := g.tilesOf m
  let last := ts.filter (·.lastOfPhase)
  m.phase ≤ 4 && 1 ≤ m.quadsPerShard && m.quadsPerShard ≤ 4 && 1 ≤ m.shards && m.reshardN ≤ 64
    && m.reshardFirst + m.reshardN ≤ g.reshards.length && m.firstTile + m.tileCount ≤ g.tiles.length
    && (!m.usesSeqTable || bitAt g.gflags 2)
    && toleranceOk m.tolAbs && toleranceOk m.tolRel
    && !((decode32 m.tolAbs).isZero && (decode32 m.tolRel).isZero) && m.policy ≤ 2
    && ts.all (fun t => t.phase == m.phase && t.shard < m.shards)
    && last.length == 1
    && (g.qualityBinding.all fun q => last.all fun t => t.commits.contains q)
    && (m.policy != 2 || (ts.all (fun t => !t.reductionsF) && (g.reshardsOf m).all (fun r => r.op != 1)))

/-- R113: a phase whose re-shards read the previous phase's outputs needs BARRIER_AFTER on that phase. -/
def barrierOk (g : GraphImage) : List PhaseMap → Bool
  | m :: n :: t =>
    let outs := ((g.tilesOf m).map (·.commits)).flatten
    (m.barrierAfter || (g.reshardsOf n).all fun r => !outs.contains r.src) && barrierOk g (n :: t)
  | _ => true

/-- Rules of a re-shard (R114). -/
def reshardOk (g : GraphImage) (r : Reshard) : Bool :=
  r.op ≤ 2 && (if r.op == 1 then r.format ≤ 3 && r.redop ≤ 2 else r.format == 0 && r.redop == 0)
    && r.bytes % 256 == 0 && r.src < g.bindings.length
    && (g.bindings[r.dst]?).any (fun b => r.op != 1 || b.canReduce)

/-- Whether a list of `n` entries of `w` bytes at `off` lies in the auxiliary area. -/
def inAux (h : ImageHeader) (off n w : Nat) : Bool := off + n * w ≤ h.auxBytes

/-- Rules of a tile-list entry (R115, R116, R118). -/
def tileOk (g : GraphImage) (h : ImageHeader) (i : Nat) (e : Bytes) (t : TileDef) : Bool :=
  le e 0 4 == i && t.phase ≤ 4 && t.strands ≤ 64 && t.stitchEntry < h.stitchBytes && t.cyclesMax ≤ 17000
    && t.liveBytes ≤ 2 ^ 21 && le e 24 2 ≤ 16 && t.reductions ≤ 1024 && t.staging ≤ 2 ^ 20 && le e 36 2 ≤ 64
    && le e 44 2 ≤ 8
    && inAux h (le e 20 4) (le e 24 2) 8 && inAux h (le e 32 4) (le e 36 2) 2 && inAux h (le e 40 4) (le e 44 2) 4
    && t.live.all (fun r => r.1 % 64 == 0 && r.2 % 64 == 0) && (t.live.map (·.2)).sum == t.liveBytes
    && t.reductionsF == (t.reductions != 0)
    && t.commits.all (fun c => (g.bindings[c]?).any fun b => b.canWrite || b.canReduce || g.qualityBinding == some c)
    && t.succs.all (· < g.tiles.length)
    && (!t.sameCore || (t.predN != 0 && ((g.preds i).head?.bind fun f => g.tiles[f]?).all (·.shard == t.shard)))

/-- Item 8: the rules of the entries. -/
def entriesOk (b : Bytes) (h : ImageHeader) (g : GraphImage) : Bool :=
  let quals := (List.range g.bindings.length).filter fun i => (g.bindings[i]?).any (·.kind == 5)
  (g.variants.filter (·.isDefault)).length == 1
    && g.variants.zipIdx.all (fun p => variantOk g p.2 (tableEntry b h.oVariant 64 p.2) p.1)
    && g.bindings.zipIdx.all (fun p => bindingOk p.2 (tableEntry b h.oBinding 32 p.2) p.1)
    && (quals == g.qualityBinding.toList)
    && g.phaseMaps.all (phaseMapOk g)
    && g.variants.all (fun v => barrierOk g (g.mapsOf v))
    && g.reshards.all (reshardOk g)
    && g.tiles.zipIdx.all (fun p => tileOk g h p.2 (tableEntry b h.oTile 64 p.2) p.1)

/-- The image with IMAGE_DIGEST zero, as the digest is taken (R100). -/
def withoutDigest (b : Bytes) : Bytes := b.take 80 ++ zeros 48 ++ b.drop 128

/-- Registration's checks in the order of R101: the number of the first item that fails, or the image. `clean` says
that no word of the image was read uncorrectable or poisoned. -/
def checkImage (microcode : Nat) (full clean : Bool) (b : Bytes) : Except Nat GraphImage :=
  let h := parseHeader b
  let g := parseImage b
  if !headerInRange b h then .error 1
  else if !reservedClear b h then .error 2
  else if !((regionsOf h).all fun r => r.1 % 64 == 0) then .error 3
  else if !((regionsOf h).all (fun r => r.1 + r.2 ≤ h.imageBytes) && disjointRegions (regionsOf h)) then .error 4
  else if !(clean && g.digest == Config.sha384 (withoutDigest b)) then .error 5
  else if microcode < g.microcodeMin then .error 6
  else if !(if full then bitAt g.gflags 0 else bitAt g.gflags 1) then .error 7
  else if !entriesOk b h g then .error 8
  else .ok g

end Sys2Proof.Machine
end

