-- ==== Sys2Proof/Machine/QueueOps.lean ====
section
/-!
DEFINITION. A queue as a whole: its ring and doorbell (R142, R157, R158), the end of a drain (R169, R175), and
management stops (R169, R295).
-/
namespace Sys2Proof.Machine

open Sys2Proof

/-! ### Ring and doorbell -/

/-- Slots of the ring (R140). -/
def Queue.ringSize (u : Queue) : Nat := 2 ^ u.attrs.ringLog2

/-- The ring index of a sequence number (R142). -/
def Queue.indexOf (u : Queue) (seq : Nat) : Nat := (seq - 1) % u.ringSize

/-- Distance of a ring index from the oldest slot that has not retired, modulo the ring (R158). -/
def Queue.ahead (u : Queue) (i : Nat) : Nat := (i + u.ringSize - u.indexOf (u.retiredSeq + 1)) % u.ringSize

/-- Slots covered by tail `t` that have not been fetched. -/
def Queue.unfetched (u : Queue) (t : Nat) : Nat := (t + u.ringSize - u.indexOf u.nextSeq) % u.ringSize

/-- What R158 finds in a doorbell. -/
inductive DbVerdict where
  | stale | bad | same | newer
deriving DecidableEq, Repr

/-- The tests of R158, in the order of its table. -/
def Queue.doorbell (u : Queue) (epoch upper tail : Nat) : DbVerdict :=
  if u.state == .disabled || u.state == .draining then .stale
  else if epoch != u.epoch then .stale
  else if upper != 0 || u.ringSize ≤ tail then .bad
  else if u.ahead tail < u.ahead u.tail then .stale
  else if u.ahead tail == u.ahead u.tail then .same
  else .newer

/-- A newer tail is applied with a token, or held as the pending tail (R158). -/
def Queue.takeTail (u : Queue) (tail : Nat) : Queue :=
  if u.tokens != 0 then { u with tail := tail, tokens := u.tokens - 1 }
  else { u with pendingTail := some tail, dbAbsorbed := satAdd 16 u.dbAbsorbed 1, absorbedF := true }

/-- A doorbell write of value `v` (R157, R158). -/
def Queue.ring (u : Queue) (v : Nat) : Queue :=
  match u.doorbell (bitsAt v 16 8) (bitsAt v 24 8) (bitsAt v 0 16) with
  | .stale => { u with dbStale := satAdd 16 u.dbStale 1 }
  | .bad => { u with dbBad := satAdd 16 u.dbBad 1 }
  | .same => u
  | .newer => u.takeTail (bitsAt v 0 16)

/-- One doorbell token accrues; a pending tail is tested again and applied (R158). -/
def Queue.accrue (u : Queue) : Queue :=
  let u := { u with tokens := min 32 (u.tokens + 1), tokenCount := u.tokenCount + 1 }
  match u.pendingTail with
  | none => u
  | some t =>
    let u := { u with pendingTail := none }
    match u.doorbell u.epoch 0 t with
    | .newer => u.takeTail t
    | _ => u

/-- Whether the next token of the queue is due (R158): DB_RATE tokens a µs since `tokenBase`. -/
def Queue.tokenDue (u : Queue) (now : Nat) : Bool :=
  u.state != .disabled && (u.tokenCount + 1) * 1000 ≤ (now - u.tokenBase) * u.attrs.dbRate

/-! ### The end of a drain (R175) -/

/-- A queue at the start of an epoch, in state `st`: counters and tail zero, a full bucket, PATH bits clear. -/
def Queue.fresh (u : Queue) (st : QState) (epoch now : Nat) (a : QueueAttrs) : Queue :=
  { u with
    state := st, epoch := epoch, attrs := a, tail := 0, nextSeq := 1, admittedSeq := 0, retiredSeq := 0,
    fetching := false, pendingTail := none, tokens := 32, tokenBase := now, tokenCount := 0, tiles := 0,
    dbAbsorbed := 0, dbStale := 0, dbBad := 0, resumeFailed := 0, pathFetch := false, pathStatus := false,
    pathCompl := false, guestStop := false, absorbedF := false, stepF := false, interruptF := false, held := [],
    resuming := none, drainKind := 0, newAttrs := none }

/-- The state in which a queue starts an epoch (R169). -/
def Queue.startState (u : Queue) : QState := if u.mgmtStop then .stopped else .active

/-- Steps 4 and 5 of R175. -/
def State.newEpoch (s : State) (q : Nat) : State :=
  let s := { s with errs := { s.errs with handlingQ := s.errs.handlingQ.filter (· != q) } }
  let s := s.modQueue q fun u =>
    u.fresh u.startState ((u.epoch + 1) % 256) s.time.now (u.newAttrs.getD u.attrs)
  (s.writeWord q false).pushWrite q .eventInterrupt

/-- A deleted queue (R169, R170): DISABLED; EVENT_VECTOR reports the change, and no word is written. Log entry 38 (DEDUCED). -/
def State.deleteQueue (s : State) (q : Nat) : State :=
  let s := s.modQueue q fun u =>
    { u.fresh .disabled u.epoch s.time.now u.attrs with mgmtStop := false, intLost := false }
  s.pushWrite q .eventInterrupt

/-- The channels that wait for a command with this opcode on queue `q`. -/
def State.queueChans (s : State) (opcode q : Nat) : List Nat :=
  s.waitingChans fun m => m.opcode == opcode && m.queue == q

/-- A draining queue whose slots have all retired ends its drain: a queue reset takes the new epoch and is answered
(R175, R344), a deletion disables the queue. The queues of a partition reset wait for its end. -/
def State.settleQueue (s : State) (q : Nat) : State :=
  let u := s.queue q
  if u.state != .draining || s.slots.any (fun e => e.queue == q) then s
  else if u.drainKind == 1 then
    let s := s.newEpoch q
    s.acceptAll (s.queueChans 0x11 q) (toLe 1 (s.queue q).epoch)
  else if u.drainKind == 3 then (s.deleteQueue q).acceptAll (s.queueChans 0x39 q) []
  else s

/-! ### Management stops -/

/-- A management stop of a queue (R169). -/
def State.mgmtStopQueue (s : State) (q : Nat) : State :=
  if (s.queue q).state == .disabled then s
  else
    let s := s.modQueue q fun u => { u with mgmtStop := true }
    if (s.queue q).state == .active then s.setQState q .stopped else s

/-- A management resume of a queue (R169). -/
def State.mgmtResumeQueue (s : State) (q : Nat) : State :=
  let s := s.modQueue q fun u => { u with mgmtStop := false }
  if (s.queue q).state == .stopped then (s.modQueue q fun u => { u with guestStop := false }).setQState q .active
  else s

/-- The numbers of the queues that a partition has created. -/
def State.queuesOf (s : State) (p : Nat) : List Nat :=
  (s.queues.filter fun e => e.2.state != .disabled && e.2.partition == p).map (·.1)

/-- The condition that stops every queue of a partition comes into force, or ends (R295). -/
def State.stopPartition (s : State) (p : Nat) : State :=
  (s.queuesOf p).foldl State.mgmtStopQueue (s.modPart p fun u => { u with mgmtStop := true })

def State.resumePartition (s : State) (p : Nat) : State :=
  (s.queuesOf p).foldl State.mgmtResumeQueue (s.modPart p fun u => { u with mgmtStop := false })

end Sys2Proof.Machine
end

