-- ==== Sys2Proof/Machine/Launch.lean ====
section
/-!
DEFINITION. What every launch shares: the phases and tiles it runs, its records, how it finishes, retires and is ended
(R105, R118, R159 to R165, R194, R202, R222, R223, R254).
-/
namespace Sys2Proof.Machine

open Sys2Proof

/-! ### What a launch runs -/

/-- Whether a slot is a LAUNCH or a CHAIN RUN: its effective image has OPCODE LAUNCH (R153). -/
def Slot.isLaunch (e : Slot) : Bool := SlotField.fOpcode e.raw == 1

def Slot.var? (e : Slot) : Option Variant := e.image.bind fun g => g.variants[e.variant]?

/-- Whether the phase field selects phase `p` (R105). -/
def phaseSelected (field p : Nat) : Bool := bitsAt field 0 5 == 0 || bitAt field p

/-- The phases that a phase field selects of variant `v`, in its order (R105). -/
def GraphImage.phasesOf (g : GraphImage) (v : Variant) (field : Nat) : List Nat :=
  ((g.mapsOf v).map (·.phase)).filter (phaseSelected field)

/-- Indices of the phase maps of variant `v` for a list of phases, in its order. -/
def GraphImage.mapsFor (g : GraphImage) (v : Variant) (phases : List Nat) : List Nat :=
  ((List.range v.mapCount).map (v.firstMap + ·)).filter fun i =>
    (g.phaseMaps[i]?).any fun m => phases.contains m.phase

/-- The sum of PHASE_WCET_NS of variant `v` over a list of phases (R105). -/
def GraphImage.wcetOf (g : GraphImage) (v : Variant) (phases : List Nat) : Nat :=
  ((g.mapsFor v phases).map fun i => ((g.phaseMaps[i]?).map (·.wcetNs)).getD 0).sum

def Slot.field (e : Slot) : Nat := SlotField.fPhase e.raw

/-- The phases that the launch selects: those of its selected variant (R105). -/
def Slot.selected (e : Slot) : List Nat :=
  match e.image with
  | some g => match g.variants[e.primary]? with
    | some v => g.phasesOf v e.field
    | none => []
  | none => []

/-- A phase map of the launch's image. -/
def Slot.map? (e : Slot) (i : Nat) : Option PhaseMap := e.image.bind fun g => g.phaseMaps[i]?

def Slot.tileDef? (e : Slot) (t : Nat) : Option TileDef := e.image.bind fun g => g.tiles[t]?

/-- The place of tile `t`'s phase among the phases that the launch runs. -/
def Slot.phaseOf (e : Slot) (t : Nat) : Option Nat :=
  (List.range e.phaseStates.length).find? fun k =>
    match (e.phaseStates[k]?).bind fun ps => e.map? ps.map with
    | some m => m.firstTile ≤ t && t < m.firstTile + m.tileCount
    | none => false

def Slot.modPhase (e : Slot) (k : Nat) (f : PhaseState → PhaseState) : Slot :=
  { e with phaseStates := e.phaseStates.modify k f }

def Slot.tile (e : Slot) (t : Nat) : TileState := e.tiles.getD t {}
def Slot.modTile (e : Slot) (t : Nat) (f : TileState → TileState) : Slot :=
  { e with tiles := e.tiles.put t (f (e.tile t)) }

/-- The cluster of a shard: the primary's or the fallback's placed clusters (R210). -/
def Slot.clusterOf (e : Slot) (shard : Nat) : Option Nat := (if e.switched then e.placedF else e.placed)[shard]?

/-- Whether tile `t` has ended its commit phase, or lies in a phase that the launch does not run (R118). -/
def Slot.predDone (e : Slot) (t : Nat) : Bool :=
  match e.phaseOf t with
  | none => true
  | some _ => (e.tile t).place == .committed

/-- The predecessors of tile `t` still to be counted at the start of its phase (R118). -/
def Slot.predsLeft (e : Slot) (t : Nat) : Nat :=
  match e.image, e.tileDef? t with
  | some g, some d => d.predN - ((g.preds t).filter e.predDone).length
  | _, _ => 0

/-- The tile with LAST_OF_PHASE of the last phase that the launch runs (R60). -/
def Slot.finalTile (e : Slot) : Option Nat :=
  match e.phaseStates.getLast?.bind fun ps => e.map? ps.map with
  | some m => m.tileIndices.find? fun t => (e.tileDef? t).any (·.lastOfPhase)
  | none => none

/-- Whether a core works for the launch. -/
def Core.serves (c : Core) (q seq : Nat) : Bool := c.mode != .free && c.queue == q && c.seq == seq

def State.coresOf (s : State) (q seq : Nat) : List Nat := (s.cores.filter fun e => e.2.serves q seq).map (·.1)

/-! ### Records -/

/-- The CT of a slot's records: the promised CT of an accepted promise, in the scale in force (R162). -/
def State.recordCt (s : State) (e : Slot) (earliest : Nat) : Nat :=
  match e.promise with
  | some p => s.outScale p.deadline
  | none => earliest

/-- A slot's final record (R162). -/
def State.finalRecord (s : State) (e : Slot) (earliest : Nat) : StatusRecord :=
  { sequence := e.seq, status := e.status, cause := e.cause, guestTag := e.guestTag, ct := s.recordCt e earliest,
    failedShards := if e.status == Status.partialShards then e.failedShards else 0, variant := e.variant }

/-- The verdict record of an accepted promise (R163). -/
def State.verdictRecord (s : State) (e : Slot) : StatusRecord :=
  { sequence := e.seq, status := 0, cause := 1, guestTag := e.guestTag, ct := s.recordCt e 0, variant := e.variant }

/-- The quality record of a launch (R58), for a status. -/
def State.qualityRecord (s : State) (e : Slot) (status : Nat) : QualityRecord :=
  { sequence := e.seq, status := status, variant := e.variant, qflags := qflagsOf e, escPhases := e.escPhases,
    sampled := e.counts.sampled, diverged := e.counts.diverged, maxQ := e.counts.maxQ, elemSat := e.counts.elemSat,
    scaleClamp := e.counts.scaleClamp, nanOut := e.counts.nanOut, tilesRun := min e.tilesDone (2 ^ 32 - 1),
    tilesRerun := min e.tilesRerun (2 ^ 32 - 1), ctWritten := s.ctNow, guestTag := e.guestTag }

/-- The address of the launch's quality record, when its graph names one (R60). -/
def Slot.qualityAddr (e : Slot) : Option Nat :=
  match e.image.bind (·.qualityBinding) with
  | some i => match e.bindings[i]? with
    | some (.quality a) => some a
    | _ => none
  | none => none

/-- Whether a write to the guest is the quality record of a slot. -/
def GuestWrite.isQualityOf (w : GuestWrite) (seq : Nat) : Bool :=
  match w with
  | .quality _ r => r.sequence == seq
  | _ => false

/-! ### Retiring (R159) -/

/-- The partition's counters at a retirement (R425). -/
def PTel.retired (t : PTel) (e : Slot) : PTel :=
  let b (v : Nat) : Nat := if e.status == v then 1 else 0
  { t with
    launches := satAdd 64 t.launches (if e.opcode == 1 || (e.opcode == 2 && e.isLaunch) then 1 else 0)
    partials := satAdd 16 t.partials (b Status.partialShards)
    poisoned := satAdd 16 t.poisoned (b Status.poisoned)
    translation := satAdd 16 t.translation (b Status.translation)
    quality := satAdd 16 t.quality (b Status.okQuality) }

/-- Release what the slot's bindings keep live (R120, R243). -/
def State.unbind (s : State) (e : Slot) : State :=
  let s := if e.image.isSome then s.unbindGraph e.graph e.version else s
  e.bindings.foldl (fun s r =>
    match r with
    | .folioRead f v => s.unbindFolio f v
    | .folioOutput f v _ => s.unbindFolio f v
    | _ => s) s

/-- Retire one finished slot: the latch advances (R159). -/
def State.retireOne (s : State) (e : Slot) : State :=
  let s := s.modQueue e.queue fun u =>
    { u with retiredSeq := e.seq, interruptF := u.interruptF || flagInterrupt e.flags }
  let s := s.modPart e.partition fun p => { p with tel := p.tel.retired e }
  (s.unbind e).dropSlot e.queue e.seq

/-- Retire, in sequence order, every finished slot of the queue that has no earlier unfinished one. -/
def State.retireLoop : Nat → State → Nat → State
  | 0, s, _ => s
  | n + 1, s, q =>
    match s.slot? q ((s.queue q).retiredSeq + 1) with
    | some e => if e.state == .finished then State.retireLoop n (s.retireOne e) q else s
    | none => s

/-- Retire what can retire; the completion word follows when RETIRED_SEQ advanced (R161), and the drain of a reset
ends when the last slot has retired (R175). -/
def State.retireReady (s : State) (q : Nat) : State :=
  let before := (s.queue q).retiredSeq
  let s := State.retireLoop s.slots.length s q
  (if (s.queue q).retiredSeq == before then s else s.writeWord q false).settleQueue q

/-! ### Finishing -/

/-- Whether a finished slot gets a final record (R163). -/
def Slot.wantsFinal (e : Slot) : Bool := e.status != Status.ok || flagAlways e.flags

/-- The partition's outcome counters at a finish (R206). -/
def PAdm.finished (a : PAdm) (e : Slot) : PAdm :=
  if e.status == Status.promiseBroken then
    { a with broken := satAdd 16 a.broken 1, byCause := a.byCause.put e.cause (satAdd 8 (a.byCause.getD e.cause 0) 1) }
  else a

/-- A slot finishes with its status (R159): its reservations are to be released at the next frame boundary (R194), its
final record is issued, and what can retire retires. -/
def State.finishSlot (s : State) (q seq status cause : Nat) (earliest : Nat := 0) : State :=
  match s.slot? q seq with
  | none => s
  | some e =>
    let e := { e with status := status, cause := cause, state := .finished, adviceOut := false, fills := 0 }
    let s := s.modSlot q seq fun _ => e
    let s := { s with reqs := s.reqs.filter fun x => x.2.who != ReqFor.spine q seq }
    let s := s.modPart e.partition fun p =>
      { p with adm := p.adm.finished e
               holds := p.holds.map fun (h : Hold) => if h.queue == q && h.seq == seq then { h with releasing := true } else h }
    let s := if e.wantsFinal then s.pushRecord q (.final (s.finalRecord e earliest)) else s
    s.retireReady q

/-- A slot that never passed step 10 is refused (R147): SC_QADMITTED passes it. -/
def State.refuseSlot (s : State) (q seq status cause : Nat) (earliest : Nat := 0) : State :=
  (s.modQueue q fun u => { u with admittedSeq := max u.admittedSeq seq }).finishSlot q seq status cause earliest

/-! ### Ending what has not finished (R175, R202, R222, R274) -/

/-- Force a core's tile: unless it is in its commit phase, it is abandoned (R222, R223). -/
def Core.force (c : Core) : Core :=
  match c.mode with
  | .free => c
  | .committing => c
  | _ => { c with mode := .abandoning, forced := true, strands := c.strands.mapV fun _ _ => .idle, idleSince := none }

/-- What a core does when launch `seq` of queue `q` is forced: its tile is abandoned, and what was basted for the launch
is discarded (R234). -/
def Core.forceFor (c : Core) (q seq : Nat) : Core :=
  let d := if c.serves q seq then c.force else c
  if d.basted.any fun b => b.1 == q && b.2.1 == seq then { d with basted := none } else d

/-- A cluster without the bulk-mover jobs of a launch. -/
def Cluster.dropJobs (c : Cluster) (q seq : Nat) : Cluster :=
  { c with mover := c.mover.filter fun j => !(j.queue == q && j.seq == seq) }

/-- Force every core that runs the launch, and discard its re-shards not yet done. -/
def State.forceLaunch (s : State) (q seq : Nat) : State :=
  { s with cores := s.cores.mapV fun _ c => c.forceFor q seq, clusters := s.clusters.mapV fun _ c => c.dropJobs q seq }

/-- The versions that a slot's staging outputs name. -/
def Slot.stagings (e : Slot) : List (Nat × Nat) :=
  e.bindings.filterMap fun r =>
    match r with
    | .folioOutput f v true => some (f, v)
    | _ => none

/-- Discard the staging versions of a launch (R254). -/
def State.discardStagings (s : State) (e : Slot) : State :=
  e.stagings.foldl (fun s x => s.discardVersion x.1 x.2) s

/-- Whether a slot has passed step 10. -/
def Slot.admitted (e : Slot) : Bool := e.order != 0

/-- End a slot that has not finished. A launch that runs loses its tiles and finishes at LAUNCH_FINISH with the
status; every other slot finishes at once. The first failure stands; it replaces a completion that has not finished
(R392). -/
def State.endSlot (s : State) (q seq : Nat) (w : EndWhy) : State :=
  match s.slot? q seq with
  | none => s
  | some e =>
    if e.state == .finished then s
    else
      let (st, c) := w.status e.promise.isSome
      if !e.admitted then s.refuseSlot q seq st c
      else if !e.isLaunch then s.finishSlot q seq st c
      else if e.state == .ended && !isCompletion e.status then s
      else
        let s := s.modSlot q seq fun e => { e with status := st, cause := c, state := .ended }
        (s.forceLaunch q seq).discardStagings e

/-- STATE becomes DRAINING, and every unfinished slot of the queue ends (R175). `kind` is that of `drainKind`. -/
def State.drainQueue (s : State) (q kind : Nat) (a : Option QueueAttrs) (w : EndWhy) : State :=
  let s := s.modQueue q fun u =>
    { u with held := [], resuming := none, fetching := false, pendingTail := none, newAttrs := a, drainKind := kind }
  let s := s.setQState q .draining
  let mine := (s.slots.filter fun e => e.queue == q).map (·.seq)
  (mine.foldl (fun s n => s.endSlot q n w) s).settleQueue q

/-- End every unfinished slot that satisfies a test. -/
def State.endWhere (s : State) (t : Slot → Bool) (w : EndWhy) : State :=
  (s.slots.filter fun e => t e && e.state != .finished).foldl (fun s e => s.endSlot e.queue e.seq w) s

/-! ### Error records that a launch's work raises -/

/-- An error record of a core with the launch it runs. -/
def State.coreRecord (s : State) (k error action : Nat) : ErrRecord :=
  let c := s.core k
  if c.mode == .free then { error := error, action := action, level := 0, domain := k }
  else
    { error := error, action := action, level := 0, domain := k, partition := c.partition,
      context := ((s.slot? c.queue c.seq).map (·.context)).getD 0xFF, queue := c.queue, tile := c.tile,
      launchSeq := c.seq }

end Sys2Proof.Machine
end

