-- ==== Sys2Proof/Machine/QueueCmds.lean ====
section
/-!
DEFINITION. The commands on queues: doorbells and their tokens (R157, R158), the counters of SC_QCOUNTS (R180), the
answers to the queue's writes (R161, R165), a broken path and its resumption (R171 to R174), stops (R169) and guilt
(R176, R381).
-/
namespace Sys2Proof.Machine

open Sys2Proof

/-- The SC offset of a register of queue `q`'s page (R24). -/
def queueOffset (q reg : Nat) : Nat := 0x01000000 + q * 0x1000 + reg

/-- A write to a register of a queue page (R25, R26). -/
def State.onQueuePage (s : State) (r : Requester) (q reg : Nat) (f : State → State) : State :=
  s.access r fun s => if s.reachesQueue r q then f s else s.badAccess 2 (queueOffset q reg)

/-- SC_QDB (R157, R158). -/
def execScQdb (r : Requester) (q : Nat) (v : BitVec 32) (s : State) : Host.Outcome State Fault Refusal :=
  .next <| s.onQueuePage r q 0 fun s => s.modQueue q fun u => u.ring v.toNat

/-- DOORBELL_TOKEN_ACCRUAL (R158). -/
def execDoorbellTokenAccrual (q : Nat) (s : State) : Host.Outcome State Fault Refusal :=
  .next <| s.whenLive fun s => s.when ((s.queue q).tokenDue s.time.now) fun s => s.modQueue q Queue.accrue

/-- SC_QCOUNTS (R180). -/
def Queue.counts (u : Queue) : Nat :=
  u.dbAbsorbed + u.dbStale * 2 ^ 16 + u.dbBad * 2 ^ 32 + u.resumeFailed * 2 ^ 48

/-- The counters after a read of half `h` (R10, R180). -/
def Queue.countsCleared (u : Queue) (h : Half) : Queue :=
  let u := if readsLow h then { u with dbAbsorbed := 0, dbStale := 0 } else u
  if readsHigh h then { u with dbBad := 0, resumeFailed := 0 } else u

/-- SC_QCOUNTS_READ (R180). -/
def execScQcountsRead (r : Requester) (q : Nat) (half : Half) (s : State) : Host.Outcome State Fault Refusal :=
  .next <| s.access r fun s =>
    if s.reachesQueue r q then
      (s.modQueue q fun u => u.countsCleared half).emit (.regValue r (halfOf half (s.queue q).counts))
    else s.badRead r 2 (queueOffset q 0x30)

/-! ### Stops and resumption -/

/-- A slot that finishes without having been fetched or admitted. -/
def State.refuseUnfetched (s : State) (q seq status cause : Nat) : State :=
  let u := s.queue q
  let e : Slot := { queue := q, seq := seq, partition := u.partition, context := u.attrs.context }
  { s with slots := s.slots ++ [e] }.refuseSlot q seq status cause

/-- Refuse the next `n` slots without fetching them (R173). -/
def State.refuseBlocked : Nat → State → Nat → State
  | 0, s, _ => s
  | n + 1, s, q =>
    let seq := (s.queue q).nextSeq
    let s := s.modQueue q fun u => { u with nextSeq := seq + 1 }
    State.refuseBlocked n (s.refuseUnfetched q seq Status.queueStopped 3) q

/-- The sequence number of a held record. -/
def GuestWrite.seq (w : GuestWrite) : Nat :=
  match w with
  | .quality _ r => r.sequence
  | .folioResult _ r => r.sequence
  | .verdict r => r.sequence
  | .final r => r.sequence
  | _ => 0

/-- Put a record behind those of lower or equal sequence number. -/
def insertRecord (w : GuestWrite) : List GuestWrite → List GuestWrite
  | [] => [w]
  | x :: t => if x.seq ≤ w.seq then x :: insertRecord w t else w :: x :: t

/-- The held records in sequence order (R173). -/
def sortRecords (l : List GuestWrite) : List GuestWrite := l.foldl (fun acc w => insertRecord w acc) []

/-- The state in which a resumption ends, as SC_QSTAT and the word give it. -/
def Queue.resumedWord (u : Queue) : CompletionWord := { u.word true with state := u.startState.code }

/-- A resumption begins (R173): the held records, the completion word with COMPLETION_PATH_BROKEN, and one completion
interrupt when a slot passed since the last word had INTERRUPT. -/
def State.startResume (s : State) (q : Nat) : State :=
  let u := s.queue q
  let s := s.modQueue q fun u =>
    { u with resuming := some u.tail, held := [], absorbedF := false, stepF := false, interruptF := false }
  let s := (sortRecords u.held).foldl (fun s w => s.pushWrite q w) s
  let s := s.pushWrite q (.word u.resumedWord)
  if u.interruptF then s.pushWrite q .completionInterrupt else s

/-- Steps 3 to 5 of R173, once the writes of a resumption have been accepted: the state is left, EVENT_VECTOR sent, and
the slots up to the tail of the RESUME are refused. -/
def State.endResume (s : State) (q : Nat) : State :=
  match (s.queue q).resuming with
  | none => s
  | some tail =>
    let s := s.modQueue q fun u =>
      { u with state := u.startState, resuming := none, pathFetch := false, pathStatus := false, pathCompl := false,
               guestStop := false }
    let s := s.pushWrite q .eventInterrupt
    let n := (s.queue q).unfetched tail
    let s := State.refuseBlocked n s q
    s.writeWord q false

/-- Whether the word with which a resumption ends has been accepted: no record or word of it is left. -/
def Queue.resumeDone (u : Queue) : Bool :=
  u.resuming.isSome && u.writes.all fun w => match w with | .word _ => false | _ => true

/-- QUEUE_WRITE_ACCEPTED (R161): the first write of the queue's list has been accepted by PATH. Log entry 64 (DEDUCED). -/
def execQueueWriteAccepted (q : Nat) (s : State) : Host.Outcome State Fault Refusal :=
  .next <| s.whenLive fun s => s.when (!(s.queue q).writes.isEmpty) fun s =>
    let s := (s.modQueue q fun u => { u with writes := u.writes.tail }).issueHead q
    s.when (s.queue q).resumeDone fun s => s.endResume q

/-- INTERRUPT_LOST (R165): the message at the head of the list cannot be delivered. -/
def execInterruptLost (q : Nat) (s : State) : Host.Outcome State Fault Refusal :=
  .next <| s.whenLive fun s =>
    s.when ((s.queue q).writes.head?.any fun w => ((s.queue q).vectorOf w).isSome) fun s =>
      (s.modQueue q fun u => { u with writes := u.writes.tail, intLost := true }).issueHead q

/-! ### A failed access to a queue area -/

/-- Whether the access that fails is under way: a slot read, or the record or word at the head of the list. -/
def Queue.accessing (u : Queue) (a : QueueArea) : Bool :=
  match a with
  | .fetch => u.fetching
  | .status => match u.writes.head? with
    | some (.verdict _) => true
    | some (.final _) => true
    | _ => false
  | .completion => match u.writes.head? with
    | some (.word _) => true
    | _ => false

/-- Set the PATH bit of an area (R172). -/
def Queue.markPath (u : Queue) (a : QueueArea) : Queue :=
  match a with
  | .fetch => { u with pathFetch := true }
  | .status => { u with pathStatus := true }
  | .completion => { u with pathCompl := true }

/-- Take the writes that cannot go out off the list: records are held, the flags of a word count again, and a
completion interrupt waits for the next word. -/
def Queue.holdOne (u : Queue) (w : GuestWrite) : Queue :=
  match w with
  | .verdict _ => { u with held := u.held ++ [w] }
  | .final _ => { u with held := u.held ++ [w] }
  | .word c => { u with absorbedF := u.absorbedF || bitAt c.cflags 1, stepF := u.stepF || bitAt c.cflags 2 }
  | .completionInterrupt => { u with interruptF := true }
  | _ => { u with writes := u.writes ++ [w] }

def Queue.holdWrites (u : Queue) (ws : List GuestWrite) : Queue := ws.foldl Queue.holdOne u

/-- The list after a failed access; a write that was issued before a slot read failed is still under way. Records of a
drain that cannot be written are discarded (R175). -/
def Queue.stopWrites (u : Queue) (a : QueueArea) : Queue :=
  let kept := if a == .fetch then u.writes.take 1 else []
  let v := { u with writes := kept, fetching := false }.holdWrites (u.writes.drop kept.length)
  if u.state == .draining then { v with held := [] } else v

/-- The interrupt source and the indication of a queue that enters COMPLETION_BLOCKED (R172, R352). -/
def State.noteBlocked (s : State) (q : Nat) : State :=
  let p := (s.queue q).partition
  (s.icFire (16 + p)).modPart p fun u => { u with events := { u.events with queuePath := satAdd 16 u.events.queuePath 1 } }

/-- QUEUE_AREA_ACCESS_FAIL (R172 to R174). Log entry 55 (DESIGN CHOICE). -/
def execQueueAreaAccessFail (q : Nat) (area : QueueArea) (s : State) : Host.Outcome State Fault Refusal :=
  .next <| s.whenLive fun s => s.when ((s.queue q).accessing area) fun s =>
    let before := s.queue q
    let s := s.modQueue q fun u => (u.markPath area).stopWrites area
    let s := if area == .fetch then s else s.issueHead q
    match before.state with
      | .active | .stopped =>
        let s := s.modQueue q fun u => { u with blockPoint := u.nextSeq }
        (s.setQState q .blocked).noteBlocked q
      | .blocked =>
        s.when before.resuming.isSome fun s =>
          s.modQueue q fun u => { u with resuming := none, resumeFailed := satAdd 16 u.resumeFailed 1 }
      | _ => s

/-! ### SC_QCTL -/

/-- SC_QCTL_STOP (R169): STOP written alone. -/
def execScQctlStop (r : Requester) (q : Nat) (s : State) : Host.Outcome State Fault Refusal :=
  .next <| s.onQueuePage r q 0x38 fun s =>
    s.when ((s.queue q).state == .active) fun s =>
      (s.modQueue q fun u => { u with guestStop := true }).setQState q .stopped

/-- SC_QCTL_RESUME (R169, R173): RESUME written alone. -/
def execScQctlResume (r : Requester) (q : Nat) (s : State) : Host.Outcome State Fault Refusal :=
  .next <| s.onQueuePage r q 0x38 fun s =>
    let u := s.queue q
    if u.state == .blocked && u.resuming.isNone then s.startResume q
    else
      s.when (u.state == .stopped && u.guestStop && !u.mgmtStop) fun s =>
        (s.modQueue q fun u => { u with guestStop := false }).setQState q .active

/-! ### Guilt -/

/-- QUEUE_GUILTY (R169, R176, R381): the queue blamed for an error that is being handled. Cause 1 is an error of the
queue's own state, 2 of an admitted copy. Slots that have not been admitted retire under R170. -/
def execQueueGuilty (q : Nat) (admittedCopy : Bool) (s : State) : Host.Outcome State Fault Refusal :=
  .next <| s.whenLive fun s =>
    let u := s.queue q
    s.when (s.errs.handlingQ.contains q && (u.state == .active || u.state == .stopped || u.state == .blocked)) fun s =>
      let s := { s with errs := { s.errs with handlingQ := s.errs.handlingQ.filter (· != q) } }
      let s := (s.modQueue q fun u => { u with resuming := none }).setQState q .guilty
      let mine := s.slots.filter fun e => e.queue == q
      mine.foldl (fun s e =>
        if e.admitted then s.endSlot q e.seq (.guilty (if admittedCopy then 2 else 1))
        else s.refuseSlot q e.seq Status.queueStopped 2) s

end Sys2Proof.Machine
end

