-- ==== Sys2Proof/Machine/Admission.lean ====
section
/-!
DEFINITION. Affinity and placement (R207 to R210), the reservation calendar (R187 to R189, R194) and the admission test
(R184, R185, R190 to R193, R299).
-/
namespace Sys2Proof.Machine

open Sys2Proof

/-! ### Affinity -/

/-- Insert behind the entries that do not come after `a`. -/
def insertBy {α : Type} (before : α → α → Bool) (a : α) : List α → List α
  | [] => [a]
  | b :: t => if before a b then a :: b :: t else b :: insertBy before a t

/-- The list in the order of `before`, equal entries in their own order. -/
def sortBy {α : Type} (before : α → α → Bool) (l : List α) : List α :=
  l.foldl (fun acc a => insertBy before a acc) []

/-- Warmth of a tag in cluster `c` (R207). -/
def Partition.warmth (p : Partition) (tag c : Nat) : Nat :=
  match p.affinity.find? fun e => e.2.tag == tag with
  | some e => e.2.warmth.getD c 0
  | none => 0

/-- The largest warmth of an entry. -/
def Affinity.hottest (a : Affinity) : Nat := (a.warmth.map (·.2)).foldl max 0

/-- The entry that gives way: the largest warmth smallest, the lowest index on a tie (R207). -/
def coolest : List (Nat × Affinity) → Option Nat
  | [] => none
  | e :: t =>
    match coolest t with
    | none => some e.1
    | some j => if (t.find? fun x => x.1 == j).any (fun x => x.2.hottest < e.2.hottest) then some j else some e.1

/-- Set the warmth of a non-zero tag in cluster `c` to 15 (R207). -/
def Partition.warm (p : Partition) (tag c : Nat) : Partition :=
  if tag == 0 then p
  else
    match p.affinity.find? fun e => e.2.tag == tag with
    | some (i, a) => { p with affinity := p.affinity.put i { a with warmth := a.warmth.put c 15 } }
    | none =>
      match (p.affinity.firstFree 256).orElse fun _ => coolest p.affinity with
      | some i => { p with affinity := p.affinity.put i { tag := tag, warmth := [(c, 15)] } }
      | none => p

/-- Warmth of cluster `c` set to 0 in every entry (R207, R290). -/
def Partition.chill (p : Partition) (c : Nat) : Partition :=
  { p with affinity := p.affinity.mapV fun _ a => { a with warmth := a.warmth.del c } }

/-- Every non-zero warmth decreases by one (R207). -/
def Partition.coolDown (p : Partition) : Partition :=
  { p with affinity := p.affinity.mapV fun _ a =>
      { a with warmth := (a.warmth.mapV fun _ w => w - 1).filter fun e => e.2 != 0 } }

/-- The phase maps of a variant for the phases a launch selects. Log entry 22 (DESIGN CHOICE). -/
def GraphImage.mapsIn (g : GraphImage) (v : Variant) (phases : List Nat) : List PhaseMap :=
  (g.mapsFor v phases).filterMap fun i => g.phaseMaps[i]?

/-- Q of R208. -/
def GraphImage.quadsNeeded (g : GraphImage) (v : Variant) (phases : List Nat) : Nat :=
  ((g.mapsIn v phases).map (·.quadsPerShard)).foldl max 0

/-- Clusters that are eligible for a launch (R208). -/
def State.eligible (s : State) (p : Partition) (quads : Nat) : List Nat :=
  (List.range s.nClusters).filter fun c => !(s.cluster c).quarantined && quads ≤ p.quadsIn c

/-! ### The calendar -/

/-- Whether a reservation lies in the entry of cluster `c` in frame `f`. -/
def Hold.inEntry (h : Hold) (f c : Nat) : Bool := h.cluster == c && h.first ≤ f && f ≤ h.last

/-- Engine-ns, near rate and capacity rate reserved in an entry (R189). -/
def engineHeld (hs : List Hold) (f c : Nat) : Nat := ((hs.filter fun h => h.inEntry f c).map (·.engine)).sum
def nearHeld (hs : List Hold) (f c : Nat) : Nat := ((hs.filter fun h => h.inEntry f c).map (·.near)).sum
def capHeld (hs : List Hold) (f c : Nat) : Nat := ((hs.filter fun h => h.inEntry f c).map (·.cap)).sum

/-- Launches with a reservation in an entry (R189). -/
def holdersIn (hs : List Hold) (f c : Nat) : Nat :=
  ((hs.filter fun h => h.inEntry f c).map fun h => (h.queue, h.seq)).eraseDups.length

def Partition.reg (p : Partition) (port tier : Nat) : Regulator := p.regs.getD (2 * port + tier) {}

/-- SHARE as in effect or pending after a lowering, whichever is smaller (R188). -/
def Regulator.promisable (r : Regulator) : Nat := min r.share (r.pendShare.getD r.share)

/-- CAP_E (R188). -/
def Partition.capEngine (p : Partition) (c : Nat) : Nat := p.quadsIn c * 8 * 8192 * p.promiseLimit / 16

/-- CAP_N and CAP_C (R188): the tier's rate in GB/s at 500 or 125. -/
def Partition.capRate (p : Partition) (tier gbps c : Nat) : Nat :=
  if p.quadsIn c == 0 then 0
  else (([2 * c, 2 * c + 1]).map fun port => (p.reg port tier).promisable * gbps * 7936 / (65536 * 8192)).sum

/-- The affinity order for a weight tag and a KV tag (R209). Log entry 22 (DESIGN CHOICE). -/
def State.affinityOrder (s : State) (p : Partition) (w k quads : Nat) : List Nat :=
  let f := frameOf s.time.ct
  let heat (c : Nat) : Nat := p.warmth w c + p.warmth k c
  let held (c : Nat) : Nat := engineHeld p.holds f c
  sortBy (fun a b => heat b < heat a || (heat a == heat b && held a < held b)) (s.eligible p quads)

/-- The affinity order of a variant for the phases that a launch selects. Log entry 22 (DESIGN CHOICE). -/
def State.orderFor (s : State) (p : Partition) (g : GraphImage) (v : Variant) (phases : List Nat) : List Nat :=
  match (g.mapsIn v phases).head? with
  | some m => s.affinityOrder p m.weightTag m.kvTag (g.quadsNeeded v phases)
  | none => []

/-- A window of frames, both ends included. -/
structure Window where
  first : Nat
  last  : Nat

/-- frames(a, b) of R190. -/
def framesOf (a b : Nat) : Window := { first := frameOf a, last := frameOf b }

def Window.length (w : Window) : Nat := w.last + 1 - w.first

/-- Whether a frame counts as full for new promises: the frames after an anchor (R134), and for P63 the frames of another
context with the START_ALLOW_NS after them (R299). -/
def State.frameFull (s : State) (p : Partition) (ctx f : Nat) : Bool :=
  f < s.time.fullThrough
    || (p.kind == 2 && p.holds.any fun h => h.context != ctx && h.first ≤ f && 8192 * f < 8192 * (h.last + 1) + p.startAllow)

/-- What one variant asks of each frame of a window. -/
structure Ask where
  engine : Nat
  near   : Nat
  cap    : Nat

/-- Whether an ask fits the entry of cluster `c` in frame `f` beside what is held; `rates` says whether the rate
capacities count. -/
def Partition.fitsFrame (p : Partition) (own : List Hold) (rates : Bool) (a : Ask) (c f : Nat) : Bool :=
  let hs := own ++ p.holds
  engineHeld hs f c + a.engine ≤ p.capEngine c
    && (!rates || (nearHeld hs f c + a.near ≤ p.capRate 0 500 c && capHeld hs f c + a.cap ≤ p.capRate 1 125 c))

/-- fits of R190: never beyond the horizon of R187. -/
def State.fits (s : State) (p : Partition) (ctx : Nat) (own : List Hold) (rates : Bool) (w : Window) (a : Ask) (c : Nat) :
    Bool :=
  w.last ≤ frameOf s.time.ct + 4095 && p.quadsIn c != 0
    && (List.range w.length).all fun i => !s.frameFull p ctx (w.first + i) && p.fitsFrame own rates a c (w.first + i)

/-! ### The figures of a promise -/

/-- I for new admissions (R184, R413 to R415). -/
def State.issueNew (s : State) : Nat :=
  let capped := s.power.hardCap || s.clusters.any fun e => e.2.throttled
  if capped then min s.power.issueSoft 4 else s.power.issueSoft

/-- ceil(16/I × x). -/
def scaled16 (i x : Nat) : Nat := ceilDiv (16 * x) i

/-- Engine time of a variant over a window of `n` frames, per frame (R184, R190). -/
def GraphImage.ask (g : GraphImage) (v : Variant) (phases : List Nat) (i n : Nat) : Ask :=
  let e := if v.wcetNs == 0 then 0 else ceilDiv (16 * v.engineNs * g.wcetOf v phases) (i * v.wcetNs)
  { engine := ceilDiv e n, near := v.nearRate, cap := v.capRate }

/-- What the admission of one slot needs. -/
structure Tested where
  ctx      : Nat
  image    : GraphImage
  primary  : Variant
  fallback : Option Variant
  phases   : List Nat
  issue    : Nat
  /-- D, D_e, T0 on the internal scale, B and R. -/
  deadline : Nat
  effective : Nat
  t0       : Nat
  budget   : Nat
  reserve  : Nat
  /-- Affinity orders of the two variants. -/
  orderP   : List Nat
  orderF   : List Nat

/-- A reservation of the slot. -/
def mkHold (q seq ctx : Nat) (w : Window) (a : Ask) (reserve : Bool) (c : Nat) : Hold :=
  { queue := q, seq := seq, context := ctx, cluster := c, first := w.first, last := w.last, engine := a.engine,
    near := a.near, cap := a.cap, reserve := reserve }

/-- Try one start: the clusters of the primary and of the fallback with the reservations, when both windows fit. The
reserve window runs from `h` to `e`. -/
def State.tryStart (s : State) (p : Partition) (t : Tested) (rates : Bool) (q seq start h e : Nat) :
    Option (List Nat × List Nat × List Hold) :=
  let pw := framesOf start (start + t.budget)
  let ap := t.image.ask t.primary t.phases t.issue pw.length
  let cp := (t.orderP.filter fun c => s.fits p t.ctx [] rates pw ap c).take t.primary.clusters
  if cp.length < t.primary.clusters then none
  else
    let own := cp.map (mkHold q seq t.ctx pw ap false)
    match t.fallback with
    | none => some (cp, [], own)
    | some v =>
      let rw := framesOf h e
      let af := t.image.ask v t.phases t.issue rw.length
      let cf := (t.orderF.filter fun c => s.fits p t.ctx own rates rw af c).take v.clusters
      if cf.length < v.clusters then none else some (cp, cf, own ++ cf.map (mkHold q seq t.ctx rw af true))

/-- The frame start after `t`. -/
def nextFrame (t : Nat) : Nat := 8192 * (frameOf t + 1)

/-- The search of R190 against a fixed hem point: the first start that fits. -/
def State.search (s : State) (p : Partition) (t : Tested) (rates : Bool) (q seq hem : Nat) :
    Nat → Nat → Option (Nat × List Nat × List Nat × List Hold)
  | 0, _ => none
  | n + 1, start =>
    if hem < start + t.budget then none
    else
      match s.tryStart p t rates q seq start hem (t.effective - 1000) with
      | some r => some (start, r)
      | none => State.search s p t rates q seq hem n (nextFrame start)

/-- The earliest feasible CT on the internal scale (R193): the hem point stands at start + B. -/
def State.earliest (s : State) (p : Partition) (t : Tested) (q seq : Nat) : Nat → Nat → Nat
  | 0, _ => 0
  | n + 1, start =>
    if frameOf s.time.ct + 4095 < frameOf start then 0
    else
      let h := start + t.budget
      match s.tryStart p t true q seq start h (h + t.reserve + 16384 - 1000) with
      | some _ => h + t.reserve + 16384
      | none => State.earliest s p t q seq n (nextFrame start)

/-- The outcome of the admission test. -/
inductive Verdict where
  | refuse (cause earliest : Nat)
  | accept (p : Promise) (cp cf : List Nat) (holds : List Hold)

/-- The effective deadline (R185). -/
def effectiveDeadline (d ta : Nat) : Nat := min d (8192 * (frameOf ta + 4096) - 1)

/-- The admission test of R190, for a slot whose covered slots allow it. -/
def State.admitTest (s : State) (p : Partition) (t : Tested) (q seq : Nat) : Verdict :=
  let earliest := s.outScale (s.earliest p t q seq 4098 t.t0)
  if t.effective < t.t0 + t.budget + t.reserve + 16384 then .refuse 3 earliest
  else
    let hem := t.effective - t.reserve - 16384
    match s.search p t true q seq hem 4098 t.t0 with
    | some (start, cp, cf, hs) =>
      .accept { deadline := t.deadline, effective := t.effective, hem := hem, origin := start, budget := t.budget,
                reserve := t.reserve, scaleI := t.issue } cp cf hs
    | none => if (s.search p t false q seq hem 4098 t.t0).isSome then .refuse 5 earliest else .refuse 4 earliest

/-- The figures of R184 and R185 for a slot; `after` is the latest promised CT among its covered slots.
Log entry 61 (DEDUCED). -/
def State.figures (s : State) (e : Slot) (g : GraphImage) (v : Variant) (after : Nat) : Tested :=
  let p := s.part e.partition
  let phases := g.phasesOf v e.field
  let fb := v.fallback.bind fun i => g.variants[i]?
  let i := s.issueNew
  let d := s.inScale (SlotField.fDeadline e.raw)
  { ctx := e.context, image := g, primary := v, fallback := fb, phases := phases, issue := i, deadline := d
    effective := effectiveDeadline d s.time.ct
    t0 := max s.time.ct after + p.startAllow
    budget := scaled16 i (g.wcetOf v phases)
    reserve := (fb.map fun w => scaled16 i (g.wcetOf w phases)).getD 0
    orderP := s.orderFor p g v phases
    orderF := (fb.map fun w => s.orderFor p g w phases).getD [] }

/-- Count a refusal in SC_PADM_REFUSED (R206). -/
def PAdm.refused (a : PAdm) (cause : Nat) : PAdm :=
  match cause with
  | 3 => { a with refDeadline := satAdd 16 a.refDeadline 1 }
  | 4 => { a with refEngine := satAdd 16 a.refEngine 1 }
  | 5 => { a with refMemory := satAdd 16 a.refMemory 1 }
  | _ => { a with refOther := satAdd 16 a.refOther 1 }

/-- Step 10 of R147 for a PROMISED slot (R190 to R192). -/
def State.promiseVerdict (s : State) (e : Slot) (g : GraphImage) (v : Variant) : Verdict :=
  if s.time.state = .unlocked then .refuse 1 0
  else
    let covered := (e.covers.filterMap fun c => s.slot? c.1 c.2).filter fun x => x.state != .finished && x.opcode != 5
    if covered.any fun x => x.promise.isNone then .refuse 2 0
    else
      let after := (covered.filterMap fun x => x.promise.map (·.deadline)).foldl max 0
      s.admitTest (s.part e.partition) (s.figures e g v after) e.queue e.seq

end Sys2Proof.Machine
end

