-- ==== Sys2Proof/Machine/Translate.lean ====
section
/-!
DEFINITION. The translation units: the ATC (R264 to R268), Translation Requests, faults and where they wait (R270 to
R277), windows (R278, R279), and starting a memory request of any space (R261).
-/
namespace Sys2Proof.Machine

open Sys2Proof

/-! ### The ATC -/

/-- Entries of one die, and Translation Request slots of one die. -/
abbrev atcPerDie : Nat := 16384
abbrev xlatPerDie : Nat := 256

/-- Whether an entry covers a virtual address or a page index. -/
def Atc.coversAt (a : Atc) (x : Nat) : Bool :=
  if a.folio then a.first ≤ x && x < a.first + a.run else a.first ≤ x && x < a.first + a.run * 2 ^ a.pageLog2

/-- The entry of a die that translates for a partition; `tag` is the PASID or the folio. -/
def State.atcFind (s : State) (die p : Nat) (folio : Bool) (tag version x : Nat) : Option (Nat × Atc) :=
  s.atc.find? fun e => e.1 / atcPerDie == die && e.2.partition == p && e.2.folio == folio && e.2.tagA == tag
    && e.2.version == version && e.2.coversAt x

/-- The address that an entry gives. -/
def Atc.apply (a : Atc) (x : Nat) : Nat := a.target + (x - a.first)

def State.atcHeld (s : State) (die p : Nat) : Nat :=
  (s.atc.filter fun e => e.1 / atcPerDie == die && e.2.partition == p).length

/-- The least recently used unpinned entry among those that satisfy a test. -/
def State.atcOldest (s : State) (t : Nat × Atc → Bool) : Option Nat :=
  ((s.atc.filter fun e => t e && e.2.pinned == 0).foldl
    (fun (acc : Option (Nat × Atc)) e =>
      match acc with
      | none => some e
      | some a => if e.2.lastUse < a.2.lastUse then some e else some a) none).map (·.1)

def Partition.atcLimit (p : Partition) (die : Nat) : Nat := p.atcQuota.getD die 256

/-- The entry that a fill of partition `p` takes on a die (R265): its own oldest at its quota, else a free one, else one
of a partition above its quota. -/
def State.atcSlot (s : State) (die p : Nat) : Option Nat :=
  let here (e : Nat × Atc) : Bool := e.1 / atcPerDie == die
  if (s.part p).atcLimit die ≤ s.atcHeld die p then s.atcOldest fun e => here e && e.2.partition == p
  else
    match (List.range atcPerDie).find? fun i => (s.atc.get? (die * atcPerDie + i)).isNone with
    | some i => some (die * atcPerDie + i)
    | none => s.atcOldest fun e => here e && (s.part e.2.partition).atcLimit die < s.atcHeld die e.2.partition

/-- Fill an entry; when the partition may take none, the translation is used and not kept. -/
def State.atcFill (s : State) (die : Nat) (a : Atc) : State :=
  match s.atcSlot die a.partition with
  | some k => { s with atc := s.atc.put k { a with lastUse := s.reqNo } }
  | none => s

/-- Remove entries; a pinned one is unpinned by it (R268). -/
def State.atcDrop (s : State) (t : Atc → Bool) : State :=
  let gone := (s.atc.filter fun e => t e.2).map (·.1)
  { s with atc := s.atc.filter fun e => !t e.2
           cores := s.cores.mapV fun _ c => { c with pins := c.pins.filter fun k => !gone.contains k } }

/-- Pin an entry for a core's tile. -/
def State.pin (s : State) (core k : Nat) : State :=
  match s.atc.get? k with
  | some a =>
    if (s.core core).pins.contains k then s
    else ({ s with atc := s.atc.put k { a with pinned := a.pinned + 1 } }).modCore core fun c => { c with pins := k :: c.pins }
  | none => s

/-- Unpin everything that a core's tile holds (R223). -/
def State.unpinAll (s : State) (core : Nat) : State :=
  let s := (s.core core).pins.foldl (fun s k =>
    match s.atc.get? k with
    | some a => { s with atc := s.atc.put k { a with pinned := a.pinned - 1 } }
    | none => s) s
  s.modCore core fun c => { c with pins := [] }

/-! ### Who a request belongs to -/

/-- The launch that a request works for. -/
def State.launchOf (s : State) (r : MemReq) : Option (Nat × Nat) :=
  match r.who with
  | .gather k _ => some ((s.core k).queue, (s.core k).seq)
  | .commit k => some ((s.core k).queue, (s.core k).seq)
  | .fill q n => some (q, n)
  | .parked q n _ => some (q, n)
  | .commitWrite q n => some (q, n)
  | .writeBack => none
  | .adder => none
  | .spine _ _ => none

/-- The slot that a read of guest memory is made for. -/
def State.forSlot (s : State) (r : MemReq) : Nat × Nat :=
  match r.who with
  | .spine q n => (q, n)
  | _ => (s.launchOf r).getD (0xFFFF, 0)

/-- SOURCE of a fault-ring entry (R271). -/
def faultSource (r : MemReq) : Nat :=
  match r.who with
  | .commit _ => 1
  | .fill _ _ => 2
  | .spine _ _ => 3
  | _ => 0

/-- The stream of a tile's commit targets, kept beside its 64 strands (R117). -/
abbrev commitStream : Nat := 64

/-- The state of the strand that waits for a request. -/
def State.strandOf (s : State) (r : MemReq) (st : Strand) : State :=
  match r.who with
  | .gather k n => s.modCore k fun c => { c with strands := c.strands.put n st }
  | .commit k => s.modCore k fun c => { c with strands := c.strands.put commitStream st }
  | _ => s

/-- Whether every strand that a tile uses is PARKED or IDLE (R222). -/
def Core.stalled (c : Core) : Bool :=
  c.strands.any (fun e => e.2 == .parked) && c.strands.all fun e => e.2 == .parked || e.2 == .idle

/-- Keep the local time since which a core is stalled. -/
def State.noteStall (s : State) (k : Nat) : State :=
  s.modCore k fun c =>
    if c.stalled then { c with idleSince := c.idleSince.orElse fun _ => some s.time.now } else { c with idleSince := none }

def State.strandNow (s : State) (r : MemReq) (st : Strand) : State :=
  match r.who with
  | .gather k _ => (s.strandOf r st).noteStall k
  | .commit k => (s.strandOf r st).noteStall k
  | _ => s

/-! ### Faults -/

/-- UNRESOLVED of a context counts one more fault (R276). Log entry 49 (DEDUCED). -/
def State.countUnresolved (s : State) (p x : Nat) : State :=
  s.modCtx (ctxKey p x) fun c => { c with unresolved := satAdd 16 c.unresolved 1 }

/-- A request met an unresolved answer (R273): the launch is to end with the cause; what Spine reads is unreadable. -/
def State.unresolveReq (s : State) (id cause : Nat) : State :=
  match s.reqs.get? id with
  | none => s
  | some r =>
    let s := match r.who with
      | .commitWrite _ _ => s.dropReq id
      | .spine q n => (s.dropReq id).modSlot q n fun e => { e with unreadable := true }
      | _ => s.setReq id { r with place := .faulted }
    match s.launchOf r with
    | some (q, n) => s.modSlot q n fun e => { e with unresolved := e.unresolved.orElse fun _ => some cause }
    | none => s

/-- A request alone met an unresolved answer. Log entry 49 (DEDUCED). -/
def State.unresolve (s : State) (id cause : Nat) : State :=
  match s.reqs.get? id with
  | some r => (s.unresolveReq id cause).countUnresolved r.partition r.context
  | none => s

def State.modFault (s : State) (id : Nat) (f : FaultRec → FaultRec) : State :=
  { s with faults := s.faults.map fun x => if x.id == id then f x else x }

def State.fault? (s : State) (id : Nat) : Option FaultRec := s.faults.find? fun x => x.id == id

/-- A request meets a fault (R270): it joins the record of its page, or a new record joins the context's batch. -/
def State.recordFault (s : State) (id page : Nat) : State :=
  match s.reqs.get? id with
  | none => s
  | some r =>
    let s := s.strandNow r .parked
    let s := s.setReq id { r with place := .faulted }
    let die := dieOfCluster r.cluster
    match s.faults.find? fun x => x.partition == r.partition && x.context == r.context && x.page == page && x.die == die with
    | some x => s.modFault x.id fun x =>
        { x with waiters := if x.waiters.contains id then x.waiters else x.waiters ++ [id], write := x.write || r.write }
    | none =>
      let (q, n) := (s.launchOf r).getD (0xFFFF, 0)
      let x : FaultRec :=
        { id := s.faultNo, die := die, context := r.context, partition := r.partition, page := page, write := r.write,
          source := faultSource r, queue := q, guestTag := ((s.slot? q n).map (·.guestTag)).getD 0, launchSeq := n,
          firstNs := s.time.now, waiters := [id] }
      let s := s.modCtx (ctxKey r.partition r.context) fun c => { c with faultTotal := satAdd 64 c.faultTotal 1 }
      { s with faults := s.faults ++ [x], faultNo := s.faultNo + 1 }

/-- Records of a partition in the fault buffer of a die (R275). -/
def State.buffered (s : State) (p die : Nat) : Nat :=
  (s.faults.filter fun x => x.partition == p && x.die == die && x.place == .buffer).length

def Partition.faultLimit (p : Partition) (die : Nat) : Nat := p.faultQuota.getD die 8

/-- FAULT_OVERFLOW follows the held faults (R276). -/
def State.noteOverflow (s : State) (p x : Nat) : State :=
  let held := s.faults.any fun f => f.partition == p && f.context == x && f.place == .heldByStream
  s.modCtx (ctxKey p x) fun c =>
    { c with overflow := held, overflows := if held && !c.overflow then satAdd 16 c.overflows 1 else c.overflows }

/-- A fault that its destination cannot take enters the buffer, or is held by its stream (R275, R276). -/
def State.bufferFault (s : State) (id : Nat) : State :=
  match s.fault? id with
  | none => s
  | some x =>
    let room := s.buffered x.partition x.die < (s.part x.partition).faultLimit x.die
    (s.modFault id fun x => { x with place := if room then .buffer else .heldByStream }).noteOverflow x.partition x.context

/-- Whether the ring of a fabric context takes one more entry (R271, R277). -/
def Context.ringRoom (c : Context) : Bool := c.fseq - c.consumer ≤ 2 ^ c.ringLog2

/-- Write one fault-ring entry (R271). -/
def State.ringWrite (s : State) (id : Nat) : State :=
  match s.fault? id with
  | none => s
  | some x =>
    let k := ctxKey x.partition x.context
    match s.ctx? k with
    | none => s
    | some c =>
      let s := s.modFault id fun x => { x with place := .ring c.fseq, retryAt := 0, interval := 2048 }
      let s := s.modCtx k fun c => { c with fseq := c.fseq + 1, ringWrites := c.ringWrites ++ [c.fseq] }
      let ports := ((c.windows.get? 0).map (·.ports)).getD 1
      s.viaPort ((s.upPort ports).getD 0)
        (.faultEntry k c.fseq (x.page * 4096) (if x.write then 2 else 1) x.source x.queue x.guestTag x.launchSeq)

/-- Page Requests outstanding at the host. -/
def State.pagesOut (s : State) : Nat :=
  (s.faults.filter fun x => match x.place with | .delivered _ => true | _ => false).length

/-- Every waiter of a fault meets an unresolved answer, and the record goes. Log entry 49 (DEDUCED). -/
def State.faultUnresolved (s : State) (id cause : Nat) : State :=
  match s.fault? id with
  | none => s
  | some x =>
    let s := x.waiters.foldl (fun s w => s.unresolveReq w cause) (s.countUnresolved x.partition x.context)
    ({ s with faults := s.faults.filter fun y => y.id != id }).noteOverflow x.partition x.context

/-- Give faults of a HOST context to the host as one Page Request Group, as far as the allocation goes (R270, R275). -/
def State.pageRequest (s : State) (ids : List Nat) (pasid : Nat) : State :=
  let fit := ids.take (s.pageAlloc - s.pagesOut)
  let g := s.groupNo % 512
  let pages := fit.filterMap fun i => (s.fault? i).map fun x => x.page * 4096
  let s := if fit.isEmpty then s
    else
      let s := fit.foldl (fun s i => s.modFault i fun x => { x with place := .delivered g }) s
      { s with groupNo := s.groupNo + 1 }.emit (.pageRequests g pasid pages)
  (ids.drop fit.length).foldl State.bufferFault s

/-- Send faults of one context on (R270): to the host, or to the fault ring; what is not taken is buffered. -/
def State.deliverFaults (s : State) (p x : Nat) (ids : List Nat) : State :=
  match s.ctx? (ctxKey p x) with
  | none => s
  | some c =>
    if !c.fabric then
      if !s.pri || (s.part p).priOff then ids.foldl (fun s i => s.faultUnresolved i 2) s
      else s.pageRequest ids c.pasid
    else ids.foldl (fun s i =>
      match s.ctx? (ctxKey p x) with
      | some c => if c.ringRoom && !c.ringBroken then s.ringWrite i else s.bufferFault i
      | none => s) s

/-- The records of a context that wait in the buffer or with their streams, in order of first fault (R275, R276). -/
def State.waitingFaults (s : State) (p x : Nat) : List Nat :=
  (s.faults.filter fun f => f.partition == p && f.context == x && (f.place == .buffer || f.place == .heldByStream)).map (·.id)

/-- Room has appeared: waiting records go on, buffered ones first in order of first fault. Log entry 49 (DEDUCED). -/
def State.drainFaults (s : State) (p x : Nat) : State :=
  let ids := s.waitingFaults p x
  if ids.isEmpty then s else (s.deliverFaults p x ids).noteOverflow p x

/-! ### Requests of the guest's space -/

/-- Ask the host for a translation of one page (R263, R267): join the outstanding request, or take a slot. Without a free
slot the request waits. -/
def State.askHost (s : State) (id : Nat) (r : MemReq) (c : Context) : State :=
  let die := dieOfCluster r.cluster
  let page := r.address / 4096
  let s := (s.setReq id { r with place := .translating }).strandNow r .waiting
  match s.xlats.find? fun e => e.1 / xlatPerDie == die && !e.2.folio && e.2.partition == r.partition
      && e.2.context == r.context && e.2.page == page && !e.2.dead with
  | some (k, x) => { s with xlats := s.xlats.put k { x with waiters := x.waiters ++ [id], write := x.write || r.write } }
  | none =>
    match (List.range xlatPerDie).find? fun i => (s.xlats.get? (die * xlatPerDie + i)).isNone with
    | none => s
    | some i =>
      let k := die * xlatPerDie + i
      let x : XlatReq :=
        { partition := r.partition, context := r.context, tagA := c.pasid, page := page, write := r.write, waiters := [id] }
      { s with xlats := s.xlats.put k x }.emit (.xlatRequest k c.pasid (page * 4096) !r.write)

/-- The commit stream of a core goes on when none of its requests is left. -/
def State.commitStreamNow (s : State) (core : Nat) : State :=
  if s.reqs.any fun e => e.2.who == .commit core then s
  else (s.modCore core fun c => { c with strands := c.strands.del commitStream }).noteStall core

/-- A host request with its translation: a commit target is pinned, another read goes to host memory (R117, R263). -/
def State.hostAccess (s : State) (id : Nat) (r : MemReq) (k : Nat) (a : Atc) : State :=
  let s := { s with atc := s.atc.put k { a with lastUse := s.reqNo } }
  match r.who with
  | .commit core => ((s.dropReq id).pin core k).commitStreamNow core
  | .parked _ _ _ => s.dropReq id
  | _ =>
    let (q, n) := s.forSlot r
    ((s.setReq id { r with place := .host }).strandNow r .waiting).emit (.guestRead q n (a.apply r.address) r.bytes)

/-- Up time of a fabric port so far (R447). -/
def FPort.upTime (f : FPort) (now : Nat) : Nat :=
  f.upTotal + match f.upSince with | some t => now - t | none => 0

/-- A fabric request through a window (R278): the window's length and rights are checked, and the request leaves through
the first of its ports that is up, or waits. A commit target needs no more than the checks. Log entry 39 (DEDUCED). -/
def State.windowAccess (s : State) (id : Nat) (r : MemReq) (c : Context) : State :=
  let off := r.address % 2 ^ 60
  match c.windows.get? (r.address / 2 ^ 60) with
  | none => s.unresolve id 4
  | some w =>
    if w.length < off + max 1 r.bytes then s.unresolve id 4
    else if !bitAt w.wrights (if r.write then 1 else 0) then s.unresolve id 3
    else
      match r.who with
      | .commit core => (s.dropReq id).commitStreamNow core
      | _ =>
        match s.upPort w.ports with
        | none => (s.setReq id { r with place := .missQueue }).strandNow r .waiting
        | some n =>
          let s := (s.setReq id { r with place := .fabric, port := n, upNs := (s.fport n).upTime s.time.now }).strandNow r
            .waiting
          s.viaPort n (.fabricReq id w.endpoint w.remote off r.bytes (if r.write then some r.data else none) n)

/-- Start, or start again, a request of a context's space. -/
def State.startGuest (s : State) (id : Nat) : State :=
  match s.reqs.get? id with
  | none => s
  | some r =>
    match s.ctx? (ctxKey r.partition r.context) with
    | none => s.unresolve id 5
    | some c =>
      if c.fabric then s.windowAccess id r c
      else
        match s.atcFind (dieOfCluster r.cluster) r.partition false c.pasid 0 r.address with
        | some (k, a) =>
          if (if r.write then a.write else a.read) then s.hostAccess id r k a else s.askHost id r c
        | none => s.askHost id r c

/-! ### Requests of a folio version -/

/-- The longest run of R266 around page `i` of a version: consecutive pool pages inside one aligned group of 16. Pages
with mirrors are kept singly. -/
def runFrom (pages : Tbl Page) (i : Nat) : Nat → Nat
  | 0 => 0
  | n + 1 =>
    match pages.get? i, pages.get? (i + 1) with
    | some a, some b =>
      if (i + 1) % 16 != 0 && b.addr == a.addr + pageBytes && a.mirror.isNone && b.mirror.isNone
      then 1 + runFrom pages (i + 1) n else 1
    | some _, none => 1
    | none, _ => 0

/-- The FOLIO entry that a page-list read gives. -/
def folioEntry (p folio : Nat) (v : VSlot) (page : Nat) : Option Atc :=
  (v.pages.get? page).map fun a =>
    { folio := true, partition := p, tagA := folio, first := page, version := v.version, pageLog2 := 21,
      run := max 1 (runFrom v.pages page 16), target := a.addr, mirror := if v.mirror == 2 then a.mirror.getD 0 else 0 }

/-- Read a page list for one page of a version: join the outstanding read, or take a slot (R267). -/
def State.askPageList (s : State) (id : Nat) (r : MemReq) (i v page : Nat) : State :=
  let die := dieOfCluster r.cluster
  let s := (s.setReq id { r with place := .translating }).strandNow r .waiting
  match s.xlats.find? fun e => e.1 / xlatPerDie == die && e.2.folio && e.2.partition == r.partition && e.2.tagA == i
      && e.2.version == v && e.2.page == page with
  | some (k, x) => { s with xlats := s.xlats.put k { x with waiters := x.waiters ++ [id] } }
  | none =>
    match (List.range xlatPerDie).find? fun n => (s.xlats.get? (die * xlatPerDie + n)).isNone with
    | none => s
    | some n =>
      let x : XlatReq :=
        { folio := true, partition := r.partition, context := r.context, tagA := i, version := v, page := page, waiters := [id] }
      { s with xlats := s.xlats.put (die * xlatPerDie + n) x }

/-- A request of pool memory: the strand goes on when the cache serves it. -/
def State.startPool (s : State) (id : Nat) (r : MemReq) : State :=
  let s := s.readPool id r
  match s.reqs.get? id with
  | some n => s.strandNow n (if n.place == .ready then .ready else .waiting)
  | none => s

/-- The pool address of a folio-relative offset, from an entry that covers its page. -/
def folioAddr (a : Atc) (page off : Nat) : Nat := a.target + (page - a.first) * pageBytes + off % pageBytes

/-- Start, or start again, a request of a folio version. `r.address` is the folio-relative offset. -/
def State.startFolio (s : State) (id : Nat) : State :=
  match s.reqs.get? id with
  | none => s
  | some r =>
    match r.folio with
    | none => s
    | some (i, v, page) =>
      match s.atcFind (dieOfCluster r.cluster) r.partition true i v page with
      | some (k, a) =>
        match r.who with
        | .commit core =>
          if r.bytes == 0 then ((s.dropReq id).pin core k).commitStreamNow core
          else s.startPool id { r with address := folioAddr a page r.address }
        | _ => s.startPool id { r with address := folioAddr a page r.address }
      | none => s.askPageList id r i v page

/-! ### Any request -/

/-- Start a new request of any space; a pool request goes to the cache and the ports. -/
def State.startReq (s : State) (r : MemReq) : State :=
  let id := s.reqNo
  if r.guest then (s.addReq r).startGuest id
  else if r.folio.isSome then (s.addReq r).startFolio id
  else (s.addReq r).startPool id r

/-- Start waiting requests again. -/
def State.restart (s : State) (ids : List Nat) : State :=
  ids.foldl (fun s id =>
    match s.reqs.get? id with
    | some r => if r.guest then s.startGuest id else s.startFolio id
    | none => s) s

/-- Requests of a die that wait for a Translation Request slot: no outstanding request lists them. -/
def State.slotless (s : State) (die : Nat) : List Nat :=
  (s.reqs.filter fun e => e.2.place == .translating && dieOfCluster e.2.cluster == die
    && !s.xlats.any fun x => x.2.waiters.contains e.1).map (·.1)

/-- A Translation Request slot is free again: its waiters and those without a slot go on. -/
def State.freeXlat (s : State) (k : Nat) (waiters : List Nat) : State :=
  let s := { s with xlats := s.xlats.del k }.restart waiters
  s.restart (s.slotless (k / xlatPerDie))

end Sys2Proof.Machine
end

