-- ==== Sys2Proof/Machine/SlotChecks.lean ====
section
/-!
DEFINITION. The checks of a fetched slot (R146 to R149): the slot's own fields, the arguments of its opcode, and, for a
launch, its graph, variant, phases, constants, bindings and limits, up to its admission (R104, R105, R108 to R110, R147,
R152 to R156, R252).
-/
namespace Sys2Proof.Machine

open Sys2Proof SlotField

/-! ### Step 3 of R147 -/

/-! Opcodes of R150. -/

namespace Op

abbrev nop : Nat := 0
abbrev launch : Nat := 1
abbrev chain : Nat := 2
abbrev advise : Nat := 3
abbrev prefetch : Nat := 4
abbrev fence : Nat := 5
abbrev seqAdmit : Nat := 6
abbrev seqRetire : Nat := 7
abbrev folioOpen : Nat := 8
abbrev folioClose : Nat := 9
abbrev folioPublish : Nat := 10

end Op

/-- CHAIN with CHAIN_OP RUN (R152). -/
def isRun (b : Bytes) : Bool := fOpcode b == Op.chain && le b 64 1 == 1

/-- Whether the class and the launch flags of a LAUNCH are open to the slot (R146, R150). -/
def launchLike (b : Bytes) : Bool := fOpcode b == Op.launch || isRun b

def isPromised (b : Bytes) : Bool := fClass b == 1

/-- Whether a field that the opcode does not use is not zero (R150). -/
def unusedSet (b : Bytes) : Bool :=
  fOpcode b != Op.launch
    && (!zeroAt b 8 12 || fConstAddr b != 0 || fConstLen b != 0 || fOverrideAddr b != 0 || fOverrideN b != 0
        || (fDeadline b != 0 && !(isRun b && isPromised b)) || (fOpcode b == Op.nop && !zeroAt b 64 64))

/-- Step 3 of R147: the lowest cause of R148 that fits, over a slot in the layout of R144. `compat` is the queue's
FORMAT 1, `promises` its PROMISE_OK. -/
def slotFieldCause (compat promises : Bool) (b : Bytes) : Option Nat :=
  let op := fOpcode b
  if 10 < op || (compat && !(op == Op.nop || op == Op.launch || op == Op.fence)) then some 1
  else if 1 < fClass b || (isPromised b && !(launchLike b && promises)) then some 2
  else if fFlags b ≥ 64 || ((flagAllOrNothing (fFlags b) || flagConsts (fFlags b)) && !launchLike b) then some 3
  else if !(zeroAt b 20 4 && zeroAt b 42 6 && zeroAt b 58 6) then some 4
  else if unusedSet b then some 5
  else if (if isPromised b then fDeadline b == 0 else fDeadline b != 0) then some 6
  else none

/-- What a PAQ 1.3 slot breaks beyond the slot that it stands for: its class, its flags and its own reserved bytes
(R181). Log entry 72 (DEDUCED). -/
def compatCause (b : Bytes) : Option Nat :=
  let op := fOpcode b
  if !(op == Op.nop || op == Op.launch || op == Op.fence) then some 1
  else if fClass b != 0 then some 2
  else if fFlags b &&& 0xF4 != 0 then some 3
  else if !(zeroAt b 20 4 && zeroAt b 34 14) then some 4
  else none

/-- The SCOPE of a compatibility FENCE is QUEUE (R182). -/
def scopeAsQueue (b : Bytes) : Bytes :=
  if fOpcode b == Op.fence then b.take 64 ++ zeros 1 ++ b.drop 65 else b

/-! ### Step 4 of R147: arguments -/

/-- The inline constants of a slot hold the arguments. -/
def args (b : Bytes) : Bytes := fConsts b

/-- A context's hold on an open version (R246). -/
def Context.openOf (c : Context) (f v : Nat) : Option FolioHold :=
  c.holds.find? fun h => h.folio == f && h.version == v && !h.draft

/-- A context's draft. -/
def Context.draftOf (c : Context) (f v : Nat) : Option FolioHold :=
  c.holds.find? fun h => h.folio == f && h.version == v && h.draft

/-- The newest version, by number, among holds. Log entry 40 (DEDUCED). -/
def newestOf (hs : List FolioHold) : Nat := (hs.map (·.version)).foldl max 0

/-- The range of a PREFETCH or ADVISE as pool segments (R95), when it is one that the partition may use: a version that the
context holds open, or extents in which the partition holds R. -/
def State.rangeOf (s : State) (e : Slot) : Option (List (Nat × Nat)) :=
  let a := args e.raw
  let off := le a 8 8
  let len := le a 16 8
  if len == 0 || 2 ^ 64 < off + len then none
  else if le a 0 8 == 0 then
    if le a 24 4 == 0 && s.holdsRight e.partition Extent.rMask off len then some [(off, len)] else none
  else
    match s.namedFolio (le a 0 8), s.ctx? (ctxKey e.partition e.context) with
    | some (i, f), some c =>
      match f.slot? (le a 24 4) with
      | some v =>
        if (c.openOf i v.version).isSome && off + len ≤ f.length && !v.revoked then
          some ((granulesOf off len).filterMap fun g => (v.pages.get? g).map fun pg =>
            let lo := max off (g * pageBytes)
            let hi := min (off + len) ((g + 1) * pageBytes)
            (pg.addr + (lo - g * pageBytes), hi - lo))
        else none
      | none => none
    | _, _ => none

/-- The clusters that a PREFETCH names, or the one that its tag chooses (R96). -/
def State.prefetchClusters (s : State) (e : Slot) : List Nat :=
  let a := args e.raw
  let mask := le a 30 2
  let p := s.part e.partition
  if mask == 0 then ((s.affinityOrder p (le a 32 4) 0 1).filter fun c => (p.waysIn c).ways != 0).take 1
  else (List.range 16).filter fun c => bitAt mask c

/-- PREFETCH arguments (R94 to R96). -/
def State.prefetchOk (s : State) (e : Slot) : Bool :=
  let a := args e.raw
  let target := le a 28 1
  let cs := s.prefetchClusters e
  target ≤ 2 && le a 29 1 ≤ 1 && zeroAt a 36 28 && (s.rangeOf e).isSome
    && (if target == 0 then le a 16 8 ≤ 2 ^ 30
        else le a 16 8 ≤ 2 ^ 26 && !cs.isEmpty && cs.all fun c => ((s.part e.partition).waysIn c).ways != 0)

/-- ADVISE arguments (R94, R95, R97). -/
def State.adviseOk (s : State) (e : Slot) : Bool :=
  let a := args e.raw
  le a 28 1 ≤ 5 && zeroAt a 29 3 && zeroAt a 40 24 && (s.rangeOf e).isSome

/-- CHAIN arguments (R152); a RUN needs an entry that holds an image (R153). -/
def State.chainOk (s : State) (e : Slot) : Bool :=
  let a := args e.raw
  let entry := le a 2 2
  zeroAt a 1 1 && zeroAt a 4 4 && zeroAt a 16 48 && entry < 256
    && (if le a 0 1 == 0 then le a 8 8 % 128 == 0
        else le a 0 1 == 1 && le a 8 8 == 0
          && (s.ctx? (ctxKey e.partition e.context)).any fun c => (c.chain.get? entry).isSome)

/-- FENCE arguments (R151). -/
def fenceOk (b : Bytes) : Bool := le (args b) 0 1 ≤ 1 && zeroAt (args b) 1 63

/-- SEQ_ADMIT arguments without the tests of the tables (R227). -/
def seqAdmitOk (b : Bytes) : Bool :=
  let a := args b
  le a 0 8 != 0 && le a 8 2 != 0 && zeroAt a 10 2 && 1 ≤ le a 16 4 && le a 12 4 < le a 16 4 && zeroAt a 20 4
    && le a 24 8 % pageBytes == 0 && le a 32 8 % pageBytes == 0 && pageBytes ≤ le a 32 8 && le a 40 8 % 64 == 0
    && zeroAt a 48 16

/-- SEQ_RETIRE arguments (R228). -/
def seqRetireOk (b : Bytes) : Bool :=
  let a := args b
  let mode := le a 8 1
  mode ≤ 2 && zeroAt a 9 1 && zeroAt a 12 52 && (mode == 0 || le a 0 8 == 0) && (mode == 1 || le a 10 2 == 0)

/-- FOLIO_OPEN arguments and rights (R245, R246), without the version. -/
def State.folioOpenOk (s : State) (e : Slot) : Bool :=
  let a := args e.raw
  le a 12 1 ≤ 1 && zeroAt a 13 3 && le a 16 8 % 32 == 0 && zeroAt a 24 40
    && match s.namedFolio (le a 0 8) with
      | some (_, f) =>
        if le a 12 1 == 0 then f.readers.getLsbD e.partition
        else f.publishers.getLsbD e.partition && s.hasStore e.partition
      | none => false

/-- FOLIO_CLOSE arguments (R247). -/
def State.folioCloseOk (s : State) (e : Slot) : Bool :=
  let a := args e.raw
  zeroAt a 12 4 && le a 16 8 % 32 == 0 && zeroAt a 24 40 && (s.namedFolio (le a 0 8)).isSome

/-- FOLIO_PUBLISH arguments and rights (R249), without the pages of a page list. -/
def State.folioPublishOk (s : State) (e : Slot) : Bool :=
  let a := args e.raw
  let draft := le a 8 4
  let list := le a 24 8
  let src := le a 32 8
  zeroAt a 40 24 && le a 16 8 % 32 == 0 && list % 8 == 0 && (draft == 0) != (list == 0)
    && match s.namedFolio (le a 0 8), s.ctx? (ctxKey e.partition e.context) with
      | some (i, f), some c =>
        f.publishers.getLsbD e.partition && (draft == 0 || (c.draftOf i draft).isSome)
          && (src == 0 || s.holdsRight e.partition Extent.rMask src f.length)
      | _, _ => false

/-- Step 4 of R147. -/
def State.argsOk (s : State) (e : Slot) : Bool :=
  let op := e.opcode
  if op == Op.chain then s.chainOk e
  else if op == Op.advise then s.adviseOk e
  else if op == Op.prefetch then s.prefetchOk e
  else if op == Op.fence then fenceOk e.raw
  else if op == Op.seqAdmit then seqAdmitOk e.raw
  else if op == Op.seqRetire then seqRetireOk e.raw
  else if op == Op.folioOpen then s.folioOpenOk e
  else if op == Op.folioClose then s.folioCloseOk e
  else if op == Op.folioPublish then s.folioPublishOk e
  else true

/-! ### Steps 5 and 6 -/

/-- The variant index that a selector resolves to (R104). -/
def GraphImage.selectVariant (g : GraphImage) (sel : Nat) : Option Nat :=
  if sel == 0xFFFF then (List.range g.variants.length).find? fun i => (g.variants[i]?).any (·.isDefault)
  else if sel < g.variants.length then some sel else none

/-- R105's rule on SAME_CORE tiles: the phase of a selected SAME_CORE tile's first predecessor is selected too. -/
def GraphImage.sameCoreOk (g : GraphImage) (v : Variant) (phases : List Nat) : Bool :=
  (g.mapsIn v phases).all fun m => m.tileIndices.all fun t =>
    match g.tiles[t]? with
    | some d => !d.sameCore || match (g.preds t).head?.bind fun f => g.tiles[f]? with
      | some f => phases.contains f.phase
      | none => true
    | none => true

/-- The cause of step 6 of R147 (R104, R105), if any. -/
def GraphImage.phaseCause (g : GraphImage) (v : Variant) (field : Nat) (promised : Bool) : Option Nat :=
  let mapped := (g.mapsOf v).map (·.phase)
  let phases := g.phasesOf v field
  let fb := v.fallback.bind fun i => g.variants[i]?
  if promised && !v.promisable then some 8
  else if field ≥ 32 || !((List.range 5).all fun p => !bitAt field p || mapped.contains p)
      || !g.sameCoreOk v phases || !(fb.all fun w => g.sameCoreOk w phases)
      || (promised && !(fb.all fun w => phases.all fun p => ((g.mapsOf w).map (·.phase)).contains p)) then some 9
  else none

/-! ### Step 7: constants -/

/-- R155. -/
def constsOk (b : Bytes) (constBytes : Nat) : Bool :=
  if flagConsts (fFlags b) then
    fConstAddr b % 8 == 0 && 1 ≤ fConstLen b && fConstLen b ≤ 1024 && 64 + fConstLen b ≤ constBytes
  else fConstAddr b == 0 && fConstLen b == 0

/-! ### Step 8: overrides and bindings -/

/-- An entry of the override table (R110). -/
structure Override where
  binding : Nat
  kind    : Nat
  version : Nat
  value   : Nat

/-- The override table, when it obeys R110. -/
def parseOverrides (g : GraphImage) (n : Nat) (t : Bytes) : Option (List Override) :=
  let es := tableEntries t 0 16 n
  let os := es.map fun x => { binding := le x 0 2, kind := le x 2 1, version := le x 4 4, value := le x 8 8 : Override }
  let ok := es.all (fun x => zeroAt x 3 1)
    && os.all (fun o => (g.bindings[o.binding]?).any fun b =>
        b.overridable && b.kind == o.kind && (o.kind == 3 || o.kind == 4 || o.version == 0))
    && (os.map (·.binding)).eraseDups.length == os.length
  if ok then some os else none

/-- The value and version that a binding is resolved with. -/
def bindingValue (os : List Override) (i : Nat) (b : Binding) : Nat × Nat :=
  match os.find? fun o => o.binding == i with
  | some o => (o.value, o.version)
  | none => (b.dflt, b.dfltVersion)

/-- A failed resolution: status and cause. -/
abbrev Refused := Nat × Nat

def refusedBinding : Refused := (Status.badSlot, 12)

/-- FOLIO_READ (R108, R109, R256). -/
def State.resolveRead (s : State) (e : Slot) (b : Binding) (h version : Nat) : Except Refused (State × Reloc) :=
  match s.namedFolio h, s.ctx? (ctxKey e.partition e.context) with
  | some (i, f), some c =>
    let v := if version == 0 then newestOf (c.holds.filter fun x => x.folio == i && !x.draft) else version
    match c.openOf i v, f.slot? v with
    | some _, some x =>
      if !f.readers.getLsbD e.partition || f.length < b.minLength || x.revoked then .error refusedBinding
      else if x.quarantined then .error (Status.folioQuarantined, 0)
      else .ok (s, .folioRead i v)
    | _, _ => .error refusedBinding
  | _, _ => .error refusedBinding

/-- FOLIO_OUTPUT (R252): a draft of the context, or a new staging version of the launch. -/
def State.resolveOutput (s : State) (e : Slot) (b : Binding) (h version : Nat) : Except Refused (State × Reloc) :=
  match s.namedFolio h, s.ctx? (ctxKey e.partition e.context) with
  | some (i, f), some c =>
    if !f.publishers.getLsbD e.partition || f.length < b.minLength then .error refusedBinding
    else if !flagAllOrNothing e.flags then
      let v := if version == 0 then newestOf (c.holds.filter fun x => x.folio == i && x.draft) else version
      if (c.draftOf i v).isSome && (f.slot? v).isSome then .ok (s, .folioOutput i v false) else .error refusedBinding
    else
      match f.resolve version with
      | none => .error refusedBinding
      | some base =>
        if !base.published || base.revoked then .error refusedBinding
        else if base.quarantined then .error (Status.folioQuarantined, 0)
        else
          let x : VSlot := { base := base.version, vstate := .staging, holderP := e.partition, pages := base.pages,
                             launch := some (e.queue, e.seq) }
          match f.take x with
          | some (f', v) => .ok ({ s with folios := s.folios.put i f' }, .folioOutput i v true)
          | none => .error (Status.noVersionSlot, 0)
  | _, _ => .error refusedBinding

/-- The rights that an EXTENT binding's ACCESS needs (R108). -/
def State.extentOk (s : State) (p : Nat) (b : Binding) (addr : Nat) : Bool :=
  let len := max 1 b.minLength
  (!b.canRead || s.holdsRight p Extent.rMask addr len)
    && (!(b.canWrite || b.canReduce) || s.holdsRight p Extent.wMask addr len)
    && (b.canRead || b.canWrite || b.canReduce || s.holdsRight p Extent.rMask addr len)

/-- Relocate one binding (R108, R109, R230). -/
def State.resolveBinding (s : State) (e : Slot) (os : List Override) (i : Nat) (b : Binding) :
    Except Refused (State × Reloc) :=
  let (v, ver) := bindingValue os i b
  let aligned := v % 2 ^ b.alignLog2 == 0
  match b.kind with
  | 0 => .ok (s, .unused)
  | 1 => if aligned then .ok (s, .guestVa v) else .error refusedBinding
  | 2 => if aligned && s.extentOk e.partition b v then .ok (s, .extent v) else .error refusedBinding
  | 3 => s.resolveRead e b v ver
  | 4 => s.resolveOutput e b v ver
  | 5 => if aligned then .ok (s, .quality v) else .error refusedBinding
  | 6 => if v < 65536 then .ok (s, .seqTable v) else .error refusedBinding
  | _ => .ok (s, .scratch b.minLength)

/-- Relocate every binding, lowest index first; a failure keeps what has been taken so far, to be freed. -/
def State.resolveAll (s : State) (e : Slot) (os : List Override) :
    List (Nat × Binding) → List Reloc → State × List Reloc × Option Refused
  | [], acc => (s, acc.reverse, none)
  | (i, b) :: t, acc =>
    match s.resolveBinding e os i b with
    | .ok (s, r) => State.resolveAll s e os t (r :: acc)
    | .error x => (s, acc.reverse, some x)

/-- Extents that the relocated EXTENT bindings lie in. -/
def State.extentsUsed (s : State) (g : GraphImage) (rs : List Reloc) : List Nat :=
  ((rs.zip g.bindings).map fun x =>
    match x.1 with
    | .extent a => s.extentsOf a (max 1 x.2.minLength)
    | _ => []).flatten.eraseDups

/-! ### Step 9 -/

/-- Pages to be reserved for the launch's outputs (R252). -/
def pagesNeeded (g : GraphImage) (rs : List Reloc) : Nat :=
  ((rs.zip g.bindings).map fun x =>
    match x.1 with
    | .folioOutput _ _ _ => ceilDiv x.2.minLength pageBytes
    | _ => 0).sum

/-- Whether the staging budget of every tile of the launch fits the reserve of some cluster (R82). -/
def State.budgetsOk (s : State) (p : Partition) (g : GraphImage) (v : Variant) (phases : List Nat) : Bool :=
  let reserve := ((s.eligible p (g.quadsNeeded v phases)).map fun c => (p.waysIn c).ways * 2 ^ 19).foldl max 0
  (g.mapsIn v phases).all fun m => (g.tilesOf m).all fun t => t.staging ≤ reserve

/-- Step 9 of R147 (R82, R104, R208, R233, R252). -/
def State.limitsOk (s : State) (e : Slot) (g : GraphImage) (v : Variant) (rs : List Reloc) : Bool :=
  let p := s.part e.partition
  let phases := g.phasesOf v e.field
  v.clusters ≤ (s.eligible p (g.quadsNeeded v phases)).length && s.budgetsOk p g v phases
    && !(p.kind == 1 && bitAt g.gflags 2)
    && pagesNeeded g rs + s.reservedPages e.partition ≤ (s.freePages e.partition).length

/-! ### Admission of any slot -/

/-- Slots that the slot waits for under R154: behind CHAIN_NEXT its predecessor, behind FENCEs what they wait for. -/
def State.coversOf (s : State) (e : Slot) : List (Nat × Nat) :=
  let mine := s.slots.filter fun x => x.queue == e.queue && x.seq < e.seq && x.state != .finished
  let prev := (mine.filter fun x => x.seq + 1 == e.seq && flagChainNext x.flags).map fun x => (x.queue, x.seq)
  let fences := ((mine.filter fun x => x.opcode == Op.fence).map (·.covers)).flatten
  (prev ++ fences).eraseDups

/-- What a FENCE waits for (R151). -/
def State.fenceCovers (s : State) (e : Slot) : List (Nat × Nat) :=
  let scope := le (args e.raw) 0 1
  (s.slots.filter fun x => x.state != .finished
      && (if scope == 0 then x.queue == e.queue && x.seq < e.seq
          else x.admitted && x.partition == e.partition && x.context == e.context)).map fun x => (x.queue, x.seq)

/-- The lowest free entry of the outstanding launch table (R140). -/
def State.freeEntry (s : State) : Nat :=
  ((List.range (s.slots.length + 1)).find? fun i => !s.slots.any fun e => e.admitted && e.entry == i).getD 0

/-- The slot passes step 10: it is admitted (R147, R179). -/
def State.admitSlot (s : State) (q seq : Nat) : State :=
  let entry := s.freeEntry
  let s := { s with admitted := s.admitted + 1 }
  let s := s.modSlot q seq fun e =>
    { e with order := s.admitted, entry := entry, admitCt := s.time.ct, state := .admitted }
  s.modQueue q fun u => { u with admittedSeq := max u.admittedSeq seq }

/-- Whether a slot may start to run: no unfinished FENCE stands before it, and its CHAIN_NEXT predecessor has finished
(R151, R154). -/
def State.gateOpen (s : State) (e : Slot) : Bool :=
  !s.slots.any fun x => x.queue == e.queue && x.seq < e.seq && x.state != .finished
    && (x.opcode == Op.fence || (x.seq + 1 == e.seq && flagChainNext x.flags))

/-! ### A launch from step 5 on -/

/-- The external constants as the launch sees them: 64 inline bytes, then the external ones, zero beyond (R155). -/
def launchConsts (b ext : Bytes) (n : Nat) : Bytes := (fConsts b ++ ext ++ zeros (n - 64 - ext.length)).take n

/-- Refuse a launch and free the staging versions that it took (R252). -/
def State.refuseLaunch (s : State) (e : Slot) (rs : List Reloc) (x : Refused) (earliest : Nat) : State :=
  (s.discardStagings { e with bindings := rs }).refuseSlot e.queue e.seq x.1 x.2 earliest

/-- Keep live what the launch's bindings name (R120, R243). -/
def State.bindAll (s : State) (graph version : Nat) (rs : List Reloc) : State :=
  rs.foldl (fun s r =>
    match r with
    | .folioRead f v => s.bindFolio f v
    | .folioOutput f v _ => s.bindFolio f v
    | _ => s) (s.bindGraph graph version)

/-- A launch that has passed every check (R147, step 10). -/
def State.enterLaunch (s : State) (e : Slot) (graph : Nat) (gv : GraphVersion) (rs : List Reloc) (pr : Option Promise)
    (cp cf : List Nat) (holds : List Hold) : State :=
  let uses := s.extentsUsed gv.image rs
  let s := s.bindAll graph gv.number rs
  let s := s.modSlot e.queue e.seq fun x =>
    { x with
      graph := graph, version := gv.number, image := some gv.image, bindings := rs, promise := pr, placed := cp,
      placedF := cf, usesExtents := uses, pagesLeft := pagesNeeded gv.image rs, covers := s.coversOf e,
      consts := launchConsts e.raw e.consts gv.image.constBytes, phases := e.field }
  let s := s.modPart e.partition fun p => { p with holds := p.holds ++ holds }
  let s := s.admitSlot e.queue e.seq
  match pr with
  | none => s
  | some _ =>
    let s := s.modPart e.partition fun p => { p with adm := { p.adm with accepted := satAdd 64 p.adm.accepted 1 } }
    match s.slot? e.queue e.seq with
    | some x => s.pushRecord e.queue (.verdict (s.verdictRecord x))
    | none => s

/-- Steps 9 and 10 of R147, with every binding relocated. -/
def State.admitLaunch (s : State) (e : Slot) (graph : Nat) (gv : GraphVersion) (v : Variant) (rs : List Reloc) : State :=
  if !s.limitsOk e gv.image v rs then s.refuseLaunch e rs (Status.quota, 0) 0
  else if e.promised then
    match s.promiseVerdict { e with covers := s.coversOf e } gv.image v with
    | .refuse cause t =>
      (s.modPart e.partition fun p => { p with adm := p.adm.refused cause }).refuseLaunch e rs
        (Status.cannotPromise, cause) t
    | .accept pr cp cf hs => s.enterLaunch e graph gv rs (some pr) cp cf hs
  else
    let cp := (s.orderFor (s.part e.partition) gv.image v (gv.image.phasesOf v e.field)).take v.clusters
    s.enterLaunch e graph gv rs none cp [] []

/-- A read of `n` bytes cut at 4 KiB pages: addresses and bytes. Log entry 48 (DEDUCED). -/
def readPieces (addr n : Nat) : List (Nat × Nat) :=
  (List.range ((addr + n - 1) / 4096 - addr / 4096 + 1)).map fun i =>
    let lo := max addr (4096 * (addr / 4096 + i))
    (lo, min (addr + n) (4096 * (addr / 4096 + i + 1)) - lo)

/-- A read of guest memory for a slot's check (R155, R110, R152, R250): Spine's own access, translated on the home die of
the partition (R261, R270). Log entry 48 (DEDUCED). -/
def State.readGuest (s : State) (e : Slot) (addr n : Nat) : State :=
  (readPieces addr n).foldl (fun s x =>
    s.startReq { who := .spine e.queue e.seq, partition := e.partition, cluster := 8 * (s.part e.partition).homeDie,
                 address := x.1, guest := true, context := e.context, bytes := x.2, place := .missQueue }) s

/-- Whether the read that a slot's checks wait for has ended: every part of it has its answer, or one cannot be read.
Log entry 48 (DEDUCED). -/
def State.readEnds (s : State) (e : Slot) : Bool :=
  e.unreadable || s.reqs.all fun x => x.2.who != ReqFor.spine e.queue e.seq || x.2.place == .host || x.2.place == .ready

/-- What that read delivers: data that arrives as `d`, or nothing when a part of it is unreadable or poisoned. -/
def State.readResult (s : State) (e : Slot) (d : ReadData) : ReadData :=
  if e.unreadable || s.reqs.any fun x => x.2.who == ReqFor.spine e.queue e.seq && x.2.poison then .failed else d

/-- The read leaves the block. Log entry 48 (DEDUCED). -/
def State.endRead (s : State) (e : Slot) : State :=
  { s with reqs := s.reqs.filter fun x => x.2.who != ReqFor.spine e.queue e.seq }.modSlot e.queue e.seq fun x =>
    { x with unreadable := false }

/-- Step 8 of R147. -/
def State.bindLaunch (s : State) (e : Slot) (graph : Nat) (gv : GraphVersion) (v : Variant) : State :=
  match parseOverrides gv.image (fOverrideN e.raw) e.overrides with
  | none => s.refuseSlot e.queue e.seq Status.badSlot 11
  | some os =>
    match s.resolveAll e os ((List.range gv.image.bindings.length).zip gv.image.bindings) [] with
    | (s, rs, none) => s.admitLaunch e graph gv v rs
    | (s, rs, some x) => s.refuseLaunch e rs x 0

/-- Steps 5 to 10 of R147 for a launch, with whatever has been read of its constants and overrides. A read that is still
needed is issued, and the checks are made again from step 5 when it returns, so that the admission binds the version that
is current then (R121). -/
def State.checkLaunch (s : State) (q seq : Nat) : State :=
  match s.slot? q seq with
  | none => s
  | some e =>
    match s.namedGraph (fGraph e.raw) e.partition with
    | none => s.refuseSlot q seq Status.noGraph 0
    | some (graph, gv) =>
      match gv.image.selectVariant (fVariant e.raw) with
      | none => s.refuseSlot q seq Status.noGraph 0
      | some vi =>
        let e := { e with variant := vi, primary := vi }
        let s := s.modSlot q seq fun _ => e
        match gv.image.variants[vi]? with
        | none => s
        | some v =>
          match gv.image.phaseCause v e.field e.promised with
          | some c => s.refuseSlot q seq Status.badSlot c
          | none =>
            if !constsOk e.raw gv.image.constBytes then s.refuseSlot q seq Status.badSlot 10
            else if flagConsts e.flags && e.consts.isEmpty then
              (s.modSlot q seq fun e => { e with state := .readingConsts }).readGuest e (fConstAddr e.raw) (fConstLen e.raw)
            else if fOverrideN e.raw > 64 then s.refuseSlot q seq Status.badSlot 11
            else if fOverrideN e.raw != 0 && e.overrides.isEmpty then
              (s.modSlot q seq fun e => { e with state := .readingOverrides }).readGuest e (fOverrideAddr e.raw)
                (16 * fOverrideN e.raw)
            else s.bindLaunch e graph gv v

end Sys2Proof.Machine
end

