-- ==== Sys2Proof/Machine/SlotCmds.lean ====
section
/-!
DEFINITION. The commands on slots: fetch and arrival (R30, R147), the reads that checks wait for (R110, R155, R152), and
the opcodes NOP, LAUNCH, CHAIN, ADVISE, PREFETCH, FENCE, SEQ_ADMIT and SEQ_RETIRE (R94 to R97, R150 to R154, R227, R228).
-/
namespace Sys2Proof.Machine

open Sys2Proof SlotField

/-- Run `f` on a slot that satisfies a test; without such a slot the event does not occur. -/
def State.onSlot (s : State) (q seq : Nat) (t : Slot → Bool) (f : Slot → State → State) : State :=
  match s.slot? q seq with
  | some e => s.when (t e) (f e)
  | none => s

/-- Whether an admitted slot of an opcode may take its effect now. -/
def State.mayStart (s : State) (op : Nat) (e : Slot) : Bool :=
  e.opcode == op && e.admitted && e.state == .admitted && s.gateOpen e

/-- Whether a slot of an opcode waits for the event that admits it. -/
def Slot.awaits (e : Slot) (op : Nat) : Bool := e.opcode == op && !e.admitted && e.state == .admitted

def State.finishOk (s : State) (e : Slot) : State := s.finishSlot e.queue e.seq Status.ok 0

/-- A refusal for the arguments of an opcode. -/
def State.refuseArgs (s : State) (e : Slot) : State := s.refuseSlot e.queue e.seq Status.badSlot 7

/-! ### Fetch and arrival -/

/-- Slots of a queue that hold an entry of the outstanding launch table. -/
def State.inflight (s : State) (q : Nat) : Nat := (s.slots.filter fun e => e.queue == q && e.admitted).length

/-- Whether a slot of the queue is still being checked (R30). -/
def State.checking (s : State) (q : Nat) : Bool :=
  s.slots.any fun e => e.queue == q && !e.admitted && e.state != .finished

/-- Whether the next slot of a queue is fetched now (R30, R140, R170). -/
def State.mayFetch (s : State) (q : Nat) : Bool :=
  let u := s.queue q
  (u.state == .active || u.state == .stopped || u.state == .guilty) && !u.pathBroken && !u.fetching
    && u.unfetched u.tail != 0 && !s.checking q && s.inflight q < u.attrs.maxInflight
    && (s.part u.partition).state == .active && s.boot.stage == .ready && !s.errs.fatal

/-- SLOT_FETCH (R30). Log entry 55 (DESIGN CHOICE). -/
def execSlotFetch (q : Nat) (s : State) : Host.Outcome State Fault Refusal :=
  .next <| s.whenLive fun s => s.when (s.mayFetch q) fun s =>
    let u := s.queue q
    (s.modQueue q fun u => { u with fetching := true }).viaPath u.attrs.path (.slotRead q (u.indexOf u.nextSeq))

/-- The slot that arrived, in the layout of R144. -/
def Queue.arrived (u : Queue) (q : Nat) (b : Bytes) : Slot :=
  { queue := q, seq := u.nextSeq, partition := u.partition, context := u.attrs.context, raw := b, opcode := fOpcode b,
    promised := isPromised b, flags := fFlags b, guestTag := fTag b }

/-- The launch of a CHAIN RUN (R153): the stored image under the slot's CLASS, FLAGS, GUEST_TAG and DEADLINE. -/
def runImage (b image : Bytes) : Bytes :=
  image.take 2 ++ (b.drop 2).take 6 ++ (image.drop 8).take 16 ++ (b.drop 24).take 8 ++ image.drop 32

/-- The image stored in a chain-table entry of the slot's context. -/
def State.chainImage (s : State) (e : Slot) : Option Bytes :=
  (s.ctx? (ctxKey e.partition e.context)).bind fun c => c.chain.get? (le (args e.raw) 2 2)

/-- Steps 5 to 10 of R147 by opcode, for a slot whose fields and arguments are right. STORE, a page-list publication and
the sequence-table opcodes are admitted by their own events. -/
def State.checkOpcode (s : State) (e : Slot) : State :=
  let a := args e.raw
  if e.opcode == Op.launch then s.checkLaunch e.queue e.seq
  else if isRun e.raw then
    match s.chainImage e with
    | some i => (s.modSlot e.queue e.seq fun x => { x with raw := runImage e.raw i }).checkLaunch e.queue e.seq
    | none => s.refuseArgs e
  else if e.opcode == Op.chain then s.readGuest e (le a 8 8) 128
  else if e.opcode == Op.folioPublish && le a 24 8 != 0 then
    match s.namedFolio (le a 0 8) with
    | some (_, f) => s.readGuest e (le a 24 8) (8 * (f.length / pageBytes))
    | none => s.refuseArgs e
  else if e.opcode == Op.seqAdmit || e.opcode == Op.seqRetire then s
  else
    let uses := ((s.rangeOf e).getD []).map fun x => s.extentsOf x.1 x.2
    let ranged := e.opcode == Op.advise || e.opcode == Op.prefetch
    let s := s.modSlot e.queue e.seq fun x =>
      { x with covers := if e.opcode == Op.fence then s.fenceCovers e else s.coversOf e
               usesExtents := if ranged then uses.flatten.eraseDups else [] }
    s.admitSlot e.queue e.seq

/-- The checks of R147 on a slot that arrived as data. -/
def State.checkArrival (s : State) (q : Nat) (b : Bytes) : State :=
  let u := s.queue q
  let compat := u.attrs.format == 1
  let early := if compat then compatCause b else none
  let img := if compat then scopeAsQueue (slotOf13 b) else b
  let e := u.arrived q img
  let s := { s with slots := s.slots ++ [e] }
  if u.state == .stopped then s.refuseSlot q e.seq Status.queueStopped 1
  else if u.state == .guilty then s.refuseSlot q e.seq Status.queueStopped 2
  else
    match early.orElse fun _ => slotFieldCause compat u.attrs.promiseOk img with
    | some c => s.refuseSlot q e.seq Status.badSlot c
    | none => if s.argsOk e then s.checkOpcode e else s.refuseArgs e

/-- SLOT_ARRIVAL (R147). A failed read is the event of R172 and changes nothing here. -/
def execSlotArrival (q : Nat) (d : ReadData) (s : State) : Host.Outcome State Fault Refusal :=
  .next <| s.whenLive fun s => s.when (s.queue q).fetching fun s =>
    let took (s : State) : State := s.modQueue q fun u => { u with fetching := false, nextSeq := u.nextSeq + 1 }
    match d with
    | .failed => s
    | .poisoned =>
      let u := s.queue q
      let seq := u.nextSeq
      let s := took s
      if u.state == .stopped then s.refuseUnfetched q seq Status.queueStopped 1
      else if u.state == .guilty then s.refuseUnfetched q seq Status.queueStopped 2
      else s.refuseUnfetched q seq Status.badSlot 13
    | .data b =>
      let n := (s.queue q).nextSeq
      let s := (s.modQueue q fun u => { u with fetching := false }).checkArrival q b
      s.modQueue q fun u => { u with nextSeq := n + 1 }

/-- EXTERNAL_CONSTANTS_READ_DONE (R155, R156). -/
def execExternalConstantsReadDone (q seq : Nat) (d : ReadData) (s : State) : Host.Outcome State Fault Refusal :=
  .next <| s.whenLive fun s => s.onSlot q seq (fun e => e.state == .readingConsts && s.readEnds e) fun e s =>
    match s.readResult e d with
    | .data b =>
      ((s.endRead e).modSlot q seq fun x => { x with consts := b.take (fConstLen e.raw), state := .admitted }).checkLaunch q seq
    | _ => s.refuseSlot q seq Status.badSlot 10

/-- OVERRIDE_TABLE_READ_DONE (R110, R156). -/
def execOverrideTableReadDone (q seq : Nat) (d : ReadData) (s : State) : Host.Outcome State Fault Refusal :=
  .next <| s.whenLive fun s => s.onSlot q seq (fun e => e.state == .readingOverrides && s.readEnds e) fun e s =>
    match s.readResult e d with
    | .data b =>
      ((s.endRead e).modSlot q seq fun x => { x with overrides := b.take (16 * fOverrideN e.raw), state := .admitted }).checkLaunch
        q seq
    | _ => s.refuseSlot q seq Status.badSlot 11

/-! ### NOP, LAUNCH and CHAIN -/

/-- NOP (R150). -/
def execNop (q seq : Nat) (s : State) : Host.Outcome State Fault Refusal :=
  .next <| s.whenLive fun s => s.onSlot q seq (s.mayStart Op.nop) fun e s => s.finishOk e

/-- The phases of a variant for the launch's selection, not yet started. -/
def Slot.phasesFor (e : Slot) (variant : Nat) : List PhaseState :=
  match e.image with
  | some g => match g.variants[variant]? with
    | some v => (g.mapsFor v e.selected).map fun i => { map := i }
    | none => []
  | none => []

/-- An admitted launch is handed to its cluster sequencer (R104, R154): its phases may start. -/
def State.startLaunch (s : State) (e : Slot) : State :=
  s.modSlot e.queue e.seq fun x => { x with state := .running, phaseStates := x.phasesFor x.variant }

/-- LAUNCH (R104). -/
def execLaunch (q seq : Nat) (s : State) : Host.Outcome State Fault Refusal :=
  .next <| s.whenLive fun s => s.onSlot q seq (s.mayStart Op.launch) fun e s => s.startLaunch e

/-- Whether a stored image obeys R152: OPCODE LAUNCH, reserved bytes zero. -/
def storableImage (b : Bytes) : Bool :=
  b.length == 128 && fOpcode b == Op.launch && zeroAt b 20 4 && zeroAt b 42 6 && zeroAt b 58 6

/-- CHAIN_STORE (R152): the read of SOURCE completes and the image takes effect with the slot's admission.
Log entry 54 (DEDUCED). -/
def execChainStore (q seq : Nat) (d : ReadData) (s : State) : Host.Outcome State Fault Refusal :=
  .next <| s.whenLive fun s => s.onSlot q seq (fun e => e.awaits Op.chain && !isRun e.raw && s.readEnds e) fun e s =>
    match s.readResult e d with
    | .data b =>
      if storableImage b then
        let entry := le (args e.raw) 2 2
        let s := s.modCtx (ctxKey e.partition e.context) fun c => { c with chain := c.chain.put entry b }
        ((s.endRead e).admitSlot q seq).finishOk e
      else s.refuseArgs e
    | _ => s.refuseArgs e

/-- CHAIN_RUN (R153). -/
def execChainRun (q seq : Nat) (s : State) : Host.Outcome State Fault Refusal :=
  .next <| s.whenLive fun s => s.onSlot q seq (fun e => s.mayStart Op.chain e && e.isLaunch) fun e s => s.startLaunch e

/-! ### ADVISE and PREFETCH -/

/-- The message to the extent manager (R450), issued by Spine through MP0. -/
def State.sendAdvice (s : State) (e : Slot) (kind whenCt : Nat) : State :=
  let a := args e.raw
  (s.modSlot e.queue e.seq fun x => { x with state := .running, adviceOut := true }).emit
    (.advice 0 kind (le a 0 8) (le a 8 8) (le a 16 8) whenCt)

/-- ADVISE values 0 to 3 (R97): the message goes out, and the slot waits for its acknowledgement. -/
def State.adviseOut (s : State) (q seq value : Nat) : State :=
  s.onSlot q seq (fun e => s.mayStart Op.advise e && le (args e.raw) 28 1 == value) fun e s =>
    s.sendAdvice e value (if value == 3 then s.inScale (le (args e.raw) 32 8) else 0)

def execAdviseNormal (q seq : Nat) (s : State) : Host.Outcome State Fault Refusal :=
  .next <| s.whenLive fun s => s.adviseOut q seq 0

def execAdviseHot (q seq : Nat) (s : State) : Host.Outcome State Fault Refusal :=
  .next <| s.whenLive fun s => s.adviseOut q seq 1

def execAdviseCold (q seq : Nat) (s : State) : Host.Outcome State Fault Refusal :=
  .next <| s.whenLive fun s => s.adviseOut q seq 2

def execAdviseWillNeed (q seq : Nat) (s : State) : Host.Outcome State Fault Refusal :=
  .next <| s.whenLive fun s => s.adviseOut q seq 3

/-- Whether a line lies in one of the segments. -/
def inSegments (segs : List (Nat × Nat)) (line : Nat) : Bool :=
  segs.any fun x => x.1 < 64 * (line + 1) && 64 * line < x.1 + x.2

/-- ADVISE_DONT_NEED (R97). -/
def execAdviseDontNeed (q seq : Nat) (s : State) : Host.Outcome State Fault Refusal :=
  .next <| s.whenLive fun s =>
    s.onSlot q seq (fun e => s.mayStart Op.advise e && le (args e.raw) 28 1 == 4) fun e s =>
      let segs := (s.rangeOf e).getD []
      (s.dropLines true fun l => l.partition == e.partition && inSegments segs l.line).finishOk e

/-- ADVISE_RELEASE_KEEP (R97). -/
def execAdviseReleaseKeep (q seq : Nat) (s : State) : Host.Outcome State Fault Refusal :=
  .next <| s.whenLive fun s =>
    s.onSlot q seq (fun e => s.mayStart Op.advise e && le (args e.raw) 28 1 == 5) fun e s =>
      let segs := (s.rangeOf e).getD []
      ({ s with lines := s.lines.map fun (l : Line) =>
          if l.partition == e.partition && inSegments segs l.line then { l with keep := false } else l }).finishOk e

/-- The lines of the range with the place of each in it, in bytes from the start. -/
def placedLines : List (Nat × Nat) → Nat → List (Nat × Nat)
  | [], _ => []
  | (addr, len) :: t, at_ => (linesOf addr len).map (fun l => (at_ + (64 * l - addr), l)) ++ placedLines t (at_ + len)

/-- Fill one line for a PREFETCH (R96): a line that the partition already holds needs no fill. -/
def State.fillLine (s : State) (e : Slot) (keep : Bool) (cluster line : Nat) : State :=
  if (s.line? e.partition line).isSome then if keep then s.keepLine e.partition line else s
  else
    let r : MemReq := { who := .fill e.queue e.seq, partition := e.partition, cluster := cluster, address := 64 * line,
                        context := e.context, bytes := 64, keep := keep, place := .missQueue }
    let s := s.modSlot e.queue e.seq fun x => { x with fills := x.fills + 1 }
    (s.addReq r).issuePool s.reqNo r

/-- The fills of a PREFETCH, dealt out in 2 MiB runs in ascending cluster order (R96). -/
def State.fillRange (s : State) (e : Slot) : State :=
  let cs := s.prefetchClusters e
  let keep := le (args e.raw) 29 1 == 1 || flagKeep e.flags
  let s := s.modSlot e.queue e.seq fun x => { x with state := .running }
  (placedLines ((s.rangeOf e).getD []) 0).foldl (fun s x =>
    match cs[x.1 / pageBytes % max 1 cs.length]? with
    | some c => s.fillLine e keep c x.2
    | none => s) s

/-- A PREFETCH or ADVISE slot with nothing outstanding finishes (R96, R97). -/
def State.settleAdvice (s : State) (q seq : Nat) : State :=
  s.onSlot q seq (fun e => e.state == .running && !e.adviceOut && e.fills == 0) fun e s => s.finishOk e

/-- PREFETCH_NEAR_TIER (R96). -/
def execPrefetchNearTier (q seq : Nat) (s : State) : Host.Outcome State Fault Refusal :=
  .next <| s.whenLive fun s =>
    s.onSlot q seq (fun e => s.mayStart Op.prefetch e && le (args e.raw) 28 1 == 0) fun e s => s.sendAdvice e 0x10 0

/-- PREFETCH_CLUSTER_CACHE (R96). -/
def execPrefetchClusterCache (q seq : Nat) (s : State) : Host.Outcome State Fault Refusal :=
  .next <| s.whenLive fun s =>
    s.onSlot q seq (fun e => s.mayStart Op.prefetch e && le (args e.raw) 28 1 == 1) fun e s =>
      (s.fillRange e).settleAdvice q seq

/-- PREFETCH_BOTH (R96). -/
def execPrefetchBoth (q seq : Nat) (s : State) : Host.Outcome State Fault Refusal :=
  .next <| s.whenLive fun s =>
    s.onSlot q seq (fun e => s.mayStart Op.prefetch e && le (args e.raw) 28 1 == 2) fun e s =>
      (s.fillRange e).sendAdvice e 0x10 0

/-- ADVICE_ACK (R96, R97, R450). -/
def execAdviceAck (q seq : Nat) (s : State) : Host.Outcome State Fault Refusal :=
  .next <| s.whenLive fun s => s.onSlot q seq (fun e => e.adviceOut) fun _ s =>
    (s.modSlot q seq fun x => { x with adviceOut := false }).settleAdvice q seq

/-! ### FENCE -/

/-- Whether every slot that a FENCE covers has finished (R151). -/
def State.fenceOpen (s : State) (e : Slot) : Bool :=
  !s.slots.any fun x => e.covers.contains (x.queue, x.seq) && x.order < e.order && x.state != .finished

/-- A FENCE begins to wait; with nothing left to wait for it finishes. -/
def State.startFence (s : State) (q seq scope : Nat) : State :=
  s.onSlot q seq (fun e => e.opcode == Op.fence && e.admitted && e.state == .admitted && le (args e.raw) 0 1 == scope)
    fun e s =>
      let s := s.modSlot q seq fun x => { x with state := .running }
      s.when (s.fenceOpen e) fun s => s.finishOk e

/-- FENCE_QUEUE (R151). -/
def execFenceQueue (q seq : Nat) (s : State) : Host.Outcome State Fault Refusal :=
  .next <| s.whenLive fun s => s.startFence q seq 0

/-- FENCE_CONTEXT (R151). -/
def execFenceContext (q seq : Nat) (s : State) : Host.Outcome State Fault Refusal :=
  .next <| s.whenLive fun s => s.startFence q seq 1

/-- FENCE_FINISH (R151). -/
def execFenceFinish (q seq : Nat) (s : State) : Host.Outcome State Fault Refusal :=
  .next <| s.whenLive fun s =>
    s.onSlot q seq (fun e => e.opcode == Op.fence && e.state == .running && s.fenceOpen e) fun e s => s.finishOk e

/-! ### The sequence table -/

/-- Entries of a context. -/
def State.seqsOf (s : State) (p x : Nat) : List (Nat × SeqEntry) :=
  s.seqs.filter fun e => e.2.partition == p && e.2.context == x

/-- Whether the KV range lies in extents in which the partition holds R and W (R227). -/
def State.kvOk (s : State) (p base bytes : Nat) : Bool :=
  s.holdsRight p Extent.rMask base bytes && s.holdsRight p Extent.wMask base bytes

/-- The entry that a SEQ_ADMIT creates (R227). -/
def seqEntryOf (e : Slot) : SeqEntry :=
  let a := args e.raw
  { key := le a 0 8, group := le a 8 2, context := e.context, partition := e.partition, position := le a 12 4,
    maxPosition := le a 16 4, kvBase := le a 24 8, kvBytes := le a 32 8, sampling := le a 40 8 }

/-- SEQ_ADMIT (R227): the slot passes R147 and its entry becomes ACTIVE. Log entry 54 (DEDUCED). -/
def execSeqAdmit (q seq : Nat) (s : State) : Host.Outcome State Fault Refusal :=
  .next <| s.whenLive fun s => s.onSlot q seq (fun e => e.awaits Op.seqAdmit) fun e s =>
    let n := seqEntryOf e
    if (s.seqsOf e.partition e.context).any (fun x => x.2.key == n.key) || !s.kvOk e.partition n.kvBase n.kvBytes then
      s.refuseArgs e
    else if (s.part e.partition).seqLimit ≤ (s.seqs.filter fun x => x.2.partition == e.partition).length then
      s.refuseSlot q seq Status.quota 0
    else
      match s.seqs.firstFree 16384 with
      | none => s.refuseSlot q seq Status.quota 0
      | some i => (({ s with seqs := s.seqs.put i n }).admitSlot q seq).finishOk e

/-- At the admission of a SEQ_RETIRE every entry that it names becomes RETIRING; a slot that names none finishes (R228).
Log entry 54 (DEDUCED). -/
def State.seqRetire (s : State) (q seq mode : Nat) (t : Bytes → SeqEntry → Bool) : State :=
  s.onSlot q seq (fun e => e.awaits Op.seqRetire && le (args e.raw) 8 1 == mode) fun e s =>
    let named := ((s.seqsOf e.partition e.context).filter fun x => t (args e.raw) x.2).map (·.1)
    let s := { s with seqs := s.seqs.mapV fun i x => if named.contains i then { x with state := 3 } else x }
    let s := (s.admitSlot q seq).modSlot q seq fun x => { x with named := named, state := .running }
    s.when named.isEmpty fun s => s.finishOk e

/-- SEQ_RETIRE_ONE (R228). -/
def execSeqRetireOne (q seq : Nat) (s : State) : Host.Outcome State Fault Refusal :=
  .next <| s.whenLive fun s => s.seqRetire q seq 0 fun a x => x.key == le a 0 8

/-- SEQ_RETIRE_GROUP (R228). -/
def execSeqRetireGroup (q seq : Nat) (s : State) : Host.Outcome State Fault Refusal :=
  .next <| s.whenLive fun s => s.seqRetire q seq 1 fun a x => x.group == le a 10 2

/-- SEQ_RETIRE_CONTEXT (R228). -/
def execSeqRetireContext (q seq : Nat) (s : State) : Host.Outcome State Fault Refusal :=
  .next <| s.whenLive fun s => s.seqRetire q seq 2 fun _ _ => true

/-- Whether a work list holds an entry: those of launches that have not finished (R228, R234). -/
def State.seqHeld (s : State) (i : Nat) : Bool :=
  s.slots.any fun e => e.state != .finished && e.phaseStates.any fun ps => ps.lists.any fun l => l.contains i

/-- SEQ_ENTRY_FREED (R228). -/
def execSeqEntryFreed (entry : Nat) (s : State) : Host.Outcome State Fault Refusal :=
  .next <| s.whenLive fun s =>
    s.when ((s.seqs.get? entry).any (fun x => x.state == 3) && !s.seqHeld entry) fun s =>
      let waiting := s.slots.filter fun e => e.opcode == Op.seqRetire && e.named.contains entry
      let s := { s with
        seqs := s.seqs.del entry
        slots := s.slots.map fun e => { e with named := e.named.filter (· != entry) } }
      waiting.foldl (fun s e =>
        s.onSlot e.queue e.seq (fun x => x.state == .running && x.named.isEmpty) fun x s => s.finishOk x) s

end Sys2Proof.Machine
end

