-- ==== Sys2Proof/Machine/FolioCmds.lean ====
section
/-!
DEFINITION. The commands on folio versions: FOLIO_OPEN, FOLIO_CLOSE and FOLIO_PUBLISH (R245 to R251), the publication step
that launch outputs share (R250, R254), and mirrors (R255).
-/
namespace Sys2Proof.Machine

open Sys2Proof SlotField

/-! ### The result record (R248) -/

/-- The result record of a slot about a version of folio `i`. Log entry 54 (DEDUCED). -/
def State.folioResult (s : State) (e : Slot) (i v status : Nat) : FolioResult :=
  match s.folios.get? i with
  | none => { sequence := e.seq, status := status, op := e.opcode, version := v }
  | some f =>
    let held := match s.ctx? (ctxKey e.partition e.context) with
      | some c => ((c.openOf i v).map (·.opens)).getD 0
      | none => 0
    { sequence := e.seq, status := status, op := e.opcode, vstate := ((f.slot? v).map (·.vstate.code)).getD 0,
      version := v, current := f.current, held := held, length := f.length }

/-- Write the result record, when the slot asks for one, and finish the slot. -/
def State.finishFolio (s : State) (e : Slot) (i v status : Nat) : State :=
  let addr := le (args e.raw) 16 8
  let s := if addr == 0 then s else s.pushWrite e.queue (.folioResult addr (s.folioResult e i v status))
  s.finishSlot e.queue e.seq status 0

/-- Run a folio opcode: its handle still names the folio, and RESULT_ADDR translates. -/
def State.onFolio (s : State) (q seq op : Nat) (mapped : Bool) (t : Bytes → Bool) (f : Slot → Nat → Folio → State → State) :
    State :=
  s.onSlot q seq (fun e => s.mayStart op e && t (args e.raw)) fun e s =>
    match s.namedFolio (le (args e.raw) 0 8) with
    | none => s.finishSlot q seq Status.badSlot 7
    | some (i, x) =>
      if le (args e.raw) 16 8 != 0 && !mapped then s.finishSlot q seq Status.translation 0 else f e i x s

/-! ### FOLIO_OPEN -/

/-- Versions and drafts that a context holds (R246). -/
def State.holdsOf (s : State) (e : Slot) : List FolioHold :=
  ((s.ctx? (ctxKey e.partition e.context)).map (·.holds)).getD []

/-- One more open of a version for the slot's context. -/
def State.addOpen (s : State) (e : Slot) (i v : Nat) : State :=
  let s := s.modFolio i fun f => f.modSlot v fun x => { x with opens := x.opens + 1 }
  s.modCtx (ctxKey e.partition e.context) fun c =>
    if (c.openOf i v).isSome then
      { c with holds := c.holds.map fun h =>
          if h.folio == i && h.version == v && !h.draft then { h with opens := h.opens + 1 } else h }
    else { c with holds := c.holds ++ [{ folio := i, version := v, opens := 1, draft := false }] }

/-- FOLIO_OPEN_READ (R246). Log entry 54 (DEDUCED). -/
def execFolioOpenRead (q seq : Nat) (resultMapped : Bool) (s : State) : Host.Outcome State Fault Refusal :=
  .next <| s.whenLive fun s =>
    s.onFolio q seq Op.folioOpen resultMapped (fun a => le a 12 1 == 0) fun e i f s =>
      match f.resolve (le (args e.raw) 8 4) with
      | none => s.finishSlot q seq Status.badSlot 7
      | some v =>
        let mine := (s.holdsOf e).find? fun h => h.folio == i && h.version == v.version && !h.draft
        if !v.published then s.finishSlot q seq Status.badSlot 7
        else if v.revoked then s.finishFolio e i v.version Status.revoked
        else if v.quarantined then s.finishFolio e i v.version Status.folioQuarantined
        else if (mine.isNone && (s.holdsOf e).length ≥ 256) || mine.any (fun h => h.opens ≥ 65535) then
          s.finishSlot q seq Status.quota 0
        else (s.addOpen e i v.version).finishFolio e i v.version Status.ok

/-- The base of a draft: none for an empty draft, else a live published version. -/
def Folio.draftBase (f : Folio) (v : Nat) : Option (Option VSlot) :=
  if v == 0xFFFFFFFF then some none
  else match f.resolve v with
    | some b => if b.published then some (some b) else none
    | none => none

/-- A new draft of the slot's context. -/
def State.addDraft (s : State) (e : Slot) (i : Nat) (f : Folio) (base : Option VSlot) : Option (State × Nat) :=
  let x : VSlot := { base := (base.map (·.version)).getD 0, vstate := .draft, holderP := e.partition,
                     holderX := e.context, pages := (base.map (·.pages)).getD [] }
  match f.take x with
  | none => none
  | some (f', v) =>
    let s := { s with folios := s.folios.put i f' }
    some (s.modCtx (ctxKey e.partition e.context) fun c =>
      { c with holds := c.holds ++ [{ folio := i, version := v, opens := 0, draft := true }] }, v)

/-- FOLIO_OPEN_DRAFT (R246). -/
def execFolioOpenDraft (q seq : Nat) (resultMapped : Bool) (s : State) : Host.Outcome State Fault Refusal :=
  .next <| s.whenLive fun s =>
    s.onFolio q seq Op.folioOpen resultMapped (fun a => le a 12 1 == 1) fun e i f s =>
      match f.draftBase (le (args e.raw) 8 4) with
      | none => s.finishSlot q seq Status.badSlot 7
      | some base =>
        if base.any (·.revoked) then s.finishFolio e i 0 Status.revoked
        else if base.any (·.quarantined) then s.finishFolio e i 0 Status.folioQuarantined
        else if (s.holdsOf e).length ≥ 256 then s.finishSlot q seq Status.quota 0
        else match s.addDraft e i f base with
          | none => s.finishFolio e i 0 Status.noVersionSlot
          | some (s, v) => s.finishFolio e i v Status.ok

/-! ### FOLIO_CLOSE -/

/-- FOLIO_CLOSE (R247). -/
def execFolioClose (q seq : Nat) (resultMapped : Bool) (s : State) : Host.Outcome State Fault Refusal :=
  .next <| s.whenLive fun s =>
    s.onFolio q seq Op.folioClose resultMapped (fun _ => true) fun e i _ s =>
      let v := le (args e.raw) 8 4
      let k := ctxKey e.partition e.context
      let s :=
        if v == 0xFFFFFFFF then s.closeHolds k fun h => h.folio == i
        else if (s.holdsOf e).any fun h => h.folio == i && h.version == v && h.draft then s.discardDraft i v
        else s.closeOpens k i v 1
      s.finishFolio e i v Status.ok

/-! ### Publication (R250) -/

/-- MC_GROUP of a page. -/
def State.groupAt (s : State) (addr : Nat) : Option Nat := (s.extentAt addr).map (·.2.mcGroup)

/-- A free page of the owner's stores in a group other than the primary page's (R255). -/
def State.mirrorPage (s : State) (owner primary : Nat) : Option Nat :=
  (s.freePages owner).find? fun a => s.groupAt a != s.groupAt primary

/-- MIRROR of a version just published (R255): PENDING, or NONE with the mirror indication when the stores hold no page in
a different group. -/
def State.startMirror (s : State) (i v : Nat) : State :=
  match s.folios.get? i with
  | none => s
  | some f =>
    if !f.duplex then s
    else
      let lacking : Tbl Page := match f.slot? v with
        | some x => x.pages.filter fun p => p.2.mirror.isNone
        | none => []
      if lacking.all fun p => (s.mirrorPage f.owner p.2.addr).isSome then
        s.modFolio i fun f => f.modSlot v fun x => { x with mirror := 1 }
      else (s.modFolio i fun f => f.modSlot v fun x => { x with mirror := 0 }).icFire 5

/-- The folio with version `v` current and the former current version superseded. -/
def Folio.publish (f : Folio) (v base source : Nat) : Folio :=
  let f := if f.current == 0 then f else f.modSlot f.current fun x => { x with vstate := .superseded }
  { f.modSlot v fun x =>
      { x with vstate := .current, base := base, source := source, sourceValid := source != 0, holderP := 0xFF,
               holderX := 0xFF, launch := none } with current := v }

/-- The publication step of R250, for a version that is there. -/
def State.publish (s : State) (i v base source : Nat) : State :=
  ((s.modFolio i fun f => f.publish v base source).startMirror i v).sweepFolio i

/-- A draft that is published becomes one read open of its context (R250). -/
def State.draftToOpen (s : State) (e : Slot) (i v : Nat) : State :=
  let s := s.modCtx (ctxKey e.partition e.context) fun c =>
    { c with holds := c.holds.filter fun h => !(h.draft && h.folio == i && h.version == v) }
  s.addOpen e i v

/-- The pages of a page list (R249). -/
def pageList (b : Bytes) (n : Nat) : List Nat := (List.range n).map fun i => le b (8 * i) 8

/-- Whether the pages of a list are aligned, distinct, in the partition's folio stores and not listed by a version
(R249). -/
def State.pagesOk (s : State) (p : Nat) (pages : List Nat) : Bool :=
  let listed := s.listedPages
  pages.eraseDups.length == pages.length
    && pages.all fun a => a % pageBytes == 0 && !listed.contains a
      && match s.extentAt a with
        | some (_, x) => x.allows x.pubMask p
        | none => false

/-- PAGE_LIST_READ_DONE (R249, R250). -/
def execPageListReadDone (q seq : Nat) (d : ReadData) (s : State) : Host.Outcome State Fault Refusal :=
  .next <| s.whenLive fun s => s.onSlot q seq (fun e => e.awaits Op.folioPublish && s.readEnds e) fun e s =>
    match s.readResult e d, s.namedFolio (le (args e.raw) 0 8) with
    | .data b, some (_, f) =>
      let pages := pageList b (f.length / pageBytes)
      if b.length == 8 * (f.length / pageBytes) && s.pagesOk e.partition pages then
        ((s.endRead e).modSlot q seq fun x => { x with publishing := some pages, covers := s.coversOf e }).admitSlot q seq
      else s.refuseArgs e
    | _, _ => s.refuseArgs e

/-- A publication from a page list. -/
def State.publishList (s : State) (e : Slot) (i : Nat) (f : Folio) (pages : List Nat) : State :=
  let a := args e.raw
  if !s.pagesOk e.partition pages then s.finishSlot e.queue e.seq Status.badSlot 7
  else
    let x : VSlot := { vstate := .staging, pages := (List.range pages.length).zip (pages.map fun p => { addr := p : Page }) }
    match f.take x with
    | none => s.finishFolio e i 0 Status.noVersionSlot
    | some (f', v) =>
      (({ s with folios := s.folios.put i f' }).publish i v (le a 12 4) (le a 32 8)).finishFolio e i v Status.ok

/-- FOLIO_PUBLISH (R250, R251). Log entry 54 (DEDUCED). -/
def execFolioPublish (q seq : Nat) (resultMapped : Bool) (s : State) : Host.Outcome State Fault Refusal :=
  .next <| s.whenLive fun s =>
    s.onFolio q seq Op.folioPublish resultMapped (fun _ => true) fun e i f s =>
      let a := args e.raw
      if f.current != le a 12 4 then s.finishFolio e i f.current Status.conflict
      else match e.publishing with
        | some pages => s.publishList e i f pages
        | none =>
          let v := le a 8 4
          if (s.holdsOf e).any fun h => h.folio == i && h.version == v && h.draft then
            ((s.publish i v (le a 12 4) (le a 32 8)).draftToOpen e i v).finishFolio e i v Status.ok
          else s.finishSlot q seq Status.badSlot 7

/-! ### Mirrors -/

/-- Give every page of a list a mirror page, one after another. -/
def State.giveMirrors (s : State) (i v owner : Nat) : List Nat → State
  | [] => s
  | k :: t =>
    match s.folios.get? i with
    | none => s
    | some f =>
      let addr := ((f.slot? v).bind fun x => x.pages.get? k).map (·.addr)
      match addr.bind fun a => s.mirrorPage owner a with
      | none => State.giveMirrors s i v owner t
      | some m =>
        let give (x : VSlot) : VSlot :=
          { x with pages := x.pages.mapV fun _ p => if some p.addr == addr then { p with mirror := some m } else p }
        State.giveMirrors (s.modFolio i fun f => { f with slots := f.slots.map give }) i v owner t

/-- MIRROR_COPY_DONE (R255): every page of the version has a mirror; without a page in a different group MIRROR stays
NONE and the indication is raised. -/
def execMirrorCopyDone (folio version : Nat) (s : State) : Host.Outcome State Fault Refusal :=
  .next <| s.whenLive fun s =>
    match s.folios.get? folio with
    | none => s
    | some f =>
      match f.slot? version with
      | none => s
      | some x =>
        s.when (x.mirror == 1) fun s =>
          let lacking := (x.pages.filter fun p => p.2.mirror.isNone).map (·.1)
          let s := State.giveMirrors s folio version f.owner lacking
          let full := ((s.folios.get? folio).bind fun f => f.slot? version).any fun x =>
            x.pages.all fun p => p.2.mirror.isSome
          let s := s.modFolio folio fun f => f.modSlot version fun x => { x with mirror := if full then 2 else 0 }
          if full then s.dropFolioAtc folio version else s.icFire 5

end Sys2Proof.Machine
end

