-- ==== Sys2Proof/Machine/RevokeOps.lean ====
section
/-!
DEFINITION. Revocation of extents (R258, R259, R470) as its commands share it: what uses an extent, raising the selvage
fence, the end of the drain, and the end of a revocation.
-/
namespace Sys2Proof.Machine

open Sys2Proof

/-- STATE of R237. -/
def EState.code : EState → Nat
  | .free => 0 | .granted => 1 | .fenced => 2 | .invalidating => 3 | .zeroing => 4

/-! ### What uses an extent (R258) -/

/-- Whether a version lists a page, or a mirror page, in the extent. -/
def VSlot.listsIn (v : VSlot) (x : Extent) : Bool := v.live && v.pages.any fun p => x.covers p.2.addr
def VSlot.mirrorsIn (v : VSlot) (x : Extent) : Bool := v.live && v.pages.any fun p => p.2.mirror.any x.covers

/-- Whether a live version of a folio lists a page in the extent. -/
def State.versionIn (s : State) (x : Extent) (f v : Nat) : Bool :=
  (s.folios.get? f).any fun g => (g.slot? v).any fun y => y.listsIn x

/-- Whether a sequence table entry has KV in the extent. -/
def SeqEntry.kvIn (q : SeqEntry) (x : Extent) : Bool :=
  q.state != 0 && q.kvBase < x.base + x.granules * pageBytes && x.base < q.kvBase + q.kvBytes

/-- Whether a relocated binding names a version with a page in the extent. -/
def State.bindingIn (s : State) (x : Extent) : Reloc → Bool
  | .folioRead f v => s.versionIn x f v
  | .folioOutput f v _ => s.versionIn x f v
  | _ => false

/-- Whether a FOLIO_PUBLISH takes pages from the extent. -/
def State.publishesIn (s : State) (x : Extent) (e : Slot) : Bool :=
  e.opcode == Op.folioPublish
    && match e.publishing with
      | some pages => pages.any x.covers
      | none => s.versionIn x (folioHandle (le (args e.raw) 0 8)).index (le (args e.raw) 8 4)

/-- Whether a slot uses extent `k` (R258). -/
def State.usesExtent (s : State) (k : Nat) (x : Extent) (e : Slot) : Bool :=
  e.usesExtents.contains k
    || e.bindings.any (s.bindingIn x)
    || s.publishesIn x e
    || (e.phaseStates.any fun ps => ps.lists.flatten.any fun i => (s.seqs.get? i).any fun q => q.kvIn x)
    || (e.image.isSome && (s.graphs.get? e.graph).any fun g =>
        g.versions.any fun v => v.number == e.version && x.covers v.address)

/-! ### The fence -/

/-- Versions with a page in the extent get REVOKED; those with a mirror page there fall back to PENDING (R259, R260).
Log entry 24 (DEDUCED). -/
def Folio.revokeIn (f : Folio) (x : Extent) (stores : Bool) : Folio :=
  { f with slots := f.slots.map fun v =>
      let v := if stores && v.listsIn x then { v with revoked := true } else v
      if v.mirrorsIn x then
        { v with mirror := 1
                 pages := v.pages.mapV fun _ p => if p.mirror.any x.covers then { p with mirror := none } else p }
      else v }

/-- Drafts of the losing partitions that list a page in the extent. -/
def State.draftsIn (s : State) (x : Extent) : List (Nat × Nat) :=
  (s.folios.map fun e => (e.2.slots.filter fun v =>
    v.vstate == .draft && v.listsIn x && x.losing.getLsbD v.holderP).map fun v => (e.1, v.version)).flatten

/-- Versions of graphs of the losing partitions that the extent stores become unlaunchable (R121). Log entry 24 (DEDUCED). -/
def Graph.revokeIn (g : Graph) (x : Extent) : Graph :=
  if x.losing.getLsbD g.owner then
    { g with versions := g.versions.map fun v => if x.covers v.address then { v with revoked := true } else v }
  else g

/-- The partitions that lose rights: every one for a whole extent. -/
def losingOf : Option Nat → BitVec 64
  | none => BitVec.allOnes 64
  | some p => BitVec.ofNat 64 (2 ^ p)

/-- The fence is raised (R259, offset 0): `p` names the partition losing its rights, `none` the whole extent.
Log entry 24 (DEDUCED). -/
def State.raiseFence (s : State) (k : Nat) (p : Option Nat) (reply : List Nat) : State :=
  match s.extents.get? k with
  | none => s
  | some x =>
    let x := { x with
      state := .fenced, fenceCt := s.ctNow, fenceNs := s.time.now, losing := losingOf p, whole := p.isNone
      drained := false, replyTo := reply }
    let s := { s with extents := s.extents.put k x }
    let s := s.endWhere (fun e => e.admitted && x.losing.getLsbD e.partition && s.publishesIn x e) .revoked
    let drafts := s.draftsIn x
    let stores := p.isNone || (x.pubMask &&& x.losing : BitVec 64) != 0#64
    let s := { s with
      folios := s.folios.mapV fun _ f => f.revokeIn x stores
      graphs := s.graphs.mapV fun _ g => g.revokeIn x }
    drafts.foldl (fun s d => s.discardDraft d.1 d.2) s

/-- Rights that anyone holds in an extent. -/
def Extent.holders (x : Extent) : BitVec 64 := x.rMask ||| x.wMask ||| x.pubMask

/-- A revocation is asked (R470); a channel that asks gets its reply when STATE leaves INVALIDATING (R344). -/
def State.askRevoke (s : State) (k : Nat) (p : Option Nat) (ch : Option Nat) : State :=
  match s.extents.get? k with
  | none => s
  | some x =>
    let now (s : State) : State := s.acceptAll ch.toList (toLe 1 x.state.code)
    let wait (s : State) : State := ch.toList.foldl State.park s
    match x.state with
    | .granted =>
      if p.all fun p => x.holders.getLsbD p then (wait s).raiseFence k p ch.toList else now s
    | .fenced | .invalidating =>
      if x.whole || x.losing == losingOf p then wait (s.modExtent k fun x => { x with replyTo := x.replyTo ++ ch.toList })
      else wait (s.modExtent k fun x => { x with waiting := x.waiting ++ [(p, ch)] })
    | _ => now s

/-! ### The end of the drain -/

/-- Whether a commit phase of a losing partition's launch that uses the extent is still in progress. -/
def State.committingIn (s : State) (k : Nat) (x : Extent) : Bool :=
  s.cores.any fun c => c.2.mode == .committing && x.losing.getLsbD c.2.partition
    && (s.slot? c.2.queue c.2.seq).any fun e => s.usesExtent k x e

/-- Extents whose drained work has ended its last commit phases go on to INVALIDATING (R259). Log entry 24 (DEDUCED). -/
def State.settleFences (s : State) : State :=
  { s with extents := s.extents.mapV fun k x =>
      if x.state == .fenced && x.drained && !s.committingIn k x then { x with state := .invalidating } else x }

/-! ### The end of a revocation -/

/-- Revocations that wait run in turn, each from its own fence (R470). -/
def State.nextRevocation (s : State) (k : Nat) : State :=
  match s.extents.get? k with
  | none => s
  | some x => x.waiting.foldl (fun s w => s.askRevoke k w.1 w.2) (s.modExtent k fun x => { x with waiting := [] })

/-- Cached lines of the losing partitions in the extent: written back when another partition keeps a right (R259). -/
def State.dropExtentLines (s : State) (x : Extent) : State :=
  s.dropLines ((x.holders &&& ~~~x.losing : BitVec 64) != 0#64) fun l => x.losing.getLsbD l.partition && x.covers (64 * l.line)

/-- STATE leaves INVALIDATING (R259): a whole extent goes on to ZEROING, one that loses rights returns to GRANTED.
Log entry 24 (DEDUCED). -/
def State.invalidated (s : State) (k : Nat) : State :=
  match s.extents.get? k with
  | none => s
  | some x =>
    let s := (s.atcDrop fun a => a.folio && x.losing.getLsbD a.partition && (x.covers a.target || (a.mirror != 0 && x.covers a.mirror))).dropExtentLines x
    if x.whole then
      (s.modExtent k fun x => { x with state := .zeroing, replyTo := [] }).acceptAll x.replyTo (toLe 1 EState.zeroing.code)
    else
      let keep := ~~~x.losing
      let s := s.modExtent k fun x =>
        { x with state := .granted, fenceCt := 0, losing := 0, replyTo := []
                 rMask := x.rMask &&& keep, wMask := x.wMask &&& keep, pubMask := x.pubMask &&& keep }
      ((s.acceptAll x.replyTo (toLe 1 EState.granted.code)).emit (.extentReleased x.grant)).nextRevocation k

end Sys2Proof.Machine
end

