-- ==== Sys2Proof/Machine/Sched.lean ====
section
/-!
DEFINITION. Which tile a core takes (R118, R210 to R215, R220, R298), what a tile's start and end do to contexts and
accounting (R214, R216), how phases end (R57, R113, R390), and the deadline monitor (R196 to R203).
-/
namespace Sys2Proof.Machine

open Sys2Proof

/-! ### Startable tiles -/

/-- A tile of a launch. -/
structure Cand where
  queue : Nat
  seq   : Nat
  tile  : Nat
deriving DecidableEq, Repr

/-- Whether every re-shard of a phase has been done and the phase runs. -/
def PhaseState.open (ps : PhaseState) : Bool := ps.started && !ps.ended && ps.reshards == 0

/-- The phase number of the k-th phase of a launch. -/
def Slot.phaseNo (e : Slot) (k : Nat) : Nat :=
  (((e.phaseStates[k]?).bind fun ps => e.map? ps.map).map (·.phase)).getD 0

/-- Whether shard `sh` of the k-th phase has failed, or the phase lies behind the failed one (R390). -/
def Slot.blockedBy (e : Slot) (k sh : Nat) : Bool :=
  match e.failedPhase with
  | none => false
  | some f => phaseRank f < phaseRank (e.phaseNo k) || (f == e.phaseNo k && bitAt e.failedShards sh)

/-- Whether a fault of the abandoned tile is still unanswered (R223). -/
def State.parkedFor (s : State) (q seq t : Nat) : Bool := s.reqs.any fun e => e.2.who == .parked q seq t

/-- Whether a launch may start tiles: it runs, and no decided switch has reached its tack point. -/
def Slot.dispatches (e : Slot) : Bool := e.state == .running && !(e.switchDecided && !e.switched && e.tack)

/-- Tiles of a started phase that have not committed. -/
def Slot.uncommitted (e : Slot) (k : Nat) : List Nat :=
  match (e.phaseStates[k]?).bind fun ps => e.map? ps.map with
  | some m => m.tileIndices.filter fun t => (e.tile t).place != .committed
  | none => []

/-- Whether every other tile of the launch has ended its commit phase (R60). -/
def Slot.onlyLeft (e : Slot) (t : Nat) : Bool :=
  (List.range e.phaseStates.length).all fun k => (e.uncommitted k).all (· == t)

/-- Tiles of a launch that are startable (R118, R60, R390). -/
def State.startable (s : State) (e : Slot) : List Nat :=
  if !e.dispatches || s.errs.fatal then []
  else ((List.range e.phaseStates.length).map fun k =>
    if (e.phaseStates[k]?).any PhaseState.open then
      (e.uncommitted k).filter fun t =>
        (e.tile t).place == .waiting && (e.tile t).preds == 0 && !s.parkedFor e.queue e.seq t
          && !(e.tileDef? t).any (fun d => e.blockedBy k d.shard)
          && (e.finalTile != some t || (e.image.bind (·.qualityBinding)).isNone || e.onlyLeft t)
    else []).flatten

/-! ### Which core may take a tile -/

def Slot.shardOf (e : Slot) (t : Nat) : Nat := ((e.tileDef? t).map (·.shard)).getD 0

/-- The cluster of a tile (R210). -/
def Slot.clusterFor (e : Slot) (t : Nat) : Option Nat := e.clusterOf (e.shardOf t)

/-- The first predecessor of a SAME_CORE tile (R118). -/
def Slot.firstPred (e : Slot) (t : Nat) : Option Nat :=
  if (e.tileDef? t).any (·.sameCore) then e.image.bind fun g => (g.preds t).head? else none

/-- A committed tile's live ranges, in bytes. -/
def Slot.liveBytes (e : Slot) (t : Nat) : Nat := ((e.tileDef? t).map (·.liveBytes)).getD 0

/-- Committed tiles whose live ranges stand in core `k` for a SAME_CORE successor that has not committed (R219). -/
def Slot.liveOn (e : Slot) (k : Nat) : List Nat :=
  if e.state == .running then
    (e.tiles.filter fun x =>
      x.2.place == .committed && x.2.doneCore == k && !x.2.saved && e.liveBytes x.1 != 0
        && e.tiles.any fun y => y.2.place != .committed && e.firstPred y.1 == some x.1).map (·.1)
  else []

/-- Live ranges standing in a core that the next tile does not receive: launch and tile. -/
def State.liveLeft (s : State) (k : Nat) (c : Cand) : List Cand :=
  ((s.slots.map fun e =>
      (e.liveOn k).filterMap fun t =>
        if e.queue == c.queue && e.seq == c.seq && e.firstPred c.tile == some t then none
        else some { queue := e.queue, seq := e.seq, tile := t : Cand })).flatten

/-- Bytes of a list of live ranges. -/
def State.liveSize (s : State) (cs : List Cand) : Nat :=
  (cs.map fun c => ((s.slot? c.queue c.seq).map fun e => e.liveBytes c.tile).getD 0).sum

/-- Bytes taken from the staging reserve of a partition in a cluster: budgets of running tiles and saved live ranges
(R82, R220), core `k` apart. -/
def State.reserveUsed (s : State) (p c k : Nat) : Nat :=
  let budgets := s.cores.map fun x =>
    if x.1 != k && x.2.mode != .free && x.2.partition == p && clusterOfCore x.1 == c then
      (((s.slot? x.2.queue x.2.seq).bind fun e => e.tileDef? x.2.tile).map (·.staging)).getD 0
    else 0
  let saves := s.slots.map fun e =>
    if e.partition == p then ((e.tiles.filter fun t => t.2.saved && clusterOfCore t.2.doneCore == c).map fun t =>
      e.liveBytes t.1).sum else 0
  budgets.sum + saves.sum

/-- The staging reserve (R82). -/
def State.reserve (s : State) (p c : Nat) : Nat := ((s.part p).waysIn c).ways * 2 ^ 19

/-- Cores other than `k` that a shard of a launch occupies. -/
def State.shardCores (s : State) (e : Slot) (t k : Nat) : Nat :=
  (s.cores.filter fun x => x.1 != k && x.2.serves e.queue e.seq && e.shardOf x.2.tile == e.shardOf t).length

/-- Whether the commons lets a context's tiles run (R297, R298). -/
def State.commonsLets (s : State) (e : Slot) : Bool :=
  (s.part e.partition).kind != 2
    || (s.commons.switching.isNone && s.commons.running == some (ctxKey e.partition e.context))

/-- Whether R211, R118 and R82 let core `k` take a tile of a launch. Log entry 22 (DESIGN CHOICE). -/
def State.coreTakes (s : State) (e : Slot) (t k : Nat) : Bool :=
  let c := clusterOfCore k
  let d := e.tileDef? t
  let p := s.part e.partition
  let saves := s.liveSize (s.liveLeft k { queue := e.queue, seq := e.seq, tile := t })
  let quads := (((e.phaseOf t).bind fun i => (e.phaseStates[i]?).bind fun ps => e.map? ps.map).map (·.quadsPerShard)).getD 0
  e.clusterFor t == some c && p.hasCore k && !(s.cluster c).quarantined && s.commonsLets e
    && s.shardCores e t k < 4 * quads
    && (match e.firstPred t with
        | some f => (e.tile f).saved || (e.tile f).doneCore == k || (e.tile f).place != .committed
        | none => true)
    && s.reserveUsed e.partition c k + (d.map (·.staging)).getD 0 + saves ≤ s.reserve e.partition c

/-- Every startable tile that core `k` may take. -/
def State.cands (s : State) (k : Nat) : List Cand :=
  (s.slots.map fun e =>
    ((s.startable e).filter fun t => s.coreTakes e t k).map fun t =>
      { queue := e.queue, seq := e.seq, tile := t : Cand }).flatten

/-! ### Precedence (R212, R214, R215) -/

/-- The sequencer's table for a partition: the commons keeps one for the partition as a whole (R298). -/
def State.sharesFor (s : State) (p c : Nat) : Shares :=
  if (s.part p).kind == 2 then s.commons.shares else (s.cluster c).shares

def State.modShares (s : State) (p c : Nat) (f : Shares → Shares) : State :=
  if (s.part p).kind == 2 then { s with commons := { s.commons with shares := f s.commons.shares } }
  else s.modCluster c fun x => { x with shares := f x.shares }

def State.shareOf (s : State) (key : Nat) : Nat := ((s.ctx? key).map (·.share)).getD 0

/-- The place of a candidate in the order of R212: class, then hem or virtual time, then admission and tile. -/
structure Rank where
  cls   : Nat
  first : Nat
  ctx   : Nat
  order : Nat
  tile  : Nat
deriving DecidableEq, Repr

def Rank.before (a b : Rank) : Bool :=
  a.cls < b.cls || (a.cls == b.cls && (a.first < b.first || (a.first == b.first && (a.ctx < b.ctx || (a.ctx == b.ctx
    && (a.order < b.order || (a.order == b.order && a.tile < b.tile)))))))

/-- The rank of a candidate on core `k`: PROMISED by hem point; then the context of the core's slice; then contexts by
virtual time; then contexts of SHARE 0 in turn. Log entry 67 (DEDUCED). -/
def State.rank (s : State) (k : Nat) (x : Cand) : Rank :=
  match s.slot? x.queue x.seq with
  | none => { cls := 9, first := 0, ctx := 0, order := 0, tile := x.tile }
  | some e =>
    let key := ctxKey e.partition e.context
    match e.promise with
    | some p => { cls := 0, first := p.hem, ctx := 0, order := e.order, tile := x.tile }
    | none =>
      let sh := s.sharesFor e.partition (clusterOfCore k)
      let inSlice := match (s.core k).slice with
        | some (c, at_) => c == key && s.time.now < at_ + (s.part e.partition).sliceNs
        | none => false
      if inSlice then { cls := 1, first := 0, ctx := 0, order := e.order, tile := x.tile }
      else if s.shareOf key != 0 then
        { cls := 2, first := sh.vtime.getD key 0, ctx := key, order := e.order, tile := x.tile }
      else
        { cls := 3, first := if key ≤ sh.lastZero then 1 else 0, ctx := key, order := e.order, tile := x.tile }

/-- Whether candidate `a` goes before `b` on core `k`. Log entry 67 (DEDUCED). -/
def State.precedes (s : State) (k : Nat) (a b : Cand) : Bool := (s.rank k a).before (s.rank k b)

/-- The tile that R212 gives core `k`. Log entry 22 (DESIGN CHOICE). -/
def State.choose (s : State) (k : Nat) : Option Cand :=
  (s.cands k).foldl (fun acc c => match acc with
    | none => some c
    | some b => if s.precedes k c b then some c else some b) none

/-- Whether a core may be given a tile now. -/
def State.coreFree (s : State) (k : Nat) : Bool := k < s.nCores && (s.core k).mode == .free

/-- Whether a lower-numbered free core of the cluster is served first (R212). -/
def State.lowerFirst (s : State) (k : Nat) : Bool :=
  (List.range (k % 16)).any fun i =>
    let j := 16 * clusterOfCore k + i
    s.coreFree j && (s.choose j).isSome

/-! ### Gains and losses of startable tiles, and waiting time -/

/-- Contexts with a startable SHARED tile in a cluster, of one partition. -/
def State.sharedIn (s : State) (p c : Nat) : List Nat :=
  ((s.slots.filter fun e => e.partition == p && e.promise.isNone
      && (s.startable e).any fun t => (s.part p).kind == 2 || e.clusterFor t == some c).map fun e =>
    ctxKey e.partition e.context).eraseDups

/-- Virtual times after the set of contexts with startable tiles has changed (R214). Log entry 67 (DEDUCED). -/
def Shares.follow (h : Shares) (mine : Nat → Bool) (now : List Nat) : Shares :=
  let had := h.startables.filter mine
  let least := (had.map fun x => h.vtime.getD x 0).min?
  let gained := now.filter fun x => !had.contains x
  { h with
    vtime := gained.foldl (fun v x => v.put x (max (v.getD x 0) (least.getD 0))) h.vtime
    startables := h.startables.filter (fun x => !mine x) ++ now }

/-- Whether a launch waits in the sense of R216. -/
def State.isWaiting (s : State) (e : Slot) : Bool := !(s.startable e).isEmpty && (s.coresOf e.queue e.seq).isEmpty

/-- Add to a context's account. Log entry 67 (DEDUCED). -/
def State.account (s : State) (key : Nat) (f : Account → Account) : State :=
  s.modCtx key fun c => { c with acct := f c.acct }

/-- Keep the waiting time of one launch. -/
def State.followWait (s : State) (e : Slot) : State :=
  match s.isWaiting e, e.waitSince with
  | true, none => s.modSlot e.queue e.seq fun x => { x with waitSince := some s.time.now }
  | false, some t =>
    (s.modSlot e.queue e.seq fun x => { x with waitSince := none, waitNs := x.waitNs + (s.time.now - t) }).account
      (ctxKey e.partition e.context) fun a => { a with wait := satAdd 64 a.wait (s.time.now - t) }
  | _, _ => s

/-- Bring the sequencers' tables and the waiting times up to date after an event. -/
def State.track (s : State) : State :=
  let ps := (s.slots.map (·.partition)).eraseDups
  let s := ps.foldl (fun s p =>
    (List.range (if (s.part p).kind == 2 then 1 else s.nClusters)).foldl (fun s c =>
      let now := s.sharedIn p c
      s.modShares p c fun h => h.follow (fun x => x / 64 == p) now) s) s
  s.slots.foldl State.followWait s

/-! ### Charging a tile's time (R214, R216) -/

/-- Charge the time of a tile that ends on core `k`. Log entry 67 (DEDUCED). -/
def State.chargeTile (s : State) (k : Nat) (discarded : Bool) : State :=
  let c := s.core k
  let ns := 2 * (s.time.now - c.startNs)
  match s.slot? c.queue c.seq with
  | none => s
  | some e =>
    let key := ctxKey e.partition e.context
    let s := s.account key fun a =>
      { a with engine := satAdd 64 a.engine ns, discard := if discarded then satAdd 64 a.discard ns else a.discard }
    if e.promise.isSome || s.shareOf key == 0 then s
    else s.modShares e.partition (clusterOfCore k) fun h =>
      { h with vtime := h.vtime.put key (satAdd 64 (h.vtime.getD key 0) (ns * 65536 / s.shareOf key)) }

/-- A core that has ended a tile. -/
def Core.idle (c : Core) : Core :=
  { c with mode := .free, strands := [], idleSince := none, forced := false, replay := false, failed := false, counts := {},
           staged := [], stagedBytes := 0, reductions := [], seqUpdates := [], uses := [], startReads := [], hamEmitted := 0, poisonAt := 0,
           acc := [], lastContext := c.context }

/-- A core at a tack point takes the bin that a pending lowering gives it (R407, R409). -/
def Core.lowerBin (c : Core) : Core :=
  if c.binPending then { c with bin := c.bin - 1, binPending := false } else c

/-- The tack point at which core `k` has ended its tile. -/
def State.endTile (s : State) (k : Nat) : State :=
  let c := s.core k
  let s := if c.binPending && c.bin != 0 then
      { s with bg := { s.bg with binLowerings := satAdd 16 s.bg.binLowerings 1 } } else s
  (s.modCore k fun c => c.idle.lowerBin).settleFences

/-! ### The end of a phase and of a launch's work -/

/-- Whether a phase exceeds its threshold (R57). -/
def PhaseState.exceeds (ps : PhaseState) (m : PhaseMap) : Bool := m.threshold * ps.sampled < ps.diverged * 65536

/-- A phase is run again from its start (R62). -/
def Slot.rerunPhase (e : Slot) (k : Nat) : Slot :=
  match (e.phaseStates[k]?).bind fun ps => e.map? ps.map with
  | none => e
  | some m =>
    let e := m.tileIndices.foldl (fun (e : Slot) t => e.modTile t fun x => { x with place := .waiting, commitCt := none, rerun := true, replayed := false }) e
    let e := m.tileIndices.foldl (fun (e : Slot) t => e.modTile t fun x => { x with preds := e.predsLeft t }) e
    { e.modPhase k fun ps => { ps with rerun := true } with
      qflags := e.qflags ||| qfEscalated ||| qfExceeded, escPhases := e.escPhases ||| 2 ^ m.phase }

/-- The k-th phase has committed all of its tiles: the test of R57, and what follows it (R61, R62, R64). -/
def Slot.endPhase (e : Slot) (k : Nat) : Slot :=
  match (e.phaseStates[k]?).bind fun ps => (e.map? ps.map).map fun m => (ps, m) with
  | none => e
  | some (ps, m) =>
    let done (e : Slot) : Slot := e.modPhase k fun ps => { ps with ended := true }
    if ps.rerun || !ps.exceeds m then done e
    else if m.policy == 2 then
      if e.failedPhase.isSome then done { e with qflags := e.qflags ||| qfExceeded }
      else if e.switchDecided && !e.switched then
        { e with qflags := e.qflags ||| qfExceeded ||| qfRerunAbandoned }
      else e.rerunPhase k
    else if m.policy == 1 then done { e with qflags := e.qflags ||| qfExceeded ||| qfQuality }
    else done { e with qflags := e.qflags ||| qfExceeded }

/-- End every started phase whose tiles have all committed. -/
def Slot.endPhases (e : Slot) : Slot :=
  (List.range e.phaseStates.length).foldl (fun e k =>
    if (e.phaseStates[k]?).any (fun ps => ps.open) && (e.uncommitted k).isEmpty then e.endPhase k else e) e

/-- The status with which completed work finishes (R12, R64, R390). -/
def Slot.completion (e : Slot) : Nat × Nat :=
  if e.failedPhase.isSome then (Status.partialShards, e.partialCause)
  else if e.switched then (Status.okFallback, 0)
  else if e.qflags &&& qfQuality != 0 then (Status.okQuality, 0)
  else (Status.ok, 0)

/-- Whether a running launch has nothing left to do: every phase has ended, or after a failure nothing of it runs or can
run (R390). -/
def State.workDone (s : State) (e : Slot) : Bool :=
  e.state == .running
    && (e.phaseStates.all (·.ended)
      || (e.failedPhase.isSome && (s.coresOf e.queue e.seq).isEmpty && (s.startable e).isEmpty))

/-- After an event of a launch: end what has ended. -/
def State.settleLaunch (s : State) (q seq : Nat) : State :=
  match s.slot? q seq with
  | none => s
  | some e =>
    if e.state != .running then s
    else
      let s := s.modSlot q seq Slot.endPhases
      match s.slot? q seq with
      | none => s
      | some e =>
        if s.workDone e then
          s.modSlot q seq fun e => { e with state := .ended, status := e.completion.1, cause := e.completion.2 }
        else s

/-- A shard fails (R390). -/
def Slot.failShard (e : Slot) (phase shard cause : Nat) : Slot :=
  match e.failedPhase with
  | none => { e with failedPhase := some phase, partialCause := cause, failedShards := 2 ^ shard + phase * 2 ^ 16 }
  | some f => if f == phase then { e with failedShards := e.failedShards ||| 2 ^ shard } else e

/-! ### The deadline monitor -/

/-- The phases of the running variant that a launch does not run, and that precede tile `t`'s phase: O_k (R196, R199). -/
def Slot.offset (e : Slot) (g : GraphImage) (v : Variant) (t : Nat) : Nat :=
  let ph := ((g.tiles[t]?).map (·.phase)).getD 0
  let runs := e.phaseStates.filterMap fun ps => (e.map? ps.map).map (·.phase)
  ((g.mapsOf v).filter fun m => phaseRank m.phase < phaseRank ph && !runs.contains m.phase).map (·.wcetNs) |>.sum

/-- Lateness against one planned commit. -/
def lateness (ct plan : Nat) (commit : Option Nat) : Nat :=
  match commit with
  | some t => t - plan
  | none => ct - plan

/-- L of a launch (R197). -/
def State.late (s : State) (e : Slot) : Nat :=
  match e.promise, e.image, e.var? with
  | some p, some g, some v =>
    let origin := if e.switched then e.planF else p.origin
    ((e.phaseStates.map fun ps =>
      match e.map? ps.map with
      | some m => m.tileIndices.map fun t =>
          let plan := origin + scaled16 p.scaleI (((g.tiles[t]?).map (·.planEndNs)).getD 0 - e.offset g v t)
          lateness s.time.ct plan (e.tile t).commitCt
      | none => []).flatten).foldl max 0
  | _, _, _ => 0

/-- The slack (R197, R199). -/
def Slot.slack (e : Slot) (p : Promise) : Nat := if e.switched then 0 else p.hem - (p.origin + p.budget)

/-- Whether a stream of the launch waits on a held fabric link (R201). Log entry 56 (DEDUCED). -/
def State.onHeldLink (s : State) (e : Slot) : Bool :=
  s.reqs.any fun x => s.launchOf x.2 == some (e.queue, e.seq)
    && ((x.2.place == .fabric && (s.fport x.2.port).state == 2) || (x.2.place == .missQueue && x.2.guest))

/-- Whether a stream of the launch is parked on a translation fault, that of a tile abandoned before the switch aside, or
the buffer holds its faults under overflow. Log entry 56 (DEDUCED). -/
def State.onFault (s : State) (e : Slot) : Bool :=
  (s.reqs.any fun x => s.launchOf x.2 == some (e.queue, e.seq) && x.2.place == .faulted
      && (match x.2.who with
        | .parked _ _ t => (e.phaseOf t).isSome
        | _ => true))
    || s.faults.any fun f => f.queue == e.queue && f.launchSeq == e.seq && f.partition == e.partition
      && (f.place == .buffer || f.place == .heldByStream) && (s.ctx? (ctxKey f.partition f.context)).any (·.overflow)

/-- Whether a hard cap, or the throttle of one of its clusters, holds the launch below the rate of its admission (R201,
R415). Log entry 56 (DEDUCED). -/
def State.heldByCap (s : State) (e : Slot) (p : Promise) : Bool :=
  4 < p.scaleI && (s.power.hardCap || e.phaseStates.any fun ps =>
    (e.map? ps.map).any fun m => m.tileIndices.any fun t => (e.clusterFor t).any fun c => (s.cluster c).throttled)

/-- The cause with which a late launch without a variant left breaks now, if any (R201). Log entry 56 (DEDUCED). -/
def State.breakCause (s : State) (e : Slot) (p : Promise) : Option EndWhy :=
  if s.onHeldLink e then some .link
  else if s.onFault e then some .translation
  else if s.heldByCap e p then some .power
  else none

/-- Whether a switch to the fallback remains possible. -/
def Slot.canSwitch (e : Slot) : Bool := !e.switched && !e.switchDecided && (e.var?.bind (·.fallback)).isSome

/-- The monitor looks at one launch (R197 to R203). -/
def State.monitorOne (s : State) (q seq : Nat) : State :=
  match s.slot? q seq with
  | none => s
  | some e =>
    match e.promise with
    | none => s
    | some p =>
      if !e.isLaunch || e.state != .running || e.failedPhase.isSome || s.late e ≤ e.slack p then s
      else if e.canSwitch then s.modSlot q seq fun e => { e with switchDecided := true, tack := false }
      else if e.switchDecided && !e.switched then s
      else
        match s.breakCause e p with
        | some w => s.endSlot q seq w
        | none =>
          if e.overrun then s
          else
            let s := s.modSlot q seq fun e => { e with overrun := true }
            (s.modPart e.partition fun u => { u with adm := { u.adm with overrun := satAdd 16 u.adm.overrun 1 } }).icFire 6

end Sys2Proof.Machine
end

