-- ==== Sys2Proof/Machine/TileWork.lean ====
section
/-!
DEFINITION. What the units of a core do for a tile: engine passes with the seam check (R42 to R46, R53 to R55, R62), the
vector unit (R47, R48), the Hamming unit (R49), the tile counters (R51), and the staging of stores, reductions and
sequence updates (R81, R87, R230).
-/
namespace Sys2Proof.Machine

open Sys2Proof

/-! ### Counters and the scratchpad -/

/-- Add to a 16-bit tile counter, remembering its saturation (R51, R59). -/
def Counts.count (c : Counts) (sat clamp nanOut nanIn : Nat) : Counts :=
  let big (a k : Nat) : Bool := 2 ^ 16 ≤ a + k
  { c with
    elemSat := satAdd 16 c.elemSat sat, scaleClamp := satAdd 16 c.scaleClamp clamp, nanOut := satAdd 16 c.nanOut nanOut
    nanIn := satAdd 16 c.nanIn nanIn
    saturated := c.saturated || big c.elemSat sat || big c.scaleClamp clamp || big c.nanOut nanOut || big c.nanIn nanIn }

/-- Bytes of a scratchpad (R16, 2 MiB). -/
abbrev scratchBytes : Nat := 2 ^ 21

/-- What a scratchpad byte that is not listed reads as: cleared (R290). Log entry 8 (DESIGN CHOICE). -/
abbrev scratchUnlisted : Byte := 0

/-- The byte at an address of a scratchpad. -/
def Memory.read (t : Tbl Byte) (a : Nat) : Byte := Tbl.getD t a scratchUnlisted

/-- Write one byte of a scratchpad, keeping its canonical form; there is no byte beyond its end. -/
def Memory.write (t : Tbl Byte) (a : Nat) (b : Byte) : Tbl Byte :=
  if scratchBytes ≤ a then t else if b = scratchUnlisted then Tbl.del t a else Tbl.put t a b

/-- The canonical form of a scratchpad: addresses strictly rising and inside it, and no entry equal to what an unlisted
address reads as. -/
def Memory.wf (t : Tbl Byte) : Bool :=
  (t.zip t.tail).all (fun x => x.1.1 < x.2.1) && t.all fun e => e.1 < scratchBytes && e.2 != scratchUnlisted

/-- Write bytes at consecutive addresses. -/
def Memory.writes (t : Tbl Byte) : Nat → Bytes → Tbl Byte
  | _, [] => t
  | a, b :: bs => Memory.writes (Memory.write t a b) (a + 1) bs

/-- Write bytes into the scratchpad. -/
def Core.poke (c : Core) (dst : Nat) (b : Bytes) : Core := { c with scratch := Memory.writes c.scratch dst b }

/-- Write bytes, and count NaN results among the values that they encode (R51). -/
def Core.pokeOut (c : Core) (dst : Nat) (b : Bytes) (nans : Nat) : Core :=
  { c.poke dst b with counts := c.counts.count 0 0 nans 0 }

def nanCount (xs : List (BitVec 32)) : Nat := (xs.filter isNan32).length

/-- FP32 values as bytes (R45). -/
def bytes32 (xs : List (BitVec 32)) : Bytes := (xs.map fun x => toLe 4 x.toNat).flatten

/-! ### Engine passes -/

/-- The activation operand of one row: codes, scales, and the conversion's saturations and clamps. -/
structure ActRow where
  codes  : List Nat
  scales : List Byte
  sat    : Nat := 0
  clamp  : Nat := 0

/-- A row quantised by the tile (R46). -/
def quantRow (f : Fmt) (ws : List (BitVec 32)) : ActRow :=
  let bs := toMxRow f ws
  { codes := (bs.map (·.codes)).flatten, scales := bs.map (·.scale), sat := (bs.map (·.sat)).sum,
    clamp := (bs.filter (·.clamp)).length }

/-- The activation rows of a pass in a format. -/
def actRows (f : Fmt) : Activation → List ActRow
  | .coded rows scales => rows.zipIdx.map fun x => { codes := x.1, scales := scales.getD x.2 [] }
  | .quantised rows => rows.map (quantRow f)

/-- Whether a pass is seam-eligible (R53). -/
def passEligible (p : EnginePass) : Bool :=
  (p.aFmt == .mxfp4 || p.aFmt == .mxint4) && match p.act with
    | .quantised _ => true
    | .coded _ _ => false

/-- The format that a pass quantises its activations to: MXFP8 E4M3 in a re-run (R62). -/
def passActFmt (p : EnginePass) (rerun : Bool) : Fmt := if rerun && passEligible p then .e4m3 else p.aFmt

/-- One output row: accumulators `acc`, block results added in the engine's order; and the row's NAN_IN count. -/
def passRow (p : EnginePass) (f : Fmt) (draw : Nat) (acc : List (BitVec 32)) (a : ActRow) :
    List (BitVec 32) × Nat :=
  let outs := p.wElems.zipIdx.map fun x =>
    accumulate (draw + x.2) (acc.getD x.2 0) (blockResults p.wFmt f x.1 (p.wScales.getD x.2 []) a.codes a.scales)
  (outs.map (·.1), (outs.map (·.2)).sum)

/-- The sampled rows of a pass: one of each group of 64 (R54). -/
def sampledRows (seq engine tile n : Nat) : List Nat :=
  (List.range (ceilDiv n 64)).map fun g => 64 * g + Config.sampleRow seq engine tile g % min 64 (n - 64 * g)

/-- The largest of two quotients; infinity is the largest. -/
def maxQ (a b : BitVec 32) : BitVec 32 := if a.toNat < b.toNat then b else a

/-- The seam check of one row (R54, R55): its largest q. -/
def passSeamRow (p : EnginePass) (m : PhaseMap) (draw : Nat) (narrow : ActRow) (src : List (BitVec 32)) : BitVec 32 :=
  let y := (passRow p p.aFmt draw [] narrow).1
  let ref := (passRow p .e4m3 (draw + 128) [] (quantRow .e4m3 src)).1
  ((y.zip ref).map fun x => seamQ m.tolAbs m.tolRel x.1 x.2).foldl maxQ 0

/-- The counts of the seam check of a pass. -/
def passSeam (p : EnginePass) (m : PhaseMap) (seq tile draw : Nat) : Nat × Nat × BitVec 32 :=
  match p.act with
  | .coded _ _ => (0, 0, 0)
  | .quantised rows =>
    let qs := (sampledRows seq p.engine tile rows.length).zipIdx.map fun x =>
      passSeamRow p m (draw + 256 * x.2) (quantRow p.aFmt (rows.getD x.1 [])) (rows.getD x.1 [])
    (qs.length, (qs.filter diverges).length, qs.foldl maxQ 0)

/-- The key of an accumulator row of an engine. -/
def accKey (engine row : Nat) : Nat := 256 * engine + row

/-- An engine pass (R31, R42, R43): accumulators, counters and the seam check. -/
def Core.pass (c : Core) (p : EnginePass) (m : PhaseMap) (seq draw : Nat) (rerun : Bool) : Core :=
  let f := passActFmt p rerun
  let rows := actRows f p.act
  let acc (i : Nat) : List (BitVec 32) := if p.clear then [] else c.acc.getD (accKey p.engine (p.accRow + i)) []
  let outs := rows.zipIdx.map fun x => passRow p f (draw + 128 * x.2) (acc x.2) x.1
  let accs := (outs.map (·.1)).zipIdx.foldl (fun t x => t.put (accKey p.engine (p.accRow + x.2)) x.1) c.acc
  let sat := (rows.map (·.sat)).sum
  let clamp := (rows.map (·.clamp)).sum
  let k := c.counts.count sat clamp 0 ((outs.map (·.2)).sum)
  let (n, d, q) := if passEligible p && !rerun then passSeam p m seq c.tile (draw + 32768) else (0, 0, 0)
  { c with acc := accs, counts := { k with sampled := k.sampled + n, diverged := k.diverged + d, maxQ := maxQ k.maxQ q } }

/-! ### Vector and Hamming units -/

/-- Bits of an element code. -/
def codeBits : Fmt → Nat
  | .mxfp4 | .mxint4 => 4
  | .e3m2 | .e2m3 => 6
  | .s2 | .t2 => 2
  | .bf16 => 16
  | .fp32 => 32
  | _ => 8

/-- Element codes packed from the least significant bit on (R40). -/
def packCodes (f : Fmt) (codes : List Nat) : Bytes :=
  let v := codes.foldr (fun x acc => x + 2 ^ codeBits f * acc) 0
  toLe (ceilDiv (codes.length * codeBits f) 8) v

/-- Quantise to an MX format (R46, R47): the element plane, then the scales. -/
def Core.quantise (c : Core) (dst : Nat) (f : Fmt) (xs : List (BitVec 32)) : Core :=
  let bs := toMxRow f xs
  let c := c.poke dst (packCodes f (bs.map (·.codes)).flatten ++ bs.map (·.scale))
  { c with counts := c.counts.count (bs.map (·.sat)).sum (bs.filter (·.clamp)).length (bs.filter (·.nan)).length 0 }

/-- A vector operation over lanes (R47, R48). -/
def Core.vector (c : Core) (dst : Nat) (op : VecOp) (xs ys zs : List (BitVec 64)) (draw : Nat) : Core :=
  let rs := xs.zipIdx.map fun x => vecLane (draw + x.2) op x.1 (ys.getD x.2 0) (zs.getD x.2 0)
  let w := if vecIsWide op then 8 else 4
  let nans := if vecIsFloat op then nanCount (rs.map (·.truncate 32)) else 0
  c.pokeOut dst (rs.map fun r => toLe w r.toNat).flatten nans

/-- The Hamming unit (R49). A code longer than 4,096 bits is not accepted. In threshold mode the index and distance of
each code within the threshold are written, and counted. Log entry 51 (DESIGN CHOICE). -/
def Core.hamming (c : Core) (dst : Nat) (q : Bytes) (codes : List Bytes) (limit : Option Nat) : Core :=
  if 512 < q.length then c
  else
    let hs := codes.map (Machine.hamming q)
    match limit with
    | none => c.poke dst (hs.map (toLe 2)).flatten
    | some h =>
      let hits := hs.zipIdx.filter fun x => x.1 ≤ h
      { c.poke dst (hits.map fun x => toLe 4 x.2 ++ toLe 2 x.1).flatten with hamEmitted := c.hamEmitted + hits.length }

/-! ### Any step of a tile -/

/-- How many free values a step may draw. -/
def opDraws : TileOp → Nat
  | .pass _ => 65536
  | .vector _ _ xs _ _ => xs.length
  | _ => 0

/-- One step of a tile's code on its core; `m` is the tile's phase map. Log entry 47 (DEDUCED). -/
def Core.tileOp (c : Core) (m : PhaseMap) (rerun : Bool) (draw : Nat) : TileOp → Core
  | .pass p => c.pass p m c.seq draw rerun
  | .drain row dst => let xs := c.acc.getD row []; c.pokeOut dst (bytes32 xs) (nanCount xs)
  | .toBf16 dst xs => c.pokeOut dst (xs.map fun x => toLe 2 (Machine.toBf16 x).toNat).flatten (nanCount xs)
  | .quantise dst f xs => c.quantise dst f xs
  | .dequantise dst f sc codes => let xs := codes.map (dequant f sc); c.pokeOut dst (bytes32 xs) (nanCount xs)
  | .vector dst op xs ys zs => c.vector dst op xs ys zs draw
  | .hamming dst q codes limit => c.hamming dst q codes limit
  | .store b off h data =>
    { c with staged := c.staged ++ [{ binding := b, offset := off, hint := h, data := data }]
             stagedBytes := c.stagedBytes + data.length }
  | .reduce b off f op data =>
    { c with reductions := c.reductions ++ [{ binding := b, offset := off, fmt := f, op := op, data := data }] }
  | .seqUpdate i adv fin => { c with seqUpdates := c.seqUpdates ++ [(i, adv, fin)] }

/-- The steps of a tile on core `k`. Log entry 47 (DEDUCED). -/
def State.runOps (s : State) (k : Nat) (m : PhaseMap) (rerun : Bool) (work : List TileOp) : State :=
  work.foldl (fun s op =>
    { s.modCore k fun c => c.tileOp m rerun s.free op with free := s.free + opDraws op }) s

end Sys2Proof.Machine
end

