-- ==== Sys2Proof/Machine/TileCmds.lean ====
section
/-!
DEFINITION. The commands of execution up to the commit phase: phases, re-shards and work lists (R113, R114, R229), basting
(R224), tile starts and context switches (R117, R212, R219, R220), gathers (R66), the entry into the commit phase (R83),
forced tacks (R222, R223), the deadline monitor (R197, R198), the switch to the fallback (R106) and the commons (R298).
-/
namespace Sys2Proof.Machine

open Sys2Proof

/-! ### Phases -/

/-- Whether the k-th phase may start (R113). -/
def Slot.phaseReady (e : Slot) (k : Nat) : Bool :=
  match k with
  | 0 => true
  | j + 1 =>
    match (e.phaseStates[j]?).bind fun ps => (e.map? ps.map).map fun m => (ps, m) with
    | none => false
    | some (ps, m) =>
      ps.started && (if m.barrierAfter || m.policy == 2 then ps.ended
        else m.tileIndices.all fun t => (e.tile t).place != .waiting || (e.tile t).preds == 0)

/-- Put an entry into shard `s` when the shard's list has room (R229). -/
def placeIn (ls : List (List Nat)) (s i : Nat) : List (List Nat) :=
  ls.zipIdx.map fun x => if x.2 == s && x.1.length < 256 then x.1 ++ [i] else x.1

/-- The shard that holds fewest entries, the lowest on a tie. -/
def emptiest (ls : List (List Nat)) : Nat :=
  (ls.zipIdx.foldl (fun (acc : Option (Nat × Nat)) x =>
    match acc with
    | none => some (x.1.length, x.2)
    | some a => if x.1.length < a.1 then some (x.1.length, x.2) else some a) none).elim 0 (·.2)

/-- Build the work lists of a phase (R229): `e` in order, homes first. -/
def buildLists (shards : Nat) (cluster : Nat → Option Nat) (es : List (Nat × SeqEntry)) : List (List Nat) :=
  let first := es.foldl (fun ls x =>
    match (List.range shards).find? fun s => cluster s == some x.2.home with
    | some s => placeIn ls s x.1
    | none => ls) (List.replicate shards [])
  es.foldl (fun ls x => if ls.any (·.contains x.1) then ls else placeIn ls (emptiest ls) x.1) first

/-- The group that a launch's sequence-table binding selects (R230); `none` when it binds no sequence table. -/
def Slot.seqGroup (e : Slot) : Option Nat :=
  e.bindings.findSome? fun r => match r with
    | .seqTable g => some g
    | _ => none

/-- The work lists of a phase with USES_SEQ_TABLE, with the entries' WAIT_STEPS counted (R229). -/
def State.buildWork (s : State) (e : Slot) (m : PhaseMap) : State × List (List Nat) :=
  let g := e.seqGroup.getD 0
  let es := (s.seqsOf e.partition e.context).filter fun x => x.2.state == 1 && (g == 0 || x.2.group == g)
  let es := sortBy (fun a b => b.2.waitSteps < a.2.waitSteps || (a.2.waitSteps == b.2.waitSteps && a.1 < b.1)) es
  let ls := buildLists m.shards e.clusterOf es
  let mine := es.map (·.1)
  ({ s with seqs := s.seqs.mapV fun i x =>
      if mine.contains i then { x with waitSteps := if ls.any (·.contains i) then 0 else x.waitSteps + 1 } else x }, ls)

/-- Bytes that a re-shard delivers to one destination shard (R114). -/
def Reshard.share (r : Reshard) : Nat :=
  if r.op == 1 || r.op == 2 then r.bytes * r.fromShards else ceilDiv (r.bytes * r.fromShards) (max 1 r.toShards)

/-- The re-shards of a phase go to the bulk movers of their destination clusters, in granules of 64 KiB (R86, R114). -/
def State.startReshards (s : State) (e : Slot) (k : Nat) (m : PhaseMap) : State :=
  let rs := (e.image.map fun g => g.reshardsOf m).getD []
  let jobs := (rs.zipIdx.map fun r => (List.range r.1.toShards).filterMap fun sh =>
    (e.clusterOf sh).map fun c =>
      (c, { queue := e.queue, seq := e.seq, partition := e.partition, reshard := m.reshardFirst + r.2,
            granules := max 1 (ceilDiv r.1.share 65536) : MoverJob })).flatten
  let s := jobs.foldl (fun s j => s.modCluster j.1 fun x => { x with mover := x.mover ++ [j.2] }) s
  s.modSlot e.queue e.seq fun x => x.modPhase k fun ps => { ps with reshards := jobs.length }

/-- Shards of a phase that its placement puts on a quarantined cluster fail at the phase's start (R381). -/
def State.failPlaced (s : State) (e : Slot) (m : PhaseMap) : List Nat :=
  (List.range m.shards).filter fun sh => (e.clusterOf sh).any fun c => (s.cluster c).quarantined

/-- PHASE_START (R113). -/
def execPhaseStart (q seq phase : Nat) (s : State) : Host.Outcome State Fault Refusal :=
  .next <| s.whenLive fun s => s.onSlot q seq (fun e => e.dispatches) fun e s =>
    match (List.range e.phaseStates.length).find? fun k => e.phaseNo k == phase with
    | none => s
    | some k =>
      match (e.phaseStates[k]?).bind fun ps => (e.map? ps.map).map fun m => (ps, m) with
      | none => s
      | some (ps, m) =>
        s.when (!ps.started && e.phaseReady k && e.failedPhase.isNone) fun s =>
          let s := s.modSlot q seq fun e => e.modPhase k fun ps => { ps with started := true, builtCt := s.ctNow }
          let bad := s.failPlaced e m
          let s := s.modSlot q seq fun e => bad.foldl (fun e sh => e.failShard phase sh 3) e
          let s := if m.usesSeqTable then
              let (s, ls) := s.buildWork e m
              s.modSlot q seq fun e => e.modPhase k fun ps => { ps with lists := ls }
            else s
          let s := s.modSlot q seq fun e =>
            m.tileIndices.foldl (fun e t => e.modTile t fun x => { x with preds := e.predsLeft t }) e
          let s := if bad.isEmpty then s.startReshards e k m else s
          (s.settleLaunch q seq).track

/-! ### Reads of a tile -/

/-- The memory request of a gather, by the kind of its binding (R108, R261, R281); none for a binding on the block
itself. -/
def Slot.gatherReq (e : Slot) (k : Nat) (g : Gather) : Option MemReq :=
  let r : MemReq :=
    { who := .gather k g.strand, partition := e.partition, cluster := clusterOfCore k, address := g.offset,
      context := e.context, bytes := g.size, hint := g.hint, keep := flagKeep e.flags && g.hint == .normal,
      place := .missQueue }
  match e.bindings[g.binding]? with
  | some (.guestVa a) => some { r with guest := true, address := a + g.offset }
  | some (.quality a) => some { r with guest := true, address := a + g.offset }
  | some (.extent a) => some { r with address := a + g.offset }
  | some (.folioRead f v) => some { r with folio := some (f, v, g.offset / pageBytes) }
  | some (.folioOutput f v _) => some { r with folio := some (f, v, g.offset / pageBytes) }
  | _ => none

/-- Issue the reads of a tile. A read of a sequence view or of scratch is served on the block at once. -/
def State.issueGathers (s : State) (k : Nat) (gs : List Gather) : State :=
  match s.slot? (s.core k).queue (s.core k).seq with
  | none => s
  | some e => gs.foldl (fun s g =>
      match e.gatherReq k g with
      | some r => s.startReq r
      | none => s) s

/-! ### Commit targets -/

/-- Folio pages that a commit list names, with the version: those that the version must hold for itself (R253). -/
def Slot.outputPages (e : Slot) (t : Nat) : List (Nat × Nat × Nat) :=
  match e.image, e.tileDef? t with
  | some g, some d => (d.commits.map fun b =>
      match e.bindings[b]?, g.bindings[b]? with
      | some (.folioOutput f v _), some x => (List.range (max 1 (ceilDiv x.minLength pageBytes))).map fun p => (f, v, p)
      | _, _ => []).flatten
  | _, _ => []

/-- 4 KiB pages of the guest's space that a commit list names (R117, R269). -/
def Slot.guestPages (e : Slot) (t : Nat) : List Nat :=
  let pages (a n : Nat) : List Nat := (List.range ((a + max 1 n - 1) / 4096 - a / 4096 + 1)).map fun i => (a / 4096 + i) * 4096
  match e.image, e.tileDef? t with
  | some g, some d => (d.commits.map fun b =>
      match e.bindings[b]?, g.bindings[b]? with
      | some (.guestVa a), some x => pages a x.minLength
      | some (.quality a), _ => pages a 64
      | _, _ => []).flatten
  | _, _ => []

/-- Whether a version lists a page that no other version lists: its own. -/
def State.ownPage (s : State) (f v p : Nat) : Bool :=
  match s.folios.get? f with
  | none => false
  | some x =>
    match (x.slot? v).bind fun y => y.pages.get? p with
    | none => false
    | some a => !(x.slots.any fun y => y.live && y.version != v && y.pages.any fun z => z.2.addr == a.addr)

/-- The tile's folio pages that are shared or unlisted: the bulk mover copies or zeroes each (R253). -/
def State.startCopies (s : State) (e : Slot) (t : Nat) : State :=
  (e.outputPages t).foldl (fun s x =>
    if s.ownPage x.1 x.2.1 x.2.2 then s
    else s.modFolio x.1 fun f => f.modSlot x.2.1 fun v =>
      if v.copying.contains x.2.2 then v else { v with copying := v.copying ++ [x.2.2] }) s

/-- Whether a page of the tile's outputs is still being copied or zeroed. -/
def State.copiesOut (s : State) (e : Slot) (t : Nat) : Bool :=
  (e.outputPages t).any fun x => match s.folios.get? x.1 with
    | some f => (f.slot? x.2.1).any fun v => v.copying.contains x.2.2
    | none => false

/-- A request that pins one commit target. -/
def pinReq (e : Slot) (k : Nat) (guest : Bool) (addr : Nat) (folio : Option (Nat × Nat × Nat)) : MemReq :=
  { who := .commit k, partition := e.partition, cluster := clusterOfCore k, address := addr, guest := guest,
    context := e.context, bytes := 0, write := true, folio := folio, place := .missQueue }

/-- Whether a page of the guest's space is translated for a write: pinned by the core, or allowed by a window
(R117, R278). Log entry 47 (DEDUCED). -/
def State.guestPinned (s : State) (e : Slot) (k page : Nat) : Bool :=
  match s.ctx? (ctxKey e.partition e.context) with
  | none => false
  | some c =>
    if c.fabric then (c.windows.get? (page / 2 ^ 60)).any fun w => page % 2 ^ 60 < w.length && bitAt w.wrights 1
    else match s.atcFind (dieOfCluster (clusterOfCore k)) e.partition false c.pasid 0 page with
      | some (i, a) => a.write && (s.core k).pins.contains i
      | none => false

def State.folioPinned (s : State) (e : Slot) (k : Nat) (x : Nat × Nat × Nat) : Bool :=
  match s.atcFind (dieOfCluster (clusterOfCore k)) e.partition true x.1 x.2.1 x.2.2 with
  | some (i, _) => (s.core k).pins.contains i
  | none => false

/-- Commit targets of the core's tile that are not pinned. -/
def State.unpinnedTargets (s : State) (k : Nat) : List MemReq :=
  let c := s.core k
  match s.slot? c.queue c.seq with
  | none => []
  | some e =>
    ((e.guestPages c.tile).filter fun a => !s.guestPinned e k a).map (fun a => pinReq e k true a none)
      ++ ((e.outputPages c.tile).filter fun x => !s.folioPinned e k x).map fun x =>
        pinReq e k false (x.2.2 * pageBytes) (some x)

/-- Whether a request that pins a target of core `k` is outstanding. -/
def State.pinning (s : State) (k : Nat) : Bool := s.reqs.any fun e => e.2.who == .commit k

/-- Ask for the commit targets of a fabric context once, at the start: its windows are checked (R278).
Log entry 47 (DEDUCED). -/
def State.pinTargets (s : State) (k : Nat) : State :=
  if s.pinning k then s
  else match s.slot? (s.core k).queue (s.core k).seq with
    | none => s
    | some e => if s.copiesOut e (s.core k).tile then s else (s.unpinnedTargets k).foldl State.startReq s

/-- The tile on a core issues its first reads when the switch to it is over and its targets are pinned (R117). -/
def State.kick (s : State) (k : Nat) : State :=
  let c := s.core k
  if c.mode != .running then s
  else
    let s := s.pinTargets k
    match s.slot? c.queue c.seq with
    | none => s
    | some e =>
      if c.startReads.isEmpty || s.pinning k || s.copiesOut e c.tile || !(s.unpinnedTargets k).isEmpty then s
      else (s.modCore k fun c => { c with startReads := [] }).issueGathers k c.startReads

def State.kickAll (s : State) : State := (s.cores.map (·.1)).foldl State.kick s

/-! ### Tile starts -/

/-- Live ranges that the tile receives from ranges saved earlier: bytes to be restored (R219). -/
def Slot.restoreBytes (e : Slot) (t : Nat) : Nat :=
  match e.firstPred t with
  | some f => if (e.tile f).saved then e.liveBytes f else 0
  | none => 0

/-- Save the live ranges that another tile leaves behind (R220). -/
def State.saveLive (s : State) (cs : List Cand) : State :=
  cs.foldl (fun s c => s.modSlot c.queue c.seq fun e => e.modTile c.tile fun x => { x with saved := true }) s

/-- T_switch (R219). Log entry 61 (DEDUCED). -/
def switchTime (ctxSwitch : Bool) (live restore : Nat) : Nat :=
  (if ctxSwitch then 2500 else 0) + ceilDiv live 256 + ceilDiv restore 256

/-- Whether the tack point counts as an ordinary pre-emption: the core leaves a context that has a tile it could run
(R216). -/
def State.preempts (s : State) (k : Nat) (key : Nat) : Bool :=
  match (s.core k).lastContext with
  | some old => old != key && (s.cands k).any fun c =>
      (s.slot? c.queue c.seq).any fun e => ctxKey e.partition e.context == old
  | none => false

/-- The core's slice after a SHARED tile of context `key` starts on it (R215). -/
def Core.sliceFor (c : Core) (key : Nat) (shared : Bool) (now : Nat) : Option (Nat × Nat) :=
  if shared then match c.slice with
    | some (x, at_) => if x == key then some (x, at_) else some (key, now)
    | none => some (key, now)
  else c.slice

/-- Give core `k` the tile `x` of launch `e`. -/
def State.startTile (s : State) (k : Nat) (e : Slot) (t : Nat) (gathers : List Gather) : State :=
  let key := ctxKey e.partition e.context
  let left := s.liveLeft k { queue := e.queue, seq := e.seq, tile := t }
  let swap := (s.core k).lastContext.any (· != key)
  let time := switchTime swap (s.liveSize left) (e.restoreBytes t)
  let pre := s.preempts k key
  let old := (s.core k).lastContext
  let s := s.saveLive left
  let s := if pre then s.account (old.getD key) fun a => { a with ordinary := satAdd 32 a.ordinary 1 } else s
  let s := s.account key fun a => { a with switchNs := satAdd 64 a.switchNs time }
  let s := s.modSlot e.queue e.seq fun e =>
    let e := match e.firstPred t with
      | some f => e.modTile f fun x => { x with saved := false, doneCore := k }
      | none => e
    { e.modTile t fun x => { x with place := .running k } with firstStart := e.firstStart.orElse fun _ => some s.time.ct }
  let s := s.modCore k fun c =>
    { c.idle with
      mode := if time == 0 then .running else .switching (s.time.now + time), queue := e.queue, seq := e.seq, tile := t,
      context := some key, lastContext := old, partition := e.partition, startNs := s.time.now + time,
      startReads := gathers, basted := none, switchedAt := s.time.now,
      slice := c.sliceFor key e.promise.isNone s.time.now }
  let s := if e.promise.isNone && s.shareOf key == 0 then
      s.modShares e.partition (clusterOfCore k) fun h => { h with lastZero := key }
    else s
  let s := s.startCopies e t
  ((s.pinTargets k).kick k).track

/-- TILE_START (R212). -/
def execTileStart (core : Nat) (gathers : List Gather) (s : State) : Host.Outcome State Fault Refusal :=
  .next <| s.whenLive fun s =>
    s.when (s.coreFree core && !s.lowerFirst core) fun s =>
      match s.choose core with
      | none => s
      | some x => match s.slot? x.queue x.seq with
        | some e => s.startTile core e x.tile gathers
        | none => s

/-- BASTE (R224): the tile that R212 would give the core if the running tile ended now. -/
def execBaste (core : Nat) (s : State) : Host.Outcome State Fault Refusal :=
  .next <| s.whenLive fun s => s.when ((s.core core).mode == .running) fun s =>
    s.modCore core fun c => { c with basted := (s.choose core).map fun x => (x.queue, x.seq, x.tile) }

/-- CONTEXT_SWITCH_DONE (R219). Log entry 61 (DEDUCED). -/
def execContextSwitchDone (core : Nat) (s : State) : Host.Outcome State Fault Refusal :=
  .next <| s.whenLive fun s =>
    match (s.core core).mode with
    | .switching t => s.when (t ≤ s.time.now) fun s => (s.modCore core fun c => { c with mode := .running }).kick core
    | _ => s

/-- GATHER_RETURN (R66, R69): the data reach the strand, poisoned or not, and the strand may go on to further reads. -/
def execGatherReturn (core request : Nat) (more : List Gather) (s : State) : Host.Outcome State Fault Refusal :=
  .next <| s.whenLive fun s =>
    match s.reqs.get? request with
    | none => s
    | some r =>
      match r.who with
      | .gather k n =>
        s.when (k == core && (s.core core).mode == .running && (r.place == .ready || r.place == .host)) fun s =>
          let lines := if r.guest then [] else linesOf r.address r.bytes
          let s := s.dropReq request
          let busy := s.reqs.any fun e => e.2.who == .gather k n
          let s := s.modCore core fun c =>
            { c with strands := c.strands.put n (if busy then .waiting else .ready), uses := (c.uses ++ lines).eraseDups
                     poisonAt := if c.poisonAt == 0 then r.poisonAt else c.poisonAt }
          (s.noteStall core).issueGathers core more
      | _ => s

/-! ### Entering the commit phase -/

/-- The binding and offset of a staged write as pieces of lines: line, first byte in it, bytes. Folio outputs go through
the version's page list. -/
def State.poolPieces (s : State) (e : Slot) (binding off : Nat) (data : Bytes) : List (Nat × Nat × Bytes) :=
  let at_ (o : Nat) : Option Nat := match e.bindings[binding]? with
    | some (.extent a) => some (a + o)
    | some (.folioOutput f v _) => match s.folios.get? f with
      | some x => ((x.slot? v).bind fun y => y.pages.get? (o / pageBytes)).map fun p => p.addr + o % pageBytes
      | none => none
    | _ => none
  let first := off / 64
  let last := (off + data.length - 1) / 64
  if data.isEmpty then []
  else (List.range (last - first + 1)).filterMap fun i =>
    let lo := max off (64 * (first + i))
    let hi := min (off + data.length) (64 * (first + i + 1))
    (at_ lo).map fun a => (a / 64, a % 64, (data.drop (lo - off)).take (hi - lo))

/-- Every pool piece of a core's staged writes, in order, with its hint. -/
def State.stagedPieces (s : State) (k : Nat) : List (Nat × Nat × Bytes × Hint) :=
  let c := s.core k
  match s.slot? c.queue c.seq with
  | none => []
  | some e => (c.staged.map fun w => (s.poolPieces e w.binding w.offset w.data).map fun x => (x.1, x.2.1, x.2.2, w.hint)).flatten

/-- Lines that the commit writes in part and that the partition does not hold (R81). -/
def State.missingLines (s : State) (k : Nat) : List Nat :=
  let ps := s.stagedPieces k
  let lines := (ps.map (·.1)).eraseDups
  lines.filter fun l =>
    (s.line? (s.core k).partition l).isNone
      && !((List.range 64).all fun b => ps.any fun x => x.1 == l && x.2.1 ≤ b && b < x.2.1 + x.2.2.1.length)

/-- Fill the rest of partly written lines. -/
def State.fillStaged (s : State) (k : Nat) : State :=
  let c := s.core k
  (s.missingLines k).foldl (fun s l =>
    let s := s.shareDirty c.partition (clusterOfCore k) l
    if (s.line? c.partition l).isSome then s
    else
      let r : MemReq := { who := .commit k, partition := c.partition, cluster := clusterOfCore k, address := 64 * l,
                          bytes := 64, place := .missQueue }
      (s.addReq r).issuePool s.reqNo r) s

/-- Whether the tile's compute may end: no strand waits or is parked, its first reads have been issued. -/
def Core.computes (c : Core) : Bool :=
  c.mode == .running && c.startReads.isEmpty && c.strands.all fun x => x.2 == .idle || x.2 == .ready

/-- TILE_COMMIT_START (R83): the tile's steps are done; with every target pinned and the staging budget kept it enters its
commit phase. Log entry 47 (DEDUCED). -/
def execTileCommitStart (core : Nat) (work : List TileOp) (s : State) : Host.Outcome State Fault Refusal :=
  .next <| s.whenLive fun s =>
    let c := s.core core
    match s.slot? c.queue c.seq with
    | none => s
    | some e =>
      s.when c.computes fun s =>
        if !(s.unpinnedTargets core).isEmpty || s.pinning core || s.copiesOut e c.tile then s.pinTargets core
        else
          let m := ((e.phaseOf c.tile).bind fun i => e.phaseStates[i]?).bind fun ps => (e.map? ps.map).map fun m => (m, ps.rerun)
          match m, e.tileDef? c.tile with
          | some (m, rerun), some d =>
            let ran := s.runOps core m rerun work
            if d.staging < (ran.core core).stagedBytes then s
            else
              let s := ran.modCore core fun c => { c with mode := .committing }
              (s.modSlot c.queue c.seq fun e => e.modTile c.tile fun x => { x with place := .committing core }).fillStaged core
          | _, _ => s

/-! ### Forced tacks -/

/-- Abandon the tile on a core for a reason that counts as a forced pre-emption (R216, R223). -/
def State.forceCounted (s : State) (k : Nat) : State :=
  let s := match (s.core k).context with
    | some key => s.account key fun a => { a with forced := satAdd 32 a.forced 1 }
    | none => s
  s.modCore k Core.force

/-- A startable tile that finds no free core and that core `k` could take. -/
def State.claimants (s : State) (k : Nat) : List Cand :=
  (s.cands k).filter fun x => !(List.range 16).any fun i =>
    let j := 16 * clusterOfCore k + i
    s.coreFree j && (s.cands j).contains x

/-- The tile on a core, as a candidate. -/
def Core.cand (c : Core) : Cand := { queue := c.queue, seq := c.seq, tile := c.tile }

/-- Whether the first rule of R222 would rather force another core of the cluster: one with a lower-precedence parked
tile, or the same launch's older fault. -/
def State.worseCore (s : State) (k : Nat) (x : Cand) : Bool :=
  (List.range 16).any fun i =>
    let j := 16 * clusterOfCore k + i
    j != k && (s.core j).mode == .running && (s.core j).strands.any (fun e => e.2 == .parked)
      && (s.cands j).contains x && s.precedes k (s.core k).cand (s.core j).cand

/-- Tiles of compatibility partitions are forced only by endings and errors (R222, R233). -/
def State.forceable (s : State) (k : Nat) : Bool :=
  (s.core k).mode == .running && (s.part (s.core k).partition).kind != 1

/-- FORCED_TACK (R222, first rule; R223). -/
def execForcedTack (core : Nat) (s : State) : Host.Outcome State Fault Refusal :=
  .next <| s.whenLive fun s =>
    let parked := (s.core core).strands.any fun e => e.2 == .parked
    s.when (s.forceable core && parked && (s.claimants core).any fun x =>
        s.precedes core x (s.core core).cand && !s.worseCore core x) fun s =>
      s.forceCounted core

/-- IDLE_STRANDS_TIMEOUT (R222, second rule). -/
def execIdleStrandsTimeout (core : Nat) (s : State) : Host.Outcome State Fault Refusal :=
  .next <| s.whenLive fun s =>
    let due := (s.core core).idleSince.any fun t => t + 8192 ≤ s.time.now
    s.when (s.forceable core && (s.core core).stalled && due && !(s.claimants core).isEmpty) fun s => s.forceCounted core

/-- The requests of an abandoned tile: those at a fault stay with it, the others are discarded (R223).
Log entry 65 (DEDUCED). -/
def State.dropTileReqs (s : State) (k : Nat) : State :=
  let c := s.core k
  let mine (r : MemReq) : Bool := match r.who with
    | .gather j _ => j == k
    | .commit j => j == k
    | _ => false
  let kept : Tbl MemReq := s.reqs.filter fun e => !(mine e.2 && e.2.place != .faulted)
  { s with reqs := kept.mapV fun _ r => if mine r then { r with who := .parked c.queue c.seq c.tile } else r }

/-- The tile on a core goes back to its shard's list. Log entry 65 (DEDUCED). -/
def State.returnTile (s : State) (k : Nat) : State :=
  let c := s.core k
  let s := s.modSlot c.queue c.seq fun e => e.modTile c.tile fun x =>
    { x with place := .waiting, replayed := x.replayed || c.replay, doneCore := if c.replay then k else x.doneCore }
  if c.failed then
    s.modSlot c.queue c.seq fun e => e.failShard ((e.phaseOf c.tile).elim 0 e.phaseNo) (e.shardOf c.tile)
      (if (s.cluster (clusterOfCore k)).quarantined then 3 else if e.partialCause == 0 then 1 else e.partialCause)
  else s

/-- ABANDON_DONE (R223): a tack point. -/
def execAbandonDone (core : Nat) (s : State) : Host.Outcome State Fault Refusal :=
  .next <| s.whenLive fun s => s.when ((s.core core).mode == .abandoning) fun s =>
    let c := s.core core
    let s := (s.dropTileReqs core).unpinAll core
    let s := (s.chargeTile core true).returnTile core
    let s := s.endTile core
    let s := s.modSlot c.queue c.seq fun e => { e with tack := e.tack || e.switchDecided }
    (s.settleLaunch c.queue c.seq).track

/-! ### The monitor and the switch -/

/-- MONITOR_TICK (R197). Log entry 5 (DESIGN CHOICE). -/
def execMonitorTick (s : State) : Host.Outcome State Fault Refusal :=
  .next <| s.whenLive fun s => s.when (s.time.state != .unlocked && s.time.ct % 1024 < 2) fun s =>
    (s.slots.map fun e => (e.queue, e.seq)).foldl (fun s x => s.monitorOne x.1 x.2) s

/-- HEM_FORCED_TACK (R198). -/
def execHemForcedTack (q seq : Nat) (s : State) : Host.Outcome State Fault Refusal :=
  .next <| s.whenLive fun s =>
    s.onSlot q seq (fun e => e.switchDecided && !e.switched && !e.tack && e.state == .running
      && e.promise.any fun p => p.hem + 4096 ≤ s.time.ct) fun _ s =>
      let s := s.forceLaunch q seq
      if (s.coresOf q seq).isEmpty then s.modSlot q seq fun e => { e with tack := true } else s

/-- Phases that the fallback runs (R106). -/
def Slot.fallbackPhases (e : Slot) (g : GraphImage) (v : Variant) : List PhaseState :=
  let skip (m : PhaseMap) : Bool :=
    bitAt v.resumeMask m.phase && e.phaseStates.any fun ps =>
      (e.map? ps.map).any fun n => n.phase == m.phase && ps.started && n.tileIndices.all fun t => (e.tile t).place == .committed
  ((g.mapsFor v e.selected).filter fun i => !(g.phaseMaps[i]?).any skip).map fun i => { map := i }

/-- The launch goes over to its fallback (R106, R199, R64). -/
def Slot.toFallback (e : Slot) (g : GraphImage) (vi : Nat) (v : Variant) (p : Promise) : Slot :=
  let ps := e.fallbackPhases g v
  let run := (ps.filterMap fun x => (g.phaseMaps[x.map]?).map (·.wcetNs)).sum
  let lost := e.phaseStates.any fun x => x.rerun && !x.ended
  { e with
    switched := true, tack := false, variant := vi, phaseStates := ps
    planF := p.deadline - 1000 - scaled16 p.scaleI run
    tiles := e.tiles.mapV fun _ t => { t with saved := false }
    qflags := if lost then e.qflags ||| qfRerunAbandoned else e.qflags }

/-- FALLBACK_SWITCH (R106). -/
def execFallbackSwitch (q seq : Nat) (s : State) : Host.Outcome State Fault Refusal :=
  .next <| s.whenLive fun s =>
    s.onSlot q seq (fun e => e.switchDecided && !e.switched && e.tack && e.state == .running && e.failedPhase.isNone)
      fun e s =>
        match e.promise, e.image, e.var?.bind (·.fallback) with
        | some p, some g, some vi => match g.variants[vi]? with
          | some v =>
            let s := (s.forceLaunch q seq).modSlot q seq fun e => e.toFallback g vi v p
            let s := s.modPart e.partition fun u => { u with adm := { u.adm with fallbacks := satAdd 16 u.adm.fallbacks 1 } }
            (s.settleLaunch q seq).track
          | none => s
        | _, _, _ => s

/-! ### The commons -/

/-- Cores of the commons that work. -/
def State.commonsBusy (s : State) : Bool :=
  s.cores.any fun x => x.2.mode != .free && (s.part x.2.partition).kind == 2

/-- Contexts of the commons with startable tiles. Log entry 68 (DEDUCED). -/
def State.commonsWants (s : State) : List Slot :=
  s.slots.filter fun e => (s.part e.partition).kind == 2 && !(s.startable e).isEmpty

/-- The precedence of a launch of the commons among contexts (R212, R298). -/
def State.commonsRank (s : State) (e : Slot) : Rank :=
  let key := ctxKey e.partition e.context
  match e.promise with
  | some p => { cls := 0, first := p.hem, ctx := 0, order := e.order, tile := 0 }
  | none =>
    if s.commons.running == some key && s.time.now < s.commons.sliceNs + (s.part e.partition).sliceNs then
      { cls := 1, first := 0, ctx := 0, order := e.order, tile := 0 }
    else if s.shareOf key != 0 then
      { cls := 2, first := s.commons.shares.vtime.getD key 0, ctx := key, order := e.order, tile := 0 }
    else { cls := 3, first := 0, ctx := key, order := e.order, tile := 0 }

/-- Whether the running context of the commons holds a reservation in the present frame (R298). Log entry 68 (DEDUCED). -/
def State.commonsReserved (s : State) : Bool :=
  match s.commons.running with
  | none => false
  | some key =>
    let f := frameOf s.time.ct
    s.time.state != .unlocked
      && (s.part (key / 64)).holds.any fun h => ctxKey (key / 64) h.context == key && h.first ≤ f && f ≤ h.last

/-- COMMONS_SWITCH (R298); `ctx` is the context's index in P63. -/
def execCommonsSwitch (ctx : Nat) (s : State) : Host.Outcome State Fault Refusal :=
  .next <| s.whenLive fun s =>
    let key := ctxKey 63 ctx
    let best := (s.commonsWants.map s.commonsRank).foldl (fun (acc : Option Rank) r =>
      match acc with
      | none => some r
      | some a => if r.before a then some r else some a) none
    let mine := s.commonsWants.any fun e => ctxKey e.partition e.context == key && some (s.commonsRank e) == best
    s.when (mine && s.commons.switching.isNone && s.commons.running != some key && !s.commonsReserved) fun s =>
      let cores := (s.cores.filter fun x => (s.part x.2.partition).kind == 2 && x.2.mode == .running).map (·.1)
      let s := cores.foldl State.forceCounted s
      { s with commons := { s.commons with switching := some key } }

/-- T_commons (R298): save and restore per core, flush per cluster. Log entry 61 (DEDUCED). -/
def State.commonsTime (s : State) (key : Nat) : Nat :=
  let p := s.part 63
  let live := ((List.range s.nCores).filter p.hasCore).map fun k =>
    ((s.slots.map fun e => ((e.liveOn k).map e.liveBytes).sum).sum)
  let dirty := (List.range s.nClusters).map fun c =>
    64 * (s.lines.filter fun l => l.cluster == c && l.partition == 63 && l.dirty).length
  let back := s.slots.map fun e =>
    if ctxKey e.partition e.context == key then ((e.tiles.filter (·.2.saved)).map fun t => e.liveBytes t.1).sum else 0
  2500 + ceilDiv (live.foldl max 0) 256 + max 8192 (ceilDiv (dirty.foldl max 0) 200) + ceilDiv (back.foldl max 0) 256

/-- Live ranges of the commons' launches go to the save area (R298). -/
def Slot.saveAll (cores : Nat) (e : Slot) : Slot :=
  let live := ((List.range cores).map e.liveOn).flatten
  if e.partition == 63 then
    { e with tiles := e.tiles.mapV fun t x => if live.contains t then { x with saved := true } else x }
  else e

/-- COMMONS_SWITCH_DONE (R298). Log entry 68 (DEDUCED). -/
def execCommonsSwitchDone (s : State) : Host.Outcome State Fault Refusal :=
  .next <| s.whenLive fun s =>
    match s.commons.switching with
    | none => s
    | some key =>
      s.when (!s.commonsBusy) fun s =>
        let s := s.account key fun a => { a with switchNs := satAdd 64 a.switchNs (s.commonsTime key) }
        let s := { s with slots := s.slots.map (Slot.saveAll s.nCores) }
        let s := s.dropLines true fun l => l.partition == 63
        let s := { s with
          cores := s.cores.mapV fun k c => if (s.part 63).hasCore k then { c with scratch := [], lastContext := none } else c
          commons := { s.commons with running := some key, switching := none, sliceNs := s.time.now } }
        (s.modPart 63 fun p => { p with affinity := p.affinity.mapV fun _ a => { a with warmth := [] } }).track

end Sys2Proof.Machine
end

