-- ==== Sys2Proof/Machine/MemCmds.lean ====
section
/-!
DEFINITION. The commands of the memory ports: read data (R372, R375, R393, R449, R450), acknowledgements, back-invalidation
and snoops (R75, R451), and the regulators' tokens (R91, R92).
-/
namespace Sys2Proof.Machine

open Sys2Proof

/-! ### Read data -/

/-- A corrected word's record (R373, R385). -/
def State.logCorrected (s : State) (r : MemReq) (addr symbol : Nat) (w : BitVec 288) : State :=
  s.logError (errOfCluster r.cluster)
    { clusterRecord r.cluster 1 1 addr (syndromes w) with partition := r.partition, symbol := symbol }

/-- Whether an uncorrectable word of a request may be served from a mirror (R393). -/
def State.mirrored (s : State) (r : MemReq) (addr : Nat) : Bool := r.folio.isSome && (s.mirrorAt addr).isSome

/-- One word as it arrives: corrected and recorded; an uncorrectable word becomes poison in the pool unless its mirror is to
be read, and then stays as it is. -/
def State.arriveWord (s : State) (r : MemReq) (addr : Nat) (w : BitVec 288) : State × BitVec 288 :=
  match readWord w with
  | .clean => (s, w)
  | .correctable j => (s.logCorrected r addr j w, correctWord w j)
  | .poison => (s, w)
  | .uncorrectable =>
    if s.mirrored r addr then (s, w)
    else (s.storePoison r.partition r.cluster addr w (syndromes w), poisonWord (dataOf w))

/-- The words of a read as they arrive, in order. -/
def State.arriveWords (s : State) (r : MemReq) : Nat → List (BitVec 288) → State × List (BitVec 288)
  | _, [] => (s, [])
  | addr, w :: t =>
    let (s, v) := s.arriveWord r addr w
    let (s, vs) := State.arriveWords s r (addr + 32) t
    (s, v :: vs)

/-- Put the lines of a read into the cache (R74, R76): a STREAM miss is not allocated, nor a line that is there. -/
def State.allocWords (s : State) (r : MemReq) : Nat → List (BitVec 288) → State
  | line, w0 :: w1 :: t =>
    let s := if r.hint == .stream || (s.line? r.partition line).isSome then s
      else s.allocLine r.partition r.cluster line [w0, w1] false r.keep r.hint
    State.allocWords s r (line + 1) t
  | _, _ => s

/-- A read has all its words: they are cached and reach whoever asked. -/
def State.finishRead (s : State) (id : Nat) (r : MemReq) (words : List (BitVec 288)) : State :=
  let s := s.allocWords r (r.address / 64) words
  let bad := words.any isPoison
  match r.who with
  | .gather _ _ =>
    let poison := firstPoison r.needAt r.needBytes r.address words
    let r := { r with place := .ready, poison := poison.isSome, poisonAt := poison.getD 0, words := [] }
    (s.setReq id r).strandNow r .ready
  | .fill q n =>
    let s := if bad then
        s.logError (errOfCluster r.cluster) { clusterRecord r.cluster 4 3 r.address 0 with partition := r.partition }
      else s
    ((s.dropReq id).modSlot q n fun e => { e with fills := e.fills - 1 }).settleAdvice q n
  | .commit k => (s.dropReq id).commitStreamNow k
  | .adder => (s.dropReq id).applyMerges
  | _ => s.dropReq id

/-- The first word that waits for its mirror. -/
def firstBad (words : List (BitVec 288)) : Option Nat :=
  (words.zipIdx.find? fun x => readWord x.1 == .uncorrectable).map (·.2)

/-- Go on with a read: ask for the mirror of its first uncorrectable word, or finish it. -/
def State.goOnRead (s : State) (id : Nat) (r : MemReq) (words : List (BitVec 288)) : State :=
  match firstBad words with
  | some i => s.setReq id { r with place := .mirror i, words := words }
  | none => s.finishRead id r words

/-- MEM_DATA (R372, R449, R450). Log entry 14 (DEDUCED). -/
def execMemData (port tag : Nat) (words : List (BitVec 288)) (s : State) : Host.Outcome State Fault Refusal :=
  .next <| s.whenLive fun s =>
    match s.reqAt port tag with
    | none => s
    | some (id, r) =>
      s.when (!r.write && words.length == r.nWords) fun s =>
        let (s, ws) := s.arriveWords r r.address words
        let r := { r with place := .ready }
        let ws := decryptWords (s.keyAt r.address) r.address ws
        (s.goOnRead id r ws).pumpPort port

/-- MEM_ACK (R450): the tag of a write is free again. -/
def execMemAck (port tag : Nat) (s : State) : Host.Outcome State Fault Refusal :=
  .next <| s.whenLive fun s =>
    match s.reqAt port tag with
    | none => s
    | some (id, r) => s.when r.write fun s => (s.dropReq id).pumpPort port

/-! ### The mirror of an uncorrectable word -/

/-- The request of a cluster that waits for the mirror of a word of a folio page. -/
def State.mirrorReq (s : State) (cluster folio page word : Nat) : Option (Nat × MemReq × Nat) :=
  s.reqs.findSome? fun e =>
    match e.2.place, e.2.folio with
    | .mirror i, some (f, _, p) =>
      if e.2.cluster == cluster && f == folio && p == page && (e.2.address + 32 * i) % pageBytes / 32 == word
      then some (e.1, e.2, i) else none
    | _, _ => none

/-- MIRROR_SERVED (R393). `mirror` is the mirror's word and `back` the primary word read back, both decrypted. -/
def execMirrorServed (cluster folio page word : Nat) (mirror back : BitVec 288) (s : State) :
    Host.Outcome State Fault Refusal :=
  .next <| s.whenLive fun s =>
    match s.mirrorReq cluster folio page word with
    | none => s
    | some (id, r, i) =>
      let addr := r.address + 32 * i
      let raw := r.words.getD i 0
      if hasData mirror then
        let good := match readWord mirror with
          | .correctable j => correctWord mirror j
          | _ => mirror
        let s := s.writeBack r.partition r.cluster addr 32 [good]
        let (err, act) := if hasData back then (5, 11) else (6, 0)
        let s := s.logError (errOfCluster r.cluster)
          { clusterRecord r.cluster err act addr (syndromes raw) with partition := r.partition }
        let s := if hasData back then s else s.emit (.faultReport "MIRROR_REPAIR_FAILED" addr)
        s.goOnRead id r (r.words.set i good)
      else
        let s := s.storePoison r.partition r.cluster addr raw (syndromes raw)
        s.goOnRead id r (r.words.set i (poisonWord (dataOf raw)))

/-! ### The line directory -/

/-- Whether a commit phase in progress writes a line (R451). -/
def State.committing (s : State) (line : Nat) : Bool :=
  s.cores.any fun x => x.2.mode == .committing && (s.stagedPieces x.1).any fun p => p.1 == line

/-- The answer to BACK_INVAL: every copy is invalidated. -/
def State.answerInval (s : State) (line : Nat) : State :=
  { s with lines := s.lines.filter fun l => l.line != line }.emit (.biDone line)

/-- The answer to SNOOP: the committed content of a dirty line, or empty. -/
def State.answerSnoop (s : State) (line : Nat) : State :=
  s.emit (.snoopData line ((s.lines.find? fun l => l.line == line && l.dirty).map fun l => l.words.map dataOf))

/-- BACK_INVAL (R451). -/
def execBackInval (line : Nat) (s : State) : Host.Outcome State Fault Refusal :=
  .next <| s.whenLive fun s =>
    if s.committing line then { s with dirWaits := s.dirWaits ++ [(line, false)] } else s.answerInval line

/-- SNOOP (R451). -/
def execSnoop (line : Nat) (s : State) : Host.Outcome State Fault Refusal :=
  .next <| s.whenLive fun s =>
    if s.committing line then { s with dirWaits := s.dirWaits ++ [(line, true)] } else s.answerSnoop line

/-- Answer the directory's waiting messages whose line no commit phase writes any more. -/
def State.answerWaits (s : State) : State :=
  let now := s.dirWaits.filter fun w => !s.committing w.1
  let s := { s with dirWaits := s.dirWaits.filter fun w => s.committing w.1 }
  now.foldl (fun s w => if w.2 then s.answerSnoop w.1 else s.answerInval w.1) s

/-! ### Tokens -/

/-- Nanoseconds up to a CT that lie outside background slots: the first 7,936 ns of each frame (R92). -/
def outsideSlots (t : Nat) : Nat := t / 8192 * 7936 + min (t % 8192) 7936

/-- Bytes that a share of a tier's rate gives up to a CT (R91). -/
def accrual (g : Regulator) (near : Bool) (t : Nat) : Nat := g.share * tierRate near * outsideSlots t / 65536

/-- One regulator after the accrual from one CT to another, at most BURST KiB. -/
def Regulator.accrue (g : Regulator) (near : Bool) (t0 t1 : Nat) : Regulator :=
  { g with tokens := min (1024 * g.burst) (g.tokens + (accrual g near t1 - accrual g near t0)) }

/-- REGULATOR_TOKEN_ACCRUAL (R91). -/
def execRegulatorTokenAccrual (port : Nat) (s : State) : Host.Outcome State Fault Refusal :=
  .next <| s.whenLive fun s =>
    let t0 := s.accrued.getD port 0
    s.when (s.time.state != .unlocked && port < s.nPorts && t0 < s.time.ct) fun s =>
      let up (p : Partition) : Partition :=
        { p with regs := p.regs.mapV fun k g =>
            if k / 2 == port then g.accrue (k % 2 == 0) t0 s.time.ct else g }
      { s with parts := s.parts.mapV fun _ p => up p, accrued := s.accrued.put port s.time.ct }.pumpPort port

end Sys2Proof.Machine
end

