-- ==== Sys2Proof/Machine/CommitCmds.lean ====
section
/-!
DEFINITION. The end of a commit phase (R75, R79, R83 to R85, R118, R231), the adders (R87 to R89), the bulk movers (R86,
R253) and the finish of a launch (R60, R159, R254).
-/
namespace Sys2Proof.Machine

open Sys2Proof

/-! ### Committed lines -/

/-- The tile's uses of lines with a use count (R79). -/
def State.applyUses (s : State) (p : Nat) (lines : List Nat) : State :=
  lines.foldl (fun s n =>
    match (s.line? p n).bind (·.useCount) with
    | some u => if u ≤ 1 then s.dropLines false (fun l => l.partition == p && l.line == n)
      else s.modLine p n fun l => { l with useCount := some (u - 1) }
    | none => s) s

/-! ### Writes to the guest's memory -/

/-- A range of the guest's space cut at 4 KiB pages: address, bytes. -/
def guestPieces (addr : Nat) (data : Bytes) : List (Nat × Bytes) :=
  if data.isEmpty then []
  else (List.range ((addr + data.length - 1) / 4096 - addr / 4096 + 1)).map fun i =>
    let lo := max addr (4096 * (addr / 4096 + i))
    let hi := min (addr + data.length) (4096 * (addr / 4096 + i + 1))
    (lo, (data.drop (lo - addr)).take (hi - lo))

/-- One write of a commit to the guest's memory: through the pinned translation, or a fabric window. -/
def State.guestWrite (s : State) (k : Nat) (e : Slot) (addr : Nat) (data : Bytes) : State :=
  match s.ctx? (ctxKey e.partition e.context) with
  | none => s
  | some c =>
    if c.fabric then
      s.startReq { who := .commitWrite e.queue e.seq, partition := e.partition, cluster := clusterOfCore k, address := addr,
                   guest := true, context := e.context, bytes := data.length, write := true, data := data, place := .missQueue }
    else match s.atcFind (dieOfCluster (clusterOfCore k)) e.partition false c.pasid 0 addr with
      | some (_, a) => s.emit (.hostWrite e.queue e.seq (a.apply addr) data)
      | none => s

/-- The writes of a core's staged stores to GUEST_VA bindings. -/
def State.commitGuest (s : State) (k : Nat) (e : Slot) : State :=
  (s.core k).staged.foldl (fun (s : State) (w : StagedWrite) =>
    match e.bindings[w.binding]? with
    | some (.guestVa a) => (guestPieces (a + w.offset) w.data).foldl (fun s x => s.guestWrite k e x.1 x.2) s
    | _ => s) s

/-! ### Reductions and sequence updates -/

/-- The tile's reductions reach the adders of their home slices (R88). Log entry 53 (DESIGN CHOICE). -/
def State.issueReductions (s : State) (k : Nat) (e : Slot) : State :=
  let c := clusterOfCore k
  let rs := ((s.core k).reductions.map fun r =>
    (s.poolPieces e r.binding r.offset r.data).map fun x =>
      { cluster := ((s.line? e.partition x.1).map (·.cluster)).getD c, slice := x.1 % 8, partition := e.partition,
        address := 64 * x.1 + x.2.1, fmt := r.fmt, op := r.op, data := x.2.2 : Reduction }).flatten
  { s with adders := s.adders ++ rs }

/-- One update of a sequence-table entry (R231). -/
def SeqEntry.update (x : SeqEntry) (c now advance : Nat) (finish : Bool) : SeqEntry :=
  let pos := min x.maxPosition (x.position + advance)
  if x.state == 3 || x.state == 4 then { x with position := pos }
  else
    { x with position := pos, state := if finish || pos == x.maxPosition then 2 else x.state, home := c, lastStep := now }

/-- The tile's updates through its shard's view (R230, R231). -/
def State.applySeq (s : State) (k : Nat) (e : Slot) : State :=
  let t := (s.core k).tile
  let list := (((e.phaseOf t).bind fun i => e.phaseStates[i]?).map fun ps => ps.lists.getD (e.shardOf t) []).getD []
  (s.core k).seqUpdates.foldl (fun s u =>
    match list[u.1]? with
    | some i => match s.seqs.get? i with
      | some x => { s with seqs := s.seqs.put i (x.update (clusterOfCore k) s.ctNow u.2.1 u.2.2) }
      | none => s
    | none => s) s

/-! ### The end of the commit phase -/

/-- Counts of a committed tile in the partition's telemetry (R425). -/
def PTel.tile (t : PTel) (c : Counts) : PTel :=
  { t with
    tiles := satAdd 64 t.tiles 1, sampled := satAdd 32 t.sampled c.sampled, diverged := satAdd 32 t.diverged c.diverged
    elemSat := satAdd 32 t.elemSat c.elemSat, scaleClamp := satAdd 16 t.scaleClamp c.scaleClamp
    nanOut := satAdd 16 t.nanOut c.nanOut }

/-- The tile counts as committed in its launch (R52, R57, R58, R118). -/
def Slot.tileDone (e : Slot) (k t ct : Nat) (c : Counts) : Slot :=
  let rerun := (e.tile t).rerun
  let e := e.modTile t fun x => { x with place := .committed, commitCt := some ct, doneCore := k }
  let succs := ((e.tileDef? t).map (·.succs)).getD []
  let started (u : Nat) : Bool := ((e.phaseOf u).bind fun i => e.phaseStates[i]?).any (·.started)
  let e := succs.foldl (fun (e : Slot) u =>
    if started u && (e.tile u).place == .waiting then e.modTile u fun x => { x with preds := x.preds - 1 } else e) e
  let e := match e.phaseOf t with
    | some i => if rerun then e else e.modPhase i fun ps =>
        { ps with sampled := ps.sampled + c.sampled, diverged := ps.diverged + c.diverged }
    | none => e
  { e with tilesDone := e.tilesDone + 1, tilesRerun := e.tilesRerun + (if rerun then 1 else 0), counts := e.counts.plus c }

/-- Everything that a commit phase makes visible (R83). -/
def State.makeVisible (s : State) (k : Nat) (e : Slot) : State :=
  let c := s.core k
  let ps := s.stagedPieces k
  let s := ((ps.map (·.1)).eraseDups).foldl (fun s l => s.commitStaged e.partition (clusterOfCore k) ps l) s
  let s := (s.commitGuest k e).applyUses e.partition c.uses
  (s.issueReductions k e).applySeq k e

/-- The warmth of the cluster on which a tile of a phase commits, for the phase's tags (R207). -/
def State.warmFor (s : State) (k : Nat) (e : Slot) (t : Nat) : State :=
  match (e.phaseOf t).bind fun i => (e.phaseStates[i]?).bind fun ps => e.map? ps.map with
  | some m => s.modPart e.partition fun p => (p.warm m.weightTag (clusterOfCore k)).warm m.kvTag (clusterOfCore k)
  | none => s

/-- Counters at the end of a tile. -/
def State.countTile (s : State) (k : Nat) (e : Slot) : State :=
  let c := s.core k
  let s := s.modSlot e.queue e.seq fun x => x.tileDone k c.tile s.time.ct c.counts
  let s := s.modQueue e.queue fun u => { u with tiles := u.tiles + 1 }
  let s := s.modPart e.partition fun p => { p with tel := p.tel.tile c.counts }
  s.modCtx (ctxKey e.partition e.context) fun x => { x with arith := x.arith.plusTile c.counts }

/-- The quality record of a launch whose work has ended (R60). -/
def State.writeQuality (s : State) (q seq : Nat) : State :=
  s.onSlot q seq (fun e => e.state == .ended && isCompletion e.status && !e.qualityDone) fun e s =>
    match e.qualityAddr with
    | some a => (s.modSlot q seq fun e => { e with qualityDone := true }).pushWrite q (.quality a (s.qualityRecord e e.status))
    | none => s

/-- A failed shard whose cluster was quarantined during the commit (R392). -/
def State.failAfterCommit (s : State) (k : Nat) (e : Slot) (t : Nat) : State :=
  if (s.cluster (clusterOfCore k)).quarantined then
    s.modSlot e.queue e.seq fun x =>
      if ((x.phaseOf t).bind fun i => x.phaseStates[i]?).any (fun ps => !ps.ended) && x.state == .running then
        x.failShard ((x.phaseOf t).elim 0 x.phaseNo) (x.shardOf t) 3
      else x
  else s

/-- COMMIT_PHASE_END (R83). Log entries 61 (DEDUCED), 63 (DEDUCED). -/
def execCommitPhaseEnd (core : Nat) (s : State) : Host.Outcome State Fault Refusal :=
  .next <| s.whenLive fun s =>
    let c := s.core core
    match s.slot? c.queue c.seq with
    | none => s
    | some e =>
      s.when (c.mode == .committing) fun s =>
        if s.pinning core then s
        else if !(s.missingLines core).isEmpty then s.fillStaged core
        else
          let final := e.finalTile == some c.tile
          let s := ((s.makeVisible core e).countTile core e).warmFor core e c.tile
          let s := (s.chargeTile core false).unpinAll core
          let s := s.endTile core
          let s := (s.answerWaits).failAfterCommit core e c.tile
          let s := s.settleLaunch e.queue e.seq
          let s := if final then s.writeQuality e.queue e.seq else s
          let s := s.monitorOne e.queue e.seq
          (s.modSlot e.queue e.seq fun x => { x with tack := x.tack || x.switchDecided }).track

/-! ### Adders -/

/-- Apply a reduction to the words of its line; poison in the target or the operand poisons the target (R87 to R89).
Log entry 53 (DESIGN CHOICE). -/
def applyReduction (r : Reduction) (words : List (BitVec 288)) : List (BitVec 288) × Bool :=
  let off := r.address % 64
  let n := r.data.length
  let touched (i : Nat) : Bool := off < 32 * (i + 1) && 32 * i < off + n
  let old := (words.map wordBytes).flatten
  let mid := redBytesApply r.fmt r.op n ((old.drop off).take n) r.data
  let new := old.take off ++ mid ++ old.drop (off + n)
  let out := words.zipIdx.map fun x =>
    if !touched x.2 then (x.1, false)
    else if r.poisoned || isPoison x.1 then (poisonWord (dataOf x.1), true)
    else (encodeWord (dataOfBytes ((new.drop (32 * x.2)).take 32)), false)
  (out.map (·.1), out.any (·.2))

/-- Remove the first reduction of a slice. -/
def dropFirst (c sl : Nat) : List Reduction → List Reduction
  | [] => []
  | r :: t => if r.cluster == c && r.slice == sl then t else r :: dropFirst c sl t

/-- REDUCTION_APPLY (R88). Log entries 53 (DESIGN CHOICE), 63 (DEDUCED). -/
def execReductionApply (cluster slice : Nat) (s : State) : Host.Outcome State Fault Refusal :=
  .next <| s.whenLive fun s =>
    match s.adders.find? fun r => r.cluster == cluster && r.slice == slice with
    | none => s
    | some r =>
      let line := r.address / 64
      let s := s.shareDirty r.partition cluster line
      match s.line? r.partition line with
      | some l =>
        let (ws, bad) := applyReduction r l.words
        let s := { s with
          adders := dropFirst cluster slice s.adders
          lines := s.lines.filter fun x => x.line != line || x.partition == r.partition }
        let s := s.modLine r.partition line fun x => { x with words := ws, dirty := true, useCount := none }
        if bad then s.logError (errOfCluster cluster) { clusterRecord cluster 4 3 r.address 0 with partition := r.partition }
        else s
      | none =>
        s.when (!s.reqs.any fun x => x.2.who == .adder && x.2.partition == r.partition && x.2.address == 64 * line) fun s =>
          let q : MemReq := { who := .adder, partition := r.partition, cluster := cluster, address := 64 * line, bytes := 64,
                              place := .missQueue }
          (s.addReq q).issuePool s.reqNo q

/-! ### Bulk movers -/

/-- GRANULE_COMMIT (R86): the first job of the cluster's bulk mover gains a granule; its last one ends the job.
Log entries 14 (DEDUCED), 63 (DEDUCED). -/
def execGranuleCommit (cluster : Nat) (s : State) : Host.Outcome State Fault Refusal :=
  .next <| s.whenLive fun s =>
    match (s.cluster cluster).mover with
    | [] => s
    | j :: rest =>
      if 1 < j.granules then s.modCluster cluster fun c => { c with mover := { j with granules := j.granules - 1 } :: rest }
      else
        let s := s.modCluster cluster fun c => { c with mover := rest }
        let s := s.modSlot j.queue j.seq fun e =>
          { e with phaseStates := e.phaseStates.map fun ps =>
              if ps.started && (e.map? ps.map).any (fun m => m.reshardFirst ≤ j.reshard && j.reshard < m.reshardFirst + m.reshardN)
              then { ps with reshards := ps.reshards - 1 } else ps }
        (s.settleLaunch j.queue j.seq).track

/-- SHARED_PAGE_COPY_DONE (R253): the version lists a page of its own, and the tiles that wait for it go on.
Log entry 14 (DEDUCED). -/
def execSharedPageCopyDone (folio version page : Nat) (s : State) : Host.Outcome State Fault Refusal :=
  .next <| s.whenLive fun s =>
    match (s.folios.get? folio).bind fun f => f.slot? version with
    | none => s
    | some v =>
      s.when (v.copying.contains page) fun s =>
        match s.freePages v.holderP with
        | [] => s
        | a :: _ =>
          let s := s.modFolio folio fun f => f.modSlot version fun v =>
            { v with copying := v.copying.filter (· != page), pages := v.pages.put page { addr := a } }
          let s := s.atcDrop fun x => x.folio && x.tagA == folio && x.version == version && x.coversAt page
          let s := match s.slots.find? fun e => e.pagesLeft != 0 && e.bindings.any (fun r => match r with
              | .folioOutput f w _ => f == folio && w == version
              | _ => false) with
            | some e => s.modSlot e.queue e.seq fun e => { e with pagesLeft := e.pagesLeft - 1 }
            | none => s
          s.kickAll

/-! ### The finish of a launch -/

/-- The lowest binding whose staging version's base is no longer current (R254). -/
def State.losingBinding (s : State) (e : Slot) : Option Nat :=
  (e.bindings.zipIdx.find? fun x => match x.1 with
    | .folioOutput f v true => match s.folios.get? f with
      | some y => (y.slot? v).any fun z => z.base != y.current
      | none => true
    | _ => false).map (·.2)

/-- The publication of an ALL_OR_NOTHING launch's outputs, or its conflict; with the status and cause (R254). -/
def State.publishOutputs (s : State) (e : Slot) : State × Nat × Nat :=
  if e.stagings.isEmpty || !isCompletion e.status then (s, e.status, e.cause)
  else if e.status == Status.partialShards then (s.discardStagings e, e.status, e.cause)
  else match s.losingBinding e with
    | some i => (s.discardStagings e, Status.conflict, i)
    | none =>
      (e.stagings.foldl (fun s x =>
        match (s.folios.get? x.1).bind fun f => f.slot? x.2 with
        | some v => s.publish x.1 x.2 v.base 0
        | none => s) s, e.status, e.cause)

/-- Whether every write of the launch's commit phases and of its quality record has been accepted (R443). -/
def State.writesDone (s : State) (e : Slot) : Bool :=
  !(s.reqs.any fun x => x.2.who == .commitWrite e.queue e.seq)
    && !(s.queue e.queue).writes.any fun w => w.isQualityOf e.seq

/-- LAUNCH_FINISH (R159). -/
def execLaunchFinish (q seq : Nat) (s : State) : Host.Outcome State Fault Refusal :=
  .next <| s.whenLive fun s =>
    s.onSlot q seq (fun e => e.isLaunch && e.state == .ended && (s.coresOf q seq).isEmpty && s.writesDone e) fun e s =>
      if isCompletion e.status && !e.qualityDone && e.qualityAddr.isSome then s.writeQuality q seq
      else
        let (s, st, c) := s.publishOutputs e
        (s.finishSlot q seq st c).track

end Sys2Proof.Machine
end

