-- ==== Sys2Proof/Machine/XlatCmds.lean ====
section
/-!
DEFINITION. The commands of translation, faults, windows and links (R264 to R283, R403, R404, R443 to R448).
-/
namespace Sys2Proof.Machine

open Sys2Proof

/-! ### Translation Completions -/

/-- The page size that a range of `size` bytes is stored with (R264). -/
def pageLog2Of (size : Nat) : Nat := if 2 ^ 30 ≤ size then 30 else if 2 ^ 21 ≤ size then 21 else 12

/-- The ATC entry of a granted range that holds `addr`, `target` being the translation of the range's start (R264). -/
def grantedEntry (p pasid addr target size : Nat) (read write : Bool) : Atc :=
  let l := pageLog2Of size
  let n := size / 2 ^ l
  let start := addr / size * size
  let first := if n ≤ 16 then start else addr / (16 * 2 ^ l) * (16 * 2 ^ l)
  { partition := p, tagA := pasid, first := first, pageLog2 := l, run := min 16 (max 1 n), target := target + (first - start),
    read := read, write := write }

/-- Records of a page that wait for a Translation Request made again. -/
def State.retryingFor (s : State) (die : Nat) (x : XlatReq) : List Nat :=
  (s.faults.filter fun f => f.place == .retrying && f.die == die && f.partition == x.partition && f.context == x.context
    && f.page == x.page).map (·.id)

def State.dropFault (s : State) (id : Nat) : State := { s with faults := s.faults.filter fun f => f.id != id }

/-- A request served by a translation that was not kept. -/
def State.hostOnce (s : State) (id : Nat) (a : Atc) : State :=
  match s.reqs.get? id with
  | none => s
  | some r => match r.who with
    | .commit k => (s.dropReq id).commitStreamNow k
    | .parked _ _ _ => s.dropReq id
    | _ =>
      let (q, n) := s.forSlot r
      ((s.setReq id { r with place := .host }).strandNow r .waiting).emit (.guestRead q n (a.apply r.address) r.bytes)

/-- One waiter of a granted translation: served, or at a fault when a permission is missing. -/
def State.serveWaiter (s : State) (die pasid : Nat) (a : Atc) (id : Nat) : State :=
  match s.reqs.get? id with
  | none => s
  | some r =>
    if (if r.write then a.write else a.read) then
      match s.atcFind die r.partition false pasid 0 r.address with
      | some (k, b) => s.hostAccess id r k b
      | none => s.hostOnce id a
    else s.recordFault id (r.address / 4096)

/-- A fault met again by a Translation Request made again enters the present batch (R272). -/
def State.rebatch (s : State) (k : Nat) (ids : List Nat) : State :=
  ids.foldl (fun s i =>
    (s.modFault i fun f => { f with place := .batch, firstNs := s.time.now }).modCtx k fun c =>
      { c with faultTotal := satAdd 64 c.faultTotal 1 }) s

/-- TRANSLATION_COMPLETION (R264, R270, R273, R283). -/
def execTranslationCompletion (die slot : Nat) (a : XlatAnswer) (s : State) : Host.Outcome State Fault Refusal :=
  .next <| s.whenLive fun s =>
    let k := die * xlatPerDie + slot
    match s.xlats.get? k with
    | none => s
    | some x =>
      if x.folio || xlatPerDie ≤ slot then s
      else if x.dead then (s.freeXlat k []).kickAll
      else if x.reissue then
        { s with xlats := s.xlats.put k { x with reissue := false } }.emit (.xlatRequest k x.tagA (x.page * 4096) !x.write)
      else
        let again := s.retryingFor die x
        let s : State := match a with
          | .granted target size read write =>
            if (!read && !write) || size < 4096 then
              x.waiters.foldl (fun s i => s.recordFault i x.page) (s.rebatch (ctxKey x.partition x.context) again)
            else
              let e := grantedEntry x.partition x.tagA (x.page * 4096) target size read write
              let s := again.foldl State.dropFault s
              x.waiters.foldl (fun s i => s.serveWaiter die x.tagA e i) (s.atcFill die e)
          | .noPermission =>
            x.waiters.foldl (fun s i => s.recordFault i x.page) (s.rebatch (ctxKey x.partition x.context) again)
          | .unsupported =>
            x.waiters.foldl (fun s i => s.unresolveReq i 1)
              ((again.foldl State.dropFault s).countUnresolved x.partition x.context)
        (s.freeXlat k []).kickAll

/-- PAGE_LIST_FILL (R267). A page that the version does not list has no content that the spec states: the request goes on. -/
def execPageListFill (die slot : Nat) (s : State) : Host.Outcome State Fault Refusal :=
  .next <| s.whenLive fun s =>
    let k := die * xlatPerDie + slot
    match s.xlats.get? k with
    | none => s
    | some x =>
      s.when (x.folio && slot < xlatPerDie) fun s =>
        let s := { s with xlats := s.xlats.del k }
        let entry := ((s.folios.get? x.tagA).bind fun f => f.slot? x.version).bind fun v =>
          folioEntry x.partition x.tagA v x.page
        let s := match entry with
          | some e => (s.atcFill die e).restart x.waiters
          | none => x.waiters.foldl (fun s i => match s.reqs.get? i with
              | some r => (s.setReq i { r with place := .ready }).strandNow r .ready
              | none => s) s
        (s.restart (s.slotless die)).kickAll

/-! ### Batches and the host's answers -/

/-- Faults of a context's batch on a die. -/
def State.batchOf (s : State) (die key : Nat) : List FaultRec :=
  s.faults.filter fun f => f.place == .batch && f.die == die && ctxKey f.partition f.context == key

/-- FAULT_BATCH_FLUSH (R270); `ctx` is the key of the context. -/
def execFaultBatchFlush (die ctx : Nat) (s : State) : Host.Outcome State Fault Refusal :=
  .next <| s.whenLive fun s =>
    let b := s.batchOf die ctx
    s.when (64 ≤ b.length || b.head?.any fun f => f.firstNs + 5000 ≤ s.time.now) fun s =>
      (s.deliverFaults (ctx / 64) (ctx % 64) ((b.take 64).map (·.id))).noteOverflow (ctx / 64) (ctx % 64)

/-- The Translation Requests of a fault's waiters are made again; a record that nothing waits for goes. -/
def State.retryHost (s : State) (id : Nat) : State :=
  match s.fault? id with
  | none => s
  | some f =>
    let ws := f.waiters.filter fun w => (s.reqs.get? w).isSome
    if ws.isEmpty then s.dropFault id
    else (s.modFault id fun f => { f with place := .retrying, waiters := [] }).restart ws

/-- Contexts of kind HOST that have waiting faults. -/
def State.hostWaiting (s : State) : List Nat :=
  ((s.faults.filter fun f => f.place == .buffer || f.place == .heldByStream).map fun f => ctxKey f.partition f.context).eraseDups.filter
    fun k => (s.ctx? k).any fun c => !c.fabric

/-- Room at the host: waiting faults go on (R275). -/
def State.drainHost (s : State) : State := s.hostWaiting.foldl (fun s k => s.drainFaults (k / 64) (k % 64)) s

/-- PRG_RESPONSE (R272, R273). -/
def execPrgResponse (group : Nat) (c : PrgCode) (s : State) : Host.Outcome State Fault Refusal :=
  .next <| s.whenLive fun s =>
    let mine : List FaultRec := s.faults.filter fun f => f.place == .delivered group
    s.when (!mine.isEmpty) fun s =>
      let s : State := match c with
        | .success => (mine.map (·.id)).foldl State.retryHost s
        | .invalid => (mine.map (·.id)).foldl (fun s i => s.faultUnresolved i 1) s
        | .failure =>
          let p := (mine.head?.map (·.partition)).getD 0
          let all := s.faults.filter fun f => f.partition == p && match f.place with
            | .delivered _ => true
            | _ => false
          let s := s.modPart p fun u => { u with priOff := true }
          (all.map (·.id)).foldl (fun s i => s.faultUnresolved i 2) s
      s.drainHost.kickAll

/-- PRI_ENABLE (R273). -/
def execPriEnable (p : Nat) (s : State) : Host.Outcome State Fault Refusal :=
  .next <| s.whenLive fun s => s.when (s.part p).priOff fun s => (s.modPart p fun u => { u with priOff := false }).drainHost

/-! ### The fault ring -/

/-- Send FAULT_VECTOR's message (R270). -/
def State.sendFaultVector (s : State) (key : Nat) : State :=
  match s.ctx? key with
  | none => s
  | some c =>
    let ports := ((c.windows.get? 0).map (·.ports)).getD 1
    (s.sendVector ((s.upPort ports).getD 0 + 1) c.partition c.faultVector).1

/-- FAULT_RING_WRITE_ACCEPTED (R270, R272, R277). -/
def execFaultRingWriteAccepted (ctx : Nat) (s : State) : Host.Outcome State Fault Refusal :=
  .next <| s.whenLive fun s =>
    match s.ctx? ctx with
    | none => s
    | some c =>
      match c.ringWrites with
      | [] => s
      | n :: rest =>
        let s := s.modCtx ctx fun c => { c with ringWrites := rest, ringBroken := false }
        let s := { s with faults := s.faults.map fun f =>
          if f.place == .ring n && ctxKey f.partition f.context == ctx then { f with retryAt := s.time.now + 2048, interval := 2048 }
          else f }
        if rest.isEmpty then s.sendFaultVector ctx else s

/-- FAULT_RING_WRITE_FAIL (R277): the entries not yet accepted go to the buffer, and their numbers are drawn again. -/
def execFaultRingWriteFail (ctx : Nat) (s : State) : Host.Outcome State Fault Refusal :=
  .next <| s.whenLive fun s =>
    match s.ctx? ctx with
    | none => s
    | some c =>
      match c.ringWrites with
      | [] => s
      | n :: _ =>
        let lost := s.faults.filter fun f => ctxKey f.partition f.context == ctx && c.ringWrites.any fun w => f.place == .ring w
        let s := s.modCtx ctx fun c => { c with ringBroken := true, ringWrites := [], fseq := n }
        (lost.map (·.id)).foldl State.bufferFault s

/-- The requests of a fabric fault are made again at the receiving side. -/
def State.retryFabric (s : State) (id : Nat) : State :=
  match s.fault? id with
  | none => s
  | some f =>
    let ws := f.waiters.filter fun w => (s.reqs.get? w).any fun r => r.place == .faulted
    if (f.waiters.filter fun w => (s.reqs.get? w).isSome).isEmpty then s.dropFault id else s.restart ws

/-- FAULT_RETRY (R272). -/
def execFaultRetry (fault : Nat) (s : State) : Host.Outcome State Fault Refusal :=
  .next <| s.whenLive fun s =>
    match s.fault? fault with
    | none => s
    | some f =>
      let delivered := match f.place with
        | .ring _ => true
        | _ => false
      s.when (delivered && f.retryAt != 0 && f.retryAt ≤ s.time.now) fun s =>
        let n := min 65536 (2 * f.interval)
        (s.modFault fault fun f => { f with interval := n, retryAt := s.time.now + n }).retryFabric fault

/-- CONSUMER_POLL (R272). Log entry 5 (DESIGN CHOICE). -/
def execConsumerPoll (ctx : Nat) (s : State) : Host.Outcome State Fault Refusal :=
  .next <| s.whenLive fun s =>
    match s.ctx? ctx with
    | none => s
    | some c =>
      let busy := s.faults.any fun f => ctxKey f.partition f.context == ctx && f.place != .batch
      s.when (c.fabric && busy && s.time.state != .unlocked && s.time.ct % 4096 < 2) fun s =>
        let ports := ((c.windows.get? 0).map (·.ports)).getD 1
        s.viaPort ((s.upPort ports).getD 0) (.consumerRead ctx c.consumerAddr)

/-- CONSUMER_READ_DONE (R272, R275 to R277). -/
def execConsumerReadDone (ctx count : Nat) (s : State) : Host.Outcome State Fault Refusal :=
  .next <| s.whenLive fun s =>
    match s.ctx? ctx with
    | none => s
    | some c =>
      s.when c.fabric fun s =>
        let broken := c.ringBroken
        let s := s.modCtx ctx fun c => { c with consumer := count, ringBroken := false }
        let passed := s.faults.filter fun f => ctxKey f.partition f.context == ctx && match f.place with
          | .ring n => n ≤ count && c.consumer < n
          | _ => false
        let s := (passed.map (·.id)).foldl State.retryFabric s
        let s := s.drainFaults (ctx / 64) (ctx % 64)
        (s.modCtx ctx fun c => { c with ringBroken := broken }).kickAll

/-- UNRESOLVED_FAULT (R274). Log entry 49 (DEDUCED). -/
def execUnresolvedFault (q seq cause : Nat) (s : State) : Host.Outcome State Fault Refusal :=
  .next <| s.whenLive fun s =>
    s.onSlot q seq (fun e => e.unresolved == some cause && e.state != .finished) fun _ s => s.endSlot q seq (.unresolved cause)

/-! ### Invalidation (R268, R283) -/

/-- Whether a range meets [base, base + length). -/
def meets (a n base length : Nat) : Bool := a < base + length && base < a + n

/-- Whether an invalidation names a PASID. -/
def named (pasid : Option Nat) (x : Nat) : Bool := pasid.all (· == x)

/-- ATS_INVALIDATE_REQUEST (R268). -/
def execAtsInvalidateRequest (tag : Nat) (pasid : Option Nat) (base length : Nat) (s : State) :
    Host.Outcome State Fault Refusal :=
  .next <| s.whenLive fun s =>
    let of (r : MemReq) : Bool := (s.ctx? (ctxKey r.partition r.context)).any fun c => !c.fabric && named pasid c.pasid
    let reqs := (s.reqs.filter fun e => e.2.guest && e.2.place == .host && of e.2
      && meets e.2.address (max 1 e.2.bytes) base length).map (·.1)
    let cores := (s.cores.filter fun x => x.2.mode == .committing
      && (match s.slot? x.2.queue x.2.seq with
          | some e => (s.ctx? (ctxKey e.partition e.context)).any (fun c => !c.fabric && named pasid c.pasid)
              && (e.guestPages x.2.tile).any fun a => meets a 4096 base length
          | none => false)).map (·.1)
    let s := s.atcDrop fun a => !a.folio && named pasid a.tagA && meets a.first (a.run * 2 ^ a.pageLog2) base length
    { s with
      xlats := s.xlats.mapV fun _ x =>
        if !x.folio && named pasid x.tagA && meets (x.page * 4096) 4096 base length then { x with reissue := true } else x
      invals := s.invals ++ [{ tag := tag, reqs := reqs, cores := cores }] }

/-- INVALIDATION_COMPLETION (R268). -/
def execInvalidationCompletion (tag : Nat) (s : State) : Host.Outcome State Fault Refusal :=
  .next <| s.whenLive fun s =>
    match s.invals.find? fun i => i.tag == tag with
    | none => s
    | some i =>
      let reqsOut := i.reqs.any fun r => (s.reqs.get? r).any fun x => x.place == .host
      let coresOut := i.cores.any fun k => (s.core k).mode == .committing
      s.when (!reqsOut && !coresOut) fun s =>
        { s with invals := s.invals.filter fun x => x.tag != tag }.emit (.invalDone tag)

/-! ### Inbound requests (R280) -/

/-- The answer to an inbound request before it acts (R279, R280). Log entry 39 (DEDUCED). -/
def State.inboundCode (s : State) (endpoint window offset : Nat) (write : Bool) (len : Nat) : Nat × Option InWindow :=
  match (s.inbound.find? fun e => e.2.ident == window).map (·.2) with
  | none => (3, none)
  | some w =>
    if w.length < offset + len || !(w.endpoints.contains endpoint || w.endpoints.contains 0x1FFFF) then (3, none)
    else if (if write then !w.write || w.folio else !w.read) then (2, none)
    else
      let page := if w.folio then
          ((s.folios.get? w.target).bind fun f => f.slot? w.version).bind fun v => (v.pages.get? (offset / pageBytes)).map (·.addr)
        else some (w.target + offset)
      let open_ := (s.part w.partition).state == .active && (page.bind fun a => s.extentAt a).any fun e => e.2.state == .granted
      if open_ then (0, some w) else (4, none)

/-- INBOUND_REQUEST (R280). A write that needs the rest of a line waits for it. Log entry 52 (DEDUCED). -/
def execInboundRequest (endpoint window offset : Nat) (write : Bool) (len : Nat) (data : Bytes) (s : State) :
    Host.Outcome State Fault Refusal :=
  .next <| s.whenLive fun s =>
    match s.inboundCode endpoint window offset write (if write then data.length else len) with
    | (0, some w) =>
      if write then
        let m : Merge := { partition := w.partition, cluster := s.entryCluster w.partition, address := w.target + offset,
                           data := data, endpoint := endpoint }
        let s := s.fillMerge m
        if (s.mergeMissing m).isEmpty then s.applyMerge m else { s with merges := s.merges ++ [m] }
      else s.emit (.inboundAnswer endpoint 0)
    | (c, _) => s.emit (.inboundAnswer endpoint c)

/-! ### Answers on the fabric and host ports -/

/-- A request leaves the fault record that held it. -/
def State.leaveFault (s : State) (id : Nat) : State :=
  { s with faults := (s.faults.map fun f => { f with waiters := f.waiters.filter (· != id) }).filter fun f =>
      !(f.waiters.isEmpty && (match f.place with | .ring _ => true | _ => false)) }

/-- A request of the guest's space is answered with data. -/
def State.answerReq (s : State) (id : Nat) (r : MemReq) (poison : Bool) : State :=
  let s := s.leaveFault id
  match r.who with
  | .gather _ _ =>
    (s.setReq id { r with place := .ready, poison := poison }).strandNow r .ready
  | .spine _ _ => s.setReq id { r with place := .ready, poison := poison }
  | .commit k => (s.dropReq id).commitStreamNow k
  | _ => s.dropReq id

/-- FABRIC_RESPONSE (R279). -/
def execFabricResponse (request : Nat) (c : FabricCode) (s : State) : Host.Outcome State Fault Refusal :=
  .next <| s.whenLive fun s =>
    match s.reqs.get? request with
    | none => s
    | some r =>
      s.when (r.place == .fabric) fun s =>
        match c with
        | .ok _ poisoned => s.answerReq request r poisoned
        | .notPresent => s.recordFault request (r.address / 4096)
        | .denied | .fenced => (s.leaveFault request).unresolve request 3
        | .noWindow => (s.leaveFault request).unresolve request 4

/-- FABRIC_RESPONSE_TIMEOUT (R447). -/
def execFabricResponseTimeout (request : Nat) (s : State) : Host.Outcome State Fault Refusal :=
  .next <| s.whenLive fun s =>
    match s.reqs.get? request with
    | none => s
    | some r =>
      s.when (r.place == .fabric && r.upNs + 10000000 ≤ (s.fport r.port).upTime s.time.now) fun s =>
        ((s.modFport r.port fun f => { f with timeouts := satAdd 16 f.timeouts 1 }).leaveFault request).unresolve request 3

/-- HOST_WRITE_ERROR_ANSWER (R443). -/
def execHostWriteErrorAnswer (q seq : Nat) (s : State) : Host.Outcome State Fault Refusal :=
  .next <| s.whenLive fun s =>
    s.onSlot q seq (fun e => e.isLaunch && (e.state == .running || e.state == .ended)) fun _ s =>
      let mine := (s.queue q).writes.head?.any fun w => w.isQualityOf seq
      let s := if mine then (s.modQueue q fun u => { u with writes := u.writes.tail }).issueHead q else s
      s.endSlot q seq (.unresolved 1)

/-- HOST_READ_ERROR_ANSWER (R443). -/
def execHostReadErrorAnswer (request : Nat) (s : State) : Host.Outcome State Fault Refusal :=
  .next <| s.whenLive fun s =>
    match s.reqs.get? request with
    | none => s
    | some r =>
      s.when (r.place == .host) fun s =>
        (s.logError (errOfCluster r.cluster) { clusterRecord r.cluster 2 0 0 0 with partition := r.partition }).answerReq
          request r true

/-! ### Links -/

/-- The link of a port is no longer up (R446). -/
def State.holdLink (s : State) (n : Nat) : State :=
  let s := s.modFport n fun f =>
    { f with state := 2, heldEvents := satAdd 16 f.heldEvents 1, upTotal := f.upTime s.time.now, upSince := none }
  s.icLevel (416 + n) true

/-- LINK_HELD (R446). -/
def execLinkHeld (port : Nat) (s : State) : Host.Outcome State Fault Refusal :=
  .next <| s.whenLive fun s => s.when ((s.fport port).state == 1) fun s => s.holdLink port

/-- Requests of the guest's space that wait for a port that is up. -/
def State.portless (s : State) : List Nat :=
  (s.reqs.filter fun e => e.2.guest && e.2.place == .missQueue).map (·.1)

/-- LINK_UP (R446): held messages flow in their order, and requests that found no port go on. -/
def execLinkUp (port : Nat) (s : State) : Host.Outcome State Fault Refusal :=
  .next <| s.whenLive fun s =>
    s.when (port < s.nFports && (s.fport port).state != 1) fun s =>
      let held := (s.fport port).held
      let s := s.modFport port fun f =>
        { f with state := 1, encrypted := true, upSince := some s.time.now, held := [] }
      let s := held.foldl State.emit (s.icLevel (416 + port) false)
      (s.restart s.portless).kickAll

/-- LINK_UNENCRYPTED (R448). -/
def execLinkUnencrypted (port : Nat) (s : State) : Host.Outcome State Fault Refusal :=
  .next <| s.whenLive fun s =>
    s.when (port < s.nFports) fun s =>
      let s := if (s.fport port).state == 1 then s.holdLink port
        else (s.modFport port fun f => { f with state := 2 }).icLevel (416 + port) true
      s.modFport port fun f => { f with encrypted := false }

/-! ### Abort notices (R403, R404) -/

/-- An error record of a partition, in the queue of its home die (R386). -/
def State.logPart (s : State) (p error action : Nat) : State :=
  let d := (s.part p).homeDie
  s.logError (errOfDie d) { error := error, action := action, level := 3, domain := p, partition := p }

/-- Apply a notice to one partition. Log entry 69 (DEDUCED). -/
def State.abortPart (s : State) (p : Nat) : State :=
  let s := s.modPart p fun u => { u with received := satAdd 16 u.received 1 }
  (s.logPart p 0x61 6).endWhere (fun e => e.partition == p && e.admitted && e.isLaunch) .peer

/-- Partitions of a job group. Log entry 69 (DEDUCED). -/
def State.inGroup (s : State) (g : Nat) : List Nat :=
  (s.parts.filter fun e => e.2.state != .free && e.2.jobGroup == g && g != 0).map (·.1)

/-- ABORT_NOTICE_RECEIVED (R404). Log entries 60 (DEDUCED), 69 (DEDUCED). -/
def execAbortNoticeReceived (group origin serial : Nat) (s : State) : Host.Outcome State Fault Refusal :=
  .next <| s.whenLive fun s =>
    let seen := (s.errs.lastAborts.filter fun a => a.1 == group).take 16
    s.when (origin != s.fuses.endpoint && !seen.contains (group, origin, serial) && !(s.inGroup group).isEmpty) fun s =>
      let s := { s with errs := { s.errs with lastAborts := (group, origin, serial) :: s.errs.lastAborts } }
      ((s.inGroup group).foldl State.abortPart s).track

end Sys2Proof.Machine
end

