-- ==== Sys2Proof/Machine/ResetOps.lean ====
section
/-!
DEFINITION. Partition reset and destruction (R288, R290, R398 to R400) and abort notices (R403), as their commands share
them.
-/
namespace Sys2Proof.Machine

open Sys2Proof

/-! ### Abort notices (R403) -/

/-- The port of an abort notice: the first whose link is up, else the first that is held. -/
def State.noticePort (s : State) : Nat :=
  ((s.upPort 15).orElse fun _ => (List.range 4).find? fun n => (s.fport n).state == 2).getD 0

/-- Send an abort notice of a partition with a job group, and apply it to the others of the group. -/
def State.sendAbort (s : State) (p reason : Nat) : State :=
  let g := (s.part p).jobGroup
  if g == 0 then s
  else
    let s := s.viaPort s.noticePort (.abortNotice g p reason s.errs.abortSerial)
    let s := { s with errs := { s.errs with abortSerial := (s.errs.abortSerial + 1) % 2 ^ 32 } }
    let s := (s.modPart p fun u => { u with sent := satAdd 16 u.sent 1 }).logPart p 0x60 0
    ((s.inGroup g).filter (· != p)).foldl State.abortPart s

/-! ### The fence (R399, steps 1 and 2) -/

/-- TRIGGER of R400; a class B alarm writes no dump. -/
def triggerCode : ResetTrigger → Nat
  | .management => 0 | .error => 1 | .tdiStop => 2 | .destruction => 3 | .classB => 1

/-- The TDI of a partition leaves CONFIG_LOCKED or RUN for ERROR, with a management stop (R295). -/
def State.tdiError (s : State) (p : Nat) : State :=
  match (s.part p).tdi with
  | .unlocked | .error => s
  | .locked | .run =>
    (s.modPart p fun u =>
      { u with tdi := .error, resetSinceError := false
               events := { u.events with tdiErrors := satAdd 16 u.events.tdiErrors 1 } }).stopPartition p

/-- Commands that target the partition and have not taken effect end with ABANDONED (R340, R350). A second reset and a
destruction join or wait (R288, R344). Log entry 25 (DEDUCED). -/
def State.abandonCommands (s : State) (p : Nat) (but : Option Nat) : State :=
  let joins (op : Nat) : Bool := op == 0x10 || op == 0x22 || op == 0x31
  let gone := (s.mail.chans.filter fun e =>
    e.2.state == .serving && (e.2.serve == .read || e.2.serve == .allowed) && but != some e.1
      && e.2.message.any fun m => m.partition == p && !joins m.opcode).map (·.1)
  gone.foldl (fun s ch => s.refuse ch Detail.abandoned) s

/-- What a core runs at the fence (R400): the strands, the outstanding gathers of each, and its oldest fault. -/
def State.fencedTile (s : State) (k : Nat) (c : Core) : FencedTile :=
  let mine := s.reqs.filterMap fun e => match e.2.who with
    | .gather j n => if j == k then some (n, e.1, e.2) else none
    | _ => none
  { queue := c.queue, seq := c.seq, tile := c.tile, strands := c.strands
    gathers := c.strands.map fun e => (e.1, (mine.filter fun x => x.1 == e.1).length)
    faults := (c.strands.map fun e =>
      (e.1, ((mine.find? fun x => x.1 == e.1 && x.2.2.place == .faulted).map fun x => x.2.2.address).getD 0)) }

/-- A queue of a partition being reset becomes DRAINING. A queue reset under way ends with the partition's, a deletion
goes on as one. -/
def State.drainForReset (s : State) (kind q : Nat) : State :=
  let u := s.queue q
  if u.state == .draining then
    s.modQueue q fun u => { u with drainKind := if u.drainKind == 3 then 3 else kind }
  else s.drainQueue q kind none .reset

/-- The fence of a partition reset, or of a destruction (R288, R399). Log entry 25 (DEDUCED). -/
def State.fencePart (s : State) (p : Nat) (t : ResetTrigger) (record : Nat) (st : PState) (but : Option Nat) : State :=
  let s := s.modPart p fun u =>
    { u with state := st, resetCt := s.ctNow, resetStep := 1, resetTrigger := triggerCode t, resetRecord := record }
  let s := { s with cores := s.cores.mapV fun k (c : Core) =>
    if c.mode != CoreMode.free && c.partition == p then { c with atFence := some (s.fencedTile k c) } else c }
  let s := (s.queuesOf p).foldl (fun s q => s.drainForReset (if st == .destroying then 3 else 2) q) s
  (((s.tdiError p).sendAbort p 1).abandonCommands p but).track

/-- A partition reset starts; one asked for while another runs joins it (R398). Log entry 25 (DEDUCED). -/
def State.startReset (s : State) (p : Nat) (t : ResetTrigger) (record : Nat := 0) : State :=
  if (s.part p).state == .active then s.fencePart p t record .resetting none else s

/-! ### After the drain (R399, steps 3 to 5) -/

/-- Whether the partition's work and its requests to memory are done. -/
def State.drained (s : State) (p : Nat) : Bool :=
  (s.cores.all fun e => e.2.mode == .free || e.2.partition != p)
    && s.adders.all (fun r => r.partition != p) && s.merges.all (fun m => m.partition != p)
    && s.reqs.all fun e => e.2.partition != p || (match e.2.place with
        | .port _ _ | .mirror _ => false
        | .missQueue => e.2.guest
        | _ => true)

/-- Requests, Translation Requests and fault records of a partition, or of one of its contexts, are removed; the answers
that come later are discarded. -/
def State.dropTranslations (s : State) (p : Nat) (ctx : Option Nat) : State :=
  let mine (q x : Nat) : Bool := q == p && ctx.all (· == x)
  let xlats : Tbl XlatReq := s.xlats.filter fun e => !(e.2.folio && mine e.2.partition e.2.context)
  { s with
    reqs := s.reqs.filter fun e =>
      !(mine e.2.partition e.2.context && (ctx.isNone || e.2.guest))
    faults := s.faults.filter fun f => !mine f.partition f.context
    xlats := xlats.mapV fun _ x => if mine x.partition x.context then { x with dead := true, waiters := [] } else x }

/-- The dump extent (R400). Log entry 27 (DEDUCED). -/
def State.dumpExtent (s : State) (p : Nat) : Option Extent :=
  (s.extents.find? fun e => bitAt e.2.eflags 0 && e.2.state == .granted && e.2.wMask.getLsbD p).map (·.2)

/-- STATE of a strand (R65). -/
def Strand.code : Strand → Nat
  | .idle => 0 | .ready => 1 | .waiting => 2 | .parked => 3

/-- The 32 bytes of strand `t` in a core record (R400); the program offset lies in the opaque stitch code.
Log entry 27 (DEDUCED). -/
def strandBytes (x : FencedTile) (offset t : Nat) : Bytes :=
  match x.strands.get? t with
  | none => zeros 32
  | some st => toLe 4 st.code ++ toLe 4 offset ++ toLe 8 (x.gathers.getD t 0) ++ toLe 8 (x.faults.getD t 0) ++ zeros 8

/-- A core's area of the dump: the core record and the sample of its scratchpad (R400). Log entry 27 (DEDUCED). -/
def coreDump (k : Nat) (c : Core) (offset : Nat) : Bytes :=
  let head : Bytes := match c.atFence with
    | some x => toLe 2 k ++ toLe 2 x.queue ++ toLe 4 x.tile ++ toLe 8 x.seq ++ toLe 4 0 ++ zeros 44
    | none => toLe 2 k ++ toLe 2 0xFFFF ++ toLe 4 0xFFFFFFFF ++ toLe 8 0 ++ toLe 4 0 ++ zeros 44
  let strands : Bytes := match c.atFence with
    | some x => ((List.range 64).map (strandBytes x offset)).flatten
    | none => zeros 2048
  head ++ strands ++ zeros (4096 - 64 - 2048) ++ (List.range 65536).map fun i => Memory.read c.scratch i

/-- Write the dump of a resetting partition (R400): nothing when no dump extent exists or its key is gone (R323).
Log entry 27 (DEDUCED). -/
def State.writeDump (s : State) (p : Nat) : State :=
  let u := s.part p
  match s.dumpExtent p with
  | none => s
  | some x =>
    if u.keyGone then s
    else
      let ks := (List.range s.nCores).filter u.hasCore
      let room := (x.granules * pageBytes - 65536) / (68 * 1024)
      let head := toLe 4 0x504D5544 ++ toLe 2 1 ++ toLe 1 p ++ toLe 1 u.resetTrigger ++ toLe 8 u.resetCt
        ++ toLe 8 u.resetRecord ++ toLe 2 (min ks.length room) ++ toLe 2 (if room < ks.length then 1 else 0)
        ++ toLe 4 u.events.resets ++ zeros (65536 - 32)
      let offset := (Config.freeBits 32 s.free) % 2 ^ 32
      s.draw.emit (.dump x.base head ((ks.take room).map fun k => coreDump k (s.core k) offset))

/-- Lines of a partition: written back unless the key is gone, and invalidated (R323, R399). -/
def State.flushPart (s : State) (p : Nat) : State := s.dropLines (!(s.part p).keyGone) fun l => l.partition == p

/-! ### Clearing (R290, R399 step 6) -/

/-- A core as a reset leaves it. -/
def Core.cleared (c : Core) : Core :=
  { c with scratch := [], acc := [], strands := [], basted := none, idleSince := none, atFence := none, hamEmitted := 0, poisonAt := 0,
           lastContext := none, slice := none }

/-- Clear the cores of some quads. -/
def State.clearCores (s : State) (quads : List Nat) : State :=
  { s with cores := s.cores.mapV fun k c => if quads.contains (k / 4) then c.cleared else c }

/-- ATC entries, calendar, affinity table and IDE stream keys of the partition are cleared. -/
def State.clearPart (s : State) (p : Nat) : State :=
  let s := (s.clearCores (s.part p).quads).atcDrop fun a => a.partition == p
  s.modPart p fun u => { u with holds := [], affinity := [], ideKey := none }

/-! ### Contexts (R232, R247) and inbound windows (R280) -/

/-- Remove inbound windows; one that names a folio version gives up its open. -/
def State.dropWindows (s : State) (t : Nat → InWindow → Bool) : State :=
  let gone := (s.inbound.filter fun e => t e.1 e.2).map (·.2)
  (gone.filter (·.folio)).foldl (fun (s : State) w =>
    (s.modFolio w.target fun f => f.modSlot w.version fun x => { x with opens := x.opens - 1 }).sweepFolio w.target)
    { s with inbound := s.inbound.filter fun e => !t e.1 e.2 }

/-- Delete a context: its opens are closed, its drafts discarded, its sequence table entries freed, and its translations,
faults and folio windows removed. -/
def State.deleteContext (s : State) (k : Nat) : State :=
  match s.ctx? k with
  | none => s
  | some c =>
    let s := s.dropWindows fun _ w => w.folio && w.partition == c.partition && w.context == c.index
    let s := (s.closeHolds k fun _ => true).dropTranslations c.partition (some c.index)
    let s := { s with
      seqs := s.seqs.filter fun e => !(e.2.partition == c.partition && e.2.context == c.index)
      ctxs := s.ctxs.del k }
    if c.fabric then s
    else (s.atcDrop fun a => !a.folio && a.partition == c.partition && a.tagA == c.pasid).emit (.stopMarker c.pasid)

/-! ### Destruction (R288) -/

/-- Steps 2 to 4 of a destruction, after the drain: contexts go, rights are revoked, and every quad and way is cleared.
Log entry 26 (DEDUCED). -/
def State.dismantle (s : State) (p : Nat) : State :=
  let s := ((s.ctxs.filter fun e => e.2.partition == p).map (·.1)).foldl State.deleteContext s
  let s := s.dropWindows fun _ w => w.partition == p
  let s := ((s.extents.filter fun e => e.2.holders.getLsbD p).map (·.1)).foldl (fun s k => s.askRevoke k (some p) none) s
  s.modPart p fun u => { u with clearQuads := u.quads, clearWays := u.ways }

/-- A destruction starts: one asked for during a reset waits for the reset's end. `ch` is the channel that asks.
Log entry 26 (DEDUCED). -/
def State.startDestroy (s : State) (p : Nat) (ch : Option Nat) : State :=
  let s := ch.toList.foldl (fun (s : State) c => (s.park c).modPart p fun u => { u with replyTo := u.replyTo ++ [c] }) s
  if (s.part p).state == .active then s.fencePart p .destruction 0 .destroying ch else s

/-- The reply of a channel that waited for the end of a reset (R344); a destruction that waited starts. -/
def State.resetReply (s : State) (p ch : Nat) : State :=
  let u := s.part p
  match ((s.chan ch).message.map (·.opcode)).getD 0 with
  | 0x22 => s.accept ch (toLe 4 u.keyId ++ toLe 4 u.keyCheck)
  | 0x31 => s.fencePart p .destruction 0 .destroying (some ch)
  | _ => s.accept ch []

/-- The end of a partition reset (R399, steps 6 to 8). A STOP_INTERFACE_REQUEST unlocks the TDI first (R295).
Log entry 25 (DEDUCED). -/
def State.endReset (s : State) (p : Nat) : State :=
  let s := s.clearPart p
  let s := if (s.part p).stopWanted then
      (s.modPart p fun u => { u with tdi := .unlocked, tdiSession := none, stopWanted := false }).resumePartition p else s
  let s := (s.queuesOf p).foldl (fun s q =>
    let s := s.newEpoch q
    s.acceptAll (s.queueChans 0x11 q) (toLe 1 (s.queue q).epoch)) s
  let chs := (s.part p).replyTo
  let s := s.modPart p fun u =>
    { u with state := .active, resetStep := 0, resetSinceError := true, keyGone := false, replyTo := []
             events := { u.events with resets := satAdd 16 u.events.resets 1 } }
  chs.foldl (fun s ch => s.resetReply p ch) s

/-- The lines of partition `p` in the ways that it no longer holds leave the cluster cache (R290). -/
def Partition.lostLine (u : Partition) (l : Line) : Bool :=
  match u.clearWays.get? l.cluster with
  | none => false
  | some _ => l.way < (u.waysIn l.cluster).first || (u.waysIn l.cluster).first + (u.waysIn l.cluster).ways ≤ l.way

/-- The clearing of a layout change ends (R290). -/
def State.endClearing (s : State) (p : Nat) : State :=
  let u := s.part p
  let s := (s.clearCores u.clearQuads).dropLines (!u.keyGone) fun l => l.partition == p && u.lostLine l
  s.modPart p fun u =>
    { (u.clearWays.map (·.1)).foldl Partition.chill u with clearQuads := [], clearWays := [] }

/-- Whether a destruction has only its last steps to take. Log entry 26 (DEDUCED). -/
def State.dismantled (s : State) (p : Nat) : Bool :=
  (s.part p).resetStep == 2 && s.drained p && s.slots.all (fun e => e.partition != p) && (s.queuesOf p).isEmpty
    && s.extents.all fun e => !e.2.holders.getLsbD p

/-- A destruction ends (R288, steps 4 to 6): the partition is FREE. -/
def State.endDestroy (s : State) (p : Nat) : State :=
  let chs := (s.part p).replyTo
  let s := (s.clearPart p).zeroise p
  { s with parts := s.parts.del p }.acceptAll chs []

/-- The block is fatal (R402): notices go out, no tile starts, and unfinished work ends. Log entry 60 (DEDUCED). -/
def State.becomeFatal (s : State) : State :=
  if s.errs.fatal then s
  else
    let s := { s with errs := { s.errs with fatal := true } }
    let jobs := (s.parts.filter fun e => e.2.state != .free && e.2.jobGroup != 0).map (·.1)
    let s := jobs.foldl (fun s p => s.sendAbort p 2) s
    ((s.endWhere (fun _ => true) .reset).emit (.faultReport "BLOCK_FATAL" 0)).track

end Sys2Proof.Machine
end

