-- ==== Sys2Proof/Machine/AlarmCmds.lean ====
section
/-!
DEFINITION. Security alarms (R321 to R323, R326), the renewal of keys, and certificates (R312).
-/
namespace Sys2Proof.Machine

open Sys2Proof

/-- An alarm acts on a block that is out of reset and not yet stopped by an alarm. Log entry 3 (DESIGN CHOICE). -/
def State.whenOn (s : State) (f : State → State) : State :=
  if s.boot.outOfReset && s.boot.stopped != .classA then f s else s

/-- A pulse shorter than its filter is counted and ignored (R457). -/
def State.glitch (s : State) : State := { s with pins := { s.pins with glitches := satAdd 16 s.pins.glitches 1 } }

/-- SC_TAMPER_N (R321, R322, R457). -/
def execScTamperN (held : Nat) (s : State) : Host.Outcome State Fault Refusal :=
  .next <| s.whenOn fun s =>
    if held < 200 then s.glitch else { s with pins := { s.pins with tamper := true } }.classA

/-- DEBUG_UNLOCK_ATTEMPT (R308, R319, R321). -/
def execDebugUnlockAttempt (s : State) : Host.Outcome State Fault Refusal :=
  .next <| s.whenOn fun s =>
    if s.fuses.debugLocked then s.classA
    else { s with sec := { s.sec with debugEnabled := true, unlockSeen := true } }

/-- THIMBLE_DOMAIN_GLITCH (R321). -/
def execThimbleDomainGlitch (s : State) : Host.Outcome State Fault Refusal := .next <| s.whenOn State.classA

/-- Whether a partition holds a quad or a way in a cluster (R321). -/
def Partition.holdsIn (u : Partition) (c : Nat) : Bool := u.quadsIn c != 0 || (u.waysIn c).ways != 0

/-- The partitions that a detector strikes (R321). Log entry 28 (DEDUCED). -/
def State.struck (s : State) (die : Bool) (unit : Nat) : List Nat :=
  let cs := (List.range s.nClusters).filter fun c => if die then dieOfCluster c == unit else c == unit
  (s.parts.filter fun e => e.2.state != .free && cs.any e.2.holdsIn).map (·.1)

/-- A class B alarm, or KEY_ZEROISE, acts on one partition (R323): keys go, a reset starts, and every extent under its key
is revoked. A destruction goes on (R300). Log entry 28 (DEDUCED). -/
def State.strike (s : State) (p : Nat) (t : ResetTrigger) : State :=
  let s := (s.zeroise p).modPart p fun u => { u with keyGone := true }
  let s := s.startReset p t
  ((s.extents.filter fun e => e.2.keyPartition == p).map (·.1)).foldl (fun s k => s.askRevoke k none none) s

/-- CLASS_B_GLITCH (R321, R323). -/
def execClassBGlitch (die : Bool) (unit : Nat) (s : State) : Host.Outcome State Fault Refusal :=
  .next <| s.whenLive fun s =>
    let at_ := s.time.now :: s.sec.classBAt.filter fun t => s.time.now ≤ t + 1000000000
    let s := { s with sec := { s.sec with classB := satAdd 8 s.sec.classB 1, classBAt := at_ } }
    if 3 ≤ at_.length then s.classA else (s.struck die unit).foldl (fun s p => s.strike p .classB) s

/-- RETIRE_FUSE_BLOWN (R322, R344): after a class A alarm, or for SLOT_RETIRE, which is answered. Log entry 28 (DEDUCED). -/
def execRetireFuseBlown (s : State) : Host.Outcome State Fault Refusal :=
  .next <|
    match s.sec.retiring with
    | none => s
    | some n =>
      let t := { s with
        fuses := { s.fuses with retired := s.fuses.retired ||| BitVec.ofNat 16 (2 ^ n) }
        sec := { s.sec with retiring := none, retireReply := none } }
      if t.live then s.sec.retireReply.toList.foldl (fun t ch => t.accept ch (toLe 1 (t.fuses.activeSlot.getD 0xFF))) t
      else t

/-- PARTITION_KEY_RENEWED (R323). Log entry 28 (DEDUCED). -/
def execPartitionKeyRenewed (p : Nat) (s : State) : Host.Outcome State Fault Refusal :=
  .next <| s.whenLive fun s =>
    let u := s.part p
    s.when (u.state == .resetting && u.keyGone && u.key.isNone) fun s =>
      (s.newInstance p).modPart p fun u => { u with certIssued := true }

/-- PARTITION_CERTIFICATE_ISSUED (R312). -/
def execPartitionCertificateIssued (p : Nat) (s : State) : Host.Outcome State Fault Refusal :=
  .next <| s.whenLive fun s => s.when (s.part p).identity.isSome fun s => s.modPart p fun u => { u with certIssued := true }

end Sys2Proof.Machine
end

