-- ==== Sys2Proof/Machine/TimeCmds.lean ====
section
/-!
DEFINITION. The commands of cluster time (R122 to R138): strobes, slews, steps and the re-anchor; the frame boundary with
what takes effect there (R93, R133, R186, R194, R213, R215, R288, R413); the 1 ms boundary (R293), the power window (R292),
and the background slot with its tasks (R420 to R424).
-/
namespace Sys2Proof.Machine

open Sys2Proof

/-! ### States of the time logic -/

/-- The bound on the error against the time unit, before it is cut to 16 bits (R127, R137). Log entry 17 (DEDUCED). -/
def Time.bound (t : Time) : Nat :=
  match t.state with
  | .unlocked => 0xFFFF
  | .locked => 4 + t.slew.natAbs
  | .holdover => 4 + 20 * (t.now - t.holdoverSince.getD t.now) / 1000000
  | .stepPending => t.boundBefore

/-- Entering HOLDOVER (R125, R135, R137, R138). -/
def State.toHoldover (s : State) : State :=
  let t := s.time
  { s with time := { t with state := .holdover, holdoverSeen := true, holdoverSince := some t.now
                            holdovers := satAdd 16 t.holdovers 1 } }.icFire 2

/-- A strobe is lost, or rejected for its spacing (R125, R135). Log entry 16 (DEDUCED). -/
def State.loseStrobe (s : State) : State :=
  let s := { s with time := { s.time with goodRun := 0 } }
  match s.time.state with
  | .locked => s.toHoldover
  | .stepPending => { s with time := { s.time with lostInStep := true } }
  | _ => s

/-- Count a rejected strobe (R137, R138). Log entry 16 (DEDUCED). -/
def State.rejectStrobe (s : State) : State :=
  { s with time := { s.time with goodRun := 0, rejectedSeen := true, rejected := satAdd 16 s.time.rejected 1 } }

/-- A step of offset `e` is detected (R132, R135). Log entry 17 (DEDUCED). -/
def State.detectStep (s : State) (e : Int) : State :=
  let t := s.time
  let pending := t.state = .stepPending
  let delta := if pending then t.delta + e else e
  let t := { t with
    state := .stepPending, delta := delta, stepDelta := delta, timeStep := true, steps := satAdd 16 t.steps 1
    stepFrame := if pending then t.stepFrame else frameOf t.ct
    boundBefore := if pending then t.boundBefore else t.bound
    slew := 0, slewing := false, slewPhase := 0, slewAfter := 0, holdoverSince := none
    lostInStep := pending && t.lostInStep }
  let s := { s with
    time := t
    parts := s.parts.mapV fun _ p => { p with events := { p.events with timeSteps := satAdd 16 p.events.timeSteps 1 } }
    queues := s.queues.mapV fun _ (u : Queue) => if u.state == QState.disabled then u else { u with stepF := true } }
  s.icFire 1

/-- CT locks (R126): the block's own boundaries count from this instant. -/
def State.lockTime (s : State) (v : Nat) : State :=
  let s := { s with
    time := { s.time with state := .locked, ct := v, frameDone := frameOf v + 1, msDone := v / 1000000
                          windowDone := v / 100000000 }
    accrued := (List.range s.nPorts).map fun n => (n, v)
    bg := { s.bg with slotDone := frameOf v } }
  if s.boot.stage == .time then s.becomeReady false else s

/-- The offset of an accepted strobe, in the scale in force (R126). -/
def Time.offset (t : Time) (v : Nat) : Int :=
  if t.state = .stepPending then (v : Int) - ((t.ct : Int) + t.delta) else (v : Int) - (t.ct : Int)

/-- An accepted strobe with value `v` (R126). Log entry 17 (DEDUCED). -/
def State.acceptStrobe (s : State) (v : Nat) : State :=
  let s := { s with time := { s.time with lastStrobe := some s.time.now, expired := false, goodRun := s.time.goodRun + 1 } }
  let t := s.time
  match t.state with
  | .unlocked => if 16 ≤ t.goodRun then s.lockTime v else s
  | .holdover =>
    if t.goodRun < 16 then s
    else if 1000 < (t.offset v).natAbs then s.detectStep (t.offset v)
    else { s with time := { t with state := .locked, holdoverSince := none, slew := t.offset v
                                   slewing := t.offset v != 0 || t.slewing } }
  | .locked =>
    if 1000 < (t.offset v).natAbs then s.detectStep (t.offset v)
    else { s with time := { t with slew := t.offset v, slewing := t.offset v != 0 || t.slewing } }
  | .stepPending =>
    if 1000 < (t.offset v).natAbs then s.detectStep (t.offset v)
    else { s with time := { t with slewAfter := t.offset v } }

/-- Even parity of byte `i` of a value, as the bus carries it (R122). -/
def parityOf (v : BitVec 64) (i : Nat) : Bool :=
  (List.range 8).foldl (fun b j => b != v.getLsbD (8 * i + j)) false

def parityOk (v : BitVec 64) (parity : BitVec 8) : Bool := (List.range 8).all fun i => parity.getLsbD i == parityOf v i

/-- The 1,500 ns count expires (R125). Log entry 16 (DEDUCED). -/
def State.expireStrobe (s : State) : State := { s with time := { s.time with expired := true } }.loseStrobe

/-- Whether the 1,500 ns count has run out and not yet been handled. -/
def Time.overdue (t : Time) : Bool := !t.expired && t.lastStrobe.any fun l => l + 1500 < t.now

/-- TIME_STROBE (R122, R125, R126, R465). Log entry 16 (DEDUCED). -/
def execTimeStrobe (v : BitVec 64) (parity : BitVec 8) (s : State) : Host.Outcome State Fault Refusal :=
  .next <| s.whenLive fun s =>
    s.when s.time.released fun s =>
      if !parityOk v parity then
        let s := s.rejectStrobe
        if s.time.state = .stepPending then s.loseStrobe else s
      else
        let s := if s.time.overdue then s.expireStrobe else s
        match s.time.lastStrobe with
        | none => s.acceptStrobe v.toNat
        | some l => if s.time.now - l < 500 then s.rejectStrobe.loseStrobe else s.acceptStrobe v.toNat

/-- STROBE_TIMEOUT (R125). -/
def execStrobeTimeout (s : State) : Host.Outcome State Fault Refusal :=
  .next <| s.whenLive fun s => s.when (s.time.released && s.time.overdue) State.expireStrobe

/-- SLEW_COMPLETE (R126, R137). -/
def execSlewComplete (s : State) : Host.Outcome State Fault Refusal :=
  .next <| s.whenLive fun s =>
    s.when (s.time.slewing && s.time.slew == 0) fun s => { s with time := { s.time with slewing := false, slewPhase := 0 } }

/-! ### What takes effect at a frame boundary -/

/-- Whether a PROMISED launch that the partition had accepted before a lowering has not finished (R93). -/
def State.holdsShare (s : State) (p n : Nat) : Bool :=
  s.slots.any fun e => e.partition == p && e.promise.isSome && e.admitted && e.order ≤ n && e.state != .finished

/-- A regulator after a frame boundary (R91, R93): `held` says that a lowering still waits. Log entry 19 (DEDUCED). -/
def Regulator.frame (g : Regulator) (held : Bool) : Regulator :=
  let g := { g with
    ceiling := g.pendCeiling.getD g.ceiling, burst := g.pendBurst.getD g.burst
    pendCeiling := none, pendBurst := none, excess := 0 }
  let g := { g with tokens := min g.tokens (1024 * g.burst) }
  match g.pendShare with
  | none => g
  | some n => if n < g.share && held then g else { g with share := n, pendShare := none, lowerAfter := none }

/-- A partition's calendar and parameters after the boundary that begins frame `f` (R186, R187, R194, R215). -/
def State.framePart (s : State) (f p : Nat) (u : Partition) : Partition :=
  { u with
    holds := u.holds.filter fun h => !h.releasing && f ≤ h.last
    regs := u.regs.mapV fun _ g => g.frame ((g.lowerAfter.map fun n => s.holdsShare p n).getD false)
    promiseLimit := u.pendLimit.getD u.promiseLimit, pendLimit := none
    startAllow := u.pendAllow.getD u.startAllow, pendAllow := none
    sliceNs := u.pendSlice.getD u.sliceNs, pendSlice := none }

/-- Whether an unfinished launch of partition `p` is placed in cluster `c` (R288). -/
def State.placedIn (s : State) (p c : Nat) : Bool :=
  s.slots.any fun e => e.partition == p && e.isLaunch && e.admitted && e.state != .finished
    && (e.placed.contains c || e.placedF.contains c)

/-- Clusters in which a new layout takes quads or ways away. Log entry 19 (DEDUCED). -/
def Partition.losesIn (u : Partition) (l : LayoutChange) (c : Nat) : Bool :=
  let o := u.waysIn c
  let n := l.ways.getD c {}
  (u.quads.any fun q => clusterOfQuad q == c && !l.quads.contains q)
    || (o.ways != 0 && (n.ways == 0 || o.first < n.first || n.first + n.ways < o.first + o.ways))

/-- A layout change at its frame boundary (R207, R288, R290): what is taken away waits for its clearing.
Log entry 19 (DEDUCED). -/
def Partition.relayout (u : Partition) (l : LayoutChange) (n : Nat) : Partition :=
  let lost := u.quads.filter fun q => !l.quads.contains q
  let cs := List.range n
  let u' := (cs.filter fun c => u.waysIn c != l.ways.getD c {}).foldl Partition.chill u
  { u' with
    quads := l.quads, ways := l.ways, pendLayout := none
    clearQuads := (u.clearQuads ++ lost).eraseDups
    clearWays := (cs.filter fun c => (u.waysIn c).ways != 0 && u.losesIn l c).foldl
      (fun t c => t.put c (u.waysIn c)) u.clearWays }

/-- A pending layout change of one partition, once no launch stands in its way. Log entry 19 (DEDUCED). -/
def State.frameLayout (s : State) (p : Nat) : State :=
  match (s.part p).pendLayout with
  | none => s
  | some l =>
    if (List.range s.nClusters).any fun c => (s.part p).losesIn l c && s.placedIn p c then s
    else s.modPart p fun u => u.relayout l s.nClusters

/-- I_soft of a soft cap (R413). -/
def issueSoftOf (cap : Nat) : Nat := min 16 ((cap - 350) / 50)

/-- A new soft cap takes effect (R413). -/
def Power.frame (w : Power) : Power :=
  match w.pendCap with
  | none => w
  | some c => { w with softCap := c, pendCap := none, issueSoft := issueSoftOf c }

/-- Everything that a frame boundary, or an anchor, brings into effect; `f` is the frame that begins. -/
def State.frameEffects (s : State) (f : Nat) : State :=
  let s := { s with
    parts := s.parts.mapV fun p u => s.framePart f p u
    ctxs := s.ctxs.mapV fun _ c => { c with share := c.pendShare.getD c.share, pendShare := none }
    power := s.power.frame }
  let s := (s.parts.map (·.1)).foldl State.frameLayout s
  ((List.range s.nPorts).foldl State.pumpPort s).track

/-- Whether a frame boundary stands to be applied (R129): with a step pending, none later than the frame of the
detection. Log entry 5 (DESIGN CHOICE). -/
def Time.frameDue (t : Time) : Bool :=
  t.state != .unlocked && t.frameDone ≤ frameOf t.ct && (t.state != .stepPending || frameOf t.ct ≤ t.stepFrame)

/-- FRAME_BOUNDARY (R129). -/
def execFrameBoundary (s : State) : Host.Outcome State Fault Refusal :=
  .next <| s.whenLive fun s =>
    s.when s.time.frameDue fun s =>
      let f := frameOf s.time.ct
      { s with time := { s.time with frameDone := f + 1 } }.frameEffects f

/-! ### The re-anchor (R133 to R135) -/

/-- Log entry 17 (DEDUCED). -/
def shiftBy (d : Int) (t : Nat) : Nat := ((t : Int) + d).toNat

/-- A promise's figures after the rebase. Log entry 18 (DEDUCED). -/
def Promise.rebase (p : Promise) (d : Int) : Promise :=
  { p with deadline := shiftBy d p.deadline, effective := shiftBy d p.effective, hem := shiftBy d p.hem
           origin := shiftBy d p.origin }

/-- A slot's held instants after the rebase. -/
def Slot.rebase (e : Slot) (d : Int) : Slot :=
  { e with
    promise := e.promise.map fun p => p.rebase d
    admitCt := shiftBy d e.admitCt, planF := shiftBy d e.planF, firstStart := e.firstStart.map (shiftBy d)
    tiles := e.tiles.mapV fun _ t => { t with commitCt := t.commitCt.map (shiftBy d) } }

/-- A partition's calendar moves by whole frames (R133). Log entry 18 (DEDUCED). -/
def Partition.rebase (u : Partition) (n : Int) : Partition :=
  { u with holds := u.holds.map fun h => { h with first := shiftBy n h.first, last := shiftBy n h.last } }

/-- The anchor itself: X, the rebase, the short frame (R133, R134). Log entries 17 (DEDUCED), 18 (DEDUCED). -/
def State.anchor (s : State) : State :=
  let t := s.time
  let x := shiftBy t.delta t.ct
  let f := frameOf x
  let n : Int := (f : Int) - ((t.stepFrame : Int) + 1)
  let s := { s with
    time := { t with
      state := .locked, ct := x, delta := 0, stepAt := x, frameDone := f + 1, fullThrough := f + 2
      msDone := min t.msDone (x / 1000000), windowDone := min t.windowDone (x / 100000000)
      slew := t.slewAfter, slewing := t.slewAfter != 0, slewPhase := 0, slewAfter := 0, lostInStep := false }
    slots := s.slots.map fun (e : Slot) => e.rebase t.delta
    parts := s.parts.mapV fun _ u => u.rebase n
    accrued := s.accrued.map fun (a : Nat × Nat) => (a.1, shiftBy t.delta a.2)
    mail := { s.mail with chans := s.mail.chans.mapV fun _ c =>
      { c with acceptCt := if c.acceptCt == 0 then 0 else shiftBy t.delta c.acceptCt
               takeCt := if c.takeCt == 0 then 0 else shiftBy t.delta c.takeCt } }
    bg := { s.bg with slotDone := f } }
  let s := s.frameEffects f
  if t.lostInStep then s.toHoldover else s

/-- REANCHOR (R133). Log entry 17 (DEDUCED). -/
def execReanchor (s : State) : Host.Outcome State Fault Refusal :=
  .next <| s.whenLive fun s =>
    s.when (s.time.state == .stepPending && s.time.stepFrame < frameOf s.time.ct) State.anchor

/-! ### The 1 ms boundary and the power window -/

/-- Earliest hem point of R206 at a boundary, in the scale in force. -/
def State.nextHem (s : State) (p at_ : Nat) : Nat :=
  let hems := s.slots.filterMap fun e =>
    match e.promise with
    | some pr => if e.partition == p && e.admitted && e.state != .finished && !e.switched && at_ < pr.hem
        then some pr.hem else none
    | none => none
  (hems.min?.map s.outScale).getD 0

/-- Buffer records that a partition holds on each die, in the places of SC_PXLAT (R282). -/
def State.fusedWord (s : State) (p : Nat) : Nat := 2 ^ 16 * min 1023 (s.buffered p 0) + 2 ^ 48 * min 1023 (s.buffered p 1)

/-- The counts of a context's SC_PFAULT_CTX, in their places (R282). -/
def Context.faultWord (c : Context) (open_ : Nat) : Nat :=
  min open_ 0xFFFF + 2 ^ 32 * min c.overflows 0xFFFF + 2 ^ 48 * min c.unresolved 0xFFFF

/-- What a partition shows from the boundary at `at_` on (R206, R207, R291, R425). -/
def State.msPart (s : State) (at_ p : Nat) (u : Partition) : Partition :=
  let a := { u.adm with nextHem := s.nextHem p at_, promiseLimit := u.promiseLimit, startAllow := u.startAllow
                        issueNew := s.issueNew }
  { u.coolDown with adm := a, admShown := a, eventsShown := u.events, telShown := u.tel, pxlatShown := s.fusedWord p }

/-- Waiting time up to now is charged (R216). -/
def State.chargeWaits (s : State) : State :=
  s.slots.foldl (fun s e =>
    match e.waitSince with
    | none => s
    | some t =>
      (s.modSlot e.queue e.seq fun x => { x with waitSince := some s.time.now, waitNs := x.waitNs + (s.time.now - t) }).account
        (ctxKey e.partition e.context) fun a => { a with wait := satAdd 64 a.wait (s.time.now - t) }) s

/-- MS_BOUNDARY (R293). The operands are the measured power of the block and of its clusters over the millisecond (R418).
Log entry 5 (DESIGN CHOICE). -/
def execMsBoundary (blockWatts : Nat) (clusterWatts : List (Nat × Nat)) (s : State) : Host.Outcome State Fault Refusal :=
  .next <| s.whenLive fun s =>
    s.when (s.time.state != .unlocked && s.time.msDone < s.time.ct / 1000000) fun s =>
      let at_ := s.time.ct / 1000000 * 1000000
      let s := s.chargeWaits
      { s with
        time := { s.time with msDone := s.time.ct / 1000000 }
        parts := s.parts.mapV fun p u => s.msPart at_ p u
        queues := s.queues.mapV fun _ u => { u with tilesShown := u.tiles }
        ctxs := s.ctxs.mapV fun k c =>
          { c with acctShown := c.acct, arithShown := c.arith, shownFaults := c.faultTotal
                   shownFlags := c.faultWord (s.faults.filter fun f => ctxKey f.partition f.context == k).length }
        power := { s.power with blockWatts := blockWatts, overSoft := s.power.softCap < blockWatts
                                sampleCt := s.outScale at_
                                clusterWatts := clusterWatts.foldl (fun t c => t.put c.1 c.2) [] } }

/-- POWER_WINDOW_END (R292): `joules` are the energies attributed to partitions over the window. Log entry 5 (DESIGN CHOICE). -/
def execPowerWindowEnd (joules : List (Nat × Nat)) (s : State) : Host.Outcome State Fault Refusal :=
  .next <| s.whenLive fun s =>
    s.when (s.time.state != .unlocked && s.time.windowDone < s.time.ct / 100000000) fun s =>
      let w := s.time.ct / 100000000
      let watts (p : Nat) : Nat := (((joules.find? fun j => j.1 == p).map (·.2)).getD 0) * 10 / 5 * 5
      { s with
        time := { s.time with windowDone := w }
        parts := s.parts.mapV fun p u =>
          { u with watts := min 65535 (watts p), wattsAt := s.outScale (w * 100000000) } }

/-! ### The background slot (R420 to R424) -/

/-- Blocks of 256 bytes of the near tier behind each port (R422). -/
def State.nearBlocks (s : State) : Nat := s.boot.nearTierBytes / s.nPorts / 256

/-- The near-tier scrub of one slot: one block on each port every F frames. Log entry 21 (DESIGN CHOICE). -/
def State.scrubNear (s : State) : State :=
  if s.boot.scrubF == 0 || s.nearBlocks == 0 || s.bg.frames % s.boot.scrubF != 0 then s
  else
    let s := (List.range s.nPorts).foldl (fun s n => s.emit (.memRmw n (256 * s.bg.nearBlock))) s
    if s.bg.nearBlock + 1 < s.nearBlocks then { s with bg := { s.bg with nearBlock := s.bg.nearBlock + 1 } }
    else { s with bg := { s.bg with nearBlock := 0, nearPassCt := s.ctNow } }

/-- The cache and scratchpad scrub of one slot: one block each (R421). Log entry 21 (DESIGN CHOICE). -/
def State.scrubSram (s : State) : State :=
  let b := s.bg
  let c := b.cacheBlock + 1
  let d := b.scratchBlock + 1
  let b := { b with cacheBlock := c % 98304, cachePassed := b.cachePassed || c == 98304
                    scratchBlock := d % 8192, scratchPassed := b.scratchPassed || d == 8192 }
  { s with bg := if b.cachePassed && b.scratchPassed then
      { b with cachePassed := false, scratchPassed := false, sramPassCt := s.ctNow } else b }

/-- Whether both bundles can lend lanes to equaliser adaptation (R424). Log entry 21 (DESIGN CHOICE). -/
def Bridge.adapts (b : Bridge) : Bool :=
  !b.retraining01 && !b.retraining10 && !b.widthPending && b.spares01 < 32 && b.spares10 < 32

/-- Calibration once per second and adaptation once per 100 ms (R421). Log entry 21 (DESIGN CHOICE). -/
def State.calibrate (s : State) : State :=
  let b := s.bg
  let b := if b.calFrames + 1 < 122070 then { b with calFrames := b.calFrames + 1 }
    else { b with calFrames := 0, calPasses := satAdd 32 b.calPasses 1 }
  let b := if !s.fuses.full || !s.bridge.adapts then b
    else if b.laneFrames + 1 < 12207 then { b with laneFrames := b.laneFrames + 1 }
    else { b with laneFrames := 0, adapts := satAdd 32 b.adapts 1 }
  { s with bg := b }

/-- What the ageing monitor of one core finds (R407). -/
def State.ageing (s : State) (k : Nat) (low : Bool) : State :=
  if !low || s.nCores ≤ k then s
  else if (s.core k).bin != 0 then s.modCore k fun c => { c with binPending := true }
  else if (s.core k).agedFloor then s
  else (s.modCore k fun c => { c with agedFloor := true }).emit (.faultReport "AGED_FLOOR" k)

/-- BACKGROUND_SLOT (R92, R130, R421): `ageing` lists the cores measured in the slot, and whether the margin lies below the
fused threshold. Log entry 21 (DESIGN CHOICE). -/
def execBackgroundSlot (ageing : List (Nat × Bool)) (s : State) : Host.Outcome State Fault Refusal :=
  .next <| s.whenLive fun s =>
    let f := frameOf s.time.ct
    s.when (s.time.state != .unlocked && 7936 ≤ s.time.ct % 8192 && s.bg.slotDone ≤ f) fun s =>
      let s := { s with bg := { s.bg with slotDone := f + 1 } }
      let s := s.scrubNear.scrubSram.calibrate
      let s := { s with bg := { s.bg with frames := s.bg.frames + 1 } }
      ageing.foldl (fun s a => s.ageing a.1 a.2) s

/-! ### What the scrub finds (R423) -/

/-- Count a word that the scrub could not correct. Log entry 20 (DEDUCED). -/
def State.scrubBad (s : State) : State := { s with bg := { s.bg with uncorrectable := s.bg.uncorrectable + 1 } }

/-- Whether a quarantine entry already names a word (R438). -/
def Errors.namesWord (e : Errors) (addr : Nat) : Bool :=
  e.quarantine.any fun x => x.page == addr / pageBytes * pageBytes && (x.whole || x.words.contains (addr % pageBytes / 32))

/-- A version and page index under which folio `i` lists a page. -/
def State.pageIndex (s : State) (i page : Nat) : Nat × Nat :=
  ((s.folios.get? i).bind fun f => f.slots.findSome? fun v =>
    if v.live then (v.pages.find? fun e => e.2.addr == page).map fun e => (v.version, e.1) else none).getD (0, 0)

/-- An uncorrectable word of a folio page is to be served from its mirror (R393, R394). What the word holds is free. -/
def State.scrubMirror (s : State) (c addr i page : Nat) : State :=
  let raw := encodeWord (BitVec.ofNat 256 (Config.freeBits 256 s.free))
  s.draw.addReq
    { who := .writeBack, partition := 0xFF, cluster := c, address := addr, bytes := 32, hint := .stream
      place := .mirror 0, words := [raw], folio := some (i, s.pageIndex i page) }

/-- SCRUB_RESULT (R423). Log entry 20 (DEDUCED). -/
def execScrubResult (port addr : Nat) (found : ScrubFind) (s : State) : Host.Outcome State Fault Refusal :=
  .next <| s.whenLive fun s =>
    s.when (s.time.state != .unlocked && port < s.nPorts) fun s =>
      let c := port / 2
      match found with
      | .clean => s
      | .corrected j =>
        { s with bg := { s.bg with corrected := s.bg.corrected + 1 } }.logError (errOfCluster c)
          { clusterRecord c 1 1 addr 0 with symbol := j }
      | .poison => s.scrubBad
      | .uncorrectable =>
        let s := s.scrubBad
        if s.errs.namesWord addr then s
        else
          match s.folioAt addr, s.mirrorAt addr with
          | some (i, page), some _ => s.scrubMirror c addr i page
          | _, _ =>
            let s := s.logError (errOfCluster c) (clusterRecord c 2 3 addr 0)
            let s := s.logError (errOfCluster c) (clusterRecord c 4 3 addr 0)
            s.quarantineAt addr

end Sys2Proof.Machine
end

