-- ==== Sys2Proof/Machine/ErrorCmds.lean ====
section
/-!
DEFINITION. The commands of errors: uncorrectable words, poison, tile errors, quarantine, escalation, block fatal, and the
record queues in Bobbin local space (R376 to R392, R402).
-/
namespace Sys2Proof.Machine

open Sys2Proof

/-! ### Quarantine (R381, R390) -/

/-- Shards of a launch's phases in progress that their placement puts on cluster `c` fail, the earliest phase first. -/
def Slot.failOn (e : Slot) (c : Nat) : Slot :=
  if e.state != .running then e
  else (List.range e.phaseStates.length).foldl (fun (e : Slot) k =>
    match (e.phaseStates[k]?).bind fun ps => (e.map? ps.map).map fun m => (ps, m) with
    | none => e
    | some (ps, m) =>
      if ps.started && !ps.ended then
        ((List.range m.shards).filter fun sh => e.clusterOf sh == some c).foldl (fun (e : Slot) sh => e.failShard m.phase sh 3) e
      else e) e

/-- A core of a cluster that is quarantined: its tile is abandoned unless it is in its commit phase; a replay under way
is abandoned too. -/
def Core.quarantined (c : Core) : Core :=
  match c.mode with
  | .free | .committing => c
  | _ => { c.force with failed := true, replay := false }

/-- Quarantine cluster `c` (R381). Log entry 29 (DEDUCED). -/
def State.quarantine (s : State) (c : Nat) : State :=
  if (s.cluster c).quarantined then s
  else
    let s := s.modCluster c fun u => { u with quarantined := true }
    let s : State := { s with
      cores := s.cores.mapV fun k (u : Core) => if clusterOfCore k == c then u.quarantined else u
      slots := s.slots.map fun (e : Slot) => e.failOn c
      parts := s.parts.mapV fun _ (u : Partition) => u.chill c }
    let s := (s.parts.map (·.1)).foldl (fun (s : State) p =>
      s.dropLines (!(s.part p).keyGone) fun l => l.cluster == c && l.partition == p) s
    ((s.slots.map fun e => (e.queue, e.seq)).foldl (fun (s : State) x => s.settleLaunch x.1 x.2) s).track

/-! ### Handling and escalation (R381, R382) -/

/-- Whether a domain is handling an earlier error. -/
def State.handling (s : State) (d : Domain) : Bool :=
  match d with
  | .core k =>
    let c := s.core k
    (c.mode == .abandoning && (c.replay || c.failed))
      || s.slots.any fun e => e.tiles.any fun x => x.2.place == .waiting && x.2.replayed && x.2.doneCore == k
  | .cluster c => (s.cluster c).quarantined && s.reqs.any fun e => e.2.who == .writeBack && e.2.cluster == c
  | .queue q =>
    s.errs.handlingQ.contains q
      || ((s.queue q).state == .guilty && s.slots.any fun e => e.queue == q && e.admitted && e.state != .finished)
  | .partition p => (s.part p).state == .resetting
  | .die _ => true

/-- Write an ESCALATED record of the higher level (R382); the number says which record it is, 0 when it was lost.
Log entry 29 (DEDUCED). -/
def State.logEscalated (s : State) (i : Nat) (r : ErrRecord) : State × Nat :=
  let n := s.errs.nextSeq
  let s := { s with errs := { s.errs with escalations := satAdd 16 s.errs.escalations 1 } }
  let s := s.logError i { r with error := 0x50, rflags := 1 }
  (s, if s.errs.nextSeq == n then 0 else n)

/-- A partition is reset for an escalation. -/
def State.escalateToPart (s : State) (p : Nat) : State :=
  let (s, n) := s.logEscalated (errOfDie (s.part p).homeDie) { action := 9, level := 3, domain := p, partition := p }
  s.startReset p .error n

/-- Escalate one level (R382). Log entry 29 (DEDUCED). -/
def State.escalate (s : State) (d : Domain) : State :=
  match d with
  | .core k =>
    let c := clusterOfCore k
    (s.logEscalated (errOfCluster c) { action := 8, level := 1, domain := c }).1.quarantine c
  | .cluster c =>
    ((s.parts.filter fun e => e.2.state != .free && (e.2.quadsIn c != 0 || (e.2.waysIn c).ways != 0)).map (·.1)).foldl
      State.escalateToPart s
  | .queue q => s.escalateToPart (s.queue q).partition
  | .partition _ | .die _ => (s.logEscalated errOfBlock { action := 10, level := 5, domain := 0 }).1.becomeFatal

/-- ESCALATED (R382). -/
def execEscalated (d : Domain) (s : State) : Host.Outcome State Fault Refusal :=
  .next <| s.whenLive fun s => s.when (s.handling d) fun s => s.escalate d

/-! ### Control state (R379) -/

/-- An uncorrectable error in a cluster's control state. Log entry 29 (DEDUCED). -/
def State.clusterError (s : State) (c : Nat) (syn : BitVec 32) : State :=
  let r := clusterRecord c 0x30 0 0 syn
  if s.handling (.cluster c) then (s.logError (errOfCluster c) r).escalate (.cluster c)
  else if (s.cluster c).quarantined then s.logError (errOfCluster c) r
  else (s.logError (errOfCluster c) { r with action := 8 }).quarantine c

/-- CLUSTER_QUARANTINE (R381). -/
def execClusterQuarantine (cluster : Nat) (s : State) : Host.Outcome State Fault Refusal :=
  .next <| s.whenLive fun s =>
    s.when (cluster < s.nClusters && !(s.cluster cluster).quarantined) fun s => s.clusterError cluster 0

/-- An uncorrectable error in the Spine state of a queue (R379, R397); QUEUE_GUILTY follows. Log entry 29 (DEDUCED). -/
def State.queueError (s : State) (q : Nat) (syn : BitVec 32) : State :=
  let u := s.queue q
  let r : ErrRecord := { error := 0x40, level := 2, domain := q, partition := u.partition, context := u.attrs.context, queue := q,
                         syndrome := syn.toNat }
  let i := errOfDie (s.part u.partition).homeDie
  if u.state == .disabled then s
  else if s.handling (.queue q) then (s.logError i r).escalate (.queue q)
  else if u.state == .active || u.state == .stopped || u.state == .blocked then
    let s := s.logError i { r with action := 7 }
    { s with errs := { s.errs with handlingQ := q :: s.errs.handlingQ } }
  else s.logError i r

/-- An uncorrectable error in the Spine state of a partition (R379). Log entry 29 (DEDUCED). -/
def State.partError (s : State) (p : Nat) (syn : BitVec 32) : State :=
  let u := s.part p
  let r : ErrRecord := { error := 0x41, level := 3, domain := p, partition := p, syndrome := syn.toNat }
  let i := errOfDie u.homeDie
  if u.state == .free then s
  else if s.handling (.partition p) then (s.logError i r).escalate (.partition p)
  else
    let n := s.errs.nextSeq
    let s := s.logError i { r with action := 9 }
    s.startReset p .error (if s.errs.nextSeq == n then 0 else n)

/-- An uncorrectable error in shared die state (R379). Log entries 29 (DEDUCED), 60 (DEDUCED). -/
def State.dieError (s : State) (d : Nat) (syn : BitVec 32) : State :=
  if s.errs.fatal then (s.logError (errOfDie d) { error := 0x42, level := 4, domain := d, syndrome := syn.toNat }).escalate (.die d)
  else (s.logError (errOfDie d) { error := 0x42, action := 10, level := 4, domain := d, syndrome := syn.toNat }).becomeFatal

/-- BLOCK_FATAL (R379, R402). Log entry 60 (DEDUCED). -/
def execBlockFatal (die : Nat) (s : State) : Host.Outcome State Fault Refusal :=
  .next <| s.whenLive fun s => s.when (die < s.nDies && !s.errs.fatal) fun s => s.dieError die 0

/-! ### A tile's errors (R379, R380) -/

/-- Whether core `k` runs a tile that can still be abandoned. -/
def State.abandonable (s : State) (k : Nat) : Bool :=
  match (s.core k).mode with
  | .switching _ | .running => true
  | _ => false

/-- The tile on core `k` fails, with CAUSE `cause` of R391 for the shard. -/
def State.failTile (s : State) (k error cause : Nat) (syn : BitVec 32) : State :=
  let c := s.core k
  let s := s.logError (errOfCore k) { s.coreRecord k error 5 with syndrome := syn.toNat }
  let s := s.modSlot c.queue c.seq fun e =>
    { e with partialCause := if e.failedPhase.isNone && e.partialCause == 0 then cause else e.partialCause }
  (s.modCore k fun c => { c.force with failed := true, replay := false }).track

/-- A word of a running tile's own state is lost: the tile is replayed, or fails when it runs as a replay (R380). -/
def State.tileStateError (s : State) (k : Nat) (syn : BitVec 32) : State :=
  let c := s.core k
  if !s.abandonable k then s.logError (errOfCore k) { s.coreRecord k 2 0 with syndrome := syn.toNat }
  else if (s.slot? c.queue c.seq).any fun e => (e.tile c.tile).replayed then s.failTile k 0x15 2 syn
  else
    let s := s.logError (errOfCore k) { s.coreRecord k 2 4 with syndrome := syn.toNat }
    (s.modCore k fun c => { c.force with replay := true }).track

/-- An uncorrectable word in a cache line: a clean line is dropped and its next read goes to the tier, a dirty line's word
is poisoned (R375, R379). -/
def State.lineError (s : State) (c line half : Nat) (dirty : Bool) (syn : BitVec 32) : State :=
  match s.lines.find? fun l => l.cluster == c && l.line == line && l.dirty == dirty with
  | none => s
  | some l =>
    let addr := 64 * line + 32 * (half % 2)
    let r := clusterRecord c 2 2 addr syn
    if !dirty then
      let s := s.logError (errOfCluster c) { r with partition := l.partition }
      s.dropLines false fun x => x.cluster == c && x.line == line && x.partition == l.partition
    else
      let s := s.logError (errOfCluster c) { r with action := 3, partition := l.partition }
      let s := s.logError (errOfCluster c) { r with error := 4, action := 3, partition := l.partition }
      s.modLine l.partition line fun l =>
        { l with words := l.words.set (half % 2) (poisonWord (dataOf (l.words.getD (half % 2) 0))) }

/-- An uncorrectable word that a reader finds in a tier (R375, R393, R394). What the word holds is free. -/
def State.tierError (s : State) (c addr : Nat) (syn : BitVec 32) : State :=
  match s.folioAt addr, s.mirrorAt addr with
  | some (i, page), some _ => s.scrubMirror c addr i page
  | _, _ =>
    let raw := encodeWord (BitVec.ofNat 256 (Config.freeBits 256 s.free))
    s.draw.storePoison 0xFF c addr raw syn

/-- WORD_UNCORRECTABLE (R379). -/
def execWordUncorrectable (place : WordPlace) (syndrome : BitVec 32) (s : State) : Host.Outcome State Fault Refusal :=
  .next <| s.whenLive fun s =>
    match place with
    | .cleanLine c line half => s.lineError c line half false syndrome
    | .dirtyLine c line half => s.lineError c line half true syndrome
    | .tileState k => s.when (k < s.nCores) fun s => s.tileStateError k syndrome
    | .liveInput k => s.when (s.abandonable k) fun s => s.failTile k 0x14 2 syndrome
    | .tier c addr => s.when (c < s.nClusters) fun s => s.tierError c (addr / 32 * 32) syndrome
    | .coreControl k =>
      s.when (k < s.nCores) fun s =>
        (s.logError (errOfCore k) { s.coreRecord k 0x20 0 with syndrome := syndrome.toNat }).escalate (.core k)
    | .clusterControl c => s.when (c < s.nClusters) fun s => s.clusterError c syndrome
    | .queueState q => s.queueError q syndrome
    | .admittedCopy q => s.queueError q syndrome
    | .partitionState p => s.partError p syndrome
    | .dieState d => s.when (d < s.nDies) fun s => s.dieError d syndrome

/-- Pool address of the first poisoned word that reached a core's tile: returned to it, or ready for it (R383).
Log entry 33 (DESIGN CHOICE). -/
def State.poisonAddr (s : State) (core : Nat) : Nat :=
  if (s.core core).poisonAt != 0 then (s.core core).poisonAt
  else (s.reqs.findSome? fun e =>
    match e.2.who with
    | .gather k _ => if k == core && e.2.poisonAt != 0 then some e.2.poisonAt else none
    | _ => none).getD 0

/-- POISON_CONSUMED (R376, R377). Log entry 58 (DEDUCED). -/
def execPoisonConsumed (core : Nat) (from_ : PoisonFrom) (s : State) : Host.Outcome State Fault Refusal :=
  .next <| s.whenLive fun s =>
    let c := s.core core
    s.when (c.mode == .running || c.mode == .committing) fun s =>
      ((s.logError (errOfCore core) { s.coreRecord core 3 6 with address := s.poisonAddr core }).endSlot c.queue c.seq (.poison (match from_ with
        | .tier => 1 | .cache => 2 | .storedPoison => 3))).track

/-- ERROR of a tile error (R384). -/
def tileErrCode : TileErr → Nat
  | .staging => 0x10 | .unusedBinding => 0x11 | .pointer => 0x12 | .seqView => 0x13

/-- TILE_ERROR (R379, R380). -/
def execTileError (core : Nat) (e : TileErr) (s : State) : Host.Outcome State Fault Refusal :=
  .next <| s.whenLive fun s => s.when ((s.core core).mode == .running) fun s => s.failTile core (tileErrCode e) 1 0

/-! ### The record queues in Bobbin local space (R386, R387) -/

/-- ERR_POP: the record that is removed enters the firmware log. Log entry 29 (DEDUCED). -/
def execErrPop (queue : Nat) (v : BitVec 32) (s : State) : Host.Outcome State Fault Refusal :=
  .next <| s.whenLive fun s =>
    s.when (v.getLsbD 0 && queue < 275) fun s =>
      { s with errs := s.errs.toLog ((s.errs.queue queue).records.take 1) }.popError queue

/-- ERR_QSTAT. -/
def ErrQueue.stat (q : ErrQueue) : Nat := q.records.length + (if q.overrun then 8 else 0) + 2 ^ 32 * q.lost

/-- ERR_QSTAT_READ: LOST clears when its half is read. Log entry 29 (DEDUCED). -/
def execErrQstatRead (queue : Nat) (half : Half) (s : State) : Host.Outcome State Fault Refusal :=
  .next <| s.whenLive fun s =>
    let q := s.errs.queue queue
    let s := s.emit (.icValue (halfOf half q.stat))
    if readsHigh half && queue < 275 then
      { s with errs := { s.errs with queues := s.errs.queues.put queue { q with lost := 0 } } }
    else s

end Sys2Proof.Machine
end

