-- ==== Sys2Proof/Machine/MailFormat.lean ====
section
/-!
DEFINITION. The catalogue of mailbox commands (R302, R341 to R343): opcodes, rights, targets, the attributes that each
command allows and requires, the partitions that it acts on, and the order of the refusals (R340).
-/
namespace Sys2Proof.Machine

open Sys2Proof

/-- The opcodes of R343. -/
def opcodeKnown (op : Nat) : Bool :=
  (0x10 ≤ op && op ≤ 0x14) || (0x20 ≤ op && op ≤ 0x28) || (0x30 ≤ op && op ≤ 0x3F) || (0x50 ≤ op && op ≤ 0x56)
    || (0x60 ≤ op && op ≤ 0x62)

/-- The right of a command, as a bit of R302; none for a command that needs none. -/
def rightOf (op : Nat) : Option Nat :=
  if op == 0x10 || op == 0x12 || op == 0x14 then some 8
  else if op == 0x13 || op == 0x60 || op == 0x61 then some 7
  else if op == 0x22 || op == 0x23 || op == 0x24 then some 1
  else if op == 0x25 || op == 0x26 then some 2
  else if op == 0x27 then some 9
  else if op == 0x28 then some 10
  else if 0x30 ≤ op && op ≤ 0x32 then some 0
  else if 0x3A ≤ op && op ≤ 0x3C then some 3
  else if op == 0x3E || op == 0x3F || op == 0x62 then some 6
  else if 0x50 ≤ op && op ≤ 0x56 then some 5
  else if op == 0x20 || op == 0x21 then none
  else some 4

/-- Whether a message needs its capability checked: TELEMETRY_READ and SNAPSHOT need none when they carry none (R341).
Log entry 43 (DEDUCED). -/
def Message.gated (m : Message) : Bool :=
  (rightOf m.opcode).isSome && !((m.opcode == 0x60 || m.opcode == 0x61) && m.capZero)

/-- The target fields of R343: whether the command names a PARTITION (1), may name one (2), or names none (0). -/
def targetPart (op : Nat) : Nat :=
  if op == 0x13 || op == 0x20 || op == 0x21 || op == 0x3C || op == 0x60 || op == 0x61 then 2
  else if op == 0x10 || op == 0x11 || op == 0x12 || op == 0x22 || (0x30 ≤ op && op ≤ 0x39) || op == 0x3D || op == 0x50
    || op == 0x53 || op == 0x55 then 1
  else 0

def targetCtx (op : Nat) : Bool := 0x35 ≤ op && op ≤ 0x37
def targetQueue (op : Nat) : Bool := op == 0x11 || op == 0x12 || op == 0x38 || op == 0x39

/-- Whether OBJECT has a meaning for the command. -/
def usesObject (op : Nat) : Bool :=
  op == 0x12 || op == 0x14 || op == 0x20 || op == 0x24 || op == 0x25 || op == 0x27 || op == 0x3B || op == 0x3C || op == 0x3D
    || op == 0x3F || op == 0x51 || op == 0x52 || op == 0x54 || op == 0x56

/-- Whether the target fields lie in the ranges of R336. Log entry 34 (DEDUCED). -/
def Message.targetsInRange (m : Message) : Bool :=
  (m.partition < 64 || m.partition == 0xFF) && (m.context < 64 || m.context == 0xFF)
    && (m.queue < 4096 || m.queue == 0xFFFF)

/-- Whether a target and OBJECT are there where the command has them, and only there (R336, R343). Log entry 34 (DEDUCED). -/
def Message.targetsOk (m : Message) : Bool :=
  let op := m.opcode
  (targetPart op != 1 || m.partition != 0xFF) && (targetPart op != 0 || m.partition == 0xFF)
    && targetCtx op == (m.context != 0xFF) && targetQueue op == (m.queue != 0xFFFF)
    && (usesObject op || m.object == 0)

/-- The attributes that a command allows (R343). -/
def attrAllowed (op id : Nat) : Bool :=
  let params := 0x05 ≤ id && id ≤ 0x0A
  match op with
  | 0x11 | 0x38 => 0x20 ≤ id && id ≤ 0x2B
  | 0x14 => id == 0x43
  | 0x21 => id == 0x50
  | 0x28 => id == 0x51
  | 0x30 => (1 ≤ id && id ≤ 4) || params || id == 0x0B
  | 0x32 => 2 ≤ id && id ≤ 4
  | 0x33 => params
  | 0x34 => id == 0x0B
  | 0x35 => 0x10 ≤ id && id ≤ 0x14
  | 0x37 => id == 0x12 || id == 0x13
  | 0x3A => id == 0x30
  | 0x3B => id == 0x31
  | 0x3D => id == 0x32
  | 0x3E => id == 0x52
  | 0x50 | 0x51 => id == 0x40
  | 0x53 => id == 0x41 || id == 0x42
  | 0x54 => id == 0x42
  | 0x55 => id == 0x41
  | 0x61 => id == 0x53
  | _ => false

/-- The attributes that a command requires whatever its others say. -/
def attrsRequired (op : Nat) : List Nat :=
  match op with
  | 0x14 => [0x43]
  | 0x21 => [0x50]
  | 0x28 => [0x51]
  | 0x30 => [0x01, 0x02, 0x03, 0x04]
  | 0x35 => [0x10, 0x12]
  | 0x38 => (List.range 12).map (· + 0x20)
  | 0x3A => [0x30]
  | 0x3B => [0x31]
  | 0x3D => [0x32]
  | 0x3E => [0x52]
  | 0x50 | 0x51 => [0x40]
  | 0x53 => [0x41, 0x42]
  | 0x54 => [0x42]
  | 0x55 => [0x41]
  | 0x61 => [0x53]
  | _ => []

/-- Whether a message carries an attribute of an ID. -/
def Message.has (m : Message) (id : Nat) : Bool := m.attrs.any fun a => a.id == id

/-- Whether every required attribute is there: PASID for a HOST context, window 0 and FAULT_RING for a FABRIC one.
Log entry 34 (DEDUCED). -/
def Message.requiredOk (m : Message) : Bool :=
  (attrsRequired m.opcode).all m.has
    && (m.opcode != 0x35
      || (match m.num? 0x10 with
          | some 0 => m.has 0x11
          | some 1 => (m.attr? 0x13 0).isSome && m.has 0x14
          | _ => true))

/-- Whether the reserved bits of an attribute's value are zero (R342 and the layouts that it names). -/
def Attr.reservedOk (a : Attr) : Bool :=
  let v := le a.value 0 8
  if a.id == 0x03 then bitsAt v 5 3 == 0 && bitsAt v 13 51 == 0
  else if a.id == 0x04 then bitsAt v 12 4 == 0 && bitsAt v 29 35 == 0
  else if a.id == 0x0B then bitsAt v 48 16 == 0
  else if a.id == 0x13 then zeroAt a.value 18 14 && bitsAt (le a.value 16 1) 2 6 == 0
  else if a.id == 0x14 then zeroAt a.value 9 7 && zeroAt a.value 28 4
  else if a.id == 0x26 then bitsAt v 3 29 == 0 && bitsAt v 49 15 == 0
  else if a.id == 0x30 then zeroAt a.value 12 1 && bitsAt (le a.value 15 1) 2 6 == 0 && zeroAt a.value 48 16
  else if a.id == 0x31 then zeroAt a.value 24 8
  else if a.id == 0x32 then zeroAt a.value 7 1 && bitsAt (le a.value 4 1) 2 6 == 0 && zeroAt a.value 20 4 && zeroAt a.value 48 16
  else if a.id == 0x42 then zeroAt a.value 25 7 && bitsAt (le a.value 24 1) 1 7 == 0
  else if a.id == 0x51 then zeroAt a.value 48 16
  else true

/-- What breaks the format of a message that R335 and R336 accept (R340): the record, or 0xFFFF. Log entry 34 (DEDUCED). -/
def Message.formatBad (m : Message) : Option Nat :=
  match m.attrs.findIdx? fun a => !attrAllowed m.opcode a.id || !a.reservedOk with
  | some k => some k
  | none =>
    if !m.targetsOk || !m.requiredOk || ((rightOf m.opcode).isNone && !m.capZero) then some 0xFFFF else none

/-! ### The partitions that a command acts on (R341) -/

/-- The partitions of a mask of 64 bits. -/
def maskParts (v : Nat) : List Nat := (List.range 64).filter fun p => bitAt v p

/-- Partitions that an attribute names: KEY_PARTITION and the rights of an extent, the rights to add, and the readers and
publishers of a folio. -/
def Attr.parts (a : Attr) : List Nat :=
  if a.id == 0x30 then le a.value 14 1 :: (maskParts (le a.value 16 8) ++ maskParts (le a.value 24 8) ++ maskParts (le a.value 32 8))
  else if a.id == 0x31 then maskParts (le a.value 0 8) ++ maskParts (le a.value 8 8) ++ maskParts (le a.value 16 8)
  else if a.id == 0x42 then maskParts (le a.value 8 8) ++ maskParts (le a.value 16 8)
  else []

/-- The owner that a graph or folio handle names. -/
def Message.objectParts (m : Message) : List Nat :=
  if m.opcode == 0x51 || m.opcode == 0x52 then [(graphHandle m.object).owner]
  else if m.opcode == 0x14 || m.opcode == 0x54 || m.opcode == 0x56 then [(folioHandle m.object).owner]
  else []

/-- Every partition that a command acts on. A whole revocation acts on every partition with a right in the extent. -/
def State.actsOn (s : State) (m : Message) : List Nat :=
  let whole : List Nat := if m.opcode == 0x3C && m.partition == 0xFF then
      ((s.extents.get? m.object).map fun x => maskParts (x.rMask ||| x.wMask ||| x.pubMask).toNat).getD [] else []
  (if m.partition < 64 then [m.partition] else []) ++ (m.attrs.map Attr.parts).flatten ++ m.objectParts ++ whole

/-! ### The order of refusals (R340) -/

/-- One check of a command: whether it fails, the DETAIL, and the attribute (ID and INDEX) that it blames. -/
structure Check where
  bad    : Bool
  detail : Nat
  blame  : Option (Nat × Nat) := none
deriving DecidableEq, Repr

/-- Position of an attribute record in a message. -/
def Message.position (m : Message) (b : Option (Nat × Nat)) : Nat :=
  (b.bind fun x => m.attrs.findIdx? fun a => a.id == x.1 && a.index == x.2).getD 0xFFFF

/-- The first check that fails: its DETAIL and ATTR_INDEX. Log entry 34 (DEDUCED). -/
def Message.refusal (m : Message) (cs : List Check) : Option (Nat × Nat) :=
  (cs.find? (·.bad)).map fun c => (c.detail, m.position c.blame)

/-- Serve the command of opcode `op` on a channel whose capability was allowed; a target outside its range is refused. -/
def State.serveCmd (s : State) (ch op : Nat) (f : Message → State → State) : State :=
  let c := s.chan ch
  if c.state == .serving && c.serve == .allowed then
    match c.message with
    | some m =>
      if m.opcode != op then s
      else if !m.targetsInRange then s.refuse ch Detail.range
      else f m s
    | none => s
  else s

/-- Serve a command under its checks, in their order; the effect applies when none fails. -/
def State.serveChecked (s : State) (ch op : Nat) (cs : Message → List Check) (f : Message → State → State) : State :=
  s.serveCmd ch op fun m s =>
    match m.refusal (cs m) with
    | some (d, i) => s.refuseAttr ch d i
    | none => f m s

end Sys2Proof.Machine
end

