-- ==== Sys2Proof/Machine/QueueAttr.lean ====
section
/-!
DEFINITION. The attributes that QUEUE_CREATE and QUEUE_RESET carry, and their checks (R140, R262, R367).
-/
namespace Sys2Proof.Machine

open Sys2Proof

/-- An integer attribute, or the value in force. -/
def Message.numOr (m : Message) (id d : Nat) : Nat := (m.num? id).getD d

/-- The attributes that the message gives, over those in force. -/
def Message.queueAttrs (m : Message) (a : QueueAttrs) : QueueAttrs :=
  { context := m.numOr 0x20 a.context, format := m.numOr 0x21 a.format, ringBase := m.numOr 0x22 a.ringBase
    ringLog2 := m.numOr 0x23 a.ringLog2, statusBase := m.numOr 0x24 a.statusBase, completion := m.numOr 0x25 a.completion
    path := ((m.num? 0x26).map fun v => bitsAt v 0 3).getD a.path
    pathEndpoint := ((m.num? 0x26).map fun v => bitsAt v 32 17).getD a.pathEndpoint
    promiseOk := ((m.num? 0x27).map fun v => v != 0).getD a.promiseOk, maxInflight := m.numOr 0x28 a.maxInflight
    dbRate := m.numOr 0x29 a.dbRate, complVector := ((m.num? 0x2A).map guestVector).getD a.complVector
    eventVector := ((m.num? 0x2B).map guestVector).getD a.eventVector }

/-- Whether an MSI-X entry already serves vectors of another partition (R367). -/
def State.entryTaken (s : State) (p entry : Nat) : Bool :=
  s.queues.any fun e =>
    let uses (g : GuestVector) : Bool := g.mode == 1 && g.entry == entry
    e.2.state != .disabled && e.2.partition != p && (uses e.2.attrs.complVector || uses e.2.attrs.eventVector)

/-- Whether a vector that a message gives breaks R367. -/
def State.vectorBad (s : State) (p path v : Nat) : Bool :=
  !vectorOk v path || ((guestVector v).mode == 1 && s.entryTaken p (guestVector v).entry)

/-- Whether a vector in force still suits a new PATH. -/
def GuestVector.suits (g : GuestVector) (path : Nat) : Bool :=
  g.mode == 0 || (g.mode == 1 && path == 0) || (g.mode == 2 && path != 0)

/-- A queue area's address: in window 0 for a FABRIC context, and aligned (R140, R262). -/
def areaBad (fabric : Bool) (align v : Nat) : Bool := v % align != 0 || (fabric && v / 2 ^ 60 != 0)

/-- The sum of MAX_INFLIGHT over the other queues of the block (R140). -/
def State.inflightSum (s : State) (but : Nat) : Nat :=
  (s.queues.map fun e => if e.1 != but && e.2.state != .disabled then
    max e.2.attrs.maxInflight ((e.2.newAttrs.map (·.maxInflight)).getD 0) else 0).sum

/-- The checks of queue attributes `a` that message `m` gives for queue `q` of partition `p`. -/
def State.queueChecks (s : State) (p q : Nat) (a : QueueAttrs) (m : Message) : List Check :=
  let fabric := (s.ctx? (ctxKey p a.context)).any (·.fabric)
  let compat := (s.part p).kind == 1
  let blame (id : Nat) : Option (Nat × Nat) := some (id, 0)
  [ ⟨(s.ctx? (ctxKey p a.context)).isNone || 64 ≤ a.context, Detail.notFound, blame 0x20⟩,
    ⟨a.format != (if compat then 1 else 0), Detail.range, blame 0x21⟩,
    ⟨areaBad fabric 4096 a.ringBase, Detail.range, blame 0x22⟩,
    ⟨a.ringLog2 < 6 || 16 < a.ringLog2, Detail.range, blame 0x23⟩,
    ⟨areaBad fabric 4096 a.statusBase, Detail.range, blame 0x24⟩,
    ⟨areaBad fabric 64 a.completion, Detail.range, blame 0x25⟩,
    ⟨s.nFports < a.path || (a.path == 0) == fabric || (a.path == 0 && a.pathEndpoint != 0), Detail.range, blame 0x26⟩,
    ⟨1 < m.numOr 0x27 0 || (a.promiseOk && compat), Detail.range, blame 0x27⟩,
    ⟨a.maxInflight < 1 || 1024 < a.maxInflight, Detail.range, blame 0x28⟩,
    ⟨a.dbRate < 1 || 64 < a.dbRate, Detail.range, blame 0x29⟩,
    ⟨(m.num? 0x2A).any (s.vectorBad p a.path) || !a.complVector.suits a.path, Detail.range, blame 0x2A⟩,
    ⟨(m.num? 0x2B).any (s.vectorBad p a.path) || !a.eventVector.suits a.path, Detail.range, blame 0x2B⟩,
    ⟨65536 < s.inflightSum q + a.maxInflight, Detail.limit, blame 0x28⟩ ]

/-- The checks of DETAIL `d` among some checks. Log entry 36 (DEDUCED). -/
def checksOf (d : Nat) (cs : List Check) : List Check := cs.filter fun c => c.detail == d

/-- Checks in the order of R340: what does not exist, ranges, states, limits. -/
def inOrder (cs : List Check) : List Check :=
  checksOf Detail.notFound cs ++ checksOf Detail.range cs ++ checksOf Detail.state cs ++ checksOf Detail.limit cs

/-- NOT_FOUND of a target partition. -/
def State.partMissing (s : State) (p : Nat) : Check := ⟨(s.part p).state == .free, Detail.notFound, none⟩

/-- STATE of a target partition that is not ACTIVE (R288). Log entry 36 (DEDUCED). -/
def State.partNotActive (s : State) (p : Nat) : Check := ⟨(s.part p).state != .active, Detail.state, none⟩

/-- NOT_FOUND of a target queue. -/
def State.queueMissing (s : State) (p q : Nat) : Check :=
  ⟨(s.queue q).state == .disabled || (s.queue q).partition != p, Detail.notFound, none⟩

end Sys2Proof.Machine
end

