-- ==== Sys2Proof/Machine/Layout.lean ====
section
/-!
DEFINITION. The rules that the management plane applies to partitions: layouts (R284 to R286), regulators (R90), and the
parameters of R186, R215, R218, R265 and R275, with the sums of R284.
-/
namespace Sys2Proof.Machine

open Sys2Proof

/-! ### What a message asks for -/

/-- Quads of the QUADS attribute, or those given. -/
def Message.quadsOr (m : Message) (d : List Nat) : List Nat := ((m.num? 0x02).map maskParts).getD d

/-- The ways of one WAYS record (R342). -/
def waysOf (b : Bytes) : Ways := { first := bitsAt (le b 0 8) 0 5, ways := bitsAt (le b 0 8) 8 5 }

/-- The ways of the WAYS records, over those given; a cluster without ways is not listed. -/
def Message.waysOver (m : Message) (d : Tbl Ways) : Tbl Ways :=
  (m.all 0x03).foldl (fun t a => if (waysOf a.2).ways == 0 then t.del a.1 else t.put a.1 (waysOf a.2)) d

/-- First queue and count of the QUEUE_RANGE attribute, or those given. -/
def Message.rangeOr (m : Message) (d : Nat × Nat) : Nat × Nat :=
  ((m.num? 0x04).map fun v => (bitsAt v 0 12, bitsAt v 16 13)).getD d

/-! ### Layouts -/

/-- Quads that a partition holds, is to hold, or whose clearing is under way. -/
def Partition.claimsQuad (u : Partition) (n : Nat) : Bool :=
  u.quads.contains n || u.clearQuads.contains n || u.pendLayout.any fun l => l.quads.contains n

/-- Ways that a partition holds, is to hold, or whose clearing is under way, in a cluster. -/
def Partition.claimsWays (u : Partition) (c : Nat) : List Ways :=
  [u.waysIn c, u.clearWays.getD c {}] ++ (u.pendLayout.map fun l => l.ways.getD c {}).toList

/-- Whether two runs overlap. -/
def overlaps (f n g k : Nat) : Bool := n != 0 && k != 0 && f < g + k && g < f + n

/-- The other partitions. -/
def State.others (s : State) (p : Nat) : List Partition :=
  (s.parts.filter fun e => e.1 != p && e.2.state != .free).map (·.2)

/-- Quads of a list in cluster `c`. -/
def quadsInCluster (quads : List Nat) (c : Nat) : Nat := (quads.filter fun n => clusterOfQuad n == c).length

/-- Whether the ways of one cluster break R284 or R286. -/
def State.waysBad (s : State) (p c : Nat) (quads : List Nat) (w : Ways) : Bool :=
  let n := quadsInCluster quads c
  24 < w.first + w.ways || (w.ways != 0 && n == 0) || (n != 0 && w.ways < 2)
    || (s.others p).any fun u => (u.claimsWays c).any fun o => overlaps w.first w.ways o.first o.ways

/-- The checks of a layout (R284, R286). Log entry 37 (DEDUCED). -/
def State.layoutChecks (s : State) (p : Nat) (quads : List Nat) (ways : Tbl Ways) (m : Message) : List Check :=
  ⟨quads.any fun n => s.nQuads ≤ n || (s.others p).any fun u => u.claimsQuad n, Detail.range, some (0x02, 0)⟩ ::
    (⟨(m.all 0x03).any fun a => s.nClusters ≤ a.1, Detail.range, some (0x03, (((m.all 0x03).find? fun a => s.nClusters ≤ a.1).map (·.1)).getD 0)⟩ ::
      (List.range s.nClusters).map fun c => ⟨s.waysBad p c quads (ways.getD c {}), Detail.range, some (0x03, c)⟩)

/-- The check of a queue range: inside the queues, and clear of every other partition's (R286, R288). -/
def State.rangeCheck (s : State) (p : Nat) (r : Nat × Nat) : Check :=
  ⟨4096 < r.1 + r.2 || (s.others p).any fun u => overlaps r.1 r.2 u.queueFirst u.queueCount, Detail.range, some (0x04, 0)⟩

/-! ### Regulators (R90) -/

/-- SHARE, CEILING and BURST of a REGULATOR record (R342). -/
def regulatorOf (b : Bytes) : Regulator :=
  let v := le b 0 8
  { share := bitsAt v 0 16, ceiling := bitsAt v 16 16, burst := bitsAt v 32 16, tokens := 1024 * bitsAt v 32 16 }

/-- The larger of a regulator's share in effect and the one that is pending (R284). -/
def Regulator.counted (g : Regulator) : Nat := max g.share (g.pendShare.getD 0)

/-- The shares that the other partitions count on a port and tier. -/
def State.sharesOf (s : State) (p key : Nat) : Nat := ((s.others p).map fun u => (u.regs.getD key {}).counted).sum

/-- The checks of one REGULATOR record, for a partition with these quads. The key is 2 × port + tier. Log entry 37 (DEDUCED). -/
def State.regulatorChecks (s : State) (p : Nat) (quads : List Nat) (m : Message) : List Check :=
  ((m.all 0x0B).map fun a =>
    let g := regulatorOf a.2
    [ ⟨2 * s.nPorts ≤ a.1 || g.ceiling < g.share || g.burst < 4 || (g.share != 0 && quadsInCluster quads (a.1 / 4) == 0),
        Detail.range, some (0x0B, a.1)⟩,
      (⟨65536 < s.sharesOf p a.1 + g.share, Detail.limit, some (0x0B, a.1)⟩ : Check) ]).flatten

/-- Whether a partition keeps a share on a port of a cluster in which a layout gives it no quad (R286). -/
def Partition.sharesOutside (u : Partition) (quads : List Nat) : Bool :=
  u.regs.any fun e => e.2.counted != 0 && quadsInCluster quads (e.1 / 4) == 0

/-! ### Parameters -/

/-- The sum that the other partitions count of a parameter. -/
def State.sumOthers (s : State) (p : Nat) (f : Partition → Nat) : Nat := ((s.others p).map f).sum

/-- Whether a value that a message gives lies outside a range. -/
def Message.outside (m : Message) (id lo hi : Nat) : Bool := (m.num? id).any fun v => v < lo || hi < v

/-- The check of a range. -/
def Message.rangeOf (m : Message) (id lo hi : Nat) : Check := ⟨m.outside id lo hi, Detail.range, some (id, 0)⟩

/-- The checks of a quota of one die (R265, R275): its records, the bound, and what the others count. -/
def Message.quotaChecks (m : Message) (id bound : Nat) (others : Nat → Nat) : List Check :=
  ((m.all id).map fun a =>
    [ ⟨bound < le a.2 0 8, Detail.range, some (id, a.1)⟩,
      (⟨bound < others a.1 + le a.2 0 8, Detail.limit, some (id, a.1)⟩ : Check) ]).flatten

/-- The checks of attributes 0x05 to 0x0A for partition `p` of a kind. Log entry 37 (DEDUCED). -/
def State.paramChecks (s : State) (p kind : Nat) (m : Message) : List Check :=
  let compat := kind == 1
  [ m.rangeOf 0x05 4 14, m.rangeOf 0x06 40960 16777215,
    m.rangeOf 0x07 (if kind == 2 then 100000 else 0) (if compat then 0 else 16777215),
    m.rangeOf 0x08 0 (if compat then 0 else 4096),
    ⟨(m.num? 0x08).any fun v => 16384 < v + s.sumOthers p (·.seqLimit), Detail.limit, some (0x08, 0)⟩ ]
    ++ m.quotaChecks 0x09 16384 (fun d => s.sumOthers p fun u => u.atcQuota.getD d 256)
    ++ m.quotaChecks 0x0A 512 (fun d => s.sumOthers p fun u => u.faultQuota.getD d 8)

/-- Quotas of the dies present, over those given. -/
def State.quotasOver (s : State) (m : Message) (id : Nat) (d : Tbl Nat) : Tbl Nat :=
  (m.all id).foldl (fun t a => if a.1 < s.nDies then t.put a.1 (le a.2 0 8) else t) d

/-- The default SLICE_NS of a kind (R215, R233). -/
def State.sliceDefault (s : State) (kind : Nat) : Nat :=
  if kind == 1 then 0 else if s.fuses.full then (if kind == 2 then 100000 else 0) else 2000000

end Sys2Proof.Machine
end

