-- ==== Sys2Proof/Machine/ExtentCmds.lean ====
section
/-!
DEFINITION. Commands on extents (R235 to R239, R258, R259): grants with their check by the extent manager (R452), rights,
revocation, and the extent manager's own messages.
-/
namespace Sys2Proof.Machine

open Sys2Proof

/-! ### EXTENT_GRANT, 0x3A -/

/-- The extent that an EXTENT value describes (R236, R342). -/
def extentOf (b : Bytes) (mcGroup : Nat) : Extent :=
  { base := le b 0 8, granules := le b 8 4, mcGroup := mcGroup, keyPartition := le b 14 1, eflags := le b 15 1
    rMask := BitVec.ofNat 64 (le b 16 8), wMask := BitVec.ofNat 64 (le b 24 8), pubMask := BitVec.ofNat 64 (le b 32 8)
    grant := le b 40 8 }

/-- Whether one partition would hold PUBLISH together with R or W (R238). -/
def Extent.mixesRights (x : Extent) : Bool := ((x.rMask ||| x.wMask) &&& x.pubMask : BitVec 64) != 0#64

/-- Whether a partition given a right is FREE (R238). -/
def State.freeHolder (s : State) (mask : BitVec 64) : Bool :=
  (List.range 64).any fun p => mask.getLsbD p && (s.part p).state == .free

/-- Whether the range of an extent overlaps that of an entry in use (R238). -/
def State.extentTaken (s : State) (x : Extent) : Bool :=
  s.extents.any fun e => e.2.state != .free
    && overlaps x.base (x.granules * pageBytes) e.2.base (e.2.granules * pageBytes)

/-- The first free entry of the extent table. -/
def State.freeExtent (s : State) : Option Nat := s.extents.firstFree 4096

/-- The checks of a grant (R236, R238). -/
def State.grantChecks (s : State) (m : Message) : List Check :=
  let b := (m.attr? 0x30 0).getD []
  let x := extentOf b 0
  let blame : Option (Nat × Nat) := some (0x30, 0)
  [ ⟨x.base % pageBytes != 0 || x.granules < 1 || 16777216 < x.granules || 2 ^ 64 < x.base + x.granules * pageBytes
      || 64 ≤ x.keyPartition || x.mixesRights || s.extentTaken x, Detail.range, blame⟩,
    ⟨(s.part x.keyPartition).state == .free || s.freeHolder x.holders, Detail.state, blame⟩,
    ⟨s.freeExtent.isNone, Detail.limit, none⟩ ]

/-- EXTENT_GRANT (R235, R452): the extent manager is asked before the grant takes effect. Log entry 40 (DEDUCED). -/
def execExtentGrant (ch : Nat) (s : State) : Host.Outcome State Fault Refusal :=
  .next <| s.whenLive fun s =>
    s.serveChecked ch 0x3A s.grantChecks fun m s =>
      let x := extentOf ((m.attr? 0x30 0).getD []) 0
      ((s.park ch).modChan ch fun c => { c with checkAt := some s.time.now }).emit (.extentCheck x.grant x.base x.granules)

/-- Run `f` for a grant that waits for its check. -/
def State.onCheck (s : State) (ch : Nat) (f : Message → Nat → State → State) : State :=
  let c := s.chan ch
  match c.serve == .waiting, c.message, c.checkAt with
  | true, some m, some t => f m t (s.modChan ch fun c => { c with checkAt := none })
  | _, _, _ => s

/-- EXTENT_CHECK_ANSWER (R452): a grant that the extent manager confirms is checked again and takes effect; one that it
refuses is refused with RANGE. Log entry 40 (DEDUCED). -/
def execExtentCheckAnswer (ch : Nat) (ok : Bool) (mcGroup : Nat) (s : State) : Host.Outcome State Fault Refusal :=
  .next <| s.whenLive fun s =>
    s.onCheck ch fun m t s =>
      if !ok || t + 1000000 < s.time.now then s.refuse ch Detail.range
      else
        match m.refusal (s.grantChecks m), s.freeExtent with
        | none, some i =>
          { s with extents := s.extents.put i (extentOf ((m.attr? 0x30 0).getD []) (mcGroup % 8)) }.accept ch (toLe 2 i)
        | some (d, k), _ => s.refuseAttr ch d k
        | none, none => s.refuse ch Detail.limit

/-- EXTENT_CHECK_TIMEOUT (R452). -/
def execExtentCheckTimeout (ch : Nat) (s : State) : Host.Outcome State Fault Refusal :=
  .next <| s.whenLive fun s =>
    s.when ((s.chan ch).checkAt.any fun t => t + 1000000 ≤ s.time.now) fun s =>
      s.onCheck ch fun _ _ s => s.refuse ch Detail.range

/-! ### Rights and revocation -/

/-- An entry with the rights of a RIGHTS value added. -/
def Extent.withRights (x : Extent) (b : Bytes) : Extent :=
  { x with rMask := x.rMask ||| BitVec.ofNat 64 (le b 0 8), wMask := x.wMask ||| BitVec.ofNat 64 (le b 8 8)
           pubMask := x.pubMask ||| BitVec.ofNat 64 (le b 16 8) }

/-- NOT_FOUND of an extent table entry. -/
def State.extentMissing (s : State) (k : Nat) : Check := ⟨(s.extents.get? k).isNone, Detail.notFound, none⟩

/-- EXTENT_RIGHTS, 0x3B (R238, R239): only a GRANTED entry takes rights. Log entry 40 (DEDUCED). -/
def execExtentRights (ch : Nat) (s : State) : Host.Outcome State Fault Refusal :=
  .next <| s.whenLive fun s =>
    let rights (m : Message) : Bytes := (m.attr? 0x31 0).getD []
    s.serveChecked ch 0x3B (fun m =>
        let x := (s.extents.get? m.object).map fun x => x.withRights (rights m)
        [s.extentMissing m.object, ⟨x.any (·.mixesRights), Detail.range, some (0x31, 0)⟩,
         ⟨x.any fun x => x.state != .granted || s.freeHolder x.holders, Detail.state, some (0x31, 0)⟩]) fun m s =>
      (s.modExtent m.object fun x => x.withRights (rights m)).accept ch []

/-- Whether R258 refuses to revoke the rights of one partition: KEY_PARTITION's, while another keeps a right. -/
def Extent.keepsKey (x : Extent) (p : Option Nat) : Bool :=
  p == some x.keyPartition && (x.holders &&& ~~~(losingOf p) : BitVec 64) != 0#64

/-- EXTENT_REVOKE, 0x3C (R258, R259, R344, R470). -/
def execExtentRevoke (ch : Nat) (s : State) : Host.Outcome State Fault Refusal :=
  .next <| s.whenLive fun s =>
    let target (m : Message) : Option Nat := if m.partition == 0xFF then none else some m.partition
    s.serveChecked ch 0x3C (fun m =>
        [⟨(target m).any fun p => (s.part p).state == .free, Detail.notFound, none⟩, s.extentMissing m.object,
         ⟨(s.extents.get? m.object).any fun x => x.keepsKey (target m), Detail.state, none⟩]) fun m s =>
      s.askRevoke m.object (target m) (some ch)

/-- EXTENT_REVOKE_REQ (R452): carried out as EXTENT_REVOKE, without a capability. Log entry 40 (DEDUCED). -/
def execExtentRevokeReq (grant : Nat) (partition : Option Nat) (s : State) : Host.Outcome State Fault Refusal :=
  .next <| s.whenLive fun s =>
    ((s.extents.filter fun e => e.2.grant == grant && !e.2.keepsKey partition).map (·.1)).foldl (fun s k =>
      s.askRevoke k partition none) s

/-! ### The near tier (R422) -/

/-- The scrub interval F of a near tier: the largest power of two up to 4,096 that keeps a pass within 16 h. -/
def scrubInterval (perPort : Nat) : Nat :=
  (((List.range 13).filter fun k => perPort / 256 * 2 ^ k * 8192 ≤ 57600000000000).map (2 ^ ·)).foldl max 1

/-- NEAR_TIER_REPORT (R422, R452): taken before TRAINING ends. Log entry 40 (DEDUCED). -/
def execNearTierReport (size : Nat) (s : State) : Host.Outcome State Fault Refusal :=
  .next <| s.whenLive fun s =>
    s.when (s.boot.stage.code ≤ 4) fun s =>
      { s with boot := { s.boot with nearTierBytes := size } }

end Sys2Proof.Machine
end

