-- ==== Sys2Proof/Machine/PowerCmds.lean ====
section
/-!
DEFINITION. Boundary inputs with their filters (R457, R461), the hard cap (R414), thermal control (R415, R416) and droops
(R408, R409).
-/
namespace Sys2Proof.Machine

open Sys2Proof

/-- Filter times in ns (R457). Log entry 44 (DEDUCED). -/
def filterTime : Pin → Nat
  | .coolantOk => 2000
  | .timeStrobe => 2
  | .resetN => 100
  | .tamperN => 200
  | .hardCap => 100
  | .wake => 50

/-- INPUT_GLITCH (R457). -/
def execInputGlitch (pin : Pin) (width : Nat) (s : State) : Host.Outcome State Fault Refusal :=
  .next <| s.whenLive fun s => s.when (width < filterTime pin) State.glitch

/-- A new level of SC_HARD_CAP, held for `held` ns (R457). Log entry 44 (DEDUCED). -/
def State.hardCapLevel (s : State) (b : Bool) (held : Nat) : State :=
  if held < 100 then s.glitch
  else
    let n := if b && !s.pins.hardCap then 1 else 0
    let s := { s with
      pins := { s.pins with hardCap := b }
      power := { s.power with hardCap := b, hardEvents := s.power.hardEvents + n } }
    s.icLevel 7 b

/-- SC_HARD_CAP_ASSERT (R414). -/
def execScHardCapAssert (held : Nat) (s : State) : Host.Outcome State Fault Refusal :=
  .next <| s.whenLive fun s => s.hardCapLevel true held

/-- SC_HARD_CAP_DEASSERT (R414). -/
def execScHardCapDeassert (held : Nat) (s : State) : Host.Outcome State Fault Refusal :=
  .next <| s.whenLive fun s => s.hardCapLevel false held

/-- COOLANT_STOP (R416): SC_COOLANT_OK has been inactive for `held` ns. Log entry 44 (DEDUCED). -/
def execCoolantStop (held : Nat) (s : State) : Host.Outcome State Fault Refusal :=
  .next <| s.whenLive fun s =>
    if held < 2000 then s.glitch else { s with pins := { s.pins with coolantOk := false } }.coolantStop

/-- Limits of R415, in units of 0.125 °C: 105, 100 and 115 degrees. Log entry 44 (DEDUCED). -/
def throttleAt : Nat := 840
/-- Log entry 44 (DEDUCED). -/
def releaseBelow : Nat := 800
/-- Log entry 44 (DEDUCED). -/
def criticalAt : Nat := 920

/-- One reading of a sensor that the configuration has (R415). -/
def State.readSensor (s : State) (r : ThermalReading) : State :=
  if r.base then
    if r.unit < s.nDies then { s with power := { s.power with baseTemp := s.power.baseTemp.put r.unit r.eighths } } else s
  else if r.unit < s.nClusters then
    s.modCluster r.unit fun c =>
      { c with celsius8 := r.eighths, throttled := throttleAt ≤ r.eighths || (c.throttled && releaseBelow ≤ r.eighths) }
  else s

/-- Whether a reading reaches CRITICAL. -/
def State.critical (s : State) (r : ThermalReading) : Bool :=
  criticalAt ≤ r.eighths && if r.base then r.unit < s.nDies else r.unit < s.nClusters

/-- THERMAL_SAMPLE (R415, R416), at each multiple of 1,024 ns of CT. Log entries 5 (DESIGN CHOICE), 44 (DEDUCED). -/
def execThermalSample (readings : List ThermalReading) (s : State) : Host.Outcome State Fault Refusal :=
  .next <| s.whenLive fun s =>
    s.when (s.time.ct % 1024 < 2) fun s =>
      let t := readings.foldl State.readSensor s
      if readings.any s.critical then t.coolantStop else t

/-- The window of 1,024 ns of CT (R408). Log entry 44 (DEDUCED). -/
def State.droopWindow (s : State) : Nat := s.time.ct / 1024

/-- DROOP_DETECT (R408, R409). A droop within the allowance only stretches the clock; one beyond it counts its window. -/
def execDroopDetect (core : Nat) (excess : Bool) (s : State) : Host.Outcome State Fault Refusal :=
  .next <| s.whenLive fun s =>
    s.when (excess && core < s.nCores && (s.core core).stretchAt != some s.droopWindow) fun s =>
      s.modCore core fun c =>
        { c with stretchExcess := satAdd 32 c.stretchExcess 1, stretchAt := some s.droopWindow, excessSeen := true
                 binPending := true }

end Sys2Proof.Machine
end

