-- ==== Sys2Proof/Machine/BootCmds.lean ====
section
/-!
DEFINITION. Start-up (R313, R314, R407, R422, R454, R457, R462 to R467): SC_RESET_N, the boot stages, the firmware image, the
training of the bridge and of the memory ports, and the time limit.
-/
namespace Sys2Proof.Machine

open Sys2Proof

/-! ### SC_RESET_N -/

/-- SC_RESET_N_ASSERT (R457, R462), in any stage. -/
def execScResetNAssert (held : Nat) (s : State) : Host.Outcome State Fault Refusal :=
  .next <|
    if !s.boot.outOfReset then s
    else if held < 100 then (if s.live then s.glitch else s)
    else s.wholeReset

/-- SC_RESET_N_DEASSERT (R462, R463, R469), with the levels of SC_COOLANT_OK and SC_HARD_CAP. Log entry 9 (DESIGN CHOICE). -/
def execScResetNDeassert (held : Nat) (coolantOk hardCap : Bool) (s : State) : Host.Outcome State Fault Refusal :=
  .next <| if s.boot.outOfReset || held < 100 then s else s.comeUp coolantOk hardCap

/-! ### ROM and KEYS -/

/-- Act in one boot stage. -/
def State.inStage (s : State) (st : Stage) (f : State → State) : State := s.whenLive fun s => s.when (s.boot.stage == st) f

/-- ROM_DONE (R307, R463). -/
def execRomDone (selfTestOk : Bool) (s : State) : Host.Outcome State Fault Refusal :=
  .next <| s.inStage .rom fun s =>
    if !selfTestOk then s.failBoot BootReason.thimbleFault
    else if s.fuses.activeSlot.isNone then s.failBoot BootReason.noRootSlot
    else s.enterStage .keys 0

/-- The keys that depend only on the UDS, under a new boot nonce (R309). -/
def State.deriveBootKeys (s : State) : State :=
  let nonce := Config.entropy s.free
  let locked := if s.fuses.debugLocked then 1 else 0
  { s with
    free := s.free + 1
    sec := { s.sec with
      bootNonce := nonce, creationCount := 1, keysDerived := true, deviceKey := some (Config.hkdf s.uds "DEVID" [locked])
      capKey := some ((Config.hkdf s.uds "CAP" [nonce.toNat]).extractLsb' 0 384) } }

/-- Issue a BOOT_READ of the next bytes of the boot store (R452). -/
def State.readBoot (s : State) : State :=
  { s with boot := { s.boot with bootReadAt := some s.time.now } }.emit (.bootRead s.boot.image.length 65536)

/-- KEYS_DONE (R309, R463): the image is read next. -/
def execKeysDone (ok : Bool) (s : State) : Host.Outcome State Fault Refusal :=
  .next <| s.inStage .keys fun s =>
    if ok then (s.deriveBootKeys.enterStage .image 0).readBoot else s.failBoot BootReason.thimbleFault

/-! ### The firmware image (R313, R314) -/

/-- The image is refused: nothing of it runs, and the PC9 is told (R314, R452). -/
def State.refuseImage (s : State) : State :=
  ({ s with boot := { s.boot with bootReadAt := none } }.failBoot BootReason.imageRefused).emit (.faultReport "IMAGE_REFUSED" 0)

/-- Bytes of the image that the header asks for: the header itself first, and no more than 64 MiB. -/
def imageWanted (b : Bytes) : Nat := if b.length < 512 then 512 else min (le b 8 4) (2 ^ 26)

/-- BOOT_DATA (R452): the data are kept, and the next bytes are read while the image is not complete. Log entry 45 (DEDUCED). -/
def execBootData (data : Option Bytes) (s : State) : Host.Outcome State Fault Refusal :=
  .next <| s.inStage .image fun s =>
    s.when s.boot.bootReadAt.isSome fun s =>
      match data with
      | none => s.refuseImage
      | some b =>
        let s := { s with boot := { s.boot with image := s.boot.image ++ b, bootReadAt := none } }
        if s.boot.image.length < imageWanted s.boot.image then s.readBoot else s

/-- BOOT_READ_TIMEOUT (R452). -/
def execBootReadTimeout (s : State) : Host.Outcome State Fault Refusal :=
  .next <| s.inStage .image fun s => s.when (s.boot.bootReadAt.any fun t => t + 10000000 ≤ s.time.now) State.refuseImage

/-- A section of the image: offset and bytes. -/
structure Section where
  offset : Nat
  bytes  : Nat
deriving DecidableEq, Repr

def sectionAt (b : Bytes) (o : Nat) : Section := { offset := le b o 4, bytes := le b (o + 4) 4 }

/-- The content of a section, and whether it matches the digest at `o`. -/
def Section.content (x : Section) (b : Bytes) : Bytes := (b.drop x.offset).take x.bytes
def Section.matches (x : Section) (b : Bytes) (o : Nat) : Bool := (Config.sha384 (x.content b)).toNat == le b o 48
def Section.inside (x : Section) (n : Nat) : Bool := x.offset + x.bytes ≤ n
def Section.apart (x y : Section) : Bool := x.offset + x.bytes ≤ y.offset || y.offset + y.bytes ≤ x.offset

/-- The header's own fields (R313). -/
def headerOk (b : Bytes) : Bool :=
  512 ≤ b.length && le b 0 4 == 0x32574653 && le b 4 2 == 1 && le b 6 2 == 512 && le b 8 4 ≤ 2 ^ 26 && le b 8 4 ≤ b.length
    && le b 16 1 ≤ 64 && le b 17 1 < 4 && zeroAt b 18 2 && zeroAt b 48 16 && zeroAt b 400 112

/-- The sections of the image (R314, step 5). -/
def sectionsOk (b : Bytes) : Bool :=
  let n := le b 8 4
  let t := sectionAt b 20
  let o := sectionAt b 28
  let m := sectionAt b 36
  t.inside n && o.inside n && m.inside n && t.apart o && t.apart m && o.apart m && t.matches b 64 && o.matches b 112
    && m.matches b 160

/-- Whether Thimble's ROM accepts the image (R314). -/
def State.imageOk (s : State) (b : Bytes) : Bool :=
  headerOk b
    && Config.sha384 ((b.drop 208).take 96) == Config.signerDigest (le b 17 1)
    && !s.fuses.signersRevoked.getLsbD (le b 17 1)
    && Config.ecdsaVerify ((b.drop 208).take 96) (b.take 304) ((b.drop 304).take 96)
    && s.fuses.rollback ≤ le b 16 1
    && sectionsOk b

/-- The fuse state that CDI_T depends on (R309). -/
def Fuses.stateWords (f : Fuses) : List Nat :=
  [f.retired.toNat, f.rollback, f.signersRevoked.toNat, if f.debugLocked then 1 else 0]

/-- What is taken from an accepted header, and the keys that follow from it (R309, R313). -/
def State.takeImage (s : State) (b : Bytes) : State :=
  let t := BitVec.ofNat 384 (le b 64 48)
  let o := BitVec.ofNat 384 (le b 112 48)
  let m := BitVec.ofNat 384 (le b 160 48)
  let cdi := (Config.hkdf s.uds "CDI" (t.toNat :: s.fuses.stateWords ++ [s.debugState])).extractLsb' 0 384
  { s with
    boot := { s.boot with
      fwVerified := true, fwVersion := le b 12 4, fwSvn := le b 16 1, signer := le b 17 1, microcodeRev := le b 44 4
      thimbleDigest := t, bobbinDigest := o, microcodeDigest := m, doeOn := true, trainingNs := s.time.now }
    sec := { s.sec with cdi := cdi, aliasKey := some (Config.hkdf (bytesOf cdi) "ALIAS" [o.toNat, m.toNat]) } }

/-- Each core's bin: the lower of its fused bin and the one of the ageing record (R407). -/
def State.loadBins (s : State) (ageing : List (Nat × Nat)) : State :=
  (List.range s.nCores).foldl (fun s k =>
    let fused := s.fuses.bins.getD k 0
    s.modCore k fun c => { c with bin := min fused (((ageing.find? fun a => a.1 == k).map (·.2)).getD fused) }) s

/-- IMAGE_CHECKED (R314): once the whole image has been read. `ageing` is firmware's ageing record, as core and bin. -/
def execImageChecked (ageing : List (Nat × Nat)) (s : State) : Host.Outcome State Fault Refusal :=
  .next <| s.inStage .image fun s =>
    s.when s.boot.bootReadAt.isNone fun s =>
      if s.imageOk s.boot.image then
        (((s.takeImage s.boot.image).loadBins ageing).enterStage .training 0)
      else s.refuseImage

/-! ### TRAINING -/

/-- MEMORY_PORT_READY (R463). -/
def execMemoryPortReady (port : Nat) (s : State) : Host.Outcome State Fault Refusal :=
  .next <| s.inStage .training fun s =>
    s.when (port < s.nPorts && !s.boot.mpFailed.getLsbD port) fun s =>
      { s with boot := { s.boot with mpReady := s.boot.mpReady ||| BitVec.ofNat 32 (2 ^ port) } }

/-- Every cluster is quarantined: no memory is left (R466). -/
def State.noMemory (s : State) : Bool := (List.range s.nClusters).all fun c => (s.cluster c).quarantined

/-- MEMORY_PORT_TIMEOUT (R466): 200 ms after the entry into TRAINING. Log entry 45 (DEDUCED). -/
def execMemoryPortTimeout (port : Nat) (s : State) : Host.Outcome State Fault Refusal :=
  .next <| s.inStage .training fun s =>
    s.when (port < s.nPorts && !s.boot.mpReady.getLsbD port && !s.boot.mpFailed.getLsbD port
        && s.boot.trainingNs + 200000000 ≤ s.time.now) fun s =>
      let c := port / 2
      let s := { s with boot := { s.boot with mpFailed := s.boot.mpFailed ||| BitVec.ofNat 32 (2 ^ port) } }
      let s := s.emit (.faultReport "MEMORY_PORT_FAILED" port)
      let s := if (s.cluster c).quarantined then s else s.clusterError c 0
      if s.noMemory then s.failBoot BootReason.noMemory else s

/-- The width that training gives a bundle of `good` lanes, `w` being the width in force or asked for (R454); none when
fewer than 256 lanes are good. -/
def trainedWidth (good w : Nat) : Option Nat :=
  if 1024 ≤ good then some w else if 512 ≤ good then some (max w 1) else if 256 ≤ good then some 2 else none

/-- Put the result of a test into a bundle. -/
def Bridge.tested (b : Bridge) (t : BundleTest) (w : Nat) : Bridge :=
  if t.bundle == 0 then { b with width01 := w, good01 := t.goodLanes, spares01 := min 32 (b.spares01 + t.sparesNewlyUsed) }
  else { b with width10 := w, good10 := t.goodLanes, spares10 := min 32 (b.spares10 + t.sparesNewlyUsed) }

/-- Whether every port has reported or failed. -/
def State.portsSettled (s : State) : Bool :=
  (List.range s.nPorts).all fun n => s.boot.mpReady.getLsbD n || s.boot.mpFailed.getLsbD n

/-- The entry into TIME: F is set and the time logic released (R422, R465). -/
def State.enterTime (s : State) : State :=
  { s with
    boot := { s.boot with scrubF := scrubInterval (s.boot.nearTierBytes / s.nPorts), timeNs := s.time.now }
    time := { s.time with released := true } }.enterStage .time 0

/-- TRAINING_DONE (R454, R463), with the test of each bundle in the Full configuration. Log entry 45 (DEDUCED). -/
def execTrainingDone (tests : List BundleTest) (s : State) : Host.Outcome State Fault Refusal :=
  .next <| s.inStage .training fun s =>
    s.when s.portsSettled fun s =>
      if !s.fuses.full then s.enterTime
      else
        match tests.find? (·.bundle == 0), tests.find? (·.bundle == 1) with
        | some a, some b =>
          match trainedWidth a.goodLanes s.bridge.widthReq, trainedWidth b.goodLanes s.bridge.widthReq with
          | some wa, some wb =>
            { s with bridge := { (s.bridge.tested a wa).tested b wb with widthPending := false }
                     boot := { s.boot with bridgeTrained := true } }.enterTime
          | _, _ => s.failBoot BootReason.bridgeFailed
        | _, _ => s

/-- TIME_LIMIT_EXPIRY (R465). -/
def execTimeLimitExpiry (s : State) : Host.Outcome State Fault Refusal :=
  .next <| s.inStage .time fun s => s.when (s.boot.timeNs + 100000000 ≤ s.time.now) fun s => s.becomeReady true

end Sys2Proof.Machine
end

