-- ==== Sys2Proof/Machine/IcCmds.lean ====
section
/-!
DEFINITION. The commands of Bobbin's interrupt controller (R351 to R366) and the unmasking of MSI-X entries (R368).
-/
namespace Sys2Proof.Machine

open Sys2Proof

/-- Whether R352 lists a source for a configuration; the others fire only through IC_SET_PENDING. -/
def sourceListed (full : Bool) (n : Nat) : Bool :=
  n ≤ 7 || (16 ≤ n && n < 80) || (128 ≤ n && n < (if full then 144 else 136)) || n == 144 || (full && n == 145)
    || n == 146 || (160 ≤ n && n < (if full then 416 else 288)) || (416 ≤ n && n < (if full then 420 else 418))
    || (full && n == 420) || (512 ≤ n && n < 1024)

/-- The running priority of a core (R356). -/
def IcCore.running (c : IcCore) : Nat :=
  match c.stack with
  | [] => 16
  | (_, p) :: _ => p

def Ic.core (c : Ic) (k : Nat) : IcCore := c.cores.getD k {}

/-- The better of two candidates: lower priority number, then lower source number (R356). -/
def betterOf : Option (Nat × Nat) → Nat × Nat → Option (Nat × Nat)
  | none, b => some b
  | some a, b => if b.2 < a.2 || (b.2 == a.2 && b.1 < a.1) then some b else some a

/-- Whether a source may be delivered to core `k` now (R356), its ENABLE taken as `en`. -/
def Src.deliverable (r : Src) (en : Bool) (k : Nat) (c : IcCore) : Bool :=
  r.state == .pending && en && r.target == k && r.priority < c.running && r.priority < c.primask

/-- The candidate of core `k` with its priority (R356). During sleep nothing is delivered (R362). -/
def Ic.candidate (c : Ic) (k : Nat) : Option (Nat × Nat) :=
  if c.asleep then none
  else ((c.srcs.filter fun e => e.2.deliverable e.2.enable k (c.core k)).map fun e => (e.1, e.2.priority)).foldl
    betterOf none

/-- A source whose ENABLE was cleared less than 40 ns ago while it was the candidate, if it would still be delivered
(R360). -/
def Ic.lingers (c : Ic) (k now : Nat) : Option (Nat × Nat) :=
  match (c.core k).lingering with
  | some (n, at_) =>
    if now < at_ + 40 && !c.asleep && (c.src n).deliverable true k (c.core k) then some (n, (c.src n).priority)
    else none
  | none => none

/-- Acknowledge source `n` at priority `p` on core `k` (R357). -/
def Ic.acknowledge (c : Ic) (k n p : Nat) : Ic :=
  let i := c.core k
  let c := c.setSrc n { c.src n with state := .active }
  { c with cores := c.cores.put k { i with stack := (n, p) :: i.stack, lingering := none } }

/-- A read of IC_ACK of core `k`. Where R360 leaves open whether the read returns the disabled source, a free value
decides. -/
def ackEffect (s : State) (k : Nat) : State :=
  let lingering := s.ic.lingers k s.time.now
  let s := { s with ic := { s.ic with cores := s.ic.cores.put k { s.ic.core k with lingering := none } } }
  let (s, chosen) := match lingering with
    | some e => if Config.freeBits 1 s.free % 2 == 1 then (s.draw, some e) else (s.draw, s.ic.candidate k)
    | none => (s, s.ic.candidate k)
  match chosen with
  | some (n, p) => { s with ic := s.ic.acknowledge k n p }.emit (.icValue (BitVec.ofNat 64 n))
  | none => s.emit (.icValue 0xFFFF)

/-- The state of a source when its interrupt ends (R358). -/
def SrcState.ended (st : SrcState) : SrcState :=
  match st with
  | .active => .inactive
  | .activePending => .pending
  | other => other

/-- An IC_EOI write of source `n` to the interface of core `k` (R358). -/
def Ic.eoi (c : Ic) (k n now : Nat) : Ic :=
  match (c.core k).stack with
  | (m, _) :: rest =>
    if m == n then
      let c := { c with cores := c.cores.put k { c.core k with stack := rest } }
      let r := c.src n
      if isLevelSource n then
        let c := c.setSrc n { r with state := .inactive }
        if r.level then c.fire n now else c
      else c.setSrc n { r with state := r.state.ended }
    else { c with badEoi := satAdd 16 c.badEoi 1 }
  | [] => { c with badEoi := satAdd 16 c.badEoi 1 }

/-- IC_SET_PENDING (R359): as a fire, not counted for storms. -/
def Ic.setPending (c : Ic) (n : Nat) : Ic := c.setSrc n (c.src n).fireQuiet

/-- The state after IC_CLEAR_PENDING (R359). Log entry 15 (DEDUCED). -/
def SrcState.cleared : SrcState → SrcState
  | .pending => .inactive
  | .activePending => .active
  | other => other

/-- Log entry 15 (DEDUCED). -/
def Ic.clearPending (c : Ic) (n : Nat) : Ic := c.setSrc n { c.src n with state := (c.src n).state.cleared }

/-- Whether some core has been signalled or has an interrupt under way, so that sleep is refused (R362). -/
def Ic.awake (c : Ic) : Bool :=
  (List.range 4).any fun k => !(c.core k).stack.isEmpty || (c.candidate k).isSome

/-- A source with its storm window closed. -/
def Src.closeWindow (r : Src) : Src := { r with window := none, fires := 0 }

/-- SLEEP_REQ (R362). -/
def Ic.sleep (c : Ic) : Ic :=
  if c.awake then { c with sleepRefused := true }
  else
    let srcs := c.srcs.mapV fun _ r => r.closeWindow
    { c with keptSrcs := srcs, keptCores := c.cores, keptStorm := c.stormLast, srcs := srcs, asleep := true,
             wakeFire := false }

/-- The wake: the retained registers come back (R362). -/
def Ic.wakeUp (c : Ic) : Ic :=
  { c with srcs := c.keptSrcs, cores := c.keptCores, stormLast := c.keptStorm, asleep := false, restored := true,
           wakeFire := false }

/-- Source number and OP of a doorbell word (R355). -/
def dbSource (v : BitVec 32) : Nat := bitsAt v.toNat 0 10
def dbOp (v : BitVec 32) : Nat := bitsAt v.toNat 10 2

/-- Whether a level source was cleared while its LEVEL is still 1, so that the next asserting message fires it (R359).
Log entry 15 (DEDUCED). -/
def Src.clearedHigh (r : Src) : Bool := r.level && r.state == .inactive

/-- IC_DOORBELL_FIRE (R354, R355, R359). -/
def execIcDoorbellFire (v : BitVec 32) (s : State) : Host.Outcome State Fault Refusal :=
  .next <| s.whenLive fun s =>
    let n := dbSource v
    s.when (dbOp v == 0 && sourceListed s.fuses.full n) fun s =>
      if isLevelSource n && !(s.ic.src n).clearedHigh then s.icLevel n true else s.icFire n

/-- IC_DOORBELL_DEASSERT (R354, R355). -/
def execIcDoorbellDeassert (v : BitVec 32) (s : State) : Host.Outcome State Fault Refusal :=
  .next <| s.whenLive fun s =>
    let n := dbSource v
    s.when (dbOp v == 1 && isLevelSource n && sourceListed s.fuses.full n) fun s => s.icLevel n false

/-- IC_ACK (R357). -/
def execIcAck (core : Nat) (s : State) : Host.Outcome State Fault Refusal :=
  .next <| s.whenLive fun s => ackEffect s core

/-- IC_EOI (R358). -/
def execIcEoi (core : Nat) (v : BitVec 32) (s : State) : Host.Outcome State Fault Refusal :=
  .next <| s.whenLive fun s => { s with ic := s.ic.eoi core (dbSource v) s.time.now }

/-- IC_SET_PENDING (R359). -/
def execIcSetPending (v : BitVec 32) (s : State) : Host.Outcome State Fault Refusal :=
  .next <| s.whenLive fun s => { s with ic := s.ic.setPending (dbSource v) }

/-- IC_CLEAR_PENDING (R359). -/
def execIcClearPending (v : BitVec 32) (s : State) : Host.Outcome State Fault Refusal :=
  .next <| s.whenLive fun s => { s with ic := s.ic.clearPending (dbSource v) }

/-- STORM_WINDOW_EXPIRY (R361). -/
def execStormWindowExpiry (source : Nat) (s : State) : Host.Outcome State Fault Refusal :=
  .next <| s.whenLive fun s =>
    match (s.ic.src source).window with
    | some w => s.when (w + 8000 ≤ s.time.now) fun s =>
        { s with ic := s.ic.setSrc source (s.ic.src source).closeWindow }
    | none => s

/-- SLEEP_REQ (R362). -/
def execSleepReq (s : State) : Host.Outcome State Fault Refusal :=
  .next <| s.whenLive fun s => s.when (!s.ic.asleep) fun s => { s with ic := s.ic.sleep }

/-- IC_WAKE (R362): by SC_WAKE, or by the fire of an enabled source with WAKE set. -/
def execIcWake (pin : Bool) (s : State) : Host.Outcome State Fault Refusal :=
  .next <| s.whenLive fun s =>
    s.when (s.ic.asleep && (pin || s.ic.wakeFire)) fun s => { s with ic := s.ic.wakeUp }

/-- IC_STATUS (R364). -/
def Ic.status (c : Ic) : Nat :=
  (if c.sleepRefused then 1 else 0) + (if c.restored then 2 else 0) + c.stormLast * 2 ^ 16 + c.storms * 2 ^ 32
    + c.badEoi * 2 ^ 48

/-- IC_STATUS_READ (R364): BAD_EOI lies in bits [63:48]. -/
def execIcStatusRead (half : Half) (s : State) : Host.Outcome State Fault Refusal :=
  .next <| s.whenLive fun s =>
    let s := s.emit (.icValue (halfOf half s.ic.status))
    s.when (readsHigh half) fun s => { s with ic := { s.ic with badEoi := 0 } }

/-- The entries whose pending message goes out when nothing masks them (R368). -/
def Msix.due (m : Msix) : List Nat :=
  if m.enable && !m.funcMask then (m.entries.filter fun e => e.2.pending && !e.2.masked).map (·.1) else []

/-- Send the pending messages that nothing masks any more, lowest entry first. -/
def State.flushMsix (s : State) : State :=
  s.msix.due.foldl (fun s e =>
    let m := s.msix
    ({ s with msix := { m with entries := m.entries.put e { m.entries.getD e {} with pending := false } } }).emit
      (.msix e)) s

/-- MSIX_UNMASK (R368): the mask of one entry is cleared, or the function mask; pending messages are then sent. -/
def execMsixUnmask (entry : Option Nat) (s : State) : Host.Outcome State Fault Refusal :=
  .next <| s.whenLive fun s =>
    let m := s.msix
    let m := match entry with
      | some e => { m with entries := m.entries.put e { m.entries.getD e {} with masked := false } }
      | none => { m with funcMask := false }
    { s with msix := m }.flushMsix

end Sys2Proof.Machine
end

