-- ==== Sys2Proof/Machine/PartView.lean ====
section
/-!
DEFINITION. What a partition shows of itself: the identity, layout and event registers of its status page (R291) and its
layout record (R320).
-/
namespace Sys2Proof.Machine

open Sys2Proof

/-- STATE of R287. -/
def PState.code : PState → Nat
  | .free => 0 | .active => 1 | .resetting => 2 | .destroying => 3

/-- TDI_STATE of R295. -/
def Tdi.code : Tdi → Nat
  | .unlocked => 0 | .locked => 1 | .run => 2 | .error => 3

/-- Contexts that exist in partition `p`. -/
def State.contextsOf (s : State) (p : Nat) : Nat := (s.ctxs.filter fun e => e.2.partition == p).length

/-- SC_PSTAT (R291). -/
def State.pstat (s : State) (p : Nat) : Nat :=
  let u := s.part p
  if u.state == .free then p
  else p + u.kind * 2 ^ 6 + u.state.code * 2 ^ 8 + u.homeDie * 2 ^ 11 + u.tdi.code * 2 ^ 12 + s.contextsOf p * 2 ^ 16
    + u.queueFirst * 2 ^ 24 + u.queueCount * 2 ^ 36

/-- QUADS of SC_PLAYOUT (R291). -/
def quadMask (quads : List Nat) : Nat := (quads.map fun n => 2 ^ n).sum

/-- The ways of one cluster, as SC_PWAYSi and the WAYS attribute show them (R291, R342). -/
def Ways.bits (w : Ways) : Nat := w.first + w.ways * 2 ^ 8

/-- SC_PWAYSi (R291). -/
def Partition.waysWord (u : Partition) (i : Nat) : Nat :=
  ((List.range 4).map fun j => (u.waysIn (4 * i + j)).bits * 2 ^ (16 * j)).sum

/-- SC_PKEY (R291, R311). -/
def Partition.keyWord (u : Partition) : Nat := u.keyId + u.keyCheck * 2 ^ 32

/-- SC_PEVENTS, from the counts of the last 1 ms boundary (R291, R293). -/
def Partition.eventsWord (u : Partition) : Nat :=
  let e := u.eventsShown
  e.timeSteps + e.queuePath * 2 ^ 16 + e.tdiErrors * 2 ^ 32 + e.resets * 2 ^ 48

/-- A partition's layout record (R320). -/
def State.layoutRecord (s : State) (p : Nat) : Bytes :=
  let u := s.part p
  if u.state == .free then toLe 1 p ++ zeros 63
  else
    toLe 1 p ++ toLe 1 u.kind ++ toLe 1 u.state.code ++ toLe 1 u.tdi.code ++ toLe 8 (quadMask u.quads)
      ++ ((List.range 16).map fun c => toLe 1 (u.waysIn c).first ++ toLe 1 (u.waysIn c).ways).flatten
      ++ toLe 4 u.keyId ++ toLe 4 u.keyCheck ++ toLe 2 u.queueFirst ++ toLe 2 u.queueCount ++ toLe 1 (s.contextsOf p)
      ++ toLe 1 u.homeDie ++ zeros 6

end Sys2Proof.Machine
end

