-- ==== Sys2Proof/Machine/Attest.lean ====
section
/-!
DEFINITION. Attestation (R317 to R320): the report, its digests, the measurement blocks and the signing key.
-/
namespace Sys2Proof.Machine

open Sys2Proof

/-- BLOCK_CODE and CONFIG, as SC_ID and SC_CAP give them (R27, R28). -/
def blockCode : Nat := 0x5C02
def State.configCode (s : State) : Nat := if s.fuses.full then 2 else 1

/-- The digest of one layout record: PARTITION_DIGEST (R294, R319). -/
def State.partitionDigest (s : State) (p : Nat) : BitVec 384 := Config.sha384 (s.layoutRecord p)

/-- The 64 layout records of the report. -/
def State.layoutRecords (s : State) : Bytes := ((List.range 64).map s.layoutRecord).flatten

/-- LAYOUT_DIGEST (R319). -/
def State.layoutDigest (s : State) : BitVec 384 := Config.sha384 s.layoutRecords

/-- Bytes 12 to 23 of the report: identity and serial (R318, R319). -/
def State.identityBytes (s : State) : Bytes :=
  toLe 2 blockCode ++ toLe 1 s.fuses.stepping.toNat ++ toLe 1 s.configCode ++ toLe 8 s.fuses.serial.toNat

/-- Bytes 24 to 31 of the report: fuses, security versions, debug state and the signer (R318, R319). -/
def State.fuseBytes (s : State) (signer : Option Nat) : Bytes :=
  toLe 1 (s.fuses.activeSlot.getD 0) ++ toLe 1 s.fuses.signersRevoked.toNat ++ toLe 2 s.fuses.retired.toNat
    ++ toLe 1 s.fuses.rollback ++ toLe 1 s.boot.fwSvn ++ toLe 1 s.debugState ++ toLe 1 (signer.getD 0xFF)

/-- The report for the partition bound to a session, or for the alias key (R319). -/
def State.report (s : State) (signer : Option Nat) (nonce : Bytes) : Bytes :=
  toLe 4 0x31545441 ++ toLe 2 1 ++ toLe 2 64 ++ toLe 4 4480 ++ s.identityBytes ++ s.fuseBytes signer ++ toLe 8 s.ctNow
    ++ toLe 4 s.boot.microcodeRev ++ toLe 4 s.boot.fwVersion ++ nonce.take 32
    ++ bytesOf Config.romDigest ++ bytesOf s.boot.thimbleDigest ++ bytesOf s.boot.bobbinDigest
    ++ bytesOf s.boot.microcodeDigest ++ bytesOf s.layoutDigest
    ++ signer.elim (zeros 48) (fun p => bytesOf (s.partitionDigest p)) ++ zeros 16 ++ s.layoutRecords

/-- The key that signs for a session: the identity key of the partition named, or the alias key (R317). -/
def State.signKey (s : State) (signer : Option Nat) : Option (BitVec 576) :=
  match signer with
  | some p => (s.part p).identity
  | none => s.sec.aliasKey

/-- A measurement block (R318); none where R318 gives no block of the index. -/
def State.measurement (s : State) (bound : Option Nat) (nonce : Bytes) (index : Nat) : Option Bytes :=
  match index with
  | 1 => some (bytesOf Config.romDigest)
  | 2 => some (bytesOf s.boot.thimbleDigest)
  | 3 => some (bytesOf s.boot.bobbinDigest)
  | 4 => some (bytesOf s.boot.microcodeDigest)
  | 5 => some (s.fuseBytes bound)
  | 6 => some (toLe 1 s.debugState)
  | 7 => some s.identityBytes
  | 8 => some (bytesOf s.layoutDigest)
  | 9 => bound.map fun p => bytesOf (s.partitionDigest p)
  | 0xFD => some (s.report bound nonce)
  | _ => none

/-- Every block of a session, in the order of its index. -/
def State.measurements (s : State) (bound : Option Nat) (nonce : Bytes) : Bytes :=
  ([1, 2, 3, 4, 5, 6, 7, 8, 9, 0xFD].filterMap (s.measurement bound nonce)).flatten

end Sys2Proof.Machine
end

