-- ==== Sys2Proof/Machine/MailCmds.lean ====
section
/-!
DEFINITION. The mailbox itself (R327 to R350): notices, the order of service, the read of a message, the capability check,
load levels, replies, and the release of a channel.
-/
namespace Sys2Proof.Machine

open Sys2Proof

/-! ### Backlog and load level (R346) -/

/-- PENDING notices that are not being answered. -/
def State.backlog (s : State) : Nat :=
  (s.mail.chans.filter fun e => e.2.state == .pending && e.2.serve == .none).length

/-- One move of the load level. -/
def nextLevel (level b : Nat) : Nat :=
  if level == 0 && 16 ≤ b then 1
  else if level == 1 && 24 ≤ b then 2
  else if level == 2 && b < 12 then 1
  else if level == 1 && b < 8 then 0
  else level

/-- The load level follows the backlog, and source 3 the PENDING channels (R346, R352). -/
def State.settleMail (s : State) : State :=
  let b := s.backlog
  let s := { s with mail := { s.mail with level := nextLevel (nextLevel s.mail.level b) b } }
  s.icLevel 3 (s.mail.chans.any fun e => e.2.state == .pending)

/-! ### Notices (R328, R332, R333) -/

/-- Whether the group of a channel is powered (R333). -/
def State.groupOn (s : State) (ch : Nat) : Bool := s.mail.groups.getLsbD (ch / 8)

/-- Offset of a register of a channel page in SC space (R24, R327). -/
def mailOffset (ch reg : Nat) : Nat := 0x00040000 + ch * 0x1000 + reg

/-- An access to a channel page. A tenant view holds none (R442). -/
def State.onChannel (s : State) (r : Requester) (ch reg : Nat) (f : State → State) : State :=
  s.access r fun s =>
    match r with
    | .view _ _ => s.badAccess 1 (mailOffset ch reg)
    | _ => if 64 ≤ ch then s.badAccess 1 (mailOffset ch reg) else if s.groupOn ch then f s else s.emit (.unsupported r)

/-- SC_MB_NOTICE (R328, R332, R467). Log entry 35 (DEDUCED). -/
def execScMbNotice (r : Requester) (ch : Nat) (v : BitVec 64) (s : State) : Host.Outcome State Fault Refusal :=
  .next <| s.onChannel r ch 0 fun s =>
    if (s.chan ch).state != .idle || s.boot.stage == .failed then
      { s with mail := { s.mail with refused := satAdd 16 s.mail.refused 1 } }.emit (.errorResponse r)
    else
      let n := s.mail.accepted
      let s := s.modChan ch fun c =>
        { c with
          state := .pending, port := portOf r, opcode := bitsAt v.toNat 0 8, pagesM1 := bitsAt v.toNat 8 4,
          address := v.toNat / 4096 * 4096, serial := (c.serial + 1) % 65536, origin := identOf r, acceptCt := s.ctInt,
          acceptNs := s.time.now, acceptNo := n, takeCt := 0, serve := .none, message := none, gate := 0, bobbin := none,
          busyRetry := none, checkAt := none }
      { s with mail := { s.mail with accepted := n + 1 } }.settleMail

/-! ### The take (R345, R337) -/

/-- The order in which PENDING notices are taken: class, acceptance, channel. -/
def takesBefore (a b : Nat × Channel) : Bool :=
  let ca := opcodeClass a.2.opcode
  let cb := opcodeClass b.2.opcode
  ca < cb || (ca == cb && (a.2.acceptNo < b.2.acceptNo || (a.2.acceptNo == b.2.acceptNo && a.1 < b.1)))

/-- The notices that a Bobbin core may take: core 0 those of classes 1 and 2; none of class 4 at BUSY (R347); after a block
fatal those of class 1 (R402). Log entry 35 (DEDUCED). -/
def State.takeable (s : State) (bobbin : Nat) : List (Nat × Channel) :=
  s.mail.chans.filter fun e =>
    let k := opcodeClass e.2.opcode
    e.2.state == .pending && e.2.serve == .none && (bobbin != 0 || k ≤ 2) && !(s.mail.level == 2 && k == 4)
      && (!s.errs.fatal || k == 1)

/-- The first of some notices in the order of service. -/
def firstTaken : List (Nat × Channel) → Option (Nat × Channel)
  | [] => none
  | a :: t =>
    match firstTaken t with
    | none => some a
    | some b => if takesBefore b a then some b else some a

/-- Whether a Bobbin core is free. -/
def State.bobbinFree (s : State) (b : Nat) : Bool := s.mail.chans.all fun e => e.2.bobbin != some b

/-- Issue the read of a message (R334, R337). -/
def State.readMessage (s : State) (ch : Nat) : State :=
  s.viaPath (s.chan ch).port (.mailRead ch (s.chan ch).address 128)

/-- NOTICE_TAKE (R345). -/
def execNoticeTake (bobbin : Nat) (s : State) : Host.Outcome State Fault Refusal :=
  .next <| s.whenLive fun s =>
    if bobbin < 4 && s.boot.mailboxOn && s.bobbinFree bobbin && !s.ic.asleep then
      match firstTaken (s.takeable bobbin) with
      | none => s
      | some (ch, _) =>
        let s := s.modChan ch fun c => { c with state := .serving, serve := .reading, takeCt := s.ctInt, bobbin := some bobbin }
        (s.readMessage ch).settleMail
    else s

/-! ### S_BUSY (R347) -/

/-- RETRY_AFTER for a backlog `b` at CT `t`. Log entry 35 (DEDUCED). -/
def retryAfter (t b : Nat) : Nat := ceilDiv (t + 1000000 + 100000 * (b - 24)) 8192 * 8192

/-- BUSY_ANSWER (R347): the notices of class 4 that are PENDING are answered together. Their headers are read for TOKEN and
NOTIFY (R338). Log entry 35 (DEDUCED). -/
def execBusyAnswer (ch : Nat) (s : State) : Host.Outcome State Fault Refusal :=
  .next <| s.whenLive fun s =>
    let mine (c : Channel) : Bool := c.state == .pending && c.serve == .none && opcodeClass c.opcode == 4
    s.when (s.mail.level == 2 && mine (s.chan ch)) fun s =>
      let b := s.backlog
      let r := if s.time.state == .unlocked then 0 else retryAfter s.ctNow b
      let chs := (s.mail.chans.filter fun e => mine e.2).map (·.1)
      let s := chs.foldl (fun s ch =>
        (s.modChan ch fun c => { c with serve := .reading, takeCt := s.ctInt, busyRetry := some r }).readMessage ch) s
      { s with mail := { s.mail with busyAnswers := satAdd 16 s.mail.busyAnswers chs.length } }.settleMail

/-! ### The message (R335 to R337) -/

/-- What an S_BUSY answer takes from the header: OPCODE, TOKEN and NOTIFY. -/
def busyMessage (b : Bytes) : Message :=
  { opcode := le b 0 1, notify := le b 2 1, token := le b 8 8, notifyVector := le b 16 4, capZero := true, cap := parseCap []
    capBytes := [], partition := 0xFF, context := 0xFF, queue := 0xFFFF, object := 0, attrs := [], data := [] }

/-- The S_BUSY reply of a channel whose header has been read, or could not be. -/
def State.answerBusy (s : State) (ch retry : Nat) (d : ReadData) : State :=
  let s := match d with
    | .data b => s.modChan ch fun c => { c with message := some (busyMessage b) }
    | _ => s
  s.replyWith ch Detail.busy [] 0xFFFF 0 retry

/-- A message that was read: refused with OPCODE or FORMAT, or on to the check of its capability (R340, R341). -/
def State.takeMessage (s : State) (ch : Nat) (b : Bytes) : State :=
  let c := s.chan ch
  let s := s.modChan ch fun c => { c with message := some (busyMessage b) }
  if !opcodeKnown c.opcode then s.refuse ch Detail.opcode
  else
    match parseMessage c.opcode c.pagesM1 b with
    | .error (d, i) => s.refuseAttr ch d i
    | .ok m =>
      match m.formatBad with
      | some i => s.refuseAttr ch Detail.format i
      | none => s.modChan ch fun c => { c with message := some m, serve := if m.gated then .read else .allowed }

/-- MESSAGE_READ_DONE (R337). -/
def execMessageReadDone (ch : Nat) (d : ReadData) (s : State) : Host.Outcome State Fault Refusal :=
  .next <| s.whenLive fun s =>
    let c := s.chan ch
    s.when (c.serve == .reading) fun s =>
      match c.busyRetry with
      | some r => s.answerBusy ch r d
      | none =>
        match d with
        | .data b => s.takeMessage ch b
        | _ => s.refuse ch Detail.unreadable

/-! ### The capability check (R305) -/

/-- The first 16 bytes of the tag that a capability must carry (R303). Log entry 59 (DEDUCED). -/
def State.capTag (s : State) (b : Bytes) : Option (BitVec 128) :=
  s.sec.capKey.map fun k => (Config.hmac384 (bytesOf k) (b.take 32)).extractLsb' 0 128

/-- Whether the uses of a limited capability are spent, or the table has no room for it. -/
def Security.spent (x : Security) (c : Capability) : Bool :=
  c.uses != 0 && match x.uses.get? c.capId with
    | some u => c.uses ≤ u.used
    | none => 1024 ≤ x.uses.length

/-- The check of R305, in its order. Log entry 59 (DEDUCED). -/
def State.gateOf (s : State) (m : Message) (origin : BitVec 32) : Nat :=
  let c := m.cap
  if s.capTag m.capBytes != some c.tag || c.reserved || c.capId == 0 then 1
  else if c.requester != origin then 2
  else if c.notAfter != 0 && s.time.state == .unlocked then 3
  else if c.notAfter != 0 && c.notAfter < s.ctNow then 4
  else if !((rightOf m.opcode).all fun b => c.rights.getLsbD b) then 5
  else if !((s.actsOn m).all fun p => c.partitions.getLsbD p) then 6
  else if s.sec.spent c then 7
  else 0

/-- A use of a limited capability is counted. Log entry 59 (DEDUCED). -/
def Security.use (x : Security) (c : Capability) : Security :=
  if c.uses == 0 then x
  else
    let u := x.uses.getD c.capId { used := 0, notAfter := c.notAfter }
    { x with uses := x.uses.put c.capId { u with used := u.used + 1 } }

/-- CAPABILITY_CHECK (R305, R341). -/
def execCapabilityCheck (ch : Nat) (s : State) : Host.Outcome State Fault Refusal :=
  .next <| s.whenLive fun s =>
    let c := s.chan ch
    if c.state == .serving && c.serve == .read then
      match c.message with
      | none => s
      | some m =>
        let g := s.gateOf m c.origin
        let s := (s.modChan ch fun c => { c with gate := g }).icFire 4
        if g == 0 then { s with sec := s.sec.use m.cap }.modChan ch fun c => { c with serve := .allowed }
        else s.refuse ch Detail.gate
    else s

/-- CAPABILITY_EXPIRY (R305). Log entry 59 (DEDUCED). -/
def execCapabilityExpiry (capId : Nat) (s : State) : Host.Outcome State Fault Refusal :=
  .next <| s.whenLive fun s =>
    s.when ((s.sec.uses.get? capId).any fun u => u.notAfter != 0 && u.notAfter < s.ctNow) fun s =>
      { s with sec := { s.sec with uses := s.sec.uses.del capId } }

/-! ### Replies (R337) -/

/-- Tell the origin that its reply is posted (R335). Log entry 35 (DEDUCED). -/
def State.notify (s : State) (c : Channel) : State :=
  match c.message with
  | none => s
  | some m =>
    if m.notify == 1 then (s.sendVector 0 0xFF { mode := 1, entry := m.notifyVector }).1
    else if m.notify == 2 then
      (s.sendVector c.port 0xFF { mode := 2, endpoint := bitsAt c.origin.toNat 0 17, vector := m.notifyVector }).1
    else s

/-- REPLY_POSTED (R337). After the reply of a FW_REBOOT the block reboots (R344). Log entry 35 (DEDUCED). -/
def execReplyPosted (ch : Nat) (accepted : Bool) (s : State) : Host.Outcome State Fault Refusal :=
  .next <| s.whenLive fun s =>
    let c := s.chan ch
    s.when (c.serve == .replying) fun s =>
      let s := s.modChan ch fun c =>
        { c with
          state := .replied, serve := .none, replyStatus := c.header.status, replySerial := c.serial
          replyBytes := if accepted then 64 + c.body.length else 0, replyLost := !accepted, repliedNs := s.time.now
          message := none, bobbin := none, busyRetry := none }
      let s := (s.notify c).settleMail
      if c.header.opcode == 0x26 && c.header.status == Status.ok then s.reboot else s

/-- SC_MB_ACK (R329, R331). -/
def execScMbAck (r : Requester) (ch : Nat) (v : BitVec 32) (s : State) : Host.Outcome State Fault Refusal :=
  .next <| s.onChannel r ch 0x18 fun s =>
    s.when (v.getLsbD 0 && (s.chan ch).state == .replied && (identOf r == (s.chan ch).origin || s.isMgmt r)) fun s =>
      s.modChan ch fun c => { c with state := .idle }

/-- REPLY_HOLD_EXPIRY (R329). -/
def execReplyHoldExpiry (ch : Nat) (s : State) : Host.Outcome State Fault Refusal :=
  .next <| s.whenLive fun s =>
    s.when ((s.chan ch).state == .replied && (s.chan ch).repliedNs + 100000000 ≤ s.time.now) fun s =>
      s.modChan ch fun c => { c with state := .idle }

end Sys2Proof.Machine
end

