-- ==== Sys2Proof/Machine/StatusWords.lean ====
section
/-!
DEFINITION. The values of the block's registers, as their tables lay them out: identity (R27, R28), time (R136 to R138), boot
(R464), security (R325), mailbox (R330, R331, R349), errors (R388), power (R417), boundary (R403, R458 to R460), queue pages
(R178 to R180) and partition status pages (R206, R217, R218, R282, R291, R292, R425).
-/
namespace Sys2Proof.Machine

open Sys2Proof

def bit (b : Bool) (i : Nat) : Nat := if b then 2 ^ i else 0

/-! ### Identity and time -/

/-- SC_ID (R27). -/
def State.scId (s : State) : Nat :=
  blockCode + s.fuses.stepping.toNat * 2 ^ 16 + 2 * 2 ^ 24 + 1 * 2 ^ 32 + 1 * 2 ^ 40 + 3 * 2 ^ 48

/-- SC_CAP (R28). -/
def State.scCap (s : State) : Nat :=
  s.configCode + s.nClusters * 2 ^ 2 + s.nCores * 2 ^ 7 + s.nPorts * 2 ^ 16 + s.nFports * 2 ^ 22 + 64 * 2 ^ 25
    + 4095 * 2 ^ 32 + 16383 * 2 ^ 45

/-- STATE of R124. -/
def TimeState.code : TimeState → Nat
  | .unlocked => 0 | .locked => 1 | .holdover => 2 | .stepPending => 3

/-- HOLDOVER_US (R137). -/
def Time.holdoverUs (t : Time) : Nat :=
  if t.state = .holdover then min ((t.now - t.holdoverSince.getD t.now) / 1000) (2 ^ 32 - 1) else 0

/-- SC_CT_STATUS (R137). -/
def Time.statusWord (t : Time) : Nat :=
  t.state.code + bit t.timeStep 2 + bit t.holdoverSeen 3 + bit t.rejectedSeen 4 + bit t.slewing 5 + t.holdoverUs * 2 ^ 16
    + (if 65534 < t.bound then 0xFFFF else t.bound) * 2 ^ 48

/-- SC_CT_STEP: Δ in two's complement (R138). -/
def Time.stepWord (t : Time) : Nat := (BitVec.ofInt 64 t.stepDelta).toNat

/-- SC_CT_COUNTS (R138). -/
def Time.countsWord (t : Time) : Nat := t.steps + t.holdovers * 2 ^ 16 + t.rejected * 2 ^ 32

/-! ### Block status -/

/-- SC_BOOT (R464). -/
def Boot.word (b : Boot) : Nat :=
  b.stage.code + b.reason * 2 ^ 8 + b.mpReady.toNat * 2 ^ 16 + bit b.bridgeTrained 48 + bit b.doeOn 49 + bit b.mailboxOn 50
    + bit b.timeExpired 51

/-- SC_BAD_ACCESS (R29). -/
def BadAccess.word (b : BadAccess) : Nat := b.count + b.lastKind * 2 ^ 32 + b.lastOffset * 2 ^ 40

/-- SC_SEC_STATUS (R325). -/
def State.secWord (s : State) : Nat :=
  s.fuses.activeSlot.getD 0 + s.fuses.retired.toNat * 2 ^ 4 + s.fuses.rollback * 2 ^ 20 + bit s.fuses.debugLocked 27
    + bit s.sec.debugEnabled 28 + bit s.boot.fwVerified 29 + bit (!s.fuses.ownerBanks.isEmpty) 30 + s.boot.fwSvn * 2 ^ 32
    + s.sec.classB * 2 ^ 40 + s.fuses.signersRevoked.toNat * 2 ^ 48

/-- SC_MB_LOAD (R349). -/
def State.loadWord (s : State) : Nat :=
  s.backlog + s.mail.level * 2 ^ 8 + s.mail.busyAnswers * 2 ^ 16 + s.mail.refused * 2 ^ 32

/-- The bits of the clusters that satisfy a test. -/
def State.clusterBits (s : State) (t : Cluster → Bool) : Nat :=
  ((List.range s.nClusters).map fun c => bit (t (s.cluster c)) c).sum

/-- SC_ERR_STATUS (R388). -/
def State.errWord (s : State) : Nat :=
  s.clusterBits (·.quarantined) + bit s.errs.fatal 16 + s.errs.escalations * 2 ^ 24 + s.errs.recordsLost * 2 ^ 40

/-- SC_PWR_STATUS (R417). -/
def State.powerWord (s : State) : Nat :=
  s.power.issueSoft + s.issueNew * 2 ^ 5 + bit s.power.hardCap 10 + bit s.power.overSoft 11
    + s.clusterBits (·.throttled) * 2 ^ 16 + s.power.softCap * 2 ^ 32 + min s.power.hardEvents 65535 * 2 ^ 48

/-- SC_BRIDGE and SC_BRIDGE_CTL (R458); zero where the bridge is absent (R3). -/
def State.bridgeWord (s : State) : Nat :=
  let b := s.bridge
  if s.fuses.full then
    b.width01 + b.width10 * 2 ^ 2 + bit (b.retraining01 || b.retraining10) 4 + bit b.widthPending 5 + b.spares01 * 2 ^ 6
      + b.spares10 * 2 ^ 12 + b.retrains * 2 ^ 32 + b.replays * 2 ^ 48
  else 0

def State.bridgeCtlWord (s : State) : Nat := if s.fuses.full then s.bridge.widthReq else 0

/-- SC_FPORTn (R459). -/
def State.fportWord (s : State) (n : Nat) : Nat :=
  let f := s.fport n
  if n < s.nFports then f.state + bit f.encrypted 2 + f.heldEvents * 2 ^ 16 + f.timeouts * 2 ^ 32 else 0

/-- SC_SIGNALS (R460). -/
def Pins.word (p : Pins) : Nat := bit p.coolantOk 0 + bit p.hardCap 1 + bit p.tamper 2 + p.glitches * 2 ^ 16

/-- SC_PJOB (R403). -/
def Partition.jobWord (u : Partition) : Nat := u.jobGroup + u.sent * 2 ^ 32 + u.received * 2 ^ 48

/-! ### Mailbox channels -/

def ChState.code : ChState → Nat
  | .idle => 0 | .pending => 1 | .serving => 2 | .replied => 3

/-- SC_MB_STATE as the origin sees it, and as every other requester does (R330). -/
def Channel.stateWord (c : Channel) (sees : Bool) : Nat :=
  c.state.code + c.serial * 2 ^ 16 + if sees then c.port * 2 ^ 4 + c.opcode * 2 ^ 8 + c.origin.toNat * 2 ^ 32 else 0

/-- SC_MB_REPLY (R331). -/
def Channel.replyWord (c : Channel) (sees : Bool) : Nat :=
  if sees then c.replyStatus + c.replySerial * 2 ^ 16 + c.replyBytes * 2 ^ 32 + bit c.replyLost 49 else 0

/-- Whether a requester is the origin of a channel's last notice, or holds management authority. -/
def State.seesChannel (s : State) (r : Requester) (ch : Nat) : Bool :=
  s.isMgmt r || ((s.chan ch).serial != 0 && identOf r == (s.chan ch).origin && portOf r == (s.chan ch).port
    && !(match r with | .view _ _ => true | _ => false))

/-! ### Queue pages -/

/-- SC_QSTAT (R178). -/
def State.qstat (s : State) (q : Nat) : Nat :=
  let u := s.queue q
  u.state.code + u.epoch * 2 ^ 8 + u.attrs.ringLog2 * 2 ^ 16 + bit u.attrs.promiseOk 21 + bit u.pathFetch 22
    + bit u.pathStatus 23 + bit u.pathCompl 24 + bit u.intLost 25 + bit u.mgmtStop 26 + s.inflight q * 2 ^ 32

/-- SC_QTAIL (R179). -/
def Queue.tailWord (u : Queue) : Nat :=
  u.tail + (if u.state == .disabled then 0 else u.indexOf u.nextSeq) * 2 ^ 16 + u.pendingTail.getD 0 * 2 ^ 32
    + bit u.pendingTail.isSome 48

/-- A register of a queue page (R177); none at a reserved offset. -/
def State.queueReg (s : State) (q off : Nat) : Option Nat :=
  let u := s.queue q
  match off with
  | 0x00 => some 0
  | 0x08 => some (s.qstat q)
  | 0x10 => some u.tailWord
  | 0x18 => some u.admittedSeq
  | 0x20 => some u.retiredSeq
  | 0x28 => some u.tilesShown
  | 0x30 => some u.counts
  | 0x38 => some 0
  | _ => none

/-! ### Partition status pages -/

/-- SC_PADM_PARAM to SC_PADM_NEXT_HEM (R206). -/
def PAdm.word (a : PAdm) (i : Nat) : Nat :=
  let sat (bits v : Nat) : Nat := min v (2 ^ bits - 1)
  match i with
  | 0 => a.promiseLimit + a.startAllow * 2 ^ 8 + a.issueNew * 2 ^ 32
  | 1 => a.accepted
  | 2 => sat 16 a.refDeadline + sat 16 a.refEngine * 2 ^ 16 + sat 16 a.refMemory * 2 ^ 32 + sat 16 a.refOther * 2 ^ 48
  | 3 => sat 32 a.fallbacks + sat 16 a.broken * 2 ^ 32 + sat 16 a.overrun * 2 ^ 48
  | 4 => ((List.range 7).map fun c => sat 8 (a.byCause.getD (c + 1) 0) * 2 ^ (8 * c)).sum
  | _ => a.nextHem

/-- Sequence table entries of a partition, or of one of its contexts. -/
def State.seqCount (s : State) (p : Nat) (x : Option Nat) : Nat :=
  (s.seqs.filter fun e => e.2.state != 0 && e.2.partition == p && x.all (· == e.2.context)).length

/-- SC_PSCHED (R218). -/
def State.psched (s : State) (p : Nat) : Nat :=
  let u := s.part p
  u.sliceNs + u.seqLimit * 2 ^ 32 + s.seqCount p none * 2 ^ 48

/-- SC_PXLAT and SC_PATC (R282). -/
def State.pxlat (s : State) (p : Nat) : Nat :=
  let u := s.part p
  u.faultLimit 0 + (if s.nDies == 2 then u.faultLimit 1 else 0) * 2 ^ 32 + u.pxlatShown

def State.patc (s : State) (p : Nat) : Nat :=
  let u := s.part p
  u.atcLimit 0 + bit u.priOff 15 + (if s.nDies == 2 then u.atcLimit 1 else 0) * 2 ^ 16

/-- The telemetry counters (R425), by register. -/
def PTel.word (t : PTel) (i : Nat) : Nat :=
  let sat (bits v : Nat) : Nat := min v (2 ^ bits - 1)
  match i with
  | 0 => t.launches
  | 1 => t.tiles
  | 2 => t.near
  | 3 => t.cap
  | 4 => sat 32 (t.hits / 1024) + sat 32 (t.misses / 1024) * 2 ^ 32
  | 5 => sat 32 t.sampled + sat 32 t.diverged * 2 ^ 32
  | 6 => sat 32 t.elemSat + sat 16 t.scaleClamp * 2 ^ 32 + sat 16 t.nanOut * 2 ^ 48
  | _ => sat 16 t.partials + sat 16 t.poisoned * 2 ^ 16 + sat 16 t.translation * 2 ^ 32 + sat 16 t.quality * 2 ^ 48

/-- SC_PFAULT_CTX and SC_PFAULT_TOTAL (R282). -/
def Context.faultReg (c : Context) (total : Bool) : Nat :=
  if total then c.shownFaults else c.shownFlags + bit c.overflow 16 + bit c.ringBroken 17

/-- The accounting block of a context (R217). -/
def State.ctxReg (s : State) (c : Context) (i : Nat) : Option Nat :=
  let a := c.acctShown
  match i with
  | 0 => some (c.share + 2 ^ 16 + s.seqCount c.partition (some c.index) * 2 ^ 32)
  | 1 => some a.engine
  | 2 => some a.discard
  | 3 => some a.wait
  | 4 => some (min a.ordinary (2 ^ 32 - 1) + min a.forced (2 ^ 32 - 1) * 2 ^ 32)
  | 5 => some a.switchNs
  | _ => none

/-- A register of a partition status page (R291); none at a reserved offset. -/
def State.pageReg (s : State) (p off : Nat) : Option Nat :=
  let u := s.part p
  if off == 0 then some (s.pstat p)
  else if off == 8 then some (quadMask u.quads)
  else if 0x10 ≤ off && off < 0x30 then some (u.waysWord (off / 8 - 2))
  else if off == 0x30 then some u.keyWord
  else if off == 0x38 then some u.createCt
  else if off == 0x40 then some u.eventsWord
  else if 0x100 ≤ off && off < 0x130 then some (u.admShown.word ((off - 0x100) / 8))
  else if off == 0x140 then some (s.psched p)
  else if off == 0x200 then some (s.pxlat p)
  else if off == 0x208 then some (s.patc p)
  else if off == 0x300 then some u.watts
  else if off == 0x308 then some u.wattsAt
  else if 0x310 ≤ off && off < 0x350 then some (u.telShown.word ((off - 0x310) / 8))
  else if 0x800 ≤ off && off < 0xC00 then
    some (((s.ctx? (ctxKey p ((off - 0x800) / 16))).map fun c => c.faultReg (off % 16 == 8)).getD 0)
  else if 0x1000 ≤ off && off < 0x2000 then
    let i := off % 64 / 8
    if 6 ≤ i then none else some (((s.ctx? (ctxKey p ((off - 0x1000) / 64))).bind fun c => s.ctxReg c i).getD 0)
  else none

end Sys2Proof.Machine
end

