-- ==== Sys2Proof/Machine/Registers.lean ====
section
/-!
DEFINITION. Register accesses (R9, R10, R24 to R29): where an offset of SC space or of a tenant view leads (R24, R442), who
may reach it (R25, R295), what a read returns, and the writes to fields that have no row of their own: SC_CT_STATUS (R137),
SC_QSTAT (R178), SC_PJOB (R403), the MSI-X table (R368, R439), IC_SRC, IC_PRIMASK and IC_STATUS (R353, R364, R365) and
ERR_QSTAT (R387).
-/
namespace Sys2Proof.Machine

open Sys2Proof

/-! ### Where an offset leads -/

/-- The parts of SC space (R24). A readback lane has the number of SC space, or 16 + 16p + L for lane L of the view of Pp. -/
inductive Place where
  | reserved
  | ident (o : Nat)
  | status (o : Nat)
  | lane (key o : Nat)
  | chan (ch o : Nat)
  | queue (q o : Nat)
  | page (p o : Nat)
deriving DecidableEq, Repr

/-- SC space (R24). -/
def scPlace (off : Nat) : Place :=
  if off < 0x10000 then .ident off
  else if off < 0x20000 then .lane ((off - 0x10000) / 0x1000) (off % 0x1000)
  else if off < 0x30000 then .status (off - 0x20000)
  else if 0x40000 ≤ off && off < 0x80000 then .chan ((off - 0x40000) / 0x1000) (off % 0x1000)
  else if 0x1000000 ≤ off && off < 0x2000000 then .queue ((off - 0x1000000) / 0x1000) (off % 0x1000)
  else if 0x2000000 ≤ off && off < 0x2400000 then .page ((off - 0x2000000) / 0x10000) (off % 0x10000)
  else .reserved

/-- The tenant view of partition `p` (R442). -/
def viewPlace (p off : Nat) : Place :=
  if off < 0x1000 then .ident off
  else if off < 0x2000 then .status (off - 0x1000)
  else if 0x10000 ≤ off && off < 0x20000 then .lane (16 + 16 * p + (off - 0x10000) / 0x1000) (off % 0x1000)
  else if 0x20000 ≤ off && off < 0x30000 then .page p (off - 0x20000)
  else .reserved

def placeOf (r : Requester) (off : Nat) : Place :=
  match r with
  | .view _ p => viewPlace p off
  | _ => scPlace off

/-- Whether a register of the time and block status range lies at an offset of its page. -/
def isStatusReg (o : Nat) : Bool :=
  o < 0x28 || o == 0x40 || o == 0x48 || o == 0x100 || o == 0x200 || o == 0x300 || o == 0x308 || o == 0x400 || o == 0x500
    || (0x600 ≤ o && o < 0x638) || (0x800 ≤ o && o < 0xA00)

/-- Bytes of the register that holds an offset: 0 where the offset is reserved. -/
def State.regBytes (s : State) (a : Place) : Nat :=
  match a with
  | .reserved => 0
  | .ident o => if o < 16 then 8 else 0
  | .status o => if isStatusReg (o / 8 * 8) then 8 else 0
  | .lane _ o => if o < 0x18 || (0x40 ≤ o && o < 0x840) then 8 else 0
  | .chan _ o => if o < 0x18 then 8 else if o < 0x1C then 4 else 0
  | .queue _ o => if o < 4 || (0x38 ≤ o && o < 0x3C) then 4 else if 8 ≤ o && o < 0x38 then 8 else 0
  | .page p o => if (s.pageReg p (o / 8 * 8)).isSome then 8 else 0

/-! ### Who may reach it (R25, R295, R442) -/

/-- The view of a partition whose TDI the request reaches (R294, R295). Log entry 41 (DEDUCED). -/
def State.viewAdmits (s : State) (r : Requester) : Bool :=
  match r with
  | .view _ p => (s.part p).admits r
  | _ => true

/-- Whether a requester may make an access. Log entry 41 (DEDUCED). -/
def State.permits (s : State) (r : Requester) (write : Bool) (a : Place) : Bool :=
  s.viewAdmits r &&
    match a with
    | .reserved => true
    | .ident _ => !write
    | .status o => !write || (s.isMgmt r && (o / 8 * 8 == 8 || o / 8 * 8 == 0x608 || (0x800 ≤ o && o < 0xA00)))
    | .lane _ _ => true
    | .chan _ _ => true
    | .queue q _ => s.reachesQueue r q
    | .page p _ => !write && (s.part p).admits r && (s.isMgmt r || s.ofPart r p)

/-- Whether an access of `size` bytes is one that R26 accepts, at a register of `bytes` bytes; SC_MB_NOTICE takes 64-bit
writes alone (R328). -/
def sizeOk (a : Place) (write : Bool) (bytes off size : Nat) : Bool :=
  (size == 4 || size == 8) && off % size == 0 && size ≤ bytes
    && match a with
      | .chan _ o => !(o < 8) || (write && size == 8)
      | _ => true

/-- LAST_KIND of an access that R26 turns away (R29): 1 reserved offset, 2 not permitted, 3 misaligned or of a wrong size;
0 for an access that is served. Log entry 41 (DEDUCED). -/
def State.accessKind (s : State) (r : Requester) (write : Bool) (off size : Nat) : Nat :=
  let a := placeOf r off
  if s.regBytes a == 0 then 1
  else if !s.permits r write a then 2
  else if !sizeOk a write (s.regBytes a) off size then 3
  else 0

/-- An access to a channel of a powered-down group (R333). -/
def State.inDarkGroup (s : State) (r : Requester) (off : Nat) : Bool :=
  match placeOf r off with
  | .chan ch _ => !s.groupOn ch
  | _ => false

/-! ### What a read returns -/

/-- A register that only management sees (R29, R325, R349, R388, R417, R458, R464). -/
def State.forMgmt (s : State) (r : Requester) (v : Nat) : Nat := if s.isMgmt r then v else 0

/-- A register of the time and block status range. A tenant view shows the time registers alone (R442). -/
def State.statusReg (s : State) (r : Requester) (o : Nat) : Nat :=
  let view := match r with | .view _ _ => true | _ => false
  if o == 0 then s.ctNow
  else if o == 8 then s.time.statusWord
  else if o == 0x10 then s.time.stepWord
  else if o == 0x18 then s.time.stepAt
  else if o == 0x20 then s.time.countsWord
  else if view then 0
  else if o == 0x40 then s.forMgmt r s.boot.word
  else if o == 0x48 then s.forMgmt r s.boot.readyNs
  else if o == 0x100 then s.forMgmt r s.bad.word
  else if o == 0x200 then s.forMgmt r s.secWord
  else if o == 0x300 then s.mail.groups.toNat
  else if o == 0x308 then s.forMgmt r s.loadWord
  else if o == 0x400 then s.forMgmt r s.errWord
  else if o == 0x500 then s.forMgmt r s.powerWord
  else if o == 0x600 then s.forMgmt r s.bridgeWord
  else if o == 0x608 then s.forMgmt r s.bridgeCtlWord
  else if 0x610 ≤ o && o < 0x630 then s.forMgmt r (s.fportWord ((o - 0x610) / 8))
  else if o == 0x630 then s.forMgmt r s.pins.word
  else if 0x800 ≤ o && o < 0xA00 then
    let p := (o - 0x800) / 8
    if s.isMgmt r || s.ofPart r p then (s.part p).jobWord else 0
  else 0

/-- SC_RB_INDEX, SC_RB_STATUS, SC_RB_CT and SC_RB_DATA of a lane (R428, R429). -/
def State.laneReg (s : State) (r : Requester) (key o : Nat) : Nat :=
  let l := s.lane key
  let sees := s.isMgmt r || l.origin.any fun x => identOf x == identOf r
  if o == 0 then if sees then l.cls + l.item * 2 ^ 16 else 0
  else if o == 8 then
    l.state + l.serial * 2 ^ 24
      + if sees then l.result * 2 ^ 4 + l.bytes * 2 ^ 8 + ((l.origin.map identOf).getD 0).toNat * 2 ^ 32 else 0
  else if sees then if o == 0x10 then l.ct else if 0x40 ≤ o then le l.data (o - 0x40) 8 else 0
  else 0

/-- A register of a mailbox channel (R327 to R331). -/
def State.chanReg (s : State) (r : Requester) (ch o : Nat) : Nat :=
  let c := s.chan ch
  let sees := s.seesChannel r ch
  if o == 8 then c.stateWord sees else if o == 0x10 then c.replyWord sees else 0

/-- The view of a FREE partition reads as zero, its identity and time registers apart (R442). -/
def State.hiddenView (s : State) (r : Requester) : Bool :=
  match r with
  | .view _ p => (s.part p).state == .free
  | _ => false

/-- The value of the register that holds an offset, as a requester reads it. -/
def State.regValue (s : State) (r : Requester) (a : Place) : Nat :=
  match a with
  | .reserved => 0
  | .ident o => if o < 8 then s.scId else if o < 16 then s.scCap else 0
  | .status o => s.statusReg r (o / 8 * 8)
  | .lane key o => if s.hiddenView r then 0 else s.laneReg r key (o / 8 * 8)
  | .chan ch o => s.chanReg r ch (o / 8 * 8)
  | .queue q o => (s.queueReg q (o / 8 * 8)).getD 0
  | .page p o => if s.hiddenView r then 0 else (s.pageReg p (o / 8 * 8)).getD 0

/-- What a served read of `size` bytes returns (R10). -/
def State.readValue (s : State) (r : Requester) (off size : Nat) : BitVec 64 :=
  halfOf (if size == 8 then .whole else if off % 8 == 4 then .high else .low) (s.regValue r (placeOf r off))

/-- The registers whose read has a row of its own: it clears fields (R29, R180, R460). Log entry 62 (DEDUCED). -/
def readClears (a : Place) : Bool :=
  match a with
  | .status o => o / 8 * 8 == 0x100 || o / 8 * 8 == 0x630
  | .queue _ o => o / 8 * 8 == 0x30
  | _ => false

/-! ### SC accesses that R26 turns away, and plain reads -/

/-- The handling of R26 of an access of `kind`. Log entry 41 (DEDUCED). -/
def State.turnAway (s : State) (r : Requester) (write : Bool) (kind off : Nat) : State :=
  if write then s.badAccess kind off else s.badRead r kind off

/-- BAD_SC_ACCESS (R26, R29, R333). A read that R26 serves, of a register that the read does not change, returns its value
and changes nothing. -/
def execBadScAccess (r : Requester) (write : Bool) (offset size : Nat) (s : State) : Host.Outcome State Fault Refusal :=
  .next <| s.access r fun s =>
    if s.inDarkGroup r offset then s.emit (.unsupported r)
    else
      let k := s.accessKind r write offset size
      if k != 0 then s.turnAway r write k offset
      else s.when (!write && !readClears (placeOf r offset)) fun s => s.emit (.regValue r (s.readValue r offset size))

/-- SC_BAD_ACCESS_READ (R29). -/
def execScBadAccessRead (r : Requester) (half : Half) (s : State) : Host.Outcome State Fault Refusal :=
  .next <| s.access r fun s =>
    if !s.viewAdmits r then s.badRead r 2 0x100
    else
      let s' := s.emit (.regValue r (halfOf half (s.statusReg r 0x100)))
      if s.isMgmt r && readsLow half then { s' with bad := { s'.bad with count := 0 } } else s'

/-- SC_SIGNALS_READ (R460). -/
def execScSignalsRead (r : Requester) (half : Half) (s : State) : Host.Outcome State Fault Refusal :=
  .next <| s.access r fun s =>
    if !s.viewAdmits r then s.badRead r 2 0x630
    else
      let s' := s.emit (.regValue r (halfOf half (s.statusReg r 0x630)))
      if s.isMgmt r && readsLow half then { s' with pins := { s'.pins with glitches := 0 } } else s'

/-! ### Writes of SC space -/

/-- The value written, at its place in the register, and zero in the bits that the write does not reach. -/
def written (off size : Nat) (v : BitVec 64) : Nat :=
  if size == 8 then v.toNat else if off % 8 == 4 then v.toNat % 2 ^ 32 * 2 ^ 32 else v.toNat % 2 ^ 32

/-- SC_CT_STATUS (R137). Log entry 62 (DEDUCED). -/
def Time.clearSeen (t : Time) (w : Nat) : Time :=
  { t with timeStep := t.timeStep && !bitAt w 2, holdoverSeen := t.holdoverSeen && !bitAt w 3
           rejectedSeen := t.rejectedSeen && !bitAt w 4 }

/-- Half a word of SC_RB_INDEX: the fields change and no capture starts (R428, R429). -/
def Lane.writeIndex (l : Lane) (off : Nat) (w : Nat) : Lane :=
  if l.state == 1 then l
  else if off % 8 == 4 then { l with item := l.item % 2 ^ 16 + bitsAt w 32 16 * 2 ^ 16 }
  else { l with cls := bitsAt w 0 8, item := l.item / 2 ^ 16 * 2 ^ 16 + bitsAt w 16 16 }

/-- A served write to SC space (R9): registers whose writes have rows of their own stay as they are. Log entry 69 (DEDUCED). -/
def State.writeSc (s : State) (off size : Nat) (v : BitVec 64) (a : Place) : State :=
  let w := written off size v
  match a with
  | .status o =>
    if o / 8 * 8 == 8 then { s with time := s.time.clearSeen w }
    else if 0x800 ≤ o && o < 0xA00 && o % 8 < 4 then s.modPart ((o - 0x800) / 8) fun u => { u with jobGroup := bitsAt w 0 16 }
    else s
  | .lane key o => if o < 8 && size == 4 then s.modLane key fun l => l.writeIndex o w else s
  | .queue q o => if o / 8 * 8 == 8 && bitAt w 25 then s.modQueue q fun u => { u with intLost := false } else s
  | _ => s

/-- A register write to SC space or to a tenant view. -/
def State.scWrite (s : State) (r : Requester) (off size : Nat) (v : BitVec 64) : State :=
  s.access r fun s =>
    if s.inDarkGroup r off then s.emit (.unsupported r)
    else
      let k := s.accessKind r true off size
      if k != 0 then s.badAccess k off else s.writeSc off size v (placeOf r off)

/-! ### The MSI-X table and the function's configuration (R263, R368, R439) -/

/-- A doubleword of an MSI-X table entry. -/
def MsixEntry.write (e : MsixEntry) (dw : Nat) (v : BitVec 32) : MsixEntry :=
  match dw with
  | 0 => { e with address := BitVec.ofNat 64 (e.address.toNat / 2 ^ 32 * 2 ^ 32 + v.toNat) }
  | 1 => { e with address := BitVec.ofNat 64 (e.address.toNat % 2 ^ 32 + v.toNat * 2 ^ 32) }
  | 2 => { e with data := v }
  | _ => { e with masked := v.getLsbD 0 }

/-- One doubleword of BAR2; the Pending Bit Array is read-only. -/
def Msix.writeDword (m : Msix) (off : Nat) (v : BitVec 32) : Msix :=
  if off < 0x8000 then { m with entries := m.entries.put (off / 16) ((m.entries.getD (off / 16) {}).write (off % 16 / 4) v) }
  else m

/-- A write to BAR2; a mask that it clears lets pending messages go out. Log entry 10 (PRESUMED). -/
def State.writeBar2 (s : State) (off size : Nat) (v : BitVec 64) : State :=
  if !((size == 4 || size == 8) && off % size == 0) then s
  else
    let m := s.msix.writeDword off (BitVec.ofNat 32 v.toNat)
    let m := if size == 8 then m.writeDword (off + 4) (BitVec.ofNat 32 (v.toNat / 2 ^ 32)) else m
    { s with msix := m }.flushMsix

/-- The fields of the function's configuration that the spec names, at places of the model's own: 0 MSI-X Message Control
(bit 15 Enable, bit 14 Function Mask), 8 PRI Control (bit 0 Enable), 12 Outstanding Page Request Allocation.
Log entry 10 (PRESUMED). -/
def State.writeConfig (s : State) (off : Nat) (v : BitVec 64) : State :=
  if off == 0 then
    { s with msix := { s.msix with enable := v.getLsbD 15, funcMask := v.getLsbD 14 } }.flushMsix
  else if off == 8 then { s with pri := v.getLsbD 0 }
  else if off == 12 then { s with pageAlloc := v.toNat % 2 ^ 32 }
  else s

/-! ### Bobbin local space (R353, R363 to R365, R387) -/

/-- Whether R352 gives a source to a unit that the configuration lacks: its register reads zero and ignores writes (R3). -/
def absentSource (full : Bool) (n : Nat) : Bool := sourceListed true n && !sourceListed full n

/-- IC_SRC as it reads (R353). -/
def Src.word (r : Src) (n : Nat) : Nat :=
  bit r.enable 0 + bit (isLevelSource n) 1 + bit r.wake 2 + r.priority * 2 ^ 4 + r.target * 2 ^ 8
    + (match r.state with | .inactive => 0 | .pending => 1 | .active => 2 | .activePending => 3) * 2 ^ 16
    + bit r.level 18 + bit r.storm 19 + r.fires * 2 ^ 24

/-- IC_RUNPRI and the entries of the stack as they read (R365). -/
def IcCore.runWord (c : IcCore) : Nat :=
  c.running + c.stack.length * 2 ^ 5 + ((c.stack.head?.map (·.1)).getD 0) * 2 ^ 16

def IcCore.stackWord (c : IcCore) (i : Nat) : Nat :=
  match c.stack.reverse[i]? with
  | some (n, p) => n + p * 2 ^ 14
  | none => 0

/-- A write to IC_SRC. -/
def Src.written (r : Src) (w : Nat) : Src :=
  { r with enable := bitAt w 0, wake := bitAt w 2, priority := bitsAt w 4 4, target := bitsAt w 8 2
           storm := r.storm && !bitAt w 19 }

/-- A write to IC_SRC of source `n`; a candidate whose ENABLE it clears may still be returned for 40 ns (R360). -/
def Ic.writeSrc (c : Ic) (n w now : Nat) : Ic :=
  let r := c.src n
  let k := r.target
  let cand := (c.candidate k).any fun x => x.1 == n
  let c := if cand && !bitAt w 0 then { c with cores := c.cores.put k { c.core k with lingering := some (n, now) } } else c
  c.setSrc n (r.written w)

/-- IC_PRIMASK of core `k`: the live register, or the retained one during sleep (R362, R365). -/
def Ic.writePrimask (c : Ic) (k v : Nat) : Ic :=
  if c.asleep then { c with keptCores := c.keptCores.put k { c.keptCores.getD k {} with primask := v } }
  else { c with cores := c.cores.put k { c.core k with primask := v } }

/-- A write to Bobbin local space, at an address below 0x1000_0000. -/
def State.writeBobbin (s : State) (off size : Nat) (v : BitVec 64) : State :=
  let w := written off size v
  if !((size == 4 || size == 8) && off % size == 0) || off % 8 == 4 then s
  else if 0x0C010000 ≤ off && off < 0x0C012000 then
    let n := (off - 0x0C010000) / 8
    s.when (!absentSource s.fuses.full n) fun s => { s with ic := s.ic.writeSrc n w s.time.now }
  else if 0x0C001000 ≤ off && off < 0x0C001400 && off % 0x100 == 0x18 then
    { s with ic := s.ic.writePrimask ((off - 0x0C001000) / 0x100) (bitsAt w 0 5) }
  else if off == 0x0C000020 then
    { s with ic := { s.ic with sleepRefused := s.ic.sleepRefused && !bitAt w 0, restored := s.ic.restored && !bitAt w 1 } }
  else if 0x0C200000 ≤ off && (off - 0x0C200000) / 0x80 < 275 && off % 0x80 == 0x40 then
    let i := (off - 0x0C200000) / 0x80
    let q := s.errs.queue i
    { s with errs := { s.errs with queues := s.errs.queues.put i { q with overrun := q.overrun && !bitAt w 3 } } }
  else s

/-- REGISTER_WRITE (R9). Log entry 41 (DEDUCED). -/
def execRegisterWrite (r : Requester) (sp : Space) (offset size : Nat) (v : BitVec 64) (s : State) :
    Host.Outcome State Fault Refusal :=
  .next <|
    match sp with
    | .sc => s.scWrite r offset size v
    | .bar2 => s.whenLive fun s => match r with
      | .host _ => s.writeBar2 offset size v
      | _ => s
    | .config => s.whenLive fun s => match r with
      | .host _ => s.writeConfig offset v
      | _ => s
    | .bobbin => s.whenLive fun s => s.writeBobbin offset size v

end Sys2Proof.Machine
end

