-- ==== Sys2Proof/Machine/BridgeCmds.lean ====
section
/-!
DEFINITION. The die bridge after training (R453 to R456, R458): replays, retrainings, and width changes.
-/
namespace Sys2Proof.Machine

open Sys2Proof

/-- Act on a bridge that exists and is trained. -/
def State.onBridge (s : State) (f : State → State) : State := s.whenLive fun s => s.when (s.fuses.full && s.boot.bridgeTrained) f

/-- Whether a bundle is being retrained: bundle 0 leads from D0 to D1, bundle 1 back. -/
def Bridge.retraining (b : Bridge) (n : Nat) : Bool := if n == 0 then b.retraining01 else b.retraining10

/-- A retraining of a bundle starts, or is joined (R456). Log entry 46 (DEDUCED). -/
def Bridge.startRetrain (b : Bridge) (n : Nat) : Bridge :=
  if n == 0 then { b with retraining01 := true, replayAt01 := [] } else { b with retraining10 := true, replayAt10 := [] }

/-- The replays of a bundle within the last 1 ms of CT, with one more at `ct` (R453). -/
def Bridge.recent (b : Bridge) (n ct : Nat) : List Nat :=
  ct :: (if n == 0 then b.replayAt01 else b.replayAt10).filter fun t => ct ≤ t + 1000000

/-- A replay is counted; the sixteenth within 1 ms starts a retraining (R453). While CT is UNLOCKED no millisecond of CT
passes. Log entry 46 (DEDUCED). -/
def Bridge.replay (b : Bridge) (n ct : Nat) (locked : Bool) : Bridge :=
  let b := { b with replays := satAdd 16 b.replays 1 }
  if !locked || b.retraining n then b
  else
    let l := b.recent n ct
    if 16 ≤ l.length then b.startRetrain n
    else if n == 0 then { b with replayAt01 := l } else { b with replayAt10 := l }

/-- BRIDGE_FLIT_REPLAY (R379, R453): a flit fails, and `again` counts the replays that it has needed with this one. One that
fails after its fourth is a block fatal of the receiving die. Log entry 46 (DEDUCED). -/
def execBridgeFlitReplay (bundle again : Nat) (s : State) : Host.Outcome State Fault Refusal :=
  .next <| s.onBridge fun s =>
    if 4 < again then s.dieError (1 - bundle) 0
    else { s with bridge := s.bridge.replay bundle s.time.ct (s.time.state != .unlocked) }

/-- BRIDGE_RETRAIN_START (R454, R456): asked by the bridge logic of either end. -/
def execBridgeRetrainStart (bundle : Nat) (s : State) : Host.Outcome State Fault Refusal :=
  .next <| s.onBridge fun s => { s with bridge := s.bridge.startRetrain bundle }

/-- A bundle's retraining is over. -/
def Bridge.endRetrain (b : Bridge) (n : Nat) : Bridge :=
  let b := { b with retrains := satAdd 16 b.retrains 1 }
  if n == 0 then { b with retraining01 := false } else { b with retraining10 := false }

/-- BRIDGE_RETRAIN_END (R454). -/
def execBridgeRetrainEnd (t : BundleTest) (s : State) : Host.Outcome State Fault Refusal :=
  .next <| s.onBridge fun s =>
    s.when (s.bridge.retraining t.bundle) fun s =>
      let b := s.bridge.endRetrain t.bundle
      let w := if t.bundle == 0 then b.width01 else b.width10
      match trainedWidth t.goodLanes w with
      | some w => { s with bridge := b.tested t w }.icFire 420
      | none => ({ s with bridge := b.tested t w }.icFire 420).dieError (1 - t.bundle) 0

/-! ### SC_BRIDGE_CTL (R455, R458) -/

/-- A width is asked for: 3 is ignored. A width already in force leaves nothing pending. -/
def Bridge.askWidth (b : Bridge) (w : Nat) : Bridge :=
  if w == 3 then b else { b with widthReq := w, widthPending := b.width01 != w || b.width10 != w }

/-- The offset of SC_BRIDGE_CTL. Log entry 46 (DEDUCED). -/
def bridgeCtl : Nat := 0x20608

/-- A write to SC_BRIDGE_CTL: the width first noted, then a retraining of both bundles when RETRAIN is 1 (R456). -/
def State.writeBridgeCtl (s : State) (r : Requester) (v : BitVec 64) : State :=
  s.access r fun s =>
    match r with
    | .view _ _ => s.badAccess 2 0x1608
    | _ =>
      if !s.isMgmt r then s.badAccess 2 bridgeCtl
      else if !s.fuses.full then s
      else
        let b := s.bridge.askWidth (bitsAt v.toNat 0 2)
        { s with bridge := if v.getLsbD 2 && s.boot.bridgeTrained then (b.startRetrain 0).startRetrain 1 else b }

/-- WIDTH_REQ (R455). -/
def execWidthReq (r : Requester) (v : BitVec 64) (s : State) : Host.Outcome State Fault Refusal :=
  .next <| s.writeBridgeCtl r v

/-- RETRAIN (R454): a write with RETRAIN 1. -/
def execRetrain (r : Requester) (v : BitVec 64) (s : State) : Host.Outcome State Fault Refusal :=
  .next <| if v.getLsbD 2 then s.writeBridgeCtl r v else s

/-- The narrowest code that the good lanes of a bundle force (R454, R456). Log entry 46 (DEDUCED). -/
def widthFor (good w : Nat) : Nat := max w (if 1024 ≤ good then 0 else if 512 ≤ good then 1 else 2)

/-- Whether a partition with quads on both dies holds a calendar reservation (R455). -/
def State.bridgePromised (s : State) : Bool :=
  s.parts.any fun e =>
    e.2.state != .free && !e.2.holds.isEmpty
      && (e.2.quads.any fun q => dieOfCluster (clusterOfQuad q) == 0) && e.2.quads.any fun q => dieOfCluster (clusterOfQuad q) == 1

/-- BRIDGE_WIDTH_CHANGE (R455, R456): in a background slot, with no retraining under way; a change to 256 lanes stops at 512
while a promise stands across the dies. Log entry 46 (DEDUCED). -/
def execBridgeWidthChange (s : State) : Host.Outcome State Fault Refusal :=
  .next <| s.onBridge fun s =>
    let b := s.bridge
    s.when (b.widthPending && !b.retraining01 && !b.retraining10 && s.time.state != .unlocked && 7936 ≤ s.time.ct % 8192) fun s =>
      let wait := b.widthReq == 2 && s.bridgePromised
      let w := if wait then 1 else b.widthReq
      let b := { b with width01 := widthFor b.good01 w, width10 := widthFor b.good10 w, widthPending := wait }
      let s := { s with bridge := b }
      if wait then s else s.icFire 420

end Sys2Proof.Machine
end

