-- ==== Sys2Proof/Machine/Class1Cmds.lean ====
section
/-!
DEFINITION. Mailbox commands of class 1 (R343): resets, queue stops, the error log, and the repair of a folio (R396).
-/
namespace Sys2Proof.Machine

open Sys2Proof

/-- PARTITION_RESET, 0x10 (R344, R398). -/
def execPartitionReset (ch : Nat) (s : State) : Host.Outcome State Fault Refusal :=
  .next <| s.whenLive fun s =>
    s.serveChecked ch 0x10 (fun m => [s.partMissing m.partition,
        ⟨(s.part m.partition).state == .destroying, Detail.state, none⟩]) fun m s =>
      ((s.park ch).modPart m.partition fun u => { u with replyTo := u.replyTo ++ [ch] }).startReset m.partition .management

/-- QUEUE_RESET, 0x11 (R175). One asked for while the queue is being reset joins that reset. -/
def execQueueReset (ch : Nat) (s : State) : Host.Outcome State Fault Refusal :=
  .next <| s.whenLive fun s =>
    s.serveChecked ch 0x11 (fun m =>
        let u := s.queue m.queue
        let a := m.queueAttrs (u.newAttrs.getD u.attrs)
        inOrder ([s.partMissing m.partition, s.queueMissing m.partition m.queue, s.partNotActive m.partition,
            ⟨u.state == .draining && u.drainKind == 3, Detail.state, none⟩] ++ s.queueChecks m.partition m.queue a m)) fun m s =>
      let u := s.queue m.queue
      let a := m.queueAttrs (u.newAttrs.getD u.attrs)
      let s := s.park ch
      if u.state == .draining then s.modQueue m.queue fun u => { u with newAttrs := some a }
      else (s.drainQueue m.queue 1 (some a) .queueReset).track

/-- The checks of QUEUE_STOP. A stop that R295 imposes is not resumed by the command. -/
def State.stopChecks (s : State) (m : Message) : List Check :=
  [s.partMissing m.partition, s.queueMissing m.partition m.queue, ⟨1 < m.object, Detail.range, none⟩,
   ⟨m.object == 1 && (s.part m.partition).mgmtStop, Detail.state, none⟩]

/-- QUEUE_STOP, 0x12 with OBJECT 0 (R169). -/
def execQueueStop (ch : Nat) (s : State) : Host.Outcome State Fault Refusal :=
  .next <| s.whenLive fun s =>
    s.serveChecked ch 0x12 s.stopChecks fun m s => s.when (m.object == 0) fun s => (s.mgmtStopQueue m.queue).accept ch []

/-- QUEUE_STOP, 0x12 with OBJECT 1: the management resume (R169). -/
def execQueueStopResume (ch : Nat) (s : State) : Host.Outcome State Fault Refusal :=
  .next <| s.whenLive fun s =>
    s.serveChecked ch 0x12 s.stopChecks fun m s => s.when (m.object == 1) fun s => (s.mgmtResumeQueue m.queue).accept ch []

/-! ### The error log (R386, R389) -/

/-- Every stored record, in the order of RECORD_SEQ. -/
def Errors.stored (e : Errors) : List ErrRecord :=
  ((e.queues.map fun q => q.2.records).flatten).foldl (fun acc r => insertBy (fun a b => a.recordSeq < b.recordSeq) r acc) []

/-- Move every stored record into the firmware log. -/
def State.drainErrors (s : State) : State :=
  let full := (s.errs.queues.filter fun q => !q.2.records.isEmpty).map (·.1)
  let s : State := { s with errs :=
    { s.errs.toLog s.errs.stored with queues := s.errs.queues.mapV fun _ q => { q with records := [] } } }
  full.foldl (fun (s : State) i => s.icLevel (errSource i) false) s

/-- ERROR_LOG_READ, 0x13 (R389): the records that fit the message block, oldest first. -/
def execErrorLogRead (ch : Nat) (s : State) : Host.Outcome State Fault Refusal :=
  .next <| s.whenLive fun s =>
    s.serveChecked ch 0x13 (fun m => [⟨m.partition != 0xFF && (s.part m.partition).state == .free, Detail.notFound, none⟩])
      fun m s =>
        let s := s.drainErrors
        let mine := s.errs.log.filter fun r => m.partition == 0xFF || r.partition == m.partition
        let rs := mine.take (((s.chan ch).blockBytes - 72) / 64)
        s.accept ch (toLe 4 rs.length ++ toLe 4 s.errs.logDropped ++ (rs.map ErrRecord.bytes).flatten)

/-! ### FOLIO_REPAIR (R396) -/

/-- Words of a quarantine entry. -/
def Quarantine.wordsOf (x : Quarantine) : List Nat := if x.whole then List.range 65536 else x.words

/-- The quarantine entries of the pages that a version lists, with the words to repair. -/
def State.repairs (s : State) (i : Nat) (v : VSlot) : List (Nat × Nat) :=
  ((s.errs.quarantine.filter fun x => x.folio == i && v.pages.any fun e => e.2.addr == x.page).map fun x =>
    x.wordsOf.map fun w => (x.page, w)).flatten

/-- Entries whose every word is among the words repaired are removed, and versions that list no page with an entry leave
quarantine. -/
def State.endRepair (s : State) (i : Nat) (done : List (Nat × Nat)) : State :=
  let left := s.errs.quarantine.filter fun x => !(x.folio == i && x.wordsOf.all fun w => done.contains (x.page, w))
  let s := { s with errs := { s.errs with quarantine := left } }
  s.modFolio i fun f => { f with slots := f.slots.map fun v =>
    if v.repairBlocked || left.any fun x => v.pages.any fun e => e.2.addr == x.page then v else { v with quarantined := false } }

/-- FOLIO_REPAIR, 0x14 (R396). `source` holds the words of the source copy in the order of the entries, `readBack` the words
read back after the write. Log entry 40 (DEDUCED). -/
def execFolioRepair (ch : Nat) (source readBack : List (BitVec 288)) (s : State) : Host.Outcome State Fault Refusal :=
  .next <| s.whenLive fun s =>
    let version (m : Message) : Option (Nat × VSlot) :=
      (s.namedFolio m.object).bind fun x => (x.2.resolve (m.numOr 0x43 0)).map fun v => (x.1, v)
    let todo (m : Message) : List (Nat × Nat) := ((version m).map fun x => s.repairs x.1 x.2).getD []
    s.serveChecked ch 0x14 (fun m =>
        [⟨(version m).isNone, Detail.notFound, some (0x43, 0)⟩,
         ⟨(version m).any (fun x => !x.2.sourceValid || !x.2.quarantined)
            || source.length < (todo m).length || !(source.take (todo m).length).all hasData, Detail.state, none⟩,
         ⟨(version m).any fun x => x.2.repairBlocked, Detail.limit, none⟩]) fun m s =>
      match version m with
      | none => s
      | some (i, _) =>
        let ws := (todo m).zip source
        let s := ws.foldl (fun (s : State) x =>
          s.writeBack 0xFF 0 (x.1.1 + 32 * x.1.2) 32 [encodeWord (dataOf (deliverWord x.2))]) s
        let ok := (((todo m).zip readBack).takeWhile fun x => hasData x.2).map (·.1)
        (s.endRepair i ok).accept ch (toLe 4 ok.length)

end Sys2Proof.Machine
end

