-- ==== Sys2Proof/Machine/Class2Cmds.lean ====
section
/-!
DEFINITION. Mailbox commands of class 2 (R343): SPDM messages, attestation, keys, fuses, the reboot, requesters and owners.
-/
namespace Sys2Proof.Machine

open Sys2Proof

/-- The partition that a target field names; 0xFF names none. -/
def Message.signer (m : Message) : Option Nat := if m.partition == 0xFF then none else some m.partition

/-- Whether the origin of a channel may act for a partition: one of its requesters, or management (R341). -/
def State.mayActFor (s : State) (ch : Nat) (p : Option Nat) : Bool :=
  p.all fun p => s.isMgmt (s.chan ch).requester || s.ofPart (s.chan ch).requester p

/-- The checks of a target partition of SPDM_MESSAGE and ATTEST. -/
def State.signerChecks (s : State) (ch : Nat) (m : Message) : List Check :=
  [⟨m.signer.any fun p => (s.part p).state == .free, Detail.notFound, none⟩,
   ⟨!s.mayActFor ch m.signer, Detail.range, none⟩]

/-! ### SPDM_MESSAGE (R316, R336, R339) -/

/-- Thimble keeps the conversation of a channel under this number. Log entry 31 (DESIGN CHOICE). -/
def channelSession (ch : Nat) : Nat := 256 + ch

/-- Log entry 31 (DESIGN CHOICE). -/
def State.session (s : State) (n : Nat) : Session := s.sec.sessions.getD n { requester := 0 }
def State.setSession (s : State) (n : Nat) (x : Session) : State :=
  { s with sec := { s.sec with sessions := s.sec.sessions.put n x } }

/-- SPDM_MESSAGE, 0x20. A response that does not fit is kept for CHUNK_GET, and an ERROR of LargeResponse goes out. -/
def execSpdmMessage (ch : Nat) (s : State) : Host.Outcome State Fault Refusal :=
  .next <| s.whenLive fun s =>
    s.serveChecked ch 0x20 (s.signerChecks ch) fun m s =>
      let n := channelSession ch
      let full := Config.spdmContent "MAILBOX" s.free
      let x : Session := { s.session n with requester := (s.chan ch).origin, bound := m.signer }
      if s.replyFits ch full.length then (s.draw.setSession n x).accept ch full
      else
        let room := (s.chan ch).blockBytes - 64
        (s.draw.setSession n { x with large := full }).accept ch ((Config.spdmContent "LARGE_RESPONSE" s.free).take room)

/-! ### ATTEST (R317, R319, R339) -/

/-- ATTEST, 0x21. -/
def execAttest (ch : Nat) (s : State) : Host.Outcome State Fault Refusal :=
  .next <| s.whenLive fun s =>
    s.serveChecked ch 0x21 (fun m => s.signerChecks ch m ++ [⟨(s.signKey m.signer).isNone, Detail.state, none⟩]) fun m s =>
      if !s.replyFits ch 4576 then s.tooLong ch 4576
      else
        let r := s.report m.signer ((m.attr? 0x50 0).getD [])
        match s.signKey m.signer with
        | some k => s.accept ch (r ++ bytesOf (Config.ecdsaSign k r))
        | none => s

/-! ### Keys and fuses -/

/-- KEY_ZEROISE, 0x22 (R323, R344). A key change is refused while the TDI is locked or in RUN (R295). -/
def execKeyZeroise (ch : Nat) (s : State) : Host.Outcome State Fault Refusal :=
  .next <| s.whenLive fun s =>
    s.serveChecked ch 0x22 (fun m =>
        let u := s.part m.partition
        [s.partMissing m.partition, ⟨u.state == .destroying || u.tdi == .locked || u.tdi == .run, Detail.state, none⟩]) fun m s =>
      ((s.park ch).modPart m.partition fun u => { u with replyTo := u.replyTo ++ [ch] }).strike m.partition .management

/-- SLOT_RETIRE, 0x23 (R344): the retire fuse of the active slot is to be blown. -/
def execSlotRetireCommand (ch : Nat) (s : State) : Host.Outcome State Fault Refusal :=
  .next <| s.whenLive fun s =>
    s.serveChecked ch 0x23 (fun _ => [⟨s.sec.retiring.isSome || s.fuses.activeSlot.isNone, Detail.state, none⟩]) fun _ s =>
      let s := s.park ch
      { s with sec := { s.sec with retiring := s.fuses.activeSlot, retireReply := some ch } }

/-- SIGNER_REVOKE, 0x24 (R314, R344). -/
def execSignerRevoke (ch : Nat) (s : State) : Host.Outcome State Fault Refusal :=
  .next <| s.whenLive fun s =>
    s.serveChecked ch 0x24 (fun m =>
        [⟨3 < m.object, Detail.range, none⟩, ⟨m.object == s.boot.signer, Detail.state, none⟩]) fun m s =>
      { s with fuses := { s.fuses with
          signersRevoked := s.fuses.signersRevoked ||| BitVec.ofNat 4 (2 ^ m.object) } }.accept ch []

/-- ROLLBACK_ADVANCE, 0x25 (R315, R326). -/
def execRollbackAdvance (ch : Nat) (s : State) : Host.Outcome State Fault Refusal :=
  .next <| s.whenLive fun s =>
    s.serveChecked ch 0x25 (fun m => [⟨s.boot.fwSvn < m.object, Detail.range, none⟩]) fun m s =>
      let s := { s with fuses := { s.fuses with rollback := max s.fuses.rollback m.object } }
      s.accept ch (toLe 1 s.fuses.rollback)

/-- FW_REBOOT, 0x26 (R344): the reply goes out, and the block reboots once it is posted. -/
def execFwReboot (ch : Nat) (s : State) : Host.Outcome State Fault Refusal :=
  .next <| s.whenLive fun s => s.serveChecked ch 0x26 (fun _ => []) fun _ s => s.accept ch []

/-! ### REQUESTER_SET (R306) -/

/-- The identity that OBJECT names, and whether the command removes it. -/
def Message.identity (m : Message) : BitVec 32 := BitVec.ofNat 32 m.object
def Message.removes (m : Message) : Bool := bitAt m.object 32

/-- Whether OBJECT breaks the form of REQUESTER in R303: function 0, or a fabric endpoint up to 131,071. -/
def Message.identityBad (m : Message) : Bool :=
  2 ^ 33 ≤ m.object || !(m.identity == 0 || (bitAt m.identity.toNat 31 && bitsAt m.identity.toNat 17 14 == 0))

/-- REQUESTER_SET, 0x27 without bit 32: add. -/
def execRequesterSet (ch : Nat) (s : State) : Host.Outcome State Fault Refusal :=
  .next <| s.whenLive fun s =>
    s.serveChecked ch 0x27 (fun m =>
        [⟨m.identityBad, Detail.range, none⟩,
         ⟨!m.removes && !s.sec.requesters.contains m.identity && 16 ≤ s.sec.requesters.length, Detail.limit, none⟩]) fun m s =>
      s.when (!m.removes) fun s =>
        let rs := if s.sec.requesters.contains m.identity then s.sec.requesters else s.sec.requesters ++ [m.identity]
        { s with sec := { s.sec with requesters := rs } }.accept ch (toLe 1 rs.length)

/-- REQUESTER_SET, 0x27 with bit 32: remove. -/
def execRequesterSetRemove (ch : Nat) (s : State) : Host.Outcome State Fault Refusal :=
  .next <| s.whenLive fun s =>
    s.serveChecked ch 0x27 (fun m => [⟨m.identityBad, Detail.range, none⟩]) fun m s =>
      s.when m.removes fun s =>
        let rs := s.sec.requesters.filter (· != m.identity)
        { s with sec := { s.sec with requesters := rs } }.accept ch (toLe 1 rs.length)

/-- OWNER_SET, 0x28 (R304). -/
def execOwnerSet (ch : Nat) (s : State) : Host.Outcome State Fault Refusal :=
  .next <| s.whenLive fun s =>
    s.serveChecked ch 0x28 (fun _ => [⟨4 ≤ s.fuses.ownerBanks.length, Detail.limit, none⟩]) fun m s =>
      let n := s.fuses.ownerBanks.length
      let d := BitVec.ofNat 384 (le ((m.attr? 0x51 0).getD []) 0 48)
      { s with fuses := { s.fuses with ownerBanks := s.fuses.ownerBanks ++ [d] } }.accept ch (toLe 1 n)

end Sys2Proof.Machine
end

