-- ==== Sys2Proof/Machine/CtxCmds.lean ====
section
/-!
DEFINITION. Mailbox commands of class 3 on contexts, queues, inbound windows and power (R140, R213, R262, R278, R280, R333,
R413).
-/
namespace Sys2Proof.Machine

open Sys2Proof

/-! ### Contexts -/

/-- An outbound window descriptor (R278). -/
def outWindow (b : Bytes) : OutWindow :=
  { endpoint := le b 0 4, remote := le b 4 4, length := le b 8 8, wrights := bitsAt (le b 16 1) 0 2, ports := bitsAt (le b 17 1) 0 8 }

/-- Whether a descriptor breaks R278. -/
def State.windowBad (s : State) (b : Bytes) : Bool :=
  let w := outWindow b
  2 ^ 17 ≤ w.endpoint || w.length % 4096 != 0 || w.ports == 0 || 2 ^ s.nFports ≤ w.ports

/-- The windows that WINDOW records give, over those in force: an all-zero record removes its window (R342). -/
def Message.windowsOver (m : Message) (d : Tbl OutWindow) : Tbl OutWindow :=
  (m.all 0x13).foldl (fun t a => if allZero a.2 then t.del a.1 else t.put a.1 (outWindow a.2)) d

/-- The checks of WINDOW records: of FABRIC contexts only, and window 0 is never removed. -/
def State.windowChecks (s : State) (fabric : Bool) (m : Message) : List Check :=
  (m.all 0x13).map fun a =>
    ⟨!fabric || (if allZero a.2 then a.1 == 0 else s.windowBad a.2), Detail.range, some (0x13, a.1)⟩

/-- Whether a FAULT_RING value breaks R262: addresses in window 0 and aligned, 2^6 to 2^12 entries, a vector for a fabric
path. -/
def ringBad (b : Bytes) : Bool :=
  areaBad true 4096 (le b 0 8) || le b 8 1 < 6 || 12 < le b 8 1 || areaBad true 8 (le b 16 8) || !vectorOk (le b 24 4) 1

/-- Whether a partition already has a HOST context with a PASID (R262). -/
def State.pasidTaken (s : State) (p pasid : Nat) : Bool :=
  s.ctxs.any fun e => e.2.partition == p && !e.2.fabric && e.2.pasid == pasid

/-- The checks of CONTEXT_CREATE (R233, R262, R286). Log entry 37 (DEDUCED). -/
def State.contextChecks (s : State) (m : Message) : List Check :=
  let u := s.part m.partition
  let fabric := m.numOr 0x10 0 == 1
  [ s.partMissing m.partition, s.partNotActive m.partition,
    ⟨(s.ctx? (ctxKey m.partition m.context)).isSome, Detail.state, none⟩,
    ⟨(u.kind == 2 && 32 ≤ m.context) || (u.kind == 1 && s.ctxs.any fun e => e.2.partition == m.partition), Detail.range, none⟩,
    m.rangeOf 0x10 0 1,
    ⟨(m.num? 0x11).any fun v => fabric || v == 0 || 2 ^ 20 ≤ v || s.pasidTaken m.partition v, Detail.range, some (0x11, 0)⟩,
    ⟨m.outside 0x12 0 65535 || (u.kind == 1 && m.numOr 0x12 1 != 1), Detail.range, some (0x12, 0)⟩,
    ⟨(m.attr? 0x14 0).any fun b => !fabric || ringBad b, Detail.range, some (0x14, 0)⟩ ] ++ s.windowChecks fabric m

/-- The context that a message creates. -/
def Message.newContext (m : Message) : Context :=
  let ring := (m.attr? 0x14 0).getD []
  { partition := m.partition, index := m.context, fabric := m.numOr 0x10 0 == 1, pasid := m.numOr 0x11 0
    share := m.numOr 0x12 0, windows := m.windowsOver [], ringBase := le ring 0 8, ringLog2 := le ring 8 1
    consumerAddr := le ring 16 8, faultVector := guestVector (le ring 24 4) }

/-- CONTEXT_CREATE, 0x35 (R262). -/
def execContextCreate (ch : Nat) (s : State) : Host.Outcome State Fault Refusal :=
  .next <| s.whenLive fun s =>
    s.serveChecked ch 0x35 (fun m => inOrder (s.contextChecks m)) fun m s =>
      { s with ctxs := s.ctxs.put (ctxKey m.partition m.context) m.newContext }.accept ch []

/-- NOT_FOUND of a target context. -/
def State.contextMissing (s : State) (m : Message) : Check :=
  ⟨(s.ctx? (ctxKey m.partition m.context)).isNone, Detail.notFound, none⟩

/-- CONTEXT_DELETE, 0x36 (R232, R247): refused while the context owns a queue. Log entry 38 (DEDUCED). -/
def execContextDelete (ch : Nat) (s : State) : Host.Outcome State Fault Refusal :=
  .next <| s.whenLive fun s =>
    s.serveChecked ch 0x36 (fun m =>
        [s.partMissing m.partition, s.contextMissing m, s.partNotActive m.partition,
         ⟨(s.queuesOf m.partition).any fun q => (s.queue q).attrs.context == m.context, Detail.state, none⟩]) fun m s =>
      (s.deleteContext (ctxKey m.partition m.context)).accept ch []

/-- CONTEXT_SET, 0x37 (R213, R278): SHARE from the next frame boundary, windows at once. -/
def execContextSet (ch : Nat) (s : State) : Host.Outcome State Fault Refusal :=
  .next <| s.whenLive fun s =>
    s.serveChecked ch 0x37 (fun m =>
        let k := ctxKey m.partition m.context
        inOrder ([s.partMissing m.partition, s.contextMissing m, s.partNotActive m.partition,
            ⟨m.outside 0x12 0 65535 || ((s.part m.partition).kind == 1 && m.numOr 0x12 1 != 1), Detail.range, some (0x12, 0)⟩]
          ++ s.windowChecks ((s.ctx? k).any (·.fabric)) m)) fun m s =>
      (s.modCtx (ctxKey m.partition m.context) fun c =>
        { c with pendShare := (m.num? 0x12).orElse fun _ => c.pendShare, windows := m.windowsOver c.windows }).accept ch []

/-! ### Queues -/

/-- QUEUE_CREATE, 0x38 (R140, R161, R169). Log entry 38 (DEDUCED). -/
def execQueueCreate (ch : Nat) (s : State) : Host.Outcome State Fault Refusal :=
  .next <| s.whenLive fun s =>
    s.serveChecked ch 0x38 (fun m =>
        let u := s.part m.partition
        inOrder ([s.partMissing m.partition, s.partNotActive m.partition,
            ⟨m.queue < u.queueFirst || u.queueFirst + u.queueCount ≤ m.queue, Detail.range, none⟩,
            ⟨(s.queue m.queue).state != .disabled, Detail.state, none⟩]
          ++ s.queueChecks m.partition m.queue (m.queueAttrs {}) m)) fun m s =>
      let stop := (s.part m.partition).mgmtStop
      let s := s.modQueue m.queue fun u =>
        { (u.fresh (if stop then .stopped else .active) u.epoch s.time.now (m.queueAttrs {})) with
          partition := m.partition, mgmtStop := stop, intLost := false }
      ((s.writeWord m.queue false).pushWrite m.queue .eventInterrupt).accept ch (toLe 1 (s.queue m.queue).epoch)

/-- QUEUE_DELETE, 0x39 (R169): the reply comes when the queue is DISABLED. Log entry 38 (DEDUCED). -/
def execQueueDelete (ch : Nat) (s : State) : Host.Outcome State Fault Refusal :=
  .next <| s.whenLive fun s =>
    s.serveChecked ch 0x39 (fun m =>
        [s.partMissing m.partition, s.queueMissing m.partition m.queue, s.partNotActive m.partition]) fun m s =>
      let s := s.park ch
      if (s.queue m.queue).state == .draining then s.modQueue m.queue fun u => { u with drainKind := 3 }
      else (s.drainQueue m.queue 3 none .queueReset).track

/-! ### Inbound windows (R280, R342) -/

/-- The window that an INBOUND_WINDOW value describes. Log entry 39 (DEDUCED). -/
def inWindow (p : Nat) (b : Bytes) : InWindow :=
  { ident := le b 0 4, partition := p, context := le b 6 1, folio := le b 5 1 == 1, target := le b 8 8, version := le b 16 4
    length := le b 24 8, read := bitAt (le b 4 1) 0, write := bitAt (le b 4 1) 1
    endpoints := ([0, 1, 2, 3].map fun i => le b (32 + 4 * i) 4).filter (· != 0) }

/-- The folio and version that a window names, when its context holds the version open. -/
def State.windowVersion (s : State) (w : InWindow) : Option (Nat × Nat) :=
  (s.namedFolio w.target).bind fun x => (x.2.resolve w.version).bind fun v =>
    if (s.ctx? (ctxKey w.partition w.context)).any fun c => (c.openOf x.1 v.version).isSome then some (x.1, v.version) else none

/-- Whether a pool window lies in the partition's extents, with the rights that it gives (R280). -/
def State.poolWindowOk (s : State) (w : InWindow) : Bool :=
  s.holdsRight w.partition (fun x => x.rMask ||| x.wMask) w.target w.length
    && (!w.read || s.holdsRight w.partition (·.rMask) w.target w.length)
    && (!w.write || s.holdsRight w.partition (·.wMask) w.target w.length)

/-- The checks of a window that is set. Log entry 39 (DEDUCED). -/
def State.inWindowChecks (s : State) (w : InWindow) (b : Bytes) : List Check :=
  let blame : Option (Nat × Nat) := some (0x32, 0)
  let f := s.namedFolio w.target
  [ ⟨w.folio && (f.isNone || 64 ≤ w.context || (s.ctx? (ctxKey w.partition w.context)).isNone), Detail.notFound, blame⟩,
    ⟨1 < le b 5 1 || w.endpoints.any (2 ^ 17 ≤ ·) || (!w.folio && !s.poolWindowOk w)
      || (w.folio && f.any fun x => x.2.length < w.length), Detail.range, blame⟩,
    ⟨w.folio && (s.windowVersion w).isNone, Detail.state, blame⟩ ]

/-- INBOUND_WINDOW_SET, 0x3D. An entry of another partition is not touched. Log entry 39 (DEDUCED). -/
def execInboundWindowSet (ch : Nat) (s : State) : Host.Outcome State Fault Refusal :=
  .next <| s.whenLive fun s =>
    let value (m : Message) : Bytes := (m.attr? 0x32 0).getD []
    s.serveChecked ch 0x3D (fun m =>
        let b := value m
        let old := s.inbound.get? m.object
        inOrder ([s.partMissing m.partition, s.partNotActive m.partition, ⟨1024 ≤ m.object, Detail.range, none⟩,
            ⟨allZero b && !(old.any fun w => w.partition == m.partition), Detail.notFound, none⟩,
            ⟨old.any fun w => w.partition != m.partition, Detail.state, none⟩]
          ++ if allZero b then [] else s.inWindowChecks (inWindow m.partition b) b)) fun m s =>
      let s := s.dropWindows fun k _ => k == m.object
      if allZero (value m) then s.accept ch []
      else
        let w := inWindow m.partition (value m)
        match if w.folio then s.windowVersion w else none with
        | some (i, v) =>
          ({ s with inbound := s.inbound.put m.object { w with target := i, version := v } }.modFolio i fun f =>
            f.modSlot v fun x => { x with opens := x.opens + 1 }).accept ch []
        | none => { s with inbound := s.inbound.put m.object w }.accept ch []

/-! ### Power -/

/-- POWER_CAP_SET, 0x3E (R413). -/
def execPowerCapSet (ch : Nat) (s : State) : Host.Outcome State Fault Refusal :=
  .next <| s.whenLive fun s =>
    s.serveChecked ch 0x3E (fun m => [m.rangeOf 0x52 400 1150]) fun m s =>
      { s with power := { s.power with pendCap := m.num? 0x52 } }.accept ch []

/-- MB_GROUP_POWER, 0x3F (R333): group 0 stays powered. -/
def execMbGroupPower (ch : Nat) (s : State) : Host.Outcome State Fault Refusal :=
  .next <| s.whenLive fun s =>
    s.serveChecked ch 0x3F (fun m =>
        [⟨256 ≤ m.object, Detail.range, none⟩,
         ⟨s.mail.chans.any fun e => e.2.state != .idle && 8 ≤ e.1 && s.mail.groups.getLsbD (e.1 / 8) && !bitAt m.object (e.1 / 8),
          Detail.state, none⟩]) fun m s =>
      let g := BitVec.ofNat 8 m.object ||| 1
      { s with mail := { s.mail with groups := g } }.accept ch (toLe 1 g.toNat)

end Sys2Proof.Machine
end

