-- ==== Sys2Proof/Machine/PartCmds.lean ====
section
/-!
DEFINITION. Mailbox commands of class 3 on partitions (R284 to R290): creation, destruction, layout, parameters, regulators.
-/
namespace Sys2Proof.Machine

open Sys2Proof

/-! ### PARTITION_CREATE, 0x30 -/

/-- The kind that a message names; a kind fits its partition (R285). -/
def Message.kind (m : Message) : Nat := m.numOr 0x01 0
def kindBad (p kind : Nat) : Bool := if p == 63 then kind != 2 else 1 < kind

/-- The partition as PARTITION_CREATE makes it, before its keys. Log entry 37 (DEDUCED). -/
def State.created (s : State) (m : Message) : Partition :=
  let r := m.rangeOr (0, 0)
  { state := .active, kind := m.kind, quads := m.quadsOr [], ways := m.waysOver [], queueFirst := r.1, queueCount := r.2
    regs := (m.all 0x0B).foldl (fun t a => t.put a.1 (regulatorOf a.2)) []
    promiseLimit := m.numOr 0x05 12, startAllow := m.numOr 0x06 40960, sliceNs := m.numOr 0x07 (s.sliceDefault m.kind)
    seqLimit := m.numOr 0x08 0, atcQuota := s.quotasOver m 0x09 [], faultQuota := s.quotasOver m 0x0A []
    createCt := s.ctNow }

/-- PARTITION_CREATE (R288, R289). -/
def execPartitionCreate (ch : Nat) (s : State) : Host.Outcome State Fault Refusal :=
  .next <| s.whenLive fun s =>
    s.serveChecked ch 0x30 (fun m =>
        inOrder (⟨kindBad m.partition m.kind, Detail.range, some (0x01, 0)⟩ ::
          (s.layoutChecks m.partition (m.quadsOr []) (m.waysOver []) m ++ [s.rangeCheck m.partition (m.rangeOr (0, 0))]
            ++ s.paramChecks m.partition m.kind m ++ s.regulatorChecks m.partition (m.quadsOr []) m
            ++ [⟨(s.part m.partition).state != .free, Detail.state, none⟩]))) fun m s =>
      let s := ({ s with parts := s.parts.put m.partition (s.created m) } : State).newInstance m.partition
      let u := s.part m.partition
      s.accept ch (toLe 4 u.keyId ++ toLe 4 u.keyCheck)

/-- PARTITION_DESTROY, 0x31 (R288). Log entry 26 (DEDUCED). -/
def execPartitionDestroy (ch : Nat) (s : State) : Host.Outcome State Fault Refusal :=
  .next <| s.whenLive fun s =>
    s.serveChecked ch 0x31 (fun m => [s.partMissing m.partition]) fun m s => s.startDestroy m.partition (some ch)

/-! ### LAYOUT_CHANGE, 0x32 -/

/-- The layout that a change asks for, over the one that is pending or in force. -/
def Message.newLayout (m : Message) (u : Partition) : LayoutChange :=
  { quads := m.quadsOr ((u.pendLayout.map (·.quads)).getD u.quads)
    ways := m.waysOver ((u.pendLayout.map (·.ways)).getD u.ways) }

/-- Whether a message changes quads or ways. -/
def Message.relays (m : Message) : Bool := m.has 0x02 || m.has 0x03

/-- A removal waits for no launch: it is refused while one is placed in its cluster (R288). -/
def State.removalBlocked (s : State) (p : Nat) (l : LayoutChange) : Bool :=
  (List.range s.nClusters).any fun c => (s.part p).losesIn l c && s.placedIn p c

/-- Whether a queue outside a range is not DISABLED. -/
def State.queueOutside (s : State) (p : Nat) (r : Nat × Nat) : Bool :=
  (s.queuesOf p).any fun q => q < r.1 || r.1 + r.2 ≤ q

/-- LAYOUT_CHANGE (R288, R290). -/
def execLayoutChange (ch : Nat) (s : State) : Host.Outcome State Fault Refusal :=
  .next <| s.whenLive fun s =>
    s.serveChecked ch 0x32 (fun m =>
        let u := s.part m.partition
        let l := m.newLayout u
        let r := m.rangeOr (u.queueFirst, u.queueCount)
        let layout : List Check := if m.relays then
            s.layoutChecks m.partition l.quads l.ways m ++ [⟨u.sharesOutside l.quads, Detail.range, some (0x02, 0)⟩] else []
        inOrder ([s.partMissing m.partition, s.partNotActive m.partition, ⟨u.tdi != .unlocked, Detail.state, none⟩]
          ++ layout ++ [s.rangeCheck m.partition r,
            ⟨m.relays && s.removalBlocked m.partition l, Detail.state, some (0x02, 0)⟩,
            ⟨s.queueOutside m.partition r, Detail.state, some (0x04, 0)⟩])) fun m s =>
      let u := s.part m.partition
      let l := m.newLayout u
      let r := m.rangeOr (u.queueFirst, u.queueCount)
      (s.modPart m.partition fun u =>
        { u with queueFirst := r.1, queueCount := r.2, pendLayout := if m.relays then some l else u.pendLayout }).accept ch []

/-! ### Parameters -/

/-- PARTITION_SET, 0x33 (R186, R215): admission parameters and SLICE_NS take effect at the next frame boundary, the others
at once. -/
def execPartitionSet (ch : Nat) (s : State) : Host.Outcome State Fault Refusal :=
  .next <| s.whenLive fun s =>
    s.serveChecked ch 0x33 (fun m =>
        inOrder ([s.partMissing m.partition, s.partNotActive m.partition]
          ++ s.paramChecks m.partition (s.part m.partition).kind m)) fun m s =>
      (s.modPart m.partition fun u =>
        { u with
          pendLimit := (m.num? 0x05).orElse fun _ => u.pendLimit
          pendAllow := (m.num? 0x06).orElse fun _ => u.pendAllow
          pendSlice := (m.num? 0x07).orElse fun _ => u.pendSlice
          seqLimit := m.numOr 0x08 u.seqLimit
          atcQuota := s.quotasOver m 0x09 u.atcQuota, faultQuota := s.quotasOver m 0x0A u.faultQuota }).accept ch []

/-- A regulator with a change of its parameters pending (R93): a lowered SHARE waits for the launches admitted so far. -/
def Regulator.request (g n : Regulator) (admitted : Nat) : Regulator :=
  { g with pendShare := some n.share, pendCeiling := some n.ceiling, pendBurst := some n.burst
           lowerAfter := if n.share < g.share then some admitted else none }

/-- Quads that a partition holds now and after a layout change that is pending. -/
def Partition.lastingQuads (u : Partition) : List Nat :=
  u.quads.filter fun n => u.pendLayout.all fun l => quadsInCluster l.quads (clusterOfQuad n) != 0

/-- REGULATOR_SET, 0x34 (R90, R93). -/
def execRegulatorSet (ch : Nat) (s : State) : Host.Outcome State Fault Refusal :=
  .next <| s.whenLive fun s =>
    s.serveChecked ch 0x34 (fun m =>
        inOrder ([s.partMissing m.partition, s.partNotActive m.partition]
          ++ s.regulatorChecks m.partition (s.part m.partition).lastingQuads m)) fun m s =>
      (s.modPart m.partition fun u =>
        { u with regs := (m.all 0x0B).foldl (fun t a =>
            t.put a.1 ((t.getD a.1 {}).request (regulatorOf a.2) s.admitted)) u.regs }).accept ch []

end Sys2Proof.Machine
end

