-- ==== Sys2Proof/Machine/Readback.lean ====
section
/-!
DEFINITION. The readback window (R428 to R434): who may read an item, what each class holds, and captures.
-/
namespace Sys2Proof.Machine

open Sys2Proof

/-! ### Authority (R430) -/

/-- For whom an item is read: management, one partition's scope P (R435), or a requester. -/
inductive Reader where
  | mgmt
  | part (p : Nat)
  | req (r : Requester)
deriving DecidableEq, Repr

/-- The scope that an item needs: anyone, the context of a key, some of the partitions, or management. -/
inductive Scope where
  | anyone
  | context (k : Nat)
  | parts (mask : BitVec 64)
  | mgmt
deriving DecidableEq, Repr

/-- Whether a reader has management authority. -/
def State.readerMgmt (s : State) (rd : Reader) : Bool :=
  match rd with
  | .mgmt => true
  | .part _ => false
  | .req r => s.isMgmt r

/-- Whether a reader is one of partition `p`. -/
def State.readerOf (s : State) (rd : Reader) (p : Nat) : Bool :=
  match rd with
  | .mgmt => true
  | .part n => n == p
  | .req r => s.isMgmt r || s.ofPart r p

/-- The partitions of a reader, as a mask. -/
def State.readerMask (s : State) (rd : Reader) : BitVec 64 :=
  BitVec.ofNat 64 (((List.range 64).map fun p => if s.readerOf rd p then 2 ^ p else 0).sum)

/-- Whether a reader holds a scope. -/
def State.holdsScope (s : State) (rd : Reader) (sc : Scope) : Bool :=
  s.readerMgmt rd || match sc with
    | .anyone => true
    | .context k => s.readerOf rd (k / 64) || (match rd with
        | .req r => (s.ctx? k).any fun c => boundTo r c
        | _ => false)
    | .parts mask => s.readerMask rd &&& mask != 0
    | .mgmt => false

/-- The scope of one partition. -/
def partScope (p : Nat) : Scope := .parts (BitVec.ofNat 64 (2 ^ p))

/-- A captured item: its scope, the number of its bytes, and its content. -/
structure Item where
  scope : Scope
  data  : Bytes
deriving DecidableEq, Repr

/-! ### The items (R431 to R434) -/

/-- IDENT. -/
def State.identItem (s : State) : Item :=
  { scope := .anyone
    data := toLe 4 s.boot.microcodeRev ++ toLe 4 s.boot.fwVersion ++ toLe 1 s.boot.fwSvn ++ zeros 7
      ++ toLe 48 s.boot.microcodeDigest.toNat }

/-- The scope of a queue's items: that of the context that owns it. -/
def State.queueScope (s : State) (q : Nat) : Scope :=
  let u := s.queue q
  if u.state == .disabled then .mgmt else .context (ctxKey u.partition u.attrs.context)

/-- The attributes of R140, as R342 encodes them. -/
def QueueAttrs.words (a : QueueAttrs) : List Nat :=
  [a.context, a.format, a.ringBase, a.ringLog2, a.statusBase, a.completion, a.path + a.pathEndpoint * 2 ^ 32
  , bit a.promiseOk 0, a.maxInflight, a.dbRate, a.complVector.bits, a.eventVector.bits]

/-- SUBMITTED_SEQ (R432). -/
def Queue.submitted (u : Queue) : Nat := u.nextSeq - 1 + if u.state == .disabled then 0 else u.unfetched u.tail

/-- A QUEUE item (R432); under management authority the live count of tiles (R430). -/
def State.queueItem (s : State) (live : Bool) (q : Nat) : Item :=
  let u := s.queue q
  { scope := s.queueScope q
    data := (([s.qstat q, u.tailWord, u.admittedSeq, u.retiredSeq, if live then u.tiles else u.tilesShown, u.counts, u.submitted
      , if u.state == .blocked then u.blockPoint else 0] ++ u.attrs.words).map (toLe 8)).flatten }

/-- QUEUE_LAUNCHES. -/
def State.launchesItem (s : State) (q : Nat) : Item :=
  { scope := s.queueScope q
    data := ((s.slots.filter fun e => e.queue == q && e.admitted).map fun e => toLe 2 e.entry).flatten }

/-- LSTATE (R433). -/
def Slot.lstate (e : Slot) : Nat :=
  if e.state == .finished then 4 else if e.switched then 3 else if e.firstStart.isSome then 2 else 1

/-- The handle of the graph that a launch is bound to. -/
def State.slotGraph (s : State) (e : Slot) : Nat :=
  match e.image, s.graphs.get? e.graph with
  | some _, some g => mkGraphHandle e.graph g.owner g.generation
  | _, _ => 0

/-- A LAUNCH item (R433). -/
def State.launchItem (s : State) (n : Nat) : Item :=
  match s.slots.find? fun e => e.admitted && e.entry == n with
  | none => { scope := .mgmt, data := zeros 64 }
  | some e =>
    let done := e.state == .finished
    { scope := .context (ctxKey e.partition e.context)
      data := toLe 2 e.queue ++ toLe 1 e.lstate ++ toLe 1 (if e.promised then 1 else 0) ++ toLe 2 e.variant ++ toLe 2 e.phases
        ++ toLe 8 e.seq ++ toLe 8 (s.slotGraph e) ++ toLe 4 e.version ++ toLe 4 e.tilesDone
        ++ toLe 8 ((e.promise.map fun p => s.outScale p.deadline).getD 0)
        ++ toLe 8 ((e.promise.map fun p => s.outScale p.hem).getD 0)
        ++ toLe 4 e.guestTag ++ toLe 2 (if done then e.status else 0) ++ toLe 2 (if done then e.cause else 0) ++ zeros 8 }

/-- The frame that slot `i` of a calendar holds (R187). -/
def State.frameOfSlot (s : State) (i : Nat) : Nat :=
  let f := frameOf s.time.ct
  f + (i + 4096 - f % 4096) % 4096

/-- A calendar entry (R189). -/
def calendarWord (hs : List Hold) (f c : Nat) : Nat :=
  min (engineHeld hs f c) (2 ^ 20 - 1) + min (nearHeld hs f c) (2 ^ 12 - 1) * 2 ^ 20
    + min (capHeld hs f c) (2 ^ 12 - 1) * 2 ^ 32 + min (holdersIn hs f c) (2 ^ 12 - 1) * 2 ^ 44

/-- A CALENDAR item. -/
def State.calendarItem (s : State) (n : Nat) : Item :=
  let p := bitsAt n 12 6
  let f := s.frameOfSlot (bitsAt n 0 12)
  { scope := partScope p
    data := toLe 8 (frameOf (s.outScale (8192 * f)))
      ++ ((List.range 16).map fun c => toLe 8 (calendarWord (s.part p).holds f c)).flatten }

/-- A SEQ_ENTRY item (R225). -/
def State.seqItem (s : State) (n : Nat) : Item :=
  match s.seqs.get? n with
  | none => { scope := .mgmt, data := zeros 64 }
  | some e =>
    if e.state == 0 then { scope := .mgmt, data := zeros 64 }
    else
      { scope := partScope e.partition
        data := toLe 8 e.key ++ toLe 2 e.group ++ toLe 1 e.state ++ toLe 1 e.home ++ toLe 1 e.context ++ toLe 1 e.partition
          ++ zeros 2 ++ toLe 4 e.position ++ toLe 4 e.maxPosition ++ toLe 4 e.waitSteps ++ zeros 4 ++ toLe 8 e.kvBase
          ++ toLe 8 e.kvBytes ++ toLe 8 e.sampling ++ toLe 8 e.lastStep }

/-- An AFFINITY item (R207). -/
def State.affinityItem (s : State) (n : Nat) : Item :=
  let p := bitsAt n 8 6
  { scope := partScope p
    data := match (s.part p).affinity.get? (bitsAt n 0 8) with
      | none => zeros 16
      | some a =>
        toLe 4 a.tag ++ toLe 8 (((List.range 16).map fun c => min (a.warmth.getD c 0) 15 * 2 ^ (4 * c)).sum) ++ zeros 4 }

/-- An EXTENT item (R236); a reader below management sees its own bits of the masks. -/
def State.extentItem (s : State) (rd : Reader) (n : Nat) : Item :=
  match s.extents.get? n with
  | none => { scope := .mgmt, data := zeros 64 }
  | some x =>
    let own := s.readerMask rd
    { scope := .parts (x.rMask ||| x.wMask ||| x.pubMask)
      data := toLe 8 x.base ++ toLe 4 x.granules ++ toLe 1 x.state.code ++ toLe 1 x.mcGroup ++ toLe 1 x.keyPartition
        ++ toLe 1 x.eflags ++ toLe 8 (x.rMask &&& own).toNat ++ toLe 8 (x.wMask &&& own).toNat ++ toLe 8 (x.pubMask &&& own).toNat
        ++ toLe 8 x.grant ++ toLe 8 x.fenceCt ++ zeros 8 }

/-- A version slot (R242). -/
def VSlot.bytes (v : VSlot) : Bytes :=
  toLe 4 v.version ++ toLe 4 v.base ++ toLe 1 v.vstate.code
    ++ toLe 1 (bit v.quarantined 0 + bit v.revoked 1 + bit v.sourceValid 2) ++ toLe 1 v.mirror ++ toLe 1 v.holderP
    ++ toLe 1 v.holderX ++ zeros 3 ++ toLe 4 v.opens ++ toLe 4 v.bound ++ toLe 8 v.source

/-- A FOLIO item (R241, R242). -/
def State.folioItem (s : State) (n : Nat) : Item :=
  match s.folios.get? n with
  | none => { scope := .mgmt, data := zeros 320 }
  | some f =>
    { scope := if f.length == 0 then .mgmt else .parts (f.readers ||| f.publishers)
      data := (toLe 8 (mkFolioHandle n f.owner f.generation) ++ toLe 8 f.length ++ toLe 8 f.readers.toNat
        ++ toLe 8 f.publishers.toNat ++ toLe 4 f.current ++ toLe 4 f.nextVersion ++ toLe 1 (bit f.duplex 0) ++ zeros 23)
        ++ ((List.range 8).map fun i => match f.slots[i]? with
          | some v => if v.live then v.bytes else zeros 32
          | none => zeros 32).flatten }

/-- State of a graph's version: 1 CURRENT, 2 SUPERSEDED, 3 UNREGISTERED. -/
def Graph.versionState (g : Graph) (v : GraphVersion) : Nat :=
  if !g.registered then 3 else if v.number == g.current then 1 else 2

/-- A GRAPH item. -/
def State.graphItem (s : State) (n : Nat) : Item :=
  let i := bitsAt n 0 12
  match s.graphs.get? i with
  | none => { scope := .mgmt, data := zeros 72 }
  | some g =>
    { scope := if g.registered || !g.versions.isEmpty then partScope g.owner else .mgmt
      data := toLe 8 (mkGraphHandle i g.owner g.generation) ++ match g.versions[bitsAt n 12 2]? with
        | none => zeros 64
        | some v => toLe 4 v.number ++ toLe 1 (g.versionState v) ++ zeros 3 ++ toLe 4 v.bound ++ zeros 4
            ++ toLe 48 v.image.digest.toNat }

/-- A CTX_ARITH item (R426); under management authority the live counts (R430). -/
def State.arithItem (s : State) (live : Bool) (n : Nat) : Item :=
  match s.ctx? (ctxKey (bitsAt n 6 6) (bitsAt n 0 6)) with
  | none => { scope := .mgmt, data := zeros 32 }
  | some c =>
    let a := if live then c.arith else c.arithShown
    let sat (v : Nat) : Bytes := toLe 4 (min v (2 ^ 32 - 1))
    { scope := partScope c.partition
      data := toLe 8 a.sampled ++ toLe 8 a.diverged ++ sat a.elemSat ++ sat a.scaleClamp ++ sat a.nanOut ++ sat a.nanIn }

/-- Outstanding gathers of a strand of a core. -/
def State.gathersOf (s : State) (k t : Nat) : Nat :=
  (s.reqs.filter fun e => e.2.who == .gather k t).length

/-- The partition that holds a core's quad. -/
def State.coreOwner (s : State) (k : Nat) : Option Nat := (s.parts.find? fun e => e.2.state != .free && e.2.hasCore k).map (·.1)

/-- A STRANDS item. The program offset lies in the opaque stitch code: a free value. -/
def State.strandsItem (s : State) (k : Nat) : Item :=
  let c := s.core k
  let offset := Config.freeBits 32 s.free
  let runs := c.mode != .free
  if s.nCores ≤ k then { scope := .anyone, data := zeros 528 }
  else
    { scope := match s.coreOwner k with | some p => partScope p | none => .mgmt
      data := toLe 2 k ++ toLe 2 (if runs then c.queue else 0xFFFF) ++ toLe 4 (if runs then c.tile else 0)
        ++ toLe 8 (if runs then c.seq else 0) ++ ((List.range 64).map fun t =>
          match c.strands.get? t with
          | none => zeros 8
          | some st => toLe 1 st.code ++ toLe 1 (s.gathersOf k t) ++ zeros 2 ++ toLe 4 offset).flatten }

/-- An ATC item (R434). -/
def State.atcItem (s : State) (rd : Reader) (n : Nat) : Item :=
  if s.nDies * atcPerDie ≤ n then { scope := .anyone, data := zeros 40 }
  else
    match s.atc.get? n with
    | none => { scope := .mgmt, data := zeros 40 }
    | some a =>
      let hide (v : Nat) : Nat := if a.folio && !s.readerMgmt rd then 0 else v
      { scope := partScope a.partition
        data := toLe 1 1 ++ toLe 1 (bit a.folio 0) ++ toLe 1 a.partition ++ toLe 1 a.pageLog2 ++ toLe 1 a.run
          ++ toLe 1 (bit a.read 0 + bit a.write 1) ++ toLe 1 (if a.pinned == 0 then 0 else 1) ++ zeros 1
          ++ toLe 8 (if a.folio then
              (match s.folios.get? a.tagA with | some f => mkFolioHandle a.tagA f.owner f.generation | none => 0) else a.tagA)
          ++ toLe 8 (if a.folio then a.version + a.first * 2 ^ 32 else a.first) ++ toLe 8 (hide a.target)
          ++ toLe 8 (if a.folio then hide a.mirror else 0) }

/-- An IC_STACK item (R365). -/
def State.stackItem (s : State) (k : Nat) : Item :=
  let c := if s.ic.asleep then s.ic.keptCores.getD k {} else s.ic.core k
  { scope := .mgmt
    data := toLe 8 c.runWord ++ toLe 8 c.primask ++ ((List.range 16).map fun i => toLe 4 (c.stackWord i)).flatten }

/-- A MAILBOX item; its fields show as R330 and R331 allow. -/
def State.mailItem (s : State) (rd : Reader) (ch : Nat) : Item :=
  let c := s.chan ch
  let sees := s.readerMgmt rd || (match rd with | .req r => s.seesChannel r ch | _ => false)
  let time (t : Nat) : Nat := if sees && t != 0 then s.outScale t else 0
  { scope := .anyone
    data := toLe 8 (c.stateWord sees) ++ toLe 8 (c.replyWord sees) ++ toLe 8 (time c.acceptCt) ++ toLe 8 (time c.takeCt) }

/-- An ERROR_QUEUE item. -/
def State.errorItem (s : State) (i : Nat) : Item :=
  let q := s.errs.queue i
  { scope := .mgmt
    data := toLe 8 q.stat ++ ((List.range 4).map fun j => match q.records[j]? with
      | some r => r.bytes
      | none => zeros 64).flatten }

/-- How many items a class has (R431); 0 for a value that is no class. -/
def classItems (cls : Nat) : Nat :=
  match cls with
  | 1 => 1 | 2 => 4096 | 3 => 4096 | 4 => 65536 | 5 => 2 ^ 18 | 6 => 16384 | 7 => 2 ^ 14 | 8 => 4096 | 9 => 16384
  | 10 => 2 ^ 14 | 11 => 2 ^ 12 | 12 => 256 | 13 => 2 ^ 15 | 14 => 4 | 15 => 64 | 16 => 275 | _ => 0

/-- An item of a class. Log entry 42 (DEDUCED). -/
def State.item (s : State) (rd : Reader) (cls n : Nat) : Item :=
  let live := s.readerMgmt rd
  match cls with
  | 1 => s.identItem
  | 2 => s.queueItem live n
  | 3 => s.launchesItem n
  | 4 => s.launchItem n
  | 5 => s.calendarItem n
  | 6 => s.seqItem n
  | 7 => s.affinityItem n
  | 8 => s.extentItem rd n
  | 9 => s.folioItem n
  | 10 => s.graphItem n
  | 11 => s.arithItem live n
  | 12 => s.strandsItem n
  | 13 => s.atcItem rd n
  | 14 => s.stackItem n
  | 15 => s.mailItem rd n
  | _ => s.errorItem n

/-- RESULT and the data of a capture (R428 to R430): 0 OK, 1 NO_CLASS, 2 NO_ITEM, 3 DENIED. Log entry 42 (DEDUCED). -/
def State.capture (s : State) (rd : Reader) (cls n : Nat) : Nat × Bytes :=
  if classItems cls == 0 then (1, [])
  else if classItems cls ≤ n then (2, [])
  else if s.holdsScope rd (s.item rd cls n).scope then (0, (s.item rd cls n).data)
  else (3, [])

/-! ### Captures (R429) -/

/-- The lane that a requester names. -/
def laneKey (r : Requester) (lane : Nat) : Nat :=
  match r with
  | .view _ p => 16 + 16 * p + lane
  | _ => lane

/-- Offset of SC_RB_INDEX of a lane, in SC space or in a view. -/
def laneOffset (lane : Nat) : Nat := 0x10000 + 0x1000 * lane

/-- SC_RB_INDEX (R429). -/
def execScRbIndex (r : Requester) (lane : Nat) (v : BitVec 64) (s : State) : Host.Outcome State Fault Refusal :=
  .next <| s.access r fun s =>
    if !s.viewAdmits r then s.badAccess 2 (laneOffset lane)
    else
      s.when ((s.lane (laneKey r lane)).state != 1) fun s =>
        s.modLane (laneKey r lane) fun l =>
          { l with state := 1, cls := bitsAt v.toNat 0 8, item := bitsAt v.toNat 16 32, serial := (l.serial + 1) % 256
                   origin := some r, result := 0, bytes := 0, data := [] }

/-- CAPTURE_DONE (R429): the item as it stands now. Log entry 42 (DEDUCED). -/
def execCaptureDone (r : Requester) (lane : Nat) (s : State) : Host.Outcome State Fault Refusal :=
  .next <| s.whenLive fun s =>
    let l := s.lane (laneKey r lane)
    match l.state == 1, l.origin with
    | true, some o =>
      let x := s.capture (.req o) l.cls l.item
      s.draw.modLane (laneKey r lane) fun l =>
        { l with state := 2, result := x.1, bytes := min x.2.length 2048, data := x.2.take 2048, ct := s.ctNow }
    | _, _ => s

end Sys2Proof.Machine
end

