-- ==== Sys2Proof/Machine/RegisterCmds.lean ====
section
/-!
DEFINITION. Mailbox commands of class 4 (R343): the registration of graphs (R101, R119 to R121) and of folios (R240 to R243,
R257, R260).
-/
namespace Sys2Proof.Machine

open Sys2Proof

/-! ### Graphs -/

/-- The first free entry of the graph table. -/
def State.freeGraph (s : State) : Option Nat :=
  (List.range 4096).find? fun i => (s.graphs.get? i).all fun g => !g.registered && g.versions.isEmpty

/-- The registered graph that a handle names (R119). -/
def State.graphOf (s : State) (h : Nat) : Option (Nat × Graph) :=
  let g := graphHandle h
  match s.graphs.get? g.index with
  | some e =>
    if e.registered && g.reserved == 0 && e.owner == g.owner && e.generation % 2 ^ 32 == g.generation then some (g.index, e)
    else none
  | none => none

/-- IMAGE_BYTES of an image's header (R100). -/
def imageBytesOf (image : Bytes) : Nat := le image 8 4

/-- Whether an image address is one that R342 refuses. -/
def State.imageAddrBad (s : State) (owner addr size : Nat) : Bool :=
  addr % 64 != 0 || match s.extentAt addr with
    | some (_, x) =>
      !(bitAt x.eflags 1 && x.keyPartition == owner && x.state == .granted && addr + size ≤ x.base + x.granules * pageBytes)
    | none => true

/-- The check of an image (R101), or the number of the rule that refuses it. -/
def State.checked (s : State) (image : Bytes) (clean : Bool) : Except Nat GraphImage :=
  checkImage s.boot.microcodeRev s.fuses.full clean image

/-- Register an image that R101 accepts, else refuse it with the number of the check (R340). -/
def State.withImage (s : State) (ch : Nat) (image : Bytes) (clean : Bool) (f : GraphImage → State → State) : State :=
  match s.checked image clean with
  | .ok g => f g s
  | .error n => s.replyWith ch Detail.image (toLe 4 n) 0xFFFF 0 0

/-- GRAPH_REGISTER, 0x50: `image` is what the read of the image delivers, `clean` that no word of it was uncorrectable or
poisoned. -/
def execGraphRegister (ch : Nat) (image : Bytes) (clean : Bool) (s : State) : Host.Outcome State Fault Refusal :=
  .next <| s.whenLive fun s =>
    s.serveChecked ch 0x50 (fun m =>
        [s.partMissing m.partition,
         ⟨s.imageAddrBad m.partition (m.numOr 0x40 0) (imageBytesOf image), Detail.range, some (0x40, 0)⟩,
         ⟨s.freeGraph.isNone, Detail.limit, none⟩]) fun m s =>
      s.withImage ch image clean fun g s =>
        match s.freeGraph with
        | none => s
        | some i =>
          let gen := ((s.graphs.get? i).map (·.generation)).getD 0
          let v : GraphVersion := { number := 1, image := g, address := m.numOr 0x40 0 }
          let e : Graph := { owner := m.partition, generation := gen, registered := true, current := 1, versions := [v] }
          { s with graphs := s.graphs.put i e }.accept ch (toLe 8 (mkGraphHandle i m.partition gen) ++ toLe 4 1)

/-- A graph with one more version, current from now on (R120). -/
def Graph.patch (g : Graph) (image : GraphImage) (addr : Nat) : Graph :=
  Graph.release { g with
    current := g.current + 1, versions := g.versions ++ [{ number := g.current + 1, image := image, address := addr }] }

/-- GRAPH_PATCH, 0x51 (R120). -/
def execGraphPatch (ch : Nat) (image : Bytes) (clean : Bool) (s : State) : Host.Outcome State Fault Refusal :=
  .next <| s.whenLive fun s =>
    s.serveChecked ch 0x51 (fun m =>
        let g := s.graphOf m.object
        [⟨g.isNone, Detail.notFound, none⟩,
         ⟨g.any fun x => s.imageAddrBad x.2.owner (m.numOr 0x40 0) (imageBytesOf image), Detail.range, some (0x40, 0)⟩,
         ⟨g.any fun x => 4 ≤ x.2.versions.length, Detail.limit, none⟩]) fun m s =>
      s.withImage ch image clean fun g s =>
        match s.graphOf m.object with
        | none => s
        | some (i, x) => (s.modGraph i fun e => e.patch g (m.numOr 0x40 0)).accept ch (toLe 4 (x.current + 1))

/-- GRAPH_UNREGISTER, 0x52 (R120). -/
def execGraphUnregister (ch : Nat) (s : State) : Host.Outcome State Fault Refusal :=
  .next <| s.whenLive fun s =>
    s.serveChecked ch 0x52 (fun m => [⟨(s.graphOf m.object).isNone, Detail.notFound, none⟩]) fun m s =>
      match s.graphOf m.object with
      | none => s
      | some (i, _) => (s.modGraph i fun e => Graph.release { e with registered := false }).accept ch []

/-! ### Folios -/

/-- The first free entry of the folio table: not registered, and without a live version. -/
def State.freeFolio (s : State) : Option Nat :=
  (List.range 16384).find? fun i => (s.folios.get? i).all fun f => !f.registered && !f.slots.any VSlot.live

/-- The registered folio of a name (R342). -/
def State.folioNamed (s : State) (name : Bytes) : Option (Nat × Folio) :=
  s.folios.find? fun e => e.2.registered && e.2.name == name

/-- READERS and PUBLISHERS of a FOLIO_DEF (R342). -/
def defReaders (b : Bytes) : BitVec 64 := BitVec.ofNat 64 (le b 8 8)
def defPublishers (b : Bytes) : BitVec 64 := BitVec.ofNat 64 (le b 16 8)

/-- Whether a LENGTH breaks R241: a whole number of pages, at least one, at most 16 TiB. -/
def lengthBad (n : Nat) : Bool := n == 0 || n % pageBytes != 0 || 2 ^ 44 < n

/-- FOLIO_REGISTER, 0x53 (R241, R242): the owner is always among READERS and PUBLISHERS. Log entry 40 (DEDUCED). -/
def execFolioRegister (ch : Nat) (s : State) : Host.Outcome State Fault Refusal :=
  .next <| s.whenLive fun s =>
    let name (m : Message) : Bytes := (m.attr? 0x41 0).getD []
    let def_ (m : Message) : Bytes := (m.attr? 0x42 0).getD []
    s.serveChecked ch 0x53 (fun m =>
        [s.partMissing m.partition, ⟨lengthBad (le (def_ m) 0 8), Detail.range, some (0x42, 0)⟩,
         ⟨(s.folioNamed (name m)).isSome, Detail.range, some (0x41, 0)⟩, ⟨s.freeFolio.isNone, Detail.limit, none⟩]) fun m s =>
      match s.freeFolio with
      | none => s
      | some i =>
        let gen := ((s.folios.get? i).map (·.generation)).getD 0
        let own := BitVec.ofNat 64 (2 ^ m.partition)
        let f : Folio :=
          { owner := m.partition, generation := gen, registered := true, name := name m, length := le (def_ m) 0 8
            readers := defReaders (def_ m) ||| own, publishers := defPublishers (def_ m) ||| own
            duplex := bitAt (le (def_ m) 24 1) 0, slots := List.replicate 8 {} }
        { s with folios := s.folios.put i f }.accept ch (toLe 8 (mkFolioHandle i m.partition gen))

/-- What partitions removed from READERS hold on folio `i` is given up (R257). -/
def State.dropReaders (s : State) (i : Nat) (gone : BitVec 64) : State :=
  let s := s.dropWindows fun _ w => w.folio && w.target == i && gone.getLsbD w.partition
  ((s.ctxs.filter fun e => gone.getLsbD e.2.partition).map (·.1)).foldl (fun s k =>
    s.closeHolds k fun h => h.folio == i && !h.draft) s

/-- Drafts of partitions removed from PUBLISHERS are discarded, or are to be when their last launch finishes (R257). -/
def State.dropPublishers (s : State) (i : Nat) (gone : BitVec 64) : State :=
  ((s.ctxs.filter fun e => gone.getLsbD e.2.partition).map (·.1)).foldl (fun s k =>
    s.closeHolds k fun h => h.folio == i && h.draft) s

/-- FOLIO_SET, 0x54 (R257). -/
def execFolioSet (ch : Nat) (s : State) : Host.Outcome State Fault Refusal :=
  .next <| s.whenLive fun s =>
    let def_ (m : Message) : Bytes := (m.attr? 0x42 0).getD []
    s.serveChecked ch 0x54 (fun m =>
        let f := s.namedFolio m.object
        [⟨f.isNone, Detail.notFound, none⟩,
         ⟨f.any fun x => !((defReaders (def_ m)).getLsbD x.2.owner && (defPublishers (def_ m)).getLsbD x.2.owner),
          Detail.range, some (0x42, 0)⟩]) fun m s =>
      match s.namedFolio m.object with
      | none => s
      | some (i, f) =>
        let r := defReaders (def_ m)
        let p := defPublishers (def_ m)
        let s := s.modFolio i fun f => { f with readers := r, publishers := p }
        ((s.dropReaders i (f.readers &&& ~~~r)).dropPublishers i (f.publishers &&& ~~~p)).accept ch []

/-- FOLIO_LOOKUP, 0x55 (R343): a folio that PARTITION may read. -/
def execFolioLookup (ch : Nat) (s : State) : Host.Outcome State Fault Refusal :=
  .next <| s.whenLive fun s =>
    let found (m : Message) : Option (Nat × Folio) :=
      (s.folioNamed ((m.attr? 0x41 0).getD [])).filter fun x => x.2.readers.getLsbD m.partition
    s.serveChecked ch 0x55 (fun m => [s.partMissing m.partition, ⟨(found m).isNone, Detail.notFound, some (0x41, 0)⟩]) fun m s =>
      match found m with
      | none => s
      | some (i, f) =>
        s.accept ch (toLe 8 (mkFolioHandle i f.owner f.generation) ++ toLe 8 f.length ++ toLe 4 f.current)

/-- FOLIO_UNREGISTER, 0x56 (R260). -/
def execFolioUnregister (ch : Nat) (s : State) : Host.Outcome State Fault Refusal :=
  .next <| s.whenLive fun s =>
    s.serveChecked ch 0x56 (fun m => [⟨(s.namedFolio m.object).isNone, Detail.notFound, none⟩]) fun m s =>
      match s.namedFolio m.object with
      | none => s
      | some (i, _) => ((s.modFolio i fun f => { f with registered := false }).sweepFolio i).accept ch []

end Sys2Proof.Machine
end

