-- ==== Sys2Proof/Machine/ResetCmds.lean ====
section
/-!
DEFINITION. Partition reset, clearing (R290, R399) and the rows of a revocation that time and hardware bring (R259).
-/
namespace Sys2Proof.Machine

open Sys2Proof

/-- PARTITION_RESET_START (R398, R399). Log entry 25 (DEDUCED). -/
def execPartitionResetStart (p : Nat) (t : ResetTrigger) (s : State) : Host.Outcome State Fault Refusal :=
  .next <| s.whenLive fun s => s.startReset p t

/-- PARTITION_RESET_DRAIN_DONE (R399, steps 3 to 5). -/
def execPartitionResetDrainDone (p : Nat) (s : State) : Host.Outcome State Fault Refusal :=
  .next <| s.whenLive fun s => s.when ((s.part p).resetStep == 1 && s.drained p) fun s =>
    let s := ((s.dropTranslations p none).writeDump p).flushPart p
    let s := s.modPart p fun u => { u with resetStep := 2 }
    if (s.part p).state == .destroying then s.dismantle p else s

/-- PARTITION_RESET_END (R399, steps 6 to 8). After a class B alarm the reset ends only with the new keys (R323). -/
def execPartitionResetEnd (p : Nat) (s : State) : Host.Outcome State Fault Refusal :=
  .next <| s.whenLive fun s =>
    let u := s.part p
    s.when (u.state == .resetting && u.resetStep == 2 && s.drained p && u.key.isSome
        && s.slots.all fun e => e.partition != p) fun s =>
      (s.endReset p).track

/-- LAYOUT_CLEARING_DONE (R288, R290). Log entries 19 (DEDUCED), 26 (DEDUCED). -/
def execLayoutClearingDone (p : Nat) (s : State) : Host.Outcome State Fault Refusal :=
  .next <| s.whenLive fun s =>
    let u := s.part p
    if u.state == .destroying then s.when (s.dismantled p) fun s => s.endDestroy p
    else s.when (!u.clearQuads.isEmpty || !u.clearWays.isEmpty) fun s => s.endClearing p

/-! ### Revocation -/

/-- Sequence table entries of the losing partitions with KV in the extent become REVOKED (R232, R259). -/
def State.revokeSeqs (s : State) (x : Extent) : State :=
  { s with seqs := s.seqs.mapV fun _ e => if x.losing.getLsbD e.partition && e.kvIn x then { e with state := 4 } else e }

/-- REVOCATION_DRAIN_BOUND (R259). -/
def execRevocationDrainBound (extent : Nat) (s : State) : Host.Outcome State Fault Refusal :=
  .next <| s.whenLive fun s =>
    match s.extents.get? extent with
    | none => s
    | some x =>
      s.when (x.state == .fenced && !x.drained && x.fenceNs + 50000 ≤ s.time.now) fun s =>
        let s := s.endWhere (fun e => e.admitted && x.losing.getLsbD e.partition && s.usesExtent extent x e) .revoked
        ((s.revokeSeqs x).modExtent extent fun x => { x with drained := true }).settleFences.track

/-- REVOCATION_INVALIDATED (R259, R470). Log entry 24 (DEDUCED). -/
def execRevocationInvalidated (extent : Nat) (s : State) : Host.Outcome State Fault Refusal :=
  .next <| s.whenLive fun s =>
    s.when ((s.extents.get? extent).any fun x => x.state == .invalidating) fun s => s.invalidated extent

/-- ZEROING_DONE (R259). Log entries 14 (DEDUCED), 24 (DEDUCED). -/
def execZeroingDone (extent : Nat) (s : State) : Host.Outcome State Fault Refusal :=
  .next <| s.whenLive fun s =>
    match s.extents.get? extent with
    | none => s
    | some x =>
      s.when (x.state == .zeroing) fun s => { s with extents := s.extents.del extent }.emit (.extentReleased x.grant)

end Sys2Proof.Machine
end

