-- ==== Sys2Proof/Machine/SpdmCmds.lean ====
section
/-!
DEFINITION. SPDM, TDISP and IDE_KM messages that Thimble answers (R294 to R296, R304, R316 to R318). The layouts of
responses that SPDM 1.3 gives and this spec does not are free values.
-/
namespace Sys2Proof.Machine

open Sys2Proof

/-- Send a response of conversation `n`. -/
def State.respond (s : State) (n : Nat) (name : String) (content : Bytes) : State := s.emit (.spdm n name content)

/-- A response whose content SPDM 1.3 gives. Log entry 30 (PRESUMED). -/
def State.respondFree (s : State) (n : Nat) (name : String) : State :=
  s.draw.respond n name (Config.spdmContent name s.free)

/-- An ERROR response: the request changes nothing. Log entry 30 (PRESUMED). -/
def State.spdmError (s : State) (n : Nat) : State := s.respond n "ERROR" []

/-- Before DOE_ON a request is discarded (R467); else it is answered. Log entry 30 (PRESUMED). -/
def State.onDoe (s : State) (f : State → State) : State := s.whenLive fun s => s.when s.boot.doeOn f

/-- A request that needs `ok` of its conversation (SPDM's order of messages, PRESUMED): else an ERROR.
Log entry 30 (PRESUMED). -/
def State.inOrderOf (s : State) (n : Nat) (ok : Session → Bool) (f : Session → State → State) : State :=
  s.onDoe fun s => if ok (s.session n) then f (s.session n) s else s.spdmError n

/-! ### Connection and certificates -/

/-- GET_VERSION: a conversation begins. -/
def execGetVersion (session : Nat) (s : State) : Host.Outcome State Fault Refusal :=
  .next <| s.inOrderOf session (fun x => !x.established) fun x s =>
    (s.setSession session { requester := x.requester, bound := x.bound, versioned := true }).respondFree session "VERSION"

/-- GET_CAPABILITIES. -/
def execGetCapabilities (session : Nat) (s : State) : Host.Outcome State Fault Refusal :=
  .next <| s.inOrderOf session (fun x => x.versioned && !x.established) fun x s =>
    (s.setSession session { x with capable := true }).respondFree session "CAPABILITIES"

/-- NEGOTIATE_ALGORITHMS: `common` says that the requester offers the algorithms of R316. -/
def execNegotiateAlgorithms (session : Nat) (common : Bool) (s : State) : Host.Outcome State Fault Refusal :=
  .next <| s.inOrderOf session (fun x => x.capable && !x.established && common) fun x s =>
    (s.setSession session { x with negotiated := true }).respondFree session "ALGORITHMS"

/-- The chain of a certificate slot (R312, R317): none for an empty slot. -/
def State.chain (s : State) (bound : Option Nat) (slot : Nat) : Option Bytes :=
  let base := s.sec.deviceKey.bind fun d => s.sec.aliasKey.map fun a =>
    Config.certificate "DEVICE_IDENTITY" d ++ Config.certificate "ALIAS" a
  match slot with
  | 0 => base
  | 1 =>
    match bound with
    | some p =>
      if (s.part p).certIssued then
        base.bind fun b => (s.part p).identity.map fun k => b ++ Config.certificate "PARTITION" k
      else none
    | none => none
  | _ => none

/-- GET_DIGESTS (R317). -/
def execGetDigests (session : Nat) (s : State) : Host.Outcome State Fault Refusal :=
  .next <| s.inOrderOf session (fun x => x.negotiated) fun x s =>
    s.respond session "DIGESTS" (([0, 1].filterMap (s.chain x.bound)).map fun c => bytesOf (Config.sha384 c)).flatten

/-- GET_CERTIFICATE (R317). -/
def execGetCertificate (session slot offset length : Nat) (s : State) : Host.Outcome State Fault Refusal :=
  .next <| s.inOrderOf session (fun x => x.negotiated) fun x s =>
    match s.chain x.bound slot with
    | some c => if c.length < offset then s.spdmError session else s.respond session "CERTIFICATE" ((c.drop offset).take length)
    | none => s.spdmError session

/-- The key of a certificate slot's last certificate (R317). -/
def State.slotKey (s : State) (bound : Option Nat) (slot : Nat) : Option (BitVec 576) :=
  if slot == 1 then bound.bind fun p => s.signKey (some p) else s.signKey none

/-- A response with its signature over the content and the requester's nonce. -/
def signed (k : BitVec 576) (content : Bytes) (nonce : BitVec 256) : Bytes :=
  content ++ bytesOf nonce ++ bytesOf (Config.ecdsaSign k (content ++ bytesOf nonce))

/-- CHALLENGE (R316, R317). -/
def execChallenge (session slot : Nat) (nonce : BitVec 256) (s : State) : Host.Outcome State Fault Refusal :=
  .next <| s.inOrderOf session (fun x => x.negotiated) fun x s =>
    match s.chain x.bound slot, s.slotKey x.bound slot with
    | some c, some k => s.respond session "CHALLENGE_AUTH" (signed k (bytesOf (Config.sha384 c)) nonce)
    | _, _ => s.spdmError session

/-- The content of a GET_MEASUREMENTS: the number of blocks for index 0, every block for 0xFF, else one (R318). -/
def State.measured (s : State) (bound : Option Nat) (nonce : BitVec 256) (index : Nat) : Option Bytes :=
  if index == 0 then some (toLe 1 (if bound.isSome then 10 else 9))
  else if index == 0xFF then some (s.measurements bound (bytesOf nonce))
  else s.measurement bound (bytesOf nonce) index

/-- GET_MEASUREMENTS (R317, R318). -/
def execGetMeasurements (session index slot : Nat) (sign : Bool) (nonce : BitVec 256) (s : State) :
    Host.Outcome State Fault Refusal :=
  .next <| s.inOrderOf session (fun x => x.negotiated) fun x s =>
    match s.measured x.bound nonce index with
    | none => s.spdmError session
    | some b =>
      if !sign then s.respond session "MEASUREMENTS" b
      else
        match s.chain x.bound slot, s.slotKey x.bound slot with
        | some _, some k => s.respond session "MEASUREMENTS" (signed k b nonce)
        | _, _ => s.spdmError session

/-! ### Sessions (R304, R316) -/

/-- Sessions in being (R316). -/
def Security.openSessions (x : Security) : Nat := (x.sessions.filter fun e => e.2.exchanged).length

/-- KEY_EXCHANGE: at most 72 sessions. -/
def execKeyExchange (session : Nat) (requester : Requester) (bound : Option Nat) (mutAuth : Bool) (s : State) :
    Host.Outcome State Fault Refusal :=
  .next <| s.inOrderOf session (fun x => x.negotiated && !x.exchanged && s.sec.openSessions < 72
      && bound.all fun p => (s.part p).state != .free) fun x s =>
    (s.setSession session { x with requester := identOf requester, bound := bound, mutAuth := mutAuth, exchanged := true
      }).respondFree session "KEY_EXCHANGE_RSP"

/-- The end of a session: a TDI locked in it goes to ERROR (R295). Log entry 32 (DEDUCED). -/
def State.loseSession (s : State) (n : Nat) : State :=
  let s := { s with sec := { s.sec with sessions := s.sec.sessions.del n } }
  ((s.parts.filter fun e => e.2.tdiSession == some n).map (·.1)).foldl State.tdiError s

/-- FINISH (R304, R326): the first session with mutual authentication claims an unclaimed block. Log entry 59 (DEDUCED). -/
def execFinish (session : Nat) (ok : Bool) (rootDigest : Option (BitVec 384)) (s : State) :
    Host.Outcome State Fault Refusal :=
  .next <| s.inOrderOf session (fun x => x.exchanged && !x.established) fun x s =>
    if !ok then (s.loseSession session).spdmError session
    else
      let s := s.setSession session { x with established := true }
      let s := match rootDigest with
        | some d =>
          if x.mutAuth && s.fuses.ownerBanks.isEmpty then { s with fuses := { s.fuses with ownerBanks := [d] } } else s
        | none => s
      s.respondFree session "FINISH_RSP"

/-- HEARTBEAT. -/
def execHeartbeat (session : Nat) (s : State) : Host.Outcome State Fault Refusal :=
  .next <| s.inOrderOf session (fun x => x.established) fun _ s => s.respond session "HEARTBEAT_ACK" []

/-- KEY_UPDATE. -/
def execKeyUpdate (session : Nat) (s : State) : Host.Outcome State Fault Refusal :=
  .next <| s.inOrderOf session (fun x => x.established) fun x s =>
    (s.setSession session { x with keyUpdates := x.keyUpdates + 1 }).respond session "KEY_UPDATE_ACK" []

/-- END_SESSION. -/
def execEndSession (session : Nat) (s : State) : Host.Outcome State Fault Refusal :=
  .next <| s.inOrderOf session (fun x => x.established) fun _ s =>
    (s.respond session "END_SESSION_ACK" []).loseSession session

/-- SPDM_SESSION_LOSS (R295). -/
def execSpdmSessionLoss (session : Nat) (s : State) : Host.Outcome State Fault Refusal :=
  .next <| s.whenLive fun s => s.when (s.sec.sessions.get? session).isSome fun s => s.loseSession session

/-! ### Messages in parts (R316, R339) -/

/-- CHUNK_SEND: the parts come in order; the last completes the request. Log entry 31 (DESIGN CHOICE). -/
def execChunkSend (session _handle index : Nat) (chunk : Bytes) (last : Bool) (s : State) :
    Host.Outcome State Fault Refusal :=
  .next <| s.inOrderOf session (fun x => x.capable && (index == 0 || index == x.chunkNext)) fun x s =>
    (s.setSession session
      { x with chunks := if last then [] else (if index == 0 then [] else x.chunks) ++ chunk, chunkNext := if last then 0 else index + 1
        }).respondFree session "CHUNK_SEND_ACK"

/-- CHUNK_GET: a part of the large response that waits. Log entry 31 (DESIGN CHOICE). -/
def execChunkGet (session _handle index : Nat) (s : State) : Host.Outcome State Fault Refusal :=
  .next <| s.inOrderOf session (fun x => !x.large.isEmpty && 4096 * index < x.large.length) fun x s =>
    let part := (x.large.drop (4096 * index)).take 4096
    let done := x.large.length ≤ 4096 * (index + 1)
    (s.setSession session { x with large := if done then [] else x.large }).respond session "CHUNK_RESPONSE" part

/-! ### TDISP (R294, R295) -/

/-- A TDISP or IDE_KM message for partition `p` in a secured session bound to it, or to none yet; the interface of a FREE
partition is absent. Log entry 32 (DEDUCED). -/
def State.onTdi (s : State) (n p : Nat) (f : State → State) : State :=
  s.inOrderOf n (fun x => x.established && x.bound.all (· == p) && (s.part p).state != .free) fun x s =>
    f (s.setSession n { x with bound := some p })

/-- TDISP's error response. -/
def State.tdispError (s : State) (n : Nat) : State := s.respond n "TDISP_ERROR" []

/-- GET_TDISP_VERSION. -/
def execGetTdispVersion (session p : Nat) (s : State) : Host.Outcome State Fault Refusal :=
  .next <| s.onTdi session p fun s => s.respondFree session "TDISP_VERSION"

/-- GET_TDISP_CAPABILITIES. -/
def execGetTdispCapabilities (session p : Nat) (s : State) : Host.Outcome State Fault Refusal :=
  .next <| s.onTdi session p fun s => s.respondFree session "TDISP_CAPABILITIES"

/-- LOCK_INTERFACE_REQUEST (R295, R300, R312). Log entry 32 (DEDUCED). -/
def execLockInterfaceRequest (session p : Nat) (s : State) : Host.Outcome State Fault Refusal :=
  .next <| s.onTdi session p fun s =>
    let u := s.part p
    if u.tdi == .unlocked && u.state == .active && u.certIssued && u.pendLayout.isNone then
      ((s.modPart p fun u => { u with tdi := .locked, tdiSession := some session }).stopPartition p).respondFree session
        "LOCK_INTERFACE_RESPONSE"
    else s.tdispError session

/-- The content of the device interface report (R294): queue range, layout, and its digest. -/
def State.interfaceReport (s : State) (p : Nat) : Bytes :=
  let u := s.part p
  toLe 2 u.queueFirst ++ toLe 2 u.queueCount ++ toLe 8 (quadMask u.quads)
    ++ ((List.range 4).map fun i => toLe 8 (u.waysWord i)).flatten ++ bytesOf (s.partitionDigest p)

/-- GET_DEVICE_INTERFACE_REPORT. -/
def execGetDeviceInterfaceReport (session p : Nat) (s : State) : Host.Outcome State Fault Refusal :=
  .next <| s.onTdi session p fun s => s.respond session "DEVICE_INTERFACE_REPORT" (s.interfaceReport p)

/-- GET_DEVICE_INTERFACE_STATE. -/
def execGetDeviceInterfaceState (session p : Nat) (s : State) : Host.Outcome State Fault Refusal :=
  .next <| s.onTdi session p fun s => s.respond session "DEVICE_INTERFACE_STATE" (toLe 1 (s.part p).tdi.code)

/-- START_INTERFACE_REQUEST (R295), in the session that locked the TDI. Log entry 32 (DEDUCED). -/
def execStartInterfaceRequest (session p : Nat) (s : State) : Host.Outcome State Fault Refusal :=
  .next <| s.onTdi session p fun s =>
    if (s.part p).tdi == .locked && (s.part p).tdiSession == some session then
      ((s.modPart p fun u => { u with tdi := .run }).resumePartition p).respondFree session "START_INTERFACE_RESPONSE"
    else s.tdispError session

/-- STOP_INTERFACE_REQUEST (R295, R296): a partition reset, then CONFIG_UNLOCKED. A reset that has ended since the TDI
entered ERROR counts. Log entry 32 (DEDUCED). -/
def execStopInterfaceRequest (session p : Nat) (s : State) : Host.Outcome State Fault Refusal :=
  .next <| s.onTdi session p fun s =>
    let u := s.part p
    let s := s.modPart p fun u => { u with ideKey := none }
    let s :=
      if u.tdi == .unlocked then s
      else if u.tdi == .error && u.resetSinceError && u.state == .active then
        (s.modPart p fun u => { u with tdi := .unlocked, tdiSession := none }).resumePartition p
      else (s.modPart p fun u => { u with stopWanted := true }).startReset p .tdiStop
    s.respondFree session "STOP_INTERFACE_RESPONSE"

/-- IDE_KM_KEY_PROG (R296, R310): the keys stay in the host port's key registers. -/
def execIdeKmKeyProg (session p keyBits : Nat) (s : State) : Host.Outcome State Fault Refusal :=
  .next <| s.onTdi session p fun s =>
    (s.modPart p fun u => { u with ideKey := some keyBits }).respondFree session "KP_ACK"

end Sys2Proof.Machine
end

