-- ==== Sys2Proof/Machine/Telemetry.lean ====
section
/-!
DEFINITION. Telemetry (R346, R425 to R427), snapshots (R435, R436) and POWER_READ (R418): the commands of classes 3 and 5
that read, and firmware's sample.
-/
namespace Sys2Proof.Machine

open Sys2Proof

/-! ### Samples -/

/-- Interval between firmware's samples at the present load level (R346). -/
def State.sampleEvery (s : State) : Nat := if s.mail.level == 0 then 1000000 else 10000000

/-- A sample taken now (R427). -/
def State.takeSample (s : State) : Sample :=
  { ct := s.ctNow, takenNs := s.time.now
    records := (s.parts.filter fun e => e.2.state != .free).map fun e => (e.1, e.2.telShown)
    scrubCorrected := s.bg.corrected, scrubUncorrectable := s.bg.uncorrectable, nearPassCt := s.bg.nearPassCt
    sramPassCt := s.bg.sramPassCt, calPasses := s.bg.calPasses, bridgeAdapts := s.bg.adapts
    binLowerings := s.bg.binLowerings }

/-- FIRMWARE_TELEMETRY_SAMPLE (R346, R421). -/
def execFirmwareTelemetrySample (s : State) : Host.Outcome State Fault Refusal :=
  .next <| s.whenLive fun s =>
    s.when (s.boot.mailboxOn && s.mail.sample.takenNs + s.sampleEvery ≤ s.time.now) fun s =>
      { s with mail := { s.mail with sample := s.takeSample } }.emit (.telemetryStored s.ctNow)

/-! ### TELEMETRY_READ -/

/-- Whether a command without a right names a partition that is not its origin's own (R341, R427, R435). -/
def State.notOwn (s : State) (ch : Nat) (m : Message) : Bool :=
  m.capZero && (m.partition == 0xFF || !s.ofPart (s.chan ch).requester m.partition)

/-- A partition record (R427). -/
def telRecord (p : Nat) (t : PTel) : Bytes := toLe 1 p ++ zeros 7 ++ ((List.range 8).map fun i => toLe 8 (t.word i)).flatten

/-- Bytes 16 to 79: the block's own figures. -/
def Sample.blockBytes (x : Sample) : Bytes :=
  toLe 8 x.nearPassCt ++ toLe 8 x.sramPassCt ++ toLe 8 x.scrubCorrected ++ toLe 8 x.scrubUncorrectable ++ toLe 4 x.calPasses
    ++ toLe 4 x.bridgeAdapts ++ toLe 2 x.binLowerings ++ zeros 22

/-- The reply body for a PARTITION; `full` says that it is made under the right for the whole block. -/
def State.telemetryBody (s : State) (p : Nat) (full : Bool) : Bytes :=
  let x := s.mail.sample
  let rs := if full then x.records else [(p, x.records.getD p {})]
  toLe 8 x.ct ++ toLe 1 rs.length ++ toLe 1 s.mail.level ++ zeros 6 ++ (if full then x.blockBytes else zeros 64)
    ++ (rs.map fun e => telRecord e.1 e.2).flatten

/-- TELEMETRY_READ, 0x60 (R341, R427). Log entry 43 (DEDUCED). -/
def execTelemetryRead (ch : Nat) (s : State) : Host.Outcome State Fault Refusal :=
  .next <| s.whenLive fun s =>
    s.serveChecked ch 0x60 (fun m =>
        [⟨!m.capZero && m.partition != 0xFF && (s.part m.partition).state == .free, Detail.notFound, none⟩,
         ⟨s.notOwn ch m, Detail.range, none⟩]) fun m s =>
      let b := s.telemetryBody m.partition (m.partition == 0xFF)
      if s.replyFits ch b.length then s.accept ch b else s.tooLong ch b.length

/-! ### SNAPSHOT -/

/-- The extent that holds a destination, when the command may write there (R435). -/
def State.snapshotExtent (s : State) (m : Message) : Option Extent :=
  ((s.extentAt (m.numOr 0x53 0)).map (·.2)).filter fun x =>
    if m.partition == 0xFF then bitAt x.eflags 0 && x.state == .granted else x.allows x.wMask m.partition

/-- An item record (R436). -/
def State.snapshotRecord (s : State) (cls n : Nat) (data : Bytes) : Bytes :=
  toLe 1 cls ++ zeros 1 ++ toLe 2 data.length ++ toLe 4 n ++ toLe 8 s.ctNow ++ data ++ zeros ((8 - data.length % 8) % 8)

/-- A snapshot under way: its records, how many, how many bytes are left, and whether the extent has ended. -/
structure SnapshotRun where
  records : List Bytes := []
  items   : Nat := 0
  room    : Nat
  full    : Bool := false

/-- Add one item, unless it is denied or the extent has ended. -/
def State.addItem (s : State) (rd : Reader) (cls : Nat) (x : SnapshotRun) (n : Nat) : SnapshotRun :=
  if x.full then x
  else
    let c := s.capture rd cls n
    if c.1 != 0 then x
    else
      let r := s.snapshotRecord cls n c.2
      if x.room < r.length then { x with full := true }
      else { x with records := r :: x.records, items := x.items + 1, room := x.room - r.length }

/-- Every item of every class, in ascending order. -/
def State.addItems (s : State) (rd : Reader) (x : SnapshotRun) : SnapshotRun :=
  (List.range 16).foldl (fun x c => (List.range (classItems (c + 1))).foldl (fun x n => s.addItem rd (c + 1) x n) x) x

/-- SNAPSHOT, 0x61 (R341, R435, R436). Log entries 42 (DEDUCED), 43 (DEDUCED). -/
def execSnapshot (ch : Nat) (s : State) : Host.Outcome State Fault Refusal :=
  .next <| s.whenLive fun s =>
    s.serveChecked ch 0x61 (fun m =>
        [⟨!m.capZero && m.partition != 0xFF && (s.part m.partition).state == .free, Detail.notFound, none⟩,
         ⟨s.notOwn ch m, Detail.range, none⟩,
         ⟨m.numOr 0x53 0 % 4096 != 0 || (s.snapshotExtent m).isNone, Detail.range, some (0x53, 0)⟩]) fun m s =>
      match s.snapshotExtent m with
      | none => s
      | some e =>
        let dest := m.numOr 0x53 0
        let rd : Reader := if m.partition == 0xFF then .mgmt else .part m.partition
        let x := s.addItems rd { room := e.base + e.granules * pageBytes - dest - 64 }
        let head := toLe 4 0x50414E53 ++ toLe 2 1 ++ toLe 1 m.partition ++ toLe 1 (bit x.full 0) ++ toLe 8 s.ctNow
          ++ toLe 8 s.ctNow ++ toLe 8 x.items ++ zeros 32
        let content := head ++ x.records.reverse.flatten
        (s.draw.emit (.snapshot dest content)).accept ch (toLe 8 content.length)

/-! ### POWER_READ -/

/-- I_hard of core `k` (R411). -/
def State.issueHard (s : State) (k : Nat) : Nat :=
  if s.power.hardCap || (s.cluster (clusterOfCore k)).throttled then 4 else 16

/-- The issue rate of core `k` (R411); a core that runs nothing stands at the rate of a SHARED launch. -/
def State.issueRate (s : State) (k : Nat) : Nat :=
  let c := s.core k
  let soft := s.power.issueSoft
  let adm := if c.mode == .free then none else (s.slot? c.queue c.seq).bind (·.promise)
  let rate := match adm with
    | some p => if s.time.ct < p.deadline then max soft p.scaleI else soft
    | none => soft
  min rate (s.issueHard k)

/-- The fused bin of a core (R406). Log entry 7 (DESIGN CHOICE). -/
def Fuses.binOf (f : Fuses) (k : Nat) : Nat := f.bins.getD k 0

/-- The record of cluster `c` (R418). -/
def State.clusterPower (s : State) (c : Nat) : Bytes :=
  let u := s.cluster c
  let ks := (List.range 16).map (16 * c + ·)
  if s.nClusters ≤ c then zeros 16
  else
    toLe 2 (s.power.clusterWatts.getD c 0) ++ toLe 2 u.celsius8 ++ toLe 1 ((ks.map s.issueRate).foldl min 16)
      ++ toLe 1 (bit u.throttled 0) ++ zeros 2 ++ toLe 4 ((ks.map fun k => (s.core k).stretchExcess).sum) ++ zeros 4

/-- The record of core `k` (R418). -/
def State.corePower (s : State) (k : Nat) : Bytes :=
  let c := s.core k
  if s.nCores ≤ k then zeros 4
  else toLe 1 c.bin ++ toLe 1 (s.fuses.binOf k) ++ toLe 1 (s.issueRate k) ++ toLe 1 (bit c.excessSeen 0 + bit c.agedFloor 1)

/-- The reply body of POWER_READ (R418). Log entry 43 (DEDUCED). -/
def State.powerBody (s : State) : Bytes :=
  let w := s.power
  toLe 8 w.sampleCt ++ toLe 2 w.blockWatts ++ toLe 2 w.softCap ++ toLe 1 w.issueSoft ++ toLe 1 s.issueNew
    ++ toLe 1 (bit w.hardCap 0 + bit w.overSoft 1 + bit (s.clusters.any fun e => e.2.throttled) 2) ++ zeros 1
    ++ toLe 2 (w.baseTemp.getD 0 0) ++ toLe 2 (w.baseTemp.getD 1 0) ++ toLe 4 (min w.hardEvents (2 ^ 32 - 1)) ++ zeros 8
    ++ ((List.range 16).map s.clusterPower).flatten ++ ((List.range 256).map s.corePower).flatten

/-- POWER_READ, 0x62. Log entry 43 (DEDUCED). -/
def execPowerRead (ch : Nat) (s : State) : Host.Outcome State Fault Refusal :=
  .next <| s.whenLive fun s => s.serveChecked ch 0x62 (fun _ => []) fun _ s =>
    if s.replyFits ch 1312 then s.accept ch s.powerBody else s.tooLong ch 1312

end Sys2Proof.Machine
end

