-- ==== Sys2Proof/Machine/Dispatch.lean ====
section
/-!
DEFINITION. The meaning of each command: one arm for each row of spec/opcode_table.json.
-/

namespace Sys2Proof.Machine

open Sys2Proof

/-- The effect of command `i` on the block (the queue of waiting commands apart). -/
def exec (i : Instr) (s : State) : Host.Outcome State Fault Refusal :=
  match i with
  | .registerWrite r sp offset size v => Sys2Proof.Machine.execRegisterWrite r sp offset size v s
  | .badScAccess r write offset size => Sys2Proof.Machine.execBadScAccess r write offset size s
  | .scBadAccessRead r half => Sys2Proof.Machine.execScBadAccessRead r half s
  | .scQcountsRead r q half => Sys2Proof.Machine.execScQcountsRead r q half s
  | .scQdb r q v => Sys2Proof.Machine.execScQdb r q v s
  | .doorbellTokenAccrual q => Sys2Proof.Machine.execDoorbellTokenAccrual q s
  | .slotFetch q => Sys2Proof.Machine.execSlotFetch q s
  | .slotArrival q d => Sys2Proof.Machine.execSlotArrival q d s
  | .externalConstantsReadDone q seq d => Sys2Proof.Machine.execExternalConstantsReadDone q seq d s
  | .overrideTableReadDone q seq d => Sys2Proof.Machine.execOverrideTableReadDone q seq d s
  | .nop q seq => Sys2Proof.Machine.execNop q seq s
  | .launch q seq => Sys2Proof.Machine.execLaunch q seq s
  | .chainStore q seq d => Sys2Proof.Machine.execChainStore q seq d s
  | .chainRun q seq => Sys2Proof.Machine.execChainRun q seq s
  | .adviseNormal q seq => Sys2Proof.Machine.execAdviseNormal q seq s
  | .adviseHot q seq => Sys2Proof.Machine.execAdviseHot q seq s
  | .adviseCold q seq => Sys2Proof.Machine.execAdviseCold q seq s
  | .adviseWillNeed q seq => Sys2Proof.Machine.execAdviseWillNeed q seq s
  | .adviseDontNeed q seq => Sys2Proof.Machine.execAdviseDontNeed q seq s
  | .adviseReleaseKeep q seq => Sys2Proof.Machine.execAdviseReleaseKeep q seq s
  | .prefetchNearTier q seq => Sys2Proof.Machine.execPrefetchNearTier q seq s
  | .prefetchClusterCache q seq => Sys2Proof.Machine.execPrefetchClusterCache q seq s
  | .prefetchBoth q seq => Sys2Proof.Machine.execPrefetchBoth q seq s
  | .adviceAck q seq => Sys2Proof.Machine.execAdviceAck q seq s
  | .fenceQueue q seq => Sys2Proof.Machine.execFenceQueue q seq s
  | .fenceContext q seq => Sys2Proof.Machine.execFenceContext q seq s
  | .fenceFinish q seq => Sys2Proof.Machine.execFenceFinish q seq s
  | .seqAdmit q seq => Sys2Proof.Machine.execSeqAdmit q seq s
  | .seqRetireOne q seq => Sys2Proof.Machine.execSeqRetireOne q seq s
  | .seqRetireGroup q seq => Sys2Proof.Machine.execSeqRetireGroup q seq s
  | .seqRetireContext q seq => Sys2Proof.Machine.execSeqRetireContext q seq s
  | .seqEntryFreed entry => Sys2Proof.Machine.execSeqEntryFreed entry s
  | .folioOpenRead q seq resultMapped => Sys2Proof.Machine.execFolioOpenRead q seq resultMapped s
  | .folioOpenDraft q seq resultMapped => Sys2Proof.Machine.execFolioOpenDraft q seq resultMapped s
  | .folioClose q seq resultMapped => Sys2Proof.Machine.execFolioClose q seq resultMapped s
  | .folioPublish q seq resultMapped => Sys2Proof.Machine.execFolioPublish q seq resultMapped s
  | .pageListReadDone q seq d => Sys2Proof.Machine.execPageListReadDone q seq d s
  | .phaseStart q seq phase => Sys2Proof.Machine.execPhaseStart q seq phase s
  | .baste core => Sys2Proof.Machine.execBaste core s
  | .tileStart core gathers => Sys2Proof.Machine.execTileStart core gathers s
  | .contextSwitchDone core => Sys2Proof.Machine.execContextSwitchDone core s
  | .tileCommitStart core work => Sys2Proof.Machine.execTileCommitStart core work s
  | .commitPhaseEnd core => Sys2Proof.Machine.execCommitPhaseEnd core s
  | .gatherReturn core request more => Sys2Proof.Machine.execGatherReturn core request more s
  | .reductionApply cluster slice => Sys2Proof.Machine.execReductionApply cluster slice s
  | .granuleCommit cluster => Sys2Proof.Machine.execGranuleCommit cluster s
  | .sharedPageCopyDone folio version page => Sys2Proof.Machine.execSharedPageCopyDone folio version page s
  | .memData port tag words => Sys2Proof.Machine.execMemData port tag words s
  | .memAck port tag => Sys2Proof.Machine.execMemAck port tag s
  | .backInval line => Sys2Proof.Machine.execBackInval line s
  | .snoop line => Sys2Proof.Machine.execSnoop line s
  | .launchFinish q seq => Sys2Proof.Machine.execLaunchFinish q seq s
  | .queueWriteAccepted q => Sys2Proof.Machine.execQueueWriteAccepted q s
  | .queueAreaAccessFail q area => Sys2Proof.Machine.execQueueAreaAccessFail q area s
  | .interruptLost q => Sys2Proof.Machine.execInterruptLost q s
  | .scQctlStop r q => Sys2Proof.Machine.execScQctlStop r q s
  | .scQctlResume r q => Sys2Proof.Machine.execScQctlResume r q s
  | .queueGuilty q admittedCopy => Sys2Proof.Machine.execQueueGuilty q admittedCopy s
  | .monitorTick => Sys2Proof.Machine.execMonitorTick s
  | .fallbackSwitch q seq => Sys2Proof.Machine.execFallbackSwitch q seq s
  | .hemForcedTack q seq => Sys2Proof.Machine.execHemForcedTack q seq s
  | .forcedTack core => Sys2Proof.Machine.execForcedTack core s
  | .idleStrandsTimeout core => Sys2Proof.Machine.execIdleStrandsTimeout core s
  | .abandonDone core => Sys2Proof.Machine.execAbandonDone core s
  | .commonsSwitch ctx => Sys2Proof.Machine.execCommonsSwitch ctx s
  | .commonsSwitchDone => Sys2Proof.Machine.execCommonsSwitchDone s
  | .translationCompletion die slot a => Sys2Proof.Machine.execTranslationCompletion die slot a s
  | .pageListFill die slot => Sys2Proof.Machine.execPageListFill die slot s
  | .faultBatchFlush die ctx => Sys2Proof.Machine.execFaultBatchFlush die ctx s
  | .faultRingWriteFail ctx => Sys2Proof.Machine.execFaultRingWriteFail ctx s
  | .prgResponse group c => Sys2Proof.Machine.execPrgResponse group c s
  | .faultRetry fault => Sys2Proof.Machine.execFaultRetry fault s
  | .consumerPoll ctx => Sys2Proof.Machine.execConsumerPoll ctx s
  | .consumerReadDone ctx count => Sys2Proof.Machine.execConsumerReadDone ctx count s
  | .unresolvedFault q seq cause => Sys2Proof.Machine.execUnresolvedFault q seq cause s
  | .atsInvalidateRequest tag pasid base length => Sys2Proof.Machine.execAtsInvalidateRequest tag pasid base length s
  | .invalidationCompletion tag => Sys2Proof.Machine.execInvalidationCompletion tag s
  | .inboundRequest endpoint window offset write len data => Sys2Proof.Machine.execInboundRequest endpoint window offset write len data s
  | .fabricResponse request c => Sys2Proof.Machine.execFabricResponse request c s
  | .fabricResponseTimeout request => Sys2Proof.Machine.execFabricResponseTimeout request s
  | .hostWriteErrorAnswer q seq => Sys2Proof.Machine.execHostWriteErrorAnswer q seq s
  | .hostReadErrorAnswer request => Sys2Proof.Machine.execHostReadErrorAnswer request s
  | .linkHeld port => Sys2Proof.Machine.execLinkHeld port s
  | .linkUp port => Sys2Proof.Machine.execLinkUp port s
  | .linkUnencrypted port => Sys2Proof.Machine.execLinkUnencrypted port s
  | .abortNoticeReceived group origin serial => Sys2Proof.Machine.execAbortNoticeReceived group origin serial s
  | .frameBoundary => Sys2Proof.Machine.execFrameBoundary s
  | .backgroundSlot ageing => Sys2Proof.Machine.execBackgroundSlot ageing s
  | .scrubResult port addr found => Sys2Proof.Machine.execScrubResult port addr found s
  | .msBoundary blockWatts clusterWatts => Sys2Proof.Machine.execMsBoundary blockWatts clusterWatts s
  | .powerWindowEnd joules => Sys2Proof.Machine.execPowerWindowEnd joules s
  | .timeStrobe v parity => Sys2Proof.Machine.execTimeStrobe v parity s
  | .strobeTimeout => Sys2Proof.Machine.execStrobeTimeout s
  | .reanchor => Sys2Proof.Machine.execReanchor s
  | .wordUncorrectable place syndrome => Sys2Proof.Machine.execWordUncorrectable place syndrome s
  | .poisonConsumed core from_ => Sys2Proof.Machine.execPoisonConsumed core from_ s
  | .tileError core e => Sys2Proof.Machine.execTileError core e s
  | .clusterQuarantine cluster => Sys2Proof.Machine.execClusterQuarantine cluster s
  | .escalated d => Sys2Proof.Machine.execEscalated d s
  | .mirrorServed cluster folio page word mirror back => Sys2Proof.Machine.execMirrorServed cluster folio page word mirror back s
  | .mirrorCopyDone folio version => Sys2Proof.Machine.execMirrorCopyDone folio version s
  | .errPop queue v => Sys2Proof.Machine.execErrPop queue v s
  | .errQstatRead queue half => Sys2Proof.Machine.execErrQstatRead queue half s
  | .partitionResetStart p t => Sys2Proof.Machine.execPartitionResetStart p t s
  | .partitionResetDrainDone p => Sys2Proof.Machine.execPartitionResetDrainDone p s
  | .partitionResetEnd p => Sys2Proof.Machine.execPartitionResetEnd p s
  | .blockFatal die => Sys2Proof.Machine.execBlockFatal die s
  | .revocationDrainBound extent => Sys2Proof.Machine.execRevocationDrainBound extent s
  | .revocationInvalidated extent => Sys2Proof.Machine.execRevocationInvalidated extent s
  | .zeroingDone extent => Sys2Proof.Machine.execZeroingDone extent s
  | .scMbNotice r ch v => Sys2Proof.Machine.execScMbNotice r ch v s
  | .noticeTake bobbin => Sys2Proof.Machine.execNoticeTake bobbin s
  | .messageReadDone ch d => Sys2Proof.Machine.execMessageReadDone ch d s
  | .capabilityCheck ch => Sys2Proof.Machine.execCapabilityCheck ch s
  | .busyAnswer ch => Sys2Proof.Machine.execBusyAnswer ch s
  | .replyPosted ch accepted => Sys2Proof.Machine.execReplyPosted ch accepted s
  | .scMbAck r ch v => Sys2Proof.Machine.execScMbAck r ch v s
  | .replyHoldExpiry ch => Sys2Proof.Machine.execReplyHoldExpiry ch s
  | .capabilityExpiry capId => Sys2Proof.Machine.execCapabilityExpiry capId s
  | .partitionReset ch => Sys2Proof.Machine.execPartitionReset ch s
  | .queueReset ch => Sys2Proof.Machine.execQueueReset ch s
  | .queueStop ch => Sys2Proof.Machine.execQueueStop ch s
  | .queueStopResume ch => Sys2Proof.Machine.execQueueStopResume ch s
  | .errorLogRead ch => Sys2Proof.Machine.execErrorLogRead ch s
  | .folioRepair ch source readBack => Sys2Proof.Machine.execFolioRepair ch source readBack s
  | .spdmMessage ch => Sys2Proof.Machine.execSpdmMessage ch s
  | .attest ch => Sys2Proof.Machine.execAttest ch s
  | .keyZeroise ch => Sys2Proof.Machine.execKeyZeroise ch s
  | .signerRevoke ch => Sys2Proof.Machine.execSignerRevoke ch s
  | .rollbackAdvance ch => Sys2Proof.Machine.execRollbackAdvance ch s
  | .fwReboot ch => Sys2Proof.Machine.execFwReboot ch s
  | .requesterSet ch => Sys2Proof.Machine.execRequesterSet ch s
  | .requesterSetRemove ch => Sys2Proof.Machine.execRequesterSetRemove ch s
  | .ownerSet ch => Sys2Proof.Machine.execOwnerSet ch s
  | .partitionCreate ch => Sys2Proof.Machine.execPartitionCreate ch s
  | .partitionDestroy ch => Sys2Proof.Machine.execPartitionDestroy ch s
  | .layoutChange ch => Sys2Proof.Machine.execLayoutChange ch s
  | .partitionSet ch => Sys2Proof.Machine.execPartitionSet ch s
  | .regulatorSet ch => Sys2Proof.Machine.execRegulatorSet ch s
  | .contextCreate ch => Sys2Proof.Machine.execContextCreate ch s
  | .contextDelete ch => Sys2Proof.Machine.execContextDelete ch s
  | .contextSet ch => Sys2Proof.Machine.execContextSet ch s
  | .queueCreate ch => Sys2Proof.Machine.execQueueCreate ch s
  | .queueDelete ch => Sys2Proof.Machine.execQueueDelete ch s
  | .extentGrant ch => Sys2Proof.Machine.execExtentGrant ch s
  | .extentRights ch => Sys2Proof.Machine.execExtentRights ch s
  | .extentRevoke ch => Sys2Proof.Machine.execExtentRevoke ch s
  | .inboundWindowSet ch => Sys2Proof.Machine.execInboundWindowSet ch s
  | .powerCapSet ch => Sys2Proof.Machine.execPowerCapSet ch s
  | .mbGroupPower ch => Sys2Proof.Machine.execMbGroupPower ch s
  | .graphRegister ch image clean => Sys2Proof.Machine.execGraphRegister ch image clean s
  | .graphPatch ch image clean => Sys2Proof.Machine.execGraphPatch ch image clean s
  | .graphUnregister ch => Sys2Proof.Machine.execGraphUnregister ch s
  | .folioRegister ch => Sys2Proof.Machine.execFolioRegister ch s
  | .folioSet ch => Sys2Proof.Machine.execFolioSet ch s
  | .folioLookup ch => Sys2Proof.Machine.execFolioLookup ch s
  | .folioUnregister ch => Sys2Proof.Machine.execFolioUnregister ch s
  | .telemetryRead ch => Sys2Proof.Machine.execTelemetryRead ch s
  | .snapshot ch => Sys2Proof.Machine.execSnapshot ch s
  | .powerRead ch => Sys2Proof.Machine.execPowerRead ch s
  | .firmwareTelemetrySample => Sys2Proof.Machine.execFirmwareTelemetrySample s
  | .extentCheckAnswer ch ok mcGroup => Sys2Proof.Machine.execExtentCheckAnswer ch ok mcGroup s
  | .extentCheckTimeout ch => Sys2Proof.Machine.execExtentCheckTimeout ch s
  | .extentRevokeReq grant partition => Sys2Proof.Machine.execExtentRevokeReq grant partition s
  | .nearTierReport size => Sys2Proof.Machine.execNearTierReport size s
  | .bootData data => Sys2Proof.Machine.execBootData data s
  | .icDoorbellFire v => Sys2Proof.Machine.execIcDoorbellFire v s
  | .icDoorbellDeassert v => Sys2Proof.Machine.execIcDoorbellDeassert v s
  | .icAck core => Sys2Proof.Machine.execIcAck core s
  | .icEoi core v => Sys2Proof.Machine.execIcEoi core v s
  | .icSetPending v => Sys2Proof.Machine.execIcSetPending v s
  | .icClearPending v => Sys2Proof.Machine.execIcClearPending v s
  | .stormWindowExpiry source => Sys2Proof.Machine.execStormWindowExpiry source s
  | .sleepReq => Sys2Proof.Machine.execSleepReq s
  | .icWake pin => Sys2Proof.Machine.execIcWake pin s
  | .msixUnmask entry => Sys2Proof.Machine.execMsixUnmask entry s
  | .scTamperN held => Sys2Proof.Machine.execScTamperN held s
  | .debugUnlockAttempt => Sys2Proof.Machine.execDebugUnlockAttempt s
  | .classBGlitch die unit => Sys2Proof.Machine.execClassBGlitch die unit s
  | .retireFuseBlown => Sys2Proof.Machine.execRetireFuseBlown s
  | .partitionKeyRenewed p => Sys2Proof.Machine.execPartitionKeyRenewed p s
  | .getVersion session => Sys2Proof.Machine.execGetVersion session s
  | .getCapabilities session => Sys2Proof.Machine.execGetCapabilities session s
  | .negotiateAlgorithms session common => Sys2Proof.Machine.execNegotiateAlgorithms session common s
  | .getDigests session => Sys2Proof.Machine.execGetDigests session s
  | .getCertificate session slot offset length => Sys2Proof.Machine.execGetCertificate session slot offset length s
  | .challenge session slot nonce => Sys2Proof.Machine.execChallenge session slot nonce s
  | .getMeasurements session index slot signed nonce => Sys2Proof.Machine.execGetMeasurements session index slot signed nonce s
  | .keyExchange session requester bound mutAuth => Sys2Proof.Machine.execKeyExchange session requester bound mutAuth s
  | .finish session ok rootDigest => Sys2Proof.Machine.execFinish session ok rootDigest s
  | .heartbeat session => Sys2Proof.Machine.execHeartbeat session s
  | .keyUpdate session => Sys2Proof.Machine.execKeyUpdate session s
  | .endSession session => Sys2Proof.Machine.execEndSession session s
  | .chunkSend session handle index chunk last => Sys2Proof.Machine.execChunkSend session handle index chunk last s
  | .chunkGet session handle index => Sys2Proof.Machine.execChunkGet session handle index s
  | .spdmSessionLoss session => Sys2Proof.Machine.execSpdmSessionLoss session s
  | .getTdispVersion session p => Sys2Proof.Machine.execGetTdispVersion session p s
  | .getTdispCapabilities session p => Sys2Proof.Machine.execGetTdispCapabilities session p s
  | .lockInterfaceRequest session p => Sys2Proof.Machine.execLockInterfaceRequest session p s
  | .getDeviceInterfaceReport session p => Sys2Proof.Machine.execGetDeviceInterfaceReport session p s
  | .getDeviceInterfaceState session p => Sys2Proof.Machine.execGetDeviceInterfaceState session p s
  | .startInterfaceRequest session p => Sys2Proof.Machine.execStartInterfaceRequest session p s
  | .stopInterfaceRequest session p => Sys2Proof.Machine.execStopInterfaceRequest session p s
  | .ideKmKeyProg session p keyBits => Sys2Proof.Machine.execIdeKmKeyProg session p keyBits s
  | .scHardCapAssert held => Sys2Proof.Machine.execScHardCapAssert held s
  | .scHardCapDeassert held => Sys2Proof.Machine.execScHardCapDeassert held s
  | .thermalSample readings => Sys2Proof.Machine.execThermalSample readings s
  | .coolantStop held => Sys2Proof.Machine.execCoolantStop held s
  | .droopDetect core excess => Sys2Proof.Machine.execDroopDetect core excess s
  | .scResetNAssert held => Sys2Proof.Machine.execScResetNAssert held s
  | .scResetNDeassert held coolantOk hardCap => Sys2Proof.Machine.execScResetNDeassert held coolantOk hardCap s
  | .romDone selfTestOk => Sys2Proof.Machine.execRomDone selfTestOk s
  | .keysDone ok => Sys2Proof.Machine.execKeysDone ok s
  | .imageChecked ageing => Sys2Proof.Machine.execImageChecked ageing s
  | .memoryPortReady port => Sys2Proof.Machine.execMemoryPortReady port s
  | .memoryPortTimeout port => Sys2Proof.Machine.execMemoryPortTimeout port s
  | .trainingDone tests => Sys2Proof.Machine.execTrainingDone tests s
  | .timeLimitExpiry => Sys2Proof.Machine.execTimeLimitExpiry s
  | .bridgeFlitReplay bundle again => Sys2Proof.Machine.execBridgeFlitReplay bundle again s
  | .bridgeRetrainStart bundle => Sys2Proof.Machine.execBridgeRetrainStart bundle s
  | .bridgeRetrainEnd t => Sys2Proof.Machine.execBridgeRetrainEnd t s
  | .widthReq r v => Sys2Proof.Machine.execWidthReq r v s
  | .retrain r v => Sys2Proof.Machine.execRetrain r v s
  | .bridgeWidthChange => Sys2Proof.Machine.execBridgeWidthChange s
  | .scSignalsRead r half => Sys2Proof.Machine.execScSignalsRead r half s
  | .scRbIndex r lane v => Sys2Proof.Machine.execScRbIndex r lane v s
  | .captureDone r lane => Sys2Proof.Machine.execCaptureDone r lane s
  | .slotRetireCommand ch => Sys2Proof.Machine.execSlotRetireCommand ch s
  | .icStatusRead half => Sys2Proof.Machine.execIcStatusRead half s
  | .bootReadTimeout => Sys2Proof.Machine.execBootReadTimeout s
  | .thimbleDomainGlitch => Sys2Proof.Machine.execThimbleDomainGlitch s
  | .partitionCertificateIssued p => Sys2Proof.Machine.execPartitionCertificateIssued p s
  | .inputGlitch pin width => Sys2Proof.Machine.execInputGlitch pin width s
  | .slewComplete => Sys2Proof.Machine.execSlewComplete s
  | .faultRingWriteAccepted ctx => Sys2Proof.Machine.execFaultRingWriteAccepted ctx s
  | .priEnable p => Sys2Proof.Machine.execPriEnable p s
  | .regulatorTokenAccrual port => Sys2Proof.Machine.execRegulatorTokenAccrual port s
  | .layoutClearingDone p => Sys2Proof.Machine.execLayoutClearingDone p s

end Sys2Proof.Machine
end

