-- ==== Sys2Proof/Machine/Tick.lean ====
section
/-!
DEFINITION. What an idle block does: one nanosecond of local time passes (R131), and the internal CT runs with it,
under the slew in force (R126).
-/
namespace Sys2Proof.Machine

open Sys2Proof

/-- One local nanosecond of the time logic: CT advances by one; while a slew is in force, every 2,000 ns of local
time add or remove one further nanosecond (R126). In UNLOCKED no CT runs (R124). Log entry 1 (DESIGN CHOICE). -/
def Time.tick (t : Time) : Time :=
  let t := { t with now := t.now + 1 }
  if t.state = .unlocked then t
  else if t.slew = 0 then { t with ct := t.ct + 1 }
  else if t.slewPhase + 1 < 2000 then { t with ct := t.ct + 1, slewPhase := t.slewPhase + 1 }
  else if 0 < t.slew then { t with ct := t.ct + 2, slewPhase := 0, slew := t.slew - 1 }
  else { t with slewPhase := 0, slew := t.slew + 1 }

/-- The block with nothing to do. Log entry 1 (DESIGN CHOICE). -/
def State.tick (s : State) : State := { s with time := s.time.tick }

end Sys2Proof.Machine
end

