-- ==== Sys2Proof/Safety.lean ====
section
/-!
DEFINITION. What the statements about the block are made of: that a command completes with an effect, and what outlives
every command, reset included.
-/
namespace Sys2Proof.Machine

open Sys2Proof

/-- Command `i` answers a next state at `s`, and that state satisfies `P`. -/
def Completes (i : Instr) (s : State) (P : State → Prop) : Prop := ∃ t, exec i s = .next t ∧ P t

/-- The parts of the state, one for each field of `State`. -/
inductive Part where
  | pending | free | out | fuses | boot | time | pins | bad | sec | mail
  | ic | msix | errs | power | bg | lanes | fports | bridge | commons | parts
  | ctxs | queues | slots | admitted | graphs | seqs | extents | folios | atc | xlats
  | faults | faultNo | groupNo | pri | pageAlloc | invals | inbound | reqs | reqNo | cores
  | clusters | lines | accrued | dirWaits | adders | merges
deriving DecidableEq, Repr

/-- A part stands in `t` as in `s`. -/
def Part.Same (s t : State) : Part → Prop
  | .pending => t.pending = s.pending
  | .free => t.free = s.free
  | .out => t.out = s.out
  | .fuses => t.fuses = s.fuses
  | .boot => t.boot = s.boot
  | .time => t.time = s.time
  | .pins => t.pins = s.pins
  | .bad => t.bad = s.bad
  | .sec => t.sec = s.sec
  | .mail => t.mail = s.mail
  | .ic => t.ic = s.ic
  | .msix => t.msix = s.msix
  | .errs => t.errs = s.errs
  | .power => t.power = s.power
  | .bg => t.bg = s.bg
  | .lanes => t.lanes = s.lanes
  | .fports => t.fports = s.fports
  | .bridge => t.bridge = s.bridge
  | .commons => t.commons = s.commons
  | .parts => t.parts = s.parts
  | .ctxs => t.ctxs = s.ctxs
  | .queues => t.queues = s.queues
  | .slots => t.slots = s.slots
  | .admitted => t.admitted = s.admitted
  | .graphs => t.graphs = s.graphs
  | .seqs => t.seqs = s.seqs
  | .extents => t.extents = s.extents
  | .folios => t.folios = s.folios
  | .atc => t.atc = s.atc
  | .xlats => t.xlats = s.xlats
  | .faults => t.faults = s.faults
  | .faultNo => t.faultNo = s.faultNo
  | .groupNo => t.groupNo = s.groupNo
  | .pri => t.pri = s.pri
  | .pageAlloc => t.pageAlloc = s.pageAlloc
  | .invals => t.invals = s.invals
  | .inbound => t.inbound = s.inbound
  | .reqs => t.reqs = s.reqs
  | .reqNo => t.reqNo = s.reqNo
  | .cores => t.cores = s.cores
  | .clusters => t.clusters = s.clusters
  | .lines => t.lines = s.lines
  | .accrued => t.accrued = s.accrued
  | .dirWaits => t.dirWaits = s.dirWaits
  | .adders => t.adders = s.adders
  | .merges => t.merges = s.merges

/-- `t` is `s` but for the parts listed: every other part of the state stands unchanged. -/
def OnlyChanges (parts : List Part) (s t : State) : Prop := ∀ p, p ∉ parts → p.Same s t

/-- Slot `seq` of queue `q` has finished with a status and cause (R159): it stands FINISHED in the table, or it has left
the table and the queue's RETIRED_SEQ covers it. -/
def State.SlotEnded (t : State) (q seq status cause : Nat) : Prop :=
  (∃ e, t.slot? q seq = some e ∧ e.state = .finished ∧ e.status = status ∧ e.cause = cause)
    ∨ (t.slot? q seq = none ∧ seq ≤ (t.queue q).retiredSeq)

/-- The parts that the end of a slot may change: its entry and what it kept live (R120, R243), its queue's latch and writes
(R159, R161), and its partition's counters (R206, R425). -/
def finishParts : List Part := [.queues, .slots, .parts, .reqs, .out, .fports, .msix, .graphs, .folios, .atc, .errs]

/-- The block is live, and slot `seq` of queue `q` is `e`, of a queue that does not drain. -/
abbrev State.Working (s : State) (q seq : Nat) (e : Slot) : Prop :=
  s.live = true ∧ s.slot? q seq = some e ∧ (s.queue q).state ≠ .draining

/-- As `Working`, with `e` the only slot under way and without bindings of its own. -/
abbrev State.Alone (s : State) (q seq : Nat) (e : Slot) : Prop :=
  s.live = true ∧ s.slots = [e] ∧ e.queue = q ∧ e.seq = seq ∧ e.image = none ∧ e.bindings = [] ∧ (s.queue q).state ≠ .draining

/-- The message of an ADVISE or PREFETCH has left through memory port 0 with the slot's handle, offset and length (R450), and
the slot waits for its acknowledgement. -/
def State.AdviceSent (t : State) (q seq : Nat) (e : Slot) (kind whenCt : Nat) : Prop :=
  t.out.head? = some (.advice 0 kind (le (args e.raw) 0 8) (le (args e.raw) 8 8)
      (le (args e.raw) 16 8) whenCt)
    ∧ ∃ x, t.slot? q seq = some x ∧ x.state = .running ∧ x.adviceOut = true ∧ x.raw = e.raw

/-- The fill of one line has been asked for (R96): a request of 64 bytes for the slot, which counts it. -/
def State.FillAsked (s t : State) (q seq line fills : Nat) : Prop :=
  (∃ r, t.reqs.get? s.reqNo = some r ∧ r.who = .fill q seq ∧ r.address = 64 * line ∧ r.bytes = 64 ∧ r.write = false)
    ∧ ∃ x, t.slot? q seq = some x ∧ x.state = .running ∧ x.fills = fills

/-- Whether an entry belongs to the slot's context and is one that the slot names (R228). -/
def Slot.names (e : Slot) (x : SeqEntry) (by_ : Bool) : Bool := x.partition == e.partition && x.context == e.context && by_

/-- The reply of channel `ch` is formed and its write issued (R337): DETAIL, the STATUS that R340 gives it, and the body. -/
structure State.Replying (t : State) (ch detail : Nat) (body : Bytes) : Prop where
  serving : (t.chan ch).serve = .replying
  withDetail : (t.chan ch).header.detail = detail
  withStatus : (t.chan ch).header.status = detailStatus detail
  withBody : (t.chan ch).body = body

/-- The block is live, and channel `ch` is being served with message `m` of opcode `op`: read, in range, and allowed (R345). -/
abbrev State.Serving (s : State) (ch op : Nat) (m : Message) : Prop :=
  s.live = true ∧ (s.chan ch).state = .serving ∧ (s.chan ch).serve = .allowed ∧ (s.chan ch).message = some m ∧ m.opcode = op
    ∧ m.targetsInRange = true

/-- The parts that forming a reply may change. -/
def replyParts : List Part := [.mail, .out, .fports]

/-- The block is live, answers SPDM, and `x` is what it keeps of conversation `n` (R316, R467). -/
abbrev State.Talking (s : State) (n : Nat) (x : Session) : Prop :=
  s.live = true ∧ s.boot.doeOn = true ∧ s.session n = x

/-- As `Talking`, in an established session bound to partition `p`, or to none yet (R294); the partition is not FREE. -/
abbrev State.TalkingTdi (s : State) (n p : Nat) (x : Session) : Prop :=
  s.Talking n x ∧ x.established = true ∧ (x.bound = none ∨ x.bound = some p) ∧ (s.part p).state ≠ .free

/-- The last thing that left the block is a response of this name in conversation `n`. -/
def State.Responds (t : State) (n : Nat) (name : String) : Prop := ∃ b, t.out.head? = some (.spdm n name b)

/-- Fuses are blown and never restored (R314, R315, R322, R461): what is fused stays, and a bank once written stays. -/
structure Fuses.Blown (a b : Fuses) : Prop where
  full : b.full = a.full
  stepping : b.stepping = a.stepping
  serial : b.serial = a.serial
  bins : b.bins = a.bins
  endpoint : b.endpoint = a.endpoint
  debugLocked : b.debugLocked = a.debugLocked
  retired : ∀ i, a.retired.getLsbD i = true → b.retired.getLsbD i = true
  signersRevoked : ∀ i, a.signersRevoked.getLsbD i = true → b.signersRevoked.getLsbD i = true
  rollback : a.rollback ≤ b.rollback
  ownerBanks : a.ownerBanks <+: b.ownerBanks

/-- What a state keeps of an earlier state `r` whatever commands came between: the queue of the commands that wait, what has
left through the ports, the fuses, the local clock, and the free values drawn. -/
structure Outlives (r s : State) : Prop where
  pending : s.pending = r.pending
  out : r.out <:+ s.out
  fuses : r.fuses.Blown s.fuses
  now : r.time.now ≤ s.time.now
  free : r.free ≤ s.free

/-- The keys of a table strictly rise: the one form in which the block's numbered entries are held. -/
def Tbl.Sorted {α : Type} (t : Tbl α) : Prop := t.Pairwise fun a b => a.1 < b.1

/-- Every table of the state stands in its one form, so that equal contents are equal data. -/
structure State.Canonical (s : State) : Prop where
  lanes : Tbl.Sorted s.lanes
  fports : Tbl.Sorted s.fports
  parts : Tbl.Sorted s.parts
  ctxs : Tbl.Sorted s.ctxs
  queues : Tbl.Sorted s.queues
  graphs : Tbl.Sorted s.graphs
  seqs : Tbl.Sorted s.seqs
  extents : Tbl.Sorted s.extents
  folios : Tbl.Sorted s.folios
  atc : Tbl.Sorted s.atc
  xlats : Tbl.Sorted s.xlats
  inbound : Tbl.Sorted s.inbound
  reqs : Tbl.Sorted s.reqs
  cores : Tbl.Sorted s.cores
  clusters : Tbl.Sorted s.clusters
  accrued : Tbl.Sorted s.accrued

/-- The stores of error records hold no more than R386 and R395 give them: 4 records a queue, 4,096 in the firmware log, 1,024
entries in the quarantine table with up to 8 words each. -/
structure Errors.Bounded (e : Errors) : Prop where
  queues : ∀ x ∈ e.queues, x.2.records.length ≤ 4
  log : e.log.length ≤ 4096
  quarantine : e.quarantine.length ≤ 1024
  words : ∀ x ∈ e.quarantine, x.words.length ≤ 8

/-- Every scratchpad stands in its canonical form. -/
def State.ScratchWf (s : State) : Prop := ∀ x ∈ s.cores, Memory.wf x.2.scratch = true

/-- The commands that may act on a stopped block, or on one held in reset: accesses to its registers, which answer with an
error (R26), the alarm inputs of the Thimble domain (R321, R322), the end of a fuse operation under way, and SC_RESET_N. -/
def actsWhenStopped : Instr → Bool
  | .registerWrite .. | .badScAccess .. | .scBadAccessRead .. | .scQcountsRead .. | .scQdb .. | .scQctlStop .. | .scQctlResume ..
  | .scMbNotice .. | .scMbAck .. | .scSignalsRead .. | .scRbIndex .. | .widthReq .. | .retrain .. => true
  | .scTamperN .. | .debugUnlockAttempt .. | .thimbleDomainGlitch .. | .retireFuseBlown .. => true
  | .scResetNAssert .. | .scResetNDeassert .. => true
  | _ => false

/-- The interrupts under way on a core nest: each has a strictly higher priority than the one below it, and all are below
16 (R356, R357). -/
def IcCore.Nested (c : IcCore) : Prop := c.stack.Pairwise (fun a b => a.2 < b.2) ∧ ∀ x ∈ c.stack, x.2 < 16

/-- The stacks of every core nest, the retained ones of R362 too. -/
def Ic.StacksNested (c : Ic) : Prop := (∀ x ∈ c.cores, x.2.Nested) ∧ ∀ x ∈ c.keptCores, x.2.Nested

end Sys2Proof.Machine
end

