-- ==== Sys2Proof/Certificates/Slice0/Obligations.lean ====
section
/-!
DEFINITION. The statements about the block, for the provers. `Completes i s P` (Safety.lean) says that command `i` answers a
next state at `s` that satisfies `P`; `OnlyChanges ps s t` that no part of the state but those listed changes.
-/
open Sys2Proof Sys2Proof.Machine SlotField

/-- A step with commands waiting runs the one at the front on the state whose queue is the rest. -/
def Obligations.AStepRunsTheFrontCommand : Prop :=
  ∀ s c cs, s.pending = c :: cs → step s = exec c { s with pending := cs }

/-- Every command of the table answers a next state from every state: none stops the block's model. The model's choice (log entry 1):
a step with no command waiting lets one nanosecond pass, which changes the clock and the time logic's own account of it and nothing
else. -/
def Obligations.StepsAlwaysAnswer : Prop :=
  (∀ s, ∃ t, step s = .next t) ∧
  (∀ s, s.pending = [] → ∃ t, step s = .next t ∧ t.time.now = s.time.now + 1 ∧ OnlyChanges [.time] s t)

/-- R322, R416: a stopped block, and one held in reset, does nothing on any command but the accesses to its registers, the
alarm inputs, the end of a fuse operation, and SC_RESET_N. -/
def Obligations.AStoppedBlockDoesNothing : Prop :=
  ∀ c s, s.live = false → actsWhenStopped c = false → exec c s = .next s

/-- Whatever one step does, the commands that wait behind it still wait, what has left the block stays in the order in which it
left, no fuse is ever restored (R314, R315, R461), and the local clock does not run back. -/
def Obligations.StepKeepsWhatOutlivesIt : Prop :=
  ∀ s t, step s = .next t → Outlives { s with pending := s.pending.tail } t

/-- Every step keeps every table of numbered entries, and the contents of every scratchpad, in the one form in which equal
contents are equal data. -/
def Obligations.StepKeepsTheCanonicalForms : Prop :=
  (∀ s t, s.Canonical → step s = .next t → t.Canonical) ∧
  (∀ s t, s.ScratchWf → step s = .next t → t.ScratchWf)

/-- R386, R395: no step lets the error records of a queue, the firmware's log, or the quarantine table outgrow its store. -/
def Obligations.StepKeepsTheErrorStoresBounded : Prop :=
  ∀ s t, s.errs.Bounded → step s = .next t → t.errs.Bounded

/-- R356, R357: every step keeps the interrupts under way on each core nested, so that no stack outgrows 16 entries. -/
def Obligations.StepKeepsInterruptsNested : Prop :=
  (∀ s t, s.ic.StacksNested → step s = .next t → t.ic.StacksNested) ∧
  (∀ c : IcCore, c.Nested → c.stack.length ≤ 16)

/-- The invariants hold at reset. -/
def Obligations.TheResetStateMeetsTheInvariants : Prop :=
  State.reset.Canonical ∧ State.reset.ScratchWf ∧ State.reset.errs.Bounded ∧ State.reset.ic.StacksNested
    ∧ State.reset.pending = []

/-- R357: a read of IC_ACK returns the candidate, makes it ACTIVE and pushes it with its priority; with no candidate it returns
0xFFFF and changes nothing; only a strictly higher priority pre-empts, and so the stack never overflows. A source disabled less
than 40 ns ago while it was the candidate may be returned in its place (R360). -/
def Obligations.AcknowledgesTakeTheCandidate : Prop :=
  (∀ s k n p, s.live = true → s.ic.lingers k s.time.now = none → s.ic.candidate k = some (n, p) →
    Completes (.icAck k) s fun t =>
      OnlyChanges [.ic, .out] s t ∧ t.out = .icValue (BitVec.ofNat 64 n) :: s.out ∧ (t.ic.src n).state = .active
        ∧ (t.ic.core k).stack = (n, p) :: (s.ic.core k).stack ∧ (t.ic.core k).running = p
        ∧ (∀ j, j ≠ k → t.ic.core j = s.ic.core j) ∧ ∀ m, m ≠ n → t.ic.src m = s.ic.src m) ∧
  (∀ s k, s.live = true → s.ic.lingers k s.time.now = none → s.ic.candidate k = none →
    Completes (.icAck k) s fun t =>
      OnlyChanges [.ic, .out] s t ∧ t.out = .icValue 0xFFFF :: s.out ∧ { t.ic with cores := s.ic.cores } = s.ic
        ∧ t.ic.core k = { s.ic.core k with lingering := none } ∧ ∀ j, j ≠ k → t.ic.core j = s.ic.core j) ∧
  (∀ s k n p, s.live = true → s.ic.lingers k s.time.now = some (n, p) →
    Completes (.icAck k) s fun t =>
      OnlyChanges [.ic, .out, .free] s t
        ∧ ((t.out = .icValue (BitVec.ofNat 64 n) :: s.out ∧ (t.ic.core k).stack = (n, p) :: (s.ic.core k).stack)
          ∨ (∃ m q, s.ic.candidate k = some (m, q) ∧ t.out = .icValue (BitVec.ofNat 64 m) :: s.out
              ∧ (t.ic.core k).stack = (m, q) :: (s.ic.core k).stack)
          ∨ (s.ic.candidate k = none ∧ t.out = .icValue 0xFFFF :: s.out ∧ (t.ic.core k).stack = (s.ic.core k).stack))) ∧
  (∀ (c : Ic) k n p, c.candidate k = some (n, p) → p < (c.core k).running) ∧
  (∀ (c : Ic) k n p, c.candidate k = some (n, p) → (c.core k).Nested →
    ((c.acknowledge k n p).core k).Nested ∧ ((c.acknowledge k n p).core k).stack.length ≤ 16)

/-- R358: a write to IC_EOI of the number on top of the stack pops it and ends the interrupt, a level source being re-sampled;
any other number only counts in BAD_EOI. -/
def Obligations.InterruptsEndAtTheEoi : Prop :=
  (∀ s k v p rest, s.live = true → (s.ic.core k).stack = (dbSource v, p) :: rest → isLevelSource (dbSource v) = false →
    Completes (.icEoi k v) s fun t =>
      OnlyChanges [.ic] s t ∧ (t.ic.core k).stack = rest
        ∧ ((s.ic.src (dbSource v)).state = .active → (t.ic.src (dbSource v)).state = .inactive)
        ∧ ((s.ic.src (dbSource v)).state = .activePending → (t.ic.src (dbSource v)).state = .pending)
        ∧ (∀ j, j ≠ k → t.ic.core j = s.ic.core j) ∧ ∀ m, m ≠ dbSource v → t.ic.src m = s.ic.src m) ∧
  (∀ s k v p rest, s.live = true → (s.ic.core k).stack = (dbSource v, p) :: rest → isLevelSource (dbSource v) = true →
    Completes (.icEoi k v) s fun t =>
      OnlyChanges [.ic] s t ∧ (t.ic.core k).stack = rest
        ∧ (t.ic.src (dbSource v)).state = (if (s.ic.src (dbSource v)).level then .pending else .inactive)
        ∧ (t.ic.src (dbSource v)).level = (s.ic.src (dbSource v)).level
        ∧ (∀ j, j ≠ k → t.ic.core j = s.ic.core j) ∧ ∀ m, m ≠ 0 → m ≠ dbSource v → t.ic.src m = s.ic.src m) ∧
  (∀ s k v p rest now, s.live = true → (s.ic.core k).stack = (dbSource v, p) :: rest → isLevelSource (dbSource v) = true →
    (s.ic.src (dbSource v)).level = true → s.time.now = now → s.ic.asleep = false → (s.ic.src (dbSource v)).enable = true →
    (s.ic.src (dbSource v)).windowOpen now = false →
    Completes (.icEoi k v) s fun t =>
      (t.ic.src (dbSource v)).window = some now ∧ (t.ic.src (dbSource v)).fires = 1) ∧
  (∀ s k v, s.live = true → (s.ic.core k).stack.head?.map (·.1) ≠ some (dbSource v) →
    Completes (.icEoi k v) s fun t =>
      t = { s with ic := { s.ic with badEoi := min (s.ic.badEoi + 1) 0xFFFF } })

/-- R448: a port whose link reports that it runs without encryption is treated as HELD, and its ENCRYPTED reads 0. -/
def Obligations.UnencryptedLinksAreHeld : Prop :=
  ∀ s n, s.live = true → n < s.nFports →
    Completes (.linkUnencrypted n) s fun t =>
      OnlyChanges [.fports, .ic] s t ∧ (t.fport n).state = 2 ∧ (t.fport n).encrypted = false
        ∧ t.fportWord n / 4 % 2 = 0 ∧ (t.ic.src (416 + n)).level = true ∧ ∀ m, m ≠ n → t.fport m = s.fport m

/-- R35, R37: the sixteen codes of E2M1 and the four of S2 have the values of their tables, each written here as the
single-precision code of the value. -/
def Obligations.SmallFormatsFollowTheirTables : Prop :=
  (List.range 16).map (fun c => round32 (decodeElem .mxfp4 c))
      = [0, 0x3F000000, 0x3F800000, 0x3FC00000, 0x40000000, 0x40400000, 0x40800000, 0x40C00000,
         0x80000000, 0xBF000000, 0xBF800000, 0xBFC00000, 0xC0000000, 0xC0400000, 0xC0800000, 0xC0C00000] ∧
  (List.range 4).map (fun c => round32 (decodeElem .s2 c)) = [0x3F000000, 0x3FC00000, 0xBF000000, 0xBFC00000]

/-- R371: the data of a code word are its bits [255:0], byte i in bits [8i+7:8i], and check symbol k is bits
[256+8k+7:256+8k]. -/
def Obligations.CodeWordsAreLaidOutAsTheTable : Prop :=
  (∀ d, dataOf (encodeWord d) = d) ∧
  (∀ w i, i < 32 → (wordBytes w)[i]? = some (w.extractLsb' (8 * i) 8) ∧ symbolAt w (4 + i) = w.extractLsb' (8 * i) 8) ∧
  (∀ w k, k < 4 → symbolAt w k = w.extractLsb' (256 + 8 * k) 8) ∧
  (∀ d, (checkSymbols d).2.2.2 = symbolAt (encodeWord d) 0 ∧ (checkSymbols d).2.2.1 = symbolAt (encodeWord d) 1
    ∧ (checkSymbols d).2.1 = symbolAt (encodeWord d) 2 ∧ (checkSymbols d).1 = symbolAt (encodeWord d) 3)

/-- R372, R374: any change of one symbol of a code word is found at its symbol and corrected; a code word reads as it was written, and
a poisoned word reads as poison whatever its data. -/
def Obligations.WordsAreCorrectedAndPoisonIsTold : Prop :=
  (∀ (d : BitVec 256) (j : Nat) (e : BitVec 8), j < 36 → e ≠ 0 →
    let w := encodeWord d ^^^ (e.zeroExtend 288 <<< (if j < 4 then 256 + 8 * j else 8 * (j - 4)))
    readWord w = .correctable j ∧ correctWord w j = encodeWord d ∧ deliverWord w = encodeWord d) ∧
  (∀ d : BitVec 256, readWord (encodeWord d) = .clean ∧ dataOf (encodeWord d) = d ∧ readWord (poisonWord d) = .poison
    ∧ dataOf (poisonWord d) = d)

/-- R354, R359, R361, R362, R364, R368: a fire makes a source pending; IC_CLEAR_PENDING and a deasserting message take the pending
state back; a level source cleared while its level is still high fires at the next asserting message (log entry 15). The
controller alone changes, and apart from source 0 (the storm source, R361) no other source. Then the end of a storm window, sleep
and wake, the read of IC_STATUS that clears BAD_EOI, and the unmasking that sends a pending message. -/
def Obligations.InterruptControllerKeepsItsSources : Prop :=
  (∀ s v, s.live = true → dbOp v = 0 → sourceListed s.fuses.full (dbSource v) = true → isLevelSource (dbSource v) = false →
    Completes (.icDoorbellFire v) s fun t =>
      OnlyChanges [.ic] s t ∧ (t.ic.src (dbSource v)).state = (s.ic.src (dbSource v)).state.fired
        ∧ ∀ m, m ≠ 0 → m ≠ dbSource v → t.ic.src m = s.ic.src m) ∧
  (∀ s v, s.live = true → dbOp v = 0 → sourceListed s.fuses.full (dbSource v) = true → isLevelSource (dbSource v) = true →
    (s.ic.src (dbSource v)).level = false →
    Completes (.icDoorbellFire v) s fun t =>
      OnlyChanges [.ic] s t ∧ (t.ic.src (dbSource v)).state = (s.ic.src (dbSource v)).state.fired
        ∧ (t.ic.src (dbSource v)).level = true ∧ ∀ m, m ≠ 0 → m ≠ dbSource v → t.ic.src m = s.ic.src m) ∧
  (∀ s v, s.live = true → dbOp v = 0 → sourceListed s.fuses.full (dbSource v) = true → isLevelSource (dbSource v) = true →
    (s.ic.src (dbSource v)).level = true → (s.ic.src (dbSource v)).state = .inactive →
    Completes (.icDoorbellFire v) s fun t =>
      OnlyChanges [.ic] s t ∧ (t.ic.src (dbSource v)).state = .pending ∧ (t.ic.src (dbSource v)).level = true
        ∧ ∀ m, m ≠ 0 → m ≠ dbSource v → t.ic.src m = s.ic.src m) ∧
  (∀ s v, s.live = true → dbOp v = 1 → sourceListed s.fuses.full (dbSource v) = true → isLevelSource (dbSource v) = true →
    Completes (.icDoorbellDeassert v) s fun t =>
      OnlyChanges [.ic] s t ∧ (t.ic.src (dbSource v)).level = false
        ∧ (t.ic.src (dbSource v)).state
          = (if (s.ic.src (dbSource v)).state = .pending then .inactive else (s.ic.src (dbSource v)).state)
        ∧ ∀ m, m ≠ dbSource v → t.ic.src m = s.ic.src m) ∧
  (∀ s v, s.live = true →
    Completes (.icSetPending v) s fun t =>
      OnlyChanges [.ic] s t ∧ t.ic.src (dbSource v) = { s.ic.src (dbSource v) with state := (s.ic.src (dbSource v)).state.fired }
        ∧ ∀ m, m ≠ dbSource v → t.ic.src m = s.ic.src m) ∧
  (∀ s v, s.live = true →
    Completes (.icClearPending v) s fun t =>
      OnlyChanges [.ic] s t
        ∧ t.ic.src (dbSource v) = { s.ic.src (dbSource v) with state := (s.ic.src (dbSource v)).state.cleared }
        ∧ ∀ m, m ≠ dbSource v → t.ic.src m = s.ic.src m) ∧
  (∀ s n w, s.live = true → (s.ic.src n).window = some w → w + 8000 ≤ s.time.now →
    Completes (.stormWindowExpiry n) s fun t =>
      OnlyChanges [.ic] s t ∧ t.ic.src n = { s.ic.src n with window := none, fires := 0 }
        ∧ ∀ m, m ≠ n → t.ic.src m = s.ic.src m) ∧
  (∀ s, s.live = true → s.ic.asleep = false → s.ic.awake = true →
    Completes .sleepReq s fun t => t = { s with ic := { s.ic with sleepRefused := true } }) ∧
  (∀ s, s.live = true → s.ic.asleep = false → s.ic.awake = false →
    Completes .sleepReq s fun t =>
      OnlyChanges [.ic] s t ∧ t.ic.asleep = true ∧ t.ic.keptCores = s.ic.cores ∧ t.ic.keptStorm = s.ic.stormLast
        ∧ t.ic.keptSrcs = t.ic.srcs ∧ ∀ k, t.ic.candidate k = none) ∧
  (∀ s, s.live = true → s.ic.asleep = true →
    Completes (.icWake true) s fun t =>
      OnlyChanges [.ic] s t ∧ t.ic.asleep = false ∧ t.ic.restored = true ∧ t.ic.cores = s.ic.keptCores
        ∧ ∀ n, t.ic.src n = s.ic.src n) ∧
  (∀ s h, s.live = true →
    Completes (.icStatusRead h) s fun t =>
      OnlyChanges [.ic, .out] s t ∧ t.out = .icValue (halfOf h s.ic.status) :: s.out
        ∧ t.ic = { s.ic with badEoi := if readsHigh h then 0 else s.ic.badEoi }) ∧
  (∀ s e, s.live = true → s.msix.enable = true → s.msix.funcMask = false → s.msix.due = [] →
    Tbl.Sorted s.msix.entries → (s.msix.entries.getD e {}).pending = true →
    Completes (.msixUnmask (some e)) s fun t =>
      OnlyChanges [.msix, .out] s t ∧ t.out = .msix e :: s.out ∧ (t.msix.entries.getD e {}).masked = false
        ∧ (t.msix.entries.getD e {}).pending = false)

/-- R9, R10, R26: a read that is served answers the register's value and changes nothing else. -/
def Obligations.ServedReadsAnswerTheRegister : Prop :=
  (∀ s r off size, s.live = true → s.inDarkGroup r off = false → s.accessKind r false off size = 0 →
    readClears (placeOf r off) = false →
    Completes (.badScAccess r false off size) s fun t => t = s.emit (.regValue r (s.readValue r off size))) ∧
  (∀ s tee, s.live = true →
    Completes (.badScAccess (.host tee) false 0x20000 8) s fun t =>
      t = s.emit (.regValue (.host tee) (BitVec.ofNat 64 s.ctNow))) ∧
  (∀ s half tee, s.live = true → s.isMgmt (.host tee) = true → readsLow half = true →
    Completes (.scBadAccessRead (.host tee) half) s fun t =>
      t = { s with out := .regValue (.host tee) (halfOf half s.bad.word) :: s.out, bad := { s.bad with count := 0 } }) ∧
  (∀ s half tee, s.live = true → s.isMgmt (.host tee) = false →
    Completes (.scBadAccessRead (.host tee) half) s fun t => t = s.emit (.regValue (.host tee) 0)) ∧
  (∀ s half tee, s.live = true → s.isMgmt (.host tee) = true → readsLow half = true →
    Completes (.scSignalsRead (.host tee) half) s fun t =>
      t = { s with out := .regValue (.host tee) (halfOf half s.pins.word) :: s.out, pins := { s.pins with glitches := 0 } }) ∧
  (∀ s half tee, s.live = true → s.isMgmt (.host tee) = false →
    Completes (.scSignalsRead (.host tee) half) s fun t => t = s.emit (.regValue (.host tee) 0))

/-- R9, R26, R29, R137, R178, R353, R365, R403, R439: an access at a reserved offset, not permitted, or of a wrong size returns zero
or is discarded, and is counted; the last one leaves its kind and bits [27:4] of its offset, and nothing else changes. A register
write reaches the field that it is for, and nothing else changes. -/
def Obligations.RegisterAccessesReachTheirFieldOrAreCounted : Prop :=
  (∀ s r off size, s.live = true → s.inDarkGroup r off = false → s.accessKind r false off size ≠ 0 →
    Completes (.badScAccess r false off size) s fun t =>
      OnlyChanges [.bad, .out] s t ∧ t.out = .regValue r 0 :: s.out ∧ t.bad.count = min (s.bad.count + 1) 0xFFFFFFFF
        ∧ t.bad.lastKind = s.accessKind r false off size ∧ t.bad.lastOffset = off / 16 % 2 ^ 24) ∧
  (∀ s r off size, s.live = true → s.inDarkGroup r off = false → s.accessKind r true off size ≠ 0 →
    Completes (.badScAccess r true off size) s fun t =>
      OnlyChanges [.bad] s t ∧ t.bad.count = min (s.bad.count + 1) 0xFFFFFFFF
        ∧ t.bad.lastKind = s.accessKind r true off size ∧ t.bad.lastOffset = off / 16 % 2 ^ 24) ∧
  (∀ s r off size w, s.live = true → s.inDarkGroup r off = true →
    Completes (.badScAccess r w off size) s fun t => t = s.emit (.unsupported r)) ∧
  (∀ s r off size w, s.boot.stopped ≠ .no →
    Completes (.badScAccess r w off size) s fun t => t = s.emit (.errorResponse r)) ∧
  (∀ s r q v, s.live = true → s.reachesQueue r q = false →
    Completes (.scQdb r q v) s fun t =>
      OnlyChanges [.bad] s t ∧ t.bad.count = min (s.bad.count + 1) 0xFFFFFFFF ∧ t.bad.lastKind = 2) ∧
  (∀ s r q v, s.boot.stopped ≠ .no → Completes (.scQdb r q v) s fun t => t = s.emit (.errorResponse r)) ∧
  (∀ s tee v, s.live = true → s.isMgmt (.host tee) = true →
    Completes (.registerWrite (.host tee) .sc 0x20008 8 v) s fun t =>
      t = { s with time := { s.time with
              timeStep := s.time.timeStep && !v.getLsbD 2, holdoverSeen := s.time.holdoverSeen && !v.getLsbD 3
              rejectedSeen := s.time.rejectedSeen && !v.getLsbD 4 } }) ∧
  (∀ s tee p v, s.live = true → p < 64 → s.isMgmt (.host tee) = true →
    Completes (.registerWrite (.host tee) .sc (0x20800 + 8 * p) 8 v) s fun t =>
      OnlyChanges [.parts] s t ∧ (t.part p).jobGroup = v.toNat % 2 ^ 16 ∧ ∀ x, x ≠ p → t.part x = s.part x) ∧
  (∀ s tee q v, s.live = true → q < 4096 → s.reachesQueue (.host tee) q = true → v.getLsbD 25 = true →
    Completes (.registerWrite (.host tee) .sc (queueOffset q 8) 8 v) s fun t =>
      OnlyChanges [.queues] s t ∧ t.queue q = { s.queue q with intLost := false } ∧ ∀ x, x ≠ q → t.queue x = s.queue x) ∧
  (∀ s r n v, s.live = true → n < 1024 → absentSource s.fuses.full n = false →
    Completes (.registerWrite r .bobbin (0x0C010000 + 8 * n) 8 v) s fun t =>
      OnlyChanges [.ic] s t ∧ (t.ic.src n).enable = v.getLsbD 0 ∧ (t.ic.src n).wake = v.getLsbD 2
        ∧ (t.ic.src n).priority = v.toNat / 16 % 16 ∧ (t.ic.src n).target = v.toNat / 256 % 4
        ∧ (t.ic.src n).state = (s.ic.src n).state ∧ (t.ic.src n).level = (s.ic.src n).level
        ∧ ∀ m, m ≠ n → t.ic.src m = s.ic.src m) ∧
  (∀ s r k v, s.live = true → k < 4 → s.ic.asleep = false →
    Completes (.registerWrite r .bobbin (0x0C001018 + 0x100 * k) 8 v) s fun t =>
      OnlyChanges [.ic] s t ∧ (t.ic.core k).primask = v.toNat % 32 ∧ (t.ic.core k).stack = (s.ic.core k).stack
        ∧ (∀ j, j ≠ k → t.ic.core j = s.ic.core j) ∧ ∀ m, t.ic.src m = s.ic.src m) ∧
  (∀ s tee e v, s.live = true → e < 2048 → s.msix.due = [] →
    Completes (.registerWrite (.host tee) .bar2 (16 * e) 8 v) s fun t =>
      OnlyChanges [.msix] s t ∧ (t.msix.entries.getD e {}).address = v
        ∧ (t.msix.entries.getD e {}).masked = (s.msix.entries.getD e {}).masked
        ∧ ∀ x, x ≠ e → t.msix.entries.getD x {} = s.msix.entries.getD x {})

/-- R158, R180: what a doorbell does to its queue, test by test, in the order of the table; no other queue changes. A token that
accrues, with no tail waiting and with a newer one waiting, which it applies; and the read that clears the counters that lie in
the half it takes. -/
def Obligations.DoorbellsAndTheirTokens : Prop :=
  (∀ s r q v, s.live = true → s.reachesQueue r q = true →
    Completes (.scQdb r q v) s fun t =>
      OnlyChanges [.queues] s t ∧ (∀ x, x ≠ q → t.queue x = s.queue x) ∧
      let u := s.queue q
      let tail := v.toNat % 2 ^ 16
      t.queue q =
        if u.state = .disabled ∨ u.state = .draining ∨ v.toNat / 2 ^ 16 % 2 ^ 8 ≠ u.epoch then
          { u with dbStale := min (u.dbStale + 1) 0xFFFF }
        else if v.toNat / 2 ^ 24 ≠ 0 ∨ u.ringSize ≤ tail then { u with dbBad := min (u.dbBad + 1) 0xFFFF }
        else if u.ahead tail < u.ahead u.tail then { u with dbStale := min (u.dbStale + 1) 0xFFFF }
        else if u.ahead tail = u.ahead u.tail then u
        else if u.tokens ≠ 0 then { u with tail := tail, tokens := u.tokens - 1 }
        else { u with pendingTail := some tail, dbAbsorbed := min (u.dbAbsorbed + 1) 0xFFFF, absorbedF := true }) ∧
  (∀ s q, s.live = true → (s.queue q).tokenDue s.time.now = true → (s.queue q).pendingTail = none →
    Completes (.doorbellTokenAccrual q) s fun t =>
      OnlyChanges [.queues] s t ∧ (∀ x, x ≠ q → t.queue x = s.queue x)
        ∧ t.queue q = { s.queue q with tokens := min 32 ((s.queue q).tokens + 1), tokenCount := (s.queue q).tokenCount + 1 }) ∧
  (∀ s q n, s.live = true → (s.queue q).tokenDue s.time.now = true → (s.queue q).pendingTail = some n →
    (s.queue q).state = .active → n < (s.queue q).ringSize → (s.queue q).ahead (s.queue q).tail < (s.queue q).ahead n →
    Completes (.doorbellTokenAccrual q) s fun t =>
      OnlyChanges [.queues] s t ∧ (t.queue q).tail = n ∧ (t.queue q).pendingTail = none
        ∧ (t.queue q).tokens = min 32 ((s.queue q).tokens + 1) - 1) ∧
  (∀ s r q half, s.live = true → s.reachesQueue r q = true →
    Completes (.scQcountsRead r q half) s fun t =>
      OnlyChanges [.queues, .out] s t ∧ t.out = .regValue r (halfOf half (s.queue q).counts) :: s.out
        ∧ (∀ x, x ≠ q → t.queue x = s.queue x)
        ∧ (half = .low → (t.queue q).counts = (s.queue q).dbBad * 2 ^ 32 + (s.queue q).resumeFailed * 2 ^ 48)
        ∧ (half = .high → (t.queue q).counts = (s.queue q).dbAbsorbed + (s.queue q).dbStale * 2 ^ 16)
        ∧ (half = .whole → (t.queue q).counts = 0))

/-- R161, R165, R169, R172, R173, R176: the writes of a queue go out one after the other, a lost interrupt makes way for the next, and
a failed access blocks the queue, leaves the PATH bit of its area, and notes the first slot not yet fetched. The stops and
resumptions of a queue: a RESUME after a management stop is ignored, and a queue that is blamed for an error becomes GUILTY. -/
def Obligations.QueuesWriteStopAndResume : Prop :=
  (∀ s q w w' rest, s.live = true → (s.queue q).writes = w :: w' :: rest → (s.queue q).resuming = none →
    (s.queue q).vectorOf w' = none → (s.queue q).attrs.path = 0 →
    Completes (.queueWriteAccepted q) s fun t =>
      OnlyChanges [.queues, .out] s t ∧ (t.queue q).writes = w' :: rest ∧ t.out = .guest q w' :: s.out
        ∧ ∀ x, x ≠ q → t.queue x = s.queue x) ∧
  (∀ s q w, s.live = true → (s.queue q).writes = [w] → (s.queue q).resuming = none →
    Completes (.queueWriteAccepted q) s fun t =>
      OnlyChanges [.queues] s t ∧ t.queue q = { s.queue q with writes := [] } ∧ ∀ x, x ≠ q → t.queue x = s.queue x) ∧
  (∀ s q w, s.live = true → (s.queue q).writes = [w] → ((s.queue q).vectorOf w).isSome = true →
    Completes (.interruptLost q) s fun t =>
      OnlyChanges [.queues] s t ∧ t.queue q = { s.queue q with writes := [], intLost := true }
        ∧ ∀ x, x ≠ q → t.queue x = s.queue x) ∧
  (∀ s q, s.live = true → (s.queue q).fetching = true → (s.queue q).state = .active →
    Completes (.queueAreaAccessFail q .fetch) s fun t =>
      OnlyChanges [.queues, .out, .fports, .msix, .ic, .parts] s t ∧ (t.queue q).state = .blocked
        ∧ (t.queue q).pathFetch = true ∧ (t.queue q).fetching = false ∧ (t.queue q).blockPoint = (s.queue q).nextSeq
        ∧ (t.queue q).retiredSeq = (s.queue q).retiredSeq
        ∧ (t.part (s.queue q).partition).events.queuePath
          = min ((s.part (s.queue q).partition).events.queuePath + 1) 0xFFFF
        ∧ ∀ x, x ≠ q → t.queue x = s.queue x) ∧
  (∀ s r q, s.live = true → s.reachesQueue r q = true → (s.queue q).state = .active →
    Completes (.scQctlStop r q) s fun t =>
      OnlyChanges [.queues, .out, .fports, .msix] s t ∧ (t.queue q).state = .stopped ∧ (t.queue q).guestStop = true
        ∧ (t.queue q).tail = (s.queue q).tail ∧ (t.queue q).nextSeq = (s.queue q).nextSeq
        ∧ ∀ x, x ≠ q → t.queue x = s.queue x) ∧
  (∀ s r q, s.live = true → s.reachesQueue r q = true → (s.queue q).state = .stopped → (s.queue q).guestStop = true →
    (s.queue q).mgmtStop = false →
    Completes (.scQctlResume r q) s fun t =>
      OnlyChanges [.queues, .out, .fports, .msix] s t ∧ (t.queue q).state = .active ∧ (t.queue q).guestStop = false
        ∧ (t.queue q).tail = (s.queue q).tail ∧ ∀ x, x ≠ q → t.queue x = s.queue x) ∧
  (∀ s r q, s.live = true → s.reachesQueue r q = true → (s.queue q).state = .stopped → (s.queue q).mgmtStop = true →
    Completes (.scQctlResume r q) s fun t => t = s) ∧
  (∀ s r q, s.live = true → s.reachesQueue r q = true → (s.queue q).state = .blocked → (s.queue q).resuming = none →
    Completes (.scQctlResume r q) s fun t =>
      OnlyChanges [.queues, .out, .fports, .msix] s t ∧ (t.queue q).state = .blocked
        ∧ (t.queue q).resuming = some (s.queue q).tail ∧ (t.queue q).held = []
        ∧ (t.queue q).retiredSeq = (s.queue q).retiredSeq) ∧
  (∀ s q copied, s.live = true → q ∈ s.errs.handlingQ →
    ((s.queue q).state = .active ∨ (s.queue q).state = .stopped ∨ (s.queue q).state = .blocked) →
    Completes (.queueGuilty q copied) s fun t => (t.queue q).state = .guilty ∧ q ∉ t.errs.handlingQ) ∧
  (∀ s q e, s.live = true → q ∈ s.errs.handlingQ → (s.queue q).state = .active → s.slots = [e] → e.queue = q →
    e.admitted = true → e.isLaunch = true → e.state = .running →
    Completes (.queueGuilty q true) s fun t =>
      ∃ x, t.slots = [x] ∧ x.queue = q ∧ x.seq = e.seq ∧ x.state = .ended ∧ x.status = Status.queueGuilty ∧ x.cause = 2)

/-- R150, R151, R96, R97: a NOP, a FENCE with nothing left to wait for, and a PREFETCH or ADVISE whose message is acknowledged
and whose fills are done finish with S_OK; a FENCE that must wait runs on. -/
def Obligations.NopsFencesAndAcknowledgedAdviceFinish : Prop :=
  (∀ s q seq e, s.Working q seq e → s.mayStart Op.nop e = true →
    Completes (.nop q seq) s fun t => t.SlotEnded q seq Status.ok 0 ∧ OnlyChanges finishParts s t) ∧
  (∀ s q seq e, s.Working q seq e → e.opcode = Op.fence → e.admitted = true → e.state = .admitted →
    le (args e.raw) 0 1 = 0 → (q, seq) ∉ e.covers → s.fenceOpen e = true →
    Completes (.fenceQueue q seq) s fun t => t.SlotEnded q seq Status.ok 0 ∧ OnlyChanges finishParts s t) ∧
  (∀ s q seq e, s.Working q seq e → e.opcode = Op.fence → e.admitted = true → e.state = .admitted →
    le (args e.raw) 0 1 = 0 → (q, seq) ∉ e.covers → s.fenceOpen e = false →
    Completes (.fenceQueue q seq) s fun t => t = s.modSlot q seq fun x => { x with state := .running }) ∧
  (∀ s q seq e, s.Working q seq e → e.opcode = Op.fence → e.admitted = true → e.state = .admitted →
    le (args e.raw) 0 1 = 1 → (q, seq) ∉ e.covers → s.fenceOpen e = true →
    Completes (.fenceContext q seq) s fun t => t.SlotEnded q seq Status.ok 0 ∧ OnlyChanges finishParts s t) ∧
  (∀ s q seq e, s.Working q seq e → e.opcode = Op.fence → e.admitted = true → e.state = .admitted →
    le (args e.raw) 0 1 = 1 → (q, seq) ∉ e.covers → s.fenceOpen e = false →
    Completes (.fenceContext q seq) s fun t => t = s.modSlot q seq fun x => { x with state := .running }) ∧
  (∀ s q seq e, s.Working q seq e → e.opcode = Op.fence → e.state = .running → s.fenceOpen e = true →
    Completes (.fenceFinish q seq) s fun t => t.SlotEnded q seq Status.ok 0 ∧ OnlyChanges finishParts s t) ∧
  (∀ s q seq e, s.Working q seq e → e.adviceOut = true → e.state = .running → e.fills = 0 →
    Completes (.adviceAck q seq) s fun t => t.SlotEnded q seq Status.ok 0 ∧ OnlyChanges finishParts s t) ∧
  (∀ s q seq e, s.Working q seq e → e.adviceOut = true → e.fills ≠ 0 →
    Completes (.adviceAck q seq) s fun t => t = s.modSlot q seq fun x => { x with adviceOut := false })

/-- R96, R97, R450: ADVISE NORMAL, HOT, COLD and WILL_NEED and PREFETCH to the near tier send their message and change nothing but the
slot. Advice and prefetches that act on the cluster caches: DONT_NEED leaves no line of the range, RELEASE_KEEP no KEEP mark in
it; a prefetch asks for the line that the partition does not hold, and finishes at once when it holds it. -/
def Obligations.AdviceGoesOutOrActsOnTheCaches : Prop :=
  (∀ s q seq e, s.Working q seq e → s.mayStart Op.advise e = true → le (args e.raw) 28 1 = 0 →
    Completes (.adviseNormal q seq) s fun t => t.AdviceSent q seq e 0 0 ∧ OnlyChanges [.slots, .out] s t) ∧
  (∀ s q seq e, s.Working q seq e → s.mayStart Op.advise e = true → le (args e.raw) 28 1 = 1 →
    Completes (.adviseHot q seq) s fun t => t.AdviceSent q seq e 1 0 ∧ OnlyChanges [.slots, .out] s t) ∧
  (∀ s q seq e, s.Working q seq e → s.mayStart Op.advise e = true → le (args e.raw) 28 1 = 2 →
    Completes (.adviseCold q seq) s fun t => t.AdviceSent q seq e 2 0 ∧ OnlyChanges [.slots, .out] s t) ∧
  (∀ s q seq e, s.Working q seq e → s.mayStart Op.advise e = true → le (args e.raw) 28 1 = 3 →
    Completes (.adviseWillNeed q seq) s fun t =>
      t.AdviceSent q seq e 3 (s.inScale (le (args e.raw) 32 8)) ∧ OnlyChanges [.slots, .out] s t) ∧
  (∀ s q seq e, s.Working q seq e → s.mayStart Op.prefetch e = true → le (args e.raw) 28 1 = 0 →
    Completes (.prefetchNearTier q seq) s fun t =>
      t.AdviceSent q seq e 0x10 0 ∧ OnlyChanges [.slots, .out] s t) ∧
  (∀ s q seq e, s.Working q seq e → s.mayStart Op.advise e = true → le (args e.raw) 28 1 = 4 →
    Completes (.adviseDontNeed q seq) s fun t =>
      t.SlotEnded q seq Status.ok 0
        ∧ t.lines = s.lines.filter fun l => !(l.partition == e.partition && inSegments ((s.rangeOf e).getD []) l.line)) ∧
  (∀ s q seq e, s.Working q seq e → s.mayStart Op.advise e = true → le (args e.raw) 28 1 = 5 →
    Completes (.adviseReleaseKeep q seq) s fun t =>
      t.SlotEnded q seq Status.ok 0 ∧ OnlyChanges (.lines :: finishParts) s t
        ∧ t.lines = s.lines.map fun (l : Line) =>
            if l.partition = e.partition ∧ inSegments ((s.rangeOf e).getD []) l.line = true then { l with keep := false } else l) ∧
  (∀ s q seq e n c, s.Working q seq e → s.mayStart Op.prefetch e = true → le (args e.raw) 28 1 = 1 →
    s.rangeOf e = some [(64 * n, 64)] → s.prefetchClusters e = [c] → s.line? e.partition n = none →
    Completes (.prefetchClusterCache q seq) s fun t =>
      s.FillAsked t q seq n (e.fills + 1) ∧ OnlyChanges [.slots, .reqs, .reqNo, .free, .parts, .out] s t) ∧
  (∀ s q seq e n c, s.Working q seq e → s.mayStart Op.prefetch e = true → le (args e.raw) 28 1 = 1 →
    s.rangeOf e = some [(64 * n, 64)] → s.prefetchClusters e = [c] → (s.line? e.partition n).isSome = true →
    le (args e.raw) 29 1 = 0 → flagKeep e.flags = false → e.fills = 0 → e.adviceOut = false →
    Completes (.prefetchClusterCache q seq) s fun t => t.SlotEnded q seq Status.ok 0 ∧ OnlyChanges finishParts s t) ∧
  (∀ s q seq e n c, s.Working q seq e → s.mayStart Op.prefetch e = true → le (args e.raw) 28 1 = 2 →
    s.rangeOf e = some [(64 * n, 64)] → s.prefetchClusters e = [c] → s.line? e.partition n = none →
    Completes (.prefetchBoth q seq) s fun t =>
      s.FillAsked t q seq n (e.fills + 1) ∧ t.AdviceSent q seq e 0x10 0
        ∧ OnlyChanges [.slots, .reqs, .reqNo, .free, .parts, .out] s t)

/-- R104, R152, R153, R159, R254: an admitted launch is handed to its cluster sequencer with the phases of its variant; a CHAIN STORE
stores its image in the context's chain table; a launch whose work and writes are over finishes with the status that its work gave
it. -/
def Obligations.LaunchesAndChainsStartAndFinish : Prop :=
  (∀ s q seq e, s.live = true → s.slot? q seq = some e → s.mayStart Op.launch e = true →
    Completes (.launch q seq) s fun t =>
      OnlyChanges [.slots] s t ∧ ∃ x, t.slot? q seq = some x ∧ x.state = .running ∧ x.phaseStates = e.phasesFor e.variant
        ∧ x.raw = e.raw) ∧
  (∀ s q seq e, s.live = true → s.slot? q seq = some e → s.mayStart Op.chain e = true → e.isLaunch = true →
    Completes (.chainRun q seq) s fun t =>
      OnlyChanges [.slots] s t ∧ ∃ x, t.slot? q seq = some x ∧ x.state = .running ∧ x.phaseStates = e.phasesFor e.variant
        ∧ x.raw = e.raw) ∧
  (∀ s q seq e b c, s.Working q seq e → e.awaits Op.chain = true → isRun e.raw = false → s.readEnds e = true →
    s.readResult e (.data b) = .data b → storableImage b = true → s.ctx? (ctxKey e.partition e.context) = some c →
    Completes (.chainStore q seq (.data b)) s fun t =>
      t.SlotEnded q seq Status.ok 0 ∧ OnlyChanges (.ctxs :: .admitted :: finishParts) s t
        ∧ t.ctx? (ctxKey e.partition e.context) = some { c with chain := c.chain.put (le (args e.raw) 2 2) b }
        ∧ ∀ k, k ≠ ctxKey e.partition e.context → t.ctx? k = s.ctx? k) ∧
  (∀ s q seq e b, s.Working q seq e → e.awaits Op.chain = true → isRun e.raw = false → s.readEnds e = true →
    s.readResult e (.data b) = .data b → storableImage b = false →
    Completes (.chainStore q seq (.data b)) s fun t =>
      t.SlotEnded q seq Status.badSlot 7 ∧ OnlyChanges finishParts s t) ∧
  (∀ s q seq e, s.Working q seq e → e.isLaunch = true → e.state = .ended → s.coresOf q seq = [] → s.writesDone e = true →
    e.stagings = [] → e.qualityAddr = none →
    Completes (.launchFinish q seq) s fun t =>
      t.SlotEnded q seq e.status e.cause ∧ OnlyChanges (.ctxs :: .clusters :: .commons :: finishParts) s t)

/-- R227, R228: SEQ_ADMIT fills the first free entry of the sequence table, or is refused; SEQ_RETIRE makes RETIRING exactly
the entries that it names; an entry that no work list holds is freed. -/
def Obligations.SequenceTableEntriesComeAndGo : Prop :=
  (∀ s q seq e i, s.Working q seq e → e.awaits Op.seqAdmit = true →
    ((s.seqsOf e.partition e.context).any fun x => x.2.key == (seqEntryOf e).key) = false →
    s.kvOk e.partition (seqEntryOf e).kvBase (seqEntryOf e).kvBytes = true →
    (s.seqs.filter fun x => x.2.partition == e.partition).length < (s.part e.partition).seqLimit →
    s.seqs.firstFree 16384 = some i →
    Completes (.seqAdmit q seq) s fun t =>
      t.SlotEnded q seq Status.ok 0 ∧ OnlyChanges (.seqs :: .admitted :: finishParts) s t
        ∧ t.seqs.get? i = some (seqEntryOf e) ∧ ∀ k, k ≠ i → t.seqs.get? k = s.seqs.get? k) ∧
  (∀ s q seq e, s.Working q seq e → e.awaits Op.seqAdmit = true →
    ((s.seqsOf e.partition e.context).any fun x => x.2.key == (seqEntryOf e).key) = true →
    Completes (.seqAdmit q seq) s fun t => t.SlotEnded q seq Status.badSlot 7 ∧ OnlyChanges finishParts s t) ∧
  (∀ s q seq e, s.Working q seq e → e.awaits Op.seqAdmit = true →
    ((s.seqsOf e.partition e.context).any fun x => x.2.key == (seqEntryOf e).key) = false →
    s.kvOk e.partition (seqEntryOf e).kvBase (seqEntryOf e).kvBytes = true →
    (s.part e.partition).seqLimit ≤ (s.seqs.filter fun x => x.2.partition == e.partition).length →
    Completes (.seqAdmit q seq) s fun t => t.SlotEnded q seq Status.quota 0 ∧ OnlyChanges finishParts s t) ∧
  (∀ s q seq e i x, s.Working q seq e → e.awaits Op.seqRetire = true → le (args e.raw) 8 1 = 0 → Tbl.Sorted s.seqs →
    s.seqs.get? i = some x →
    Completes (.seqRetireOne q seq) s fun t =>
      OnlyChanges (.seqs :: .admitted :: finishParts) s t
        ∧ t.seqs.get? i = some (if e.names x (x.key == le (args e.raw) 0 8) then { x with state := 3 } else x)) ∧
  (∀ s q seq e i x, s.Working q seq e → e.awaits Op.seqRetire = true → le (args e.raw) 8 1 = 1 → Tbl.Sorted s.seqs →
    s.seqs.get? i = some x →
    Completes (.seqRetireGroup q seq) s fun t =>
      OnlyChanges (.seqs :: .admitted :: finishParts) s t
        ∧ t.seqs.get? i = some (if e.names x (x.group == le (args e.raw) 10 2) then { x with state := 3 } else x)) ∧
  (∀ s q seq e i x, s.Working q seq e → e.awaits Op.seqRetire = true → le (args e.raw) 8 1 = 2 → Tbl.Sorted s.seqs →
    s.seqs.get? i = some x →
    Completes (.seqRetireContext q seq) s fun t =>
      OnlyChanges (.seqs :: .admitted :: finishParts) s t
        ∧ t.seqs.get? i = some (if e.names x true then { x with state := 3 } else x)) ∧
  (∀ s i x, s.live = true → Tbl.Sorted s.seqs → s.seqs.get? i = some x → x.state = 3 → s.seqHeld i = false →
    Completes (.seqEntryFreed i) s fun t => t.seqs.get? i = none ∧ ∀ k, k ≠ i → t.seqs.get? k = s.seqs.get? k)

/-- R30, R110, R147, R155, R156, R249: a queue with a slot to fetch reads it from its ring; what arrives is admitted, or refused with
the status and cause of the test that it fails, and the next sequence number follows. The reads that a slot's checks wait for:
constants and overrides are kept and the checks are made again; what cannot be read refuses the slot with its cause; a page list
whose pages are good admits the publication. -/
def Obligations.SlotsAreFetchedCheckedAndRead : Prop :=
  (∀ s q, s.live = true → s.mayFetch q = true → (s.queue q).attrs.path = 0 →
    Completes (.slotFetch q) s fun t =>
      OnlyChanges [.queues, .out] s t ∧ t.queue q = { s.queue q with fetching := true }
        ∧ t.out = .slotRead q (((s.queue q).nextSeq - 1) % 2 ^ (s.queue q).attrs.ringLog2) :: s.out
        ∧ ∀ x, x ≠ q → t.queue x = s.queue x) ∧
  (∀ s q b, s.live = true → (s.queue q).fetching = true → (s.queue q).state = .active → (s.queue q).attrs.format = 0 →
    slotFieldCause false (s.queue q).attrs.promiseOk b = none → fOpcode b = Op.nop → s.slot? q (s.queue q).nextSeq = none →
    Completes (.slotArrival q (.data b)) s fun t =>
      OnlyChanges [.queues, .slots, .admitted] s t
        ∧ t.queue q = { s.queue q with
            fetching := false, nextSeq := (s.queue q).nextSeq + 1
            admittedSeq := max (s.queue q).admittedSeq (s.queue q).nextSeq }
        ∧ ∃ e, t.slot? q (s.queue q).nextSeq = some e ∧ e.admitted = true ∧ e.state = .admitted ∧ e.raw = b
            ∧ e.partition = (s.queue q).partition ∧ e.context = (s.queue q).attrs.context) ∧
  (∀ s q b c, s.live = true → (s.queue q).fetching = true → (s.queue q).state = .active → (s.queue q).attrs.format = 0 →
    slotFieldCause false (s.queue q).attrs.promiseOk b = some c →
    Completes (.slotArrival q (.data b)) s fun t =>
      t.SlotEnded q (s.queue q).nextSeq Status.badSlot c ∧ OnlyChanges finishParts s t
        ∧ (t.queue q).nextSeq = (s.queue q).nextSeq + 1) ∧
  (∀ s q b, s.live = true → (s.queue q).fetching = true → (s.queue q).state = .stopped →
    Completes (.slotArrival q (.data b)) s fun t =>
      t.SlotEnded q (s.queue q).nextSeq Status.queueStopped 1 ∧ OnlyChanges finishParts s t) ∧
  (∀ s q b, s.live = true → (s.queue q).fetching = true → (s.queue q).state = .guilty →
    Completes (.slotArrival q (.data b)) s fun t =>
      t.SlotEnded q (s.queue q).nextSeq Status.queueStopped 2 ∧ OnlyChanges finishParts s t) ∧
  (∀ s q, s.live = true → (s.queue q).fetching = true → (s.queue q).state = .active →
    Completes (.slotArrival q .poisoned) s fun t =>
      t.SlotEnded q (s.queue q).nextSeq Status.badSlot 13 ∧ OnlyChanges finishParts s t) ∧
  (∀ s q seq e b, s.Working q seq e → e.state = .readingConsts → s.readEnds e = true → s.readResult e (.data b) = .data b →
    Completes (.externalConstantsReadDone q seq (.data b)) s fun t =>
      t = ((s.endRead e).modSlot q seq fun x =>
            { x with consts := b.take (fConstLen e.raw), state := .admitted }).checkLaunch q seq) ∧
  (∀ s q seq e, s.Working q seq e → e.state = .readingConsts → s.readEnds e = true →
    Completes (.externalConstantsReadDone q seq .failed) s fun t =>
      t.SlotEnded q seq Status.badSlot 10 ∧ OnlyChanges finishParts s t) ∧
  (∀ s q seq e b, s.Working q seq e → e.state = .readingOverrides → s.readEnds e = true →
    s.readResult e (.data b) = .data b →
    Completes (.overrideTableReadDone q seq (.data b)) s fun t =>
      t = ((s.endRead e).modSlot q seq fun x =>
            { x with overrides := b.take (16 * fOverrideN e.raw), state := .admitted }).checkLaunch q seq) ∧
  (∀ s q seq e, s.Working q seq e → e.state = .readingOverrides → s.readEnds e = true →
    Completes (.overrideTableReadDone q seq .poisoned) s fun t =>
      t.SlotEnded q seq Status.badSlot 11 ∧ OnlyChanges finishParts s t) ∧
  (∀ s q seq e b i f, s.Working q seq e → e.awaits Op.folioPublish = true → s.readEnds e = true →
    s.readResult e (.data b) = .data b → s.namedFolio (le (args e.raw) 0 8) = some (i, f) →
    b.length = 8 * (f.length / pageBytes) → s.pagesOk e.partition (pageList b (f.length / pageBytes)) = true →
    Completes (.pageListReadDone q seq (.data b)) s fun t =>
      OnlyChanges [.slots, .reqs, .admitted, .queues] s t
        ∧ ∃ x, t.slot? q seq = some x ∧ x.admitted = true ∧ x.state = .admitted
            ∧ x.publishing = some (pageList b (f.length / pageBytes))) ∧
  (∀ s q seq e b i f, s.Working q seq e → e.awaits Op.folioPublish = true → s.readEnds e = true →
    s.readResult e (.data b) = .data b → s.namedFolio (le (args e.raw) 0 8) = some (i, f) →
    s.pagesOk e.partition (pageList b (f.length / pageBytes)) = false →
    Completes (.pageListReadDone q seq (.data b)) s fun t =>
      t.SlotEnded q seq Status.badSlot 7 ∧ OnlyChanges finishParts s t)

/-- R246, R247, R249, R250, R255: opening a published version counts one more open of it and gives the context a hold; a draft takes a
version slot; closing takes one open back; an open of a version that is quarantined does not happen. A publication whose expected
version is not the current one is a conflict; else the draft becomes the current version; the mirrors of a version are complete
when every page has one. -/
def Obligations.FolioVersionsOpenCloseAndPublish : Prop :=
  (∀ s q seq e m i f v c, s.Alone q seq e → s.mayStart Op.folioOpen e = true → le (args e.raw) 12 1 = 0 →
    s.namedFolio (le (args e.raw) 0 8) = some (i, f) → (le (args e.raw) 16 8 = 0 ∨ m = true) →
    f.resolve (le (args e.raw) 8 4) = some v → v.published = true → v.revoked = false → v.quarantined = false →
    s.ctx? (ctxKey e.partition e.context) = some c → c.holds.length < 256 → c.openOf i v.version = none →
    Completes (.folioOpenRead q seq m) s fun t =>
      t.SlotEnded q seq Status.ok 0 ∧ OnlyChanges (.ctxs :: finishParts) s t
        ∧ t.ctx? (ctxKey e.partition e.context)
          = some { c with holds := c.holds ++ [{ folio := i, version := v.version, opens := 1, draft := false }] }
        ∧ t.folios.get? i = some (f.modSlot v.version fun x => { x with opens := x.opens + 1 })) ∧
  (∀ s q seq e m i f v, s.Working q seq e → s.mayStart Op.folioOpen e = true → le (args e.raw) 12 1 = 0 →
    s.namedFolio (le (args e.raw) 0 8) = some (i, f) → (le (args e.raw) 16 8 = 0 ∨ m = true) →
    f.resolve (le (args e.raw) 8 4) = some v → v.published = true → v.revoked = false → v.quarantined = true →
    Completes (.folioOpenRead q seq m) s fun t =>
      t.SlotEnded q seq Status.folioQuarantined 0 ∧ OnlyChanges finishParts s t) ∧
  (∀ s q seq e m i f f' v c, s.Alone q seq e → s.mayStart Op.folioOpen e = true → le (args e.raw) 12 1 = 1 →
    s.namedFolio (le (args e.raw) 0 8) = some (i, f) → (le (args e.raw) 16 8 = 0 ∨ m = true) →
    le (args e.raw) 8 4 = 0xFFFFFFFF → s.ctx? (ctxKey e.partition e.context) = some c → c.holds.length < 256 →
    f.take { vstate := .draft, holderP := e.partition, holderX := e.context } = some (f', v) →
    Completes (.folioOpenDraft q seq m) s fun t =>
      t.SlotEnded q seq Status.ok 0 ∧ OnlyChanges (.ctxs :: finishParts) s t ∧ t.folios.get? i = some f'
        ∧ t.ctx? (ctxKey e.partition e.context)
          = some { c with holds := c.holds ++ [{ folio := i, version := v, opens := 0, draft := true }] }) ∧
  (∀ s q seq e m i f c h, s.Working q seq e → s.mayStart Op.folioClose e = true →
    s.namedFolio (le (args e.raw) 0 8) = some (i, f) → (le (args e.raw) 16 8 = 0 ∨ m = true) →
    le (args e.raw) 8 4 ≠ 0xFFFFFFFF → s.ctx? (ctxKey e.partition e.context) = some c →
    c.openOf i (le (args e.raw) 8 4) = some h → c.draftOf i (le (args e.raw) 8 4) = none → 2 ≤ h.opens →
    Completes (.folioClose q seq m) s fun t =>
      t.SlotEnded q seq Status.ok 0 ∧ OnlyChanges (.ctxs :: finishParts) s t
        ∧ (t.ctx? (ctxKey e.partition e.context)).bind (fun c => c.openOf i (le (args e.raw) 8 4))
          = some { h with opens := h.opens - 1 }) ∧
  (∀ s q seq e m i f, s.Working q seq e → s.mayStart Op.folioPublish e = true →
    s.namedFolio (le (args e.raw) 0 8) = some (i, f) → (le (args e.raw) 16 8 = 0 ∨ m = true) →
    f.current ≠ le (args e.raw) 12 4 →
    Completes (.folioPublish q seq m) s fun t => t.SlotEnded q seq Status.conflict 0 ∧ OnlyChanges finishParts s t) ∧
  (∀ s q seq e m i f c d, s.Alone q seq e → s.mayStart Op.folioPublish e = true →
    s.namedFolio (le (args e.raw) 0 8) = some (i, f) → (le (args e.raw) 16 8 = 0 ∨ m = true) →
    f.current = le (args e.raw) 12 4 → e.publishing = none → s.ctx? (ctxKey e.partition e.context) = some c →
    c.draftOf i (le (args e.raw) 8 4) = some d →
    Completes (.folioPublish q seq m) s fun t =>
      t.SlotEnded q seq Status.ok 0 ∧ OnlyChanges (.ctxs :: .ic :: finishParts) s t
        ∧ (t.folios.get? i).map (·.current) = some (le (args e.raw) 8 4)) ∧
  (∀ s i v f x, s.live = true → s.folios.get? i = some f → f.slot? v = some x → x.mirror = 1 →
    (x.pages.all fun p => p.2.mirror.isSome) = true →
    Completes (.mirrorCopyDone i v) s fun t =>
      OnlyChanges [.folios, .atc] s t ∧ ((t.folios.get? i).bind fun f => f.slot? v) = some { x with mirror := 2 }
        ∧ ∀ j, j ≠ i → t.folios.get? j = s.folios.get? j)

/-- R113, R212, R219, R224: a phase that is ready starts; a free core takes the tile that R212 chooses for it, and switches to it
in the time of R219; a running core is basted with the tile that would come next. -/
def Obligations.PhasesAndTilesStart : Prop :=
  (∀ s q seq phase e k ps m, s.live = true → s.slot? q seq = some e → e.dispatches = true →
    ((List.range e.phaseStates.length).find? fun k => e.phaseNo k == phase) = some k → e.phaseStates[k]? = some ps →
    e.map? ps.map = some m → ps.started = false → e.phaseReady k = true → e.failedPhase = none →
    Completes (.phaseStart q seq phase) s fun t =>
      ((t.slot? q seq).bind fun x => x.phaseStates[k]?).map (·.started) = some true) ∧
  (∀ s k x e, s.live = true → s.coreFree k = true → s.lowerFirst k = false → s.choose k = some x →
    s.slot? x.queue x.seq = some e → e.guestPages x.tile = [] → e.outputPages x.tile = [] →
    Completes (.tileStart k []) s fun t =>
      (t.core k).queue = x.queue ∧ (t.core k).seq = x.seq ∧ (t.core k).tile = x.tile ∧ (t.core k).partition = e.partition
        ∧ (t.core k).context = some (ctxKey e.partition e.context)
        ∧ (t.core k).mode =
          (let time := switchTime ((s.core k).lastContext.any (· != ctxKey e.partition e.context))
              (s.liveSize (s.liveLeft k x)) (e.restoreBytes x.tile)
           if time = 0 then .running else .switching (s.time.now + time))
        ∧ ((t.slot? x.queue x.seq).map fun y => (y.tile x.tile).place) = some (.running k)
        ∧ ∀ j, j ≠ k → t.core j = s.core j) ∧
  (∀ s k, s.live = true → (s.core k).mode = .running →
    Completes (.baste k) s fun t =>
      OnlyChanges [.cores] s t ∧ (∀ j, j ≠ k → t.core j = s.core j)
        ∧ t.core k = { s.core k with basted := (s.choose k).map fun x => (x.queue, x.seq, x.tile) }) ∧
  (∀ s k at_, s.live = true → (s.core k).mode = .switching at_ → at_ ≤ s.time.now → (s.core k).startReads = [] →
    s.unpinnedTargets k = [] →
    Completes (.contextSwitchDone k) s fun t =>
      OnlyChanges [.cores] s t ∧ t.core k = { s.core k with mode := .running } ∧ ∀ j, j ≠ k → t.core j = s.core j)

/-- R66, R83, R118, R198, R222, R223: data that arrive make their strand ready; a tile whose steps keep its staging budget enters its
commit phase; the end of the commit phase, and of an abandonment, frees the core, with the tile committed or waiting again. A
forced tack abandons the tile on the core, discards what it staged, and is counted for the context. -/
def Obligations.TilesRunCommitAndAreForced : Prop :=
  (∀ s k id r n, s.live = true → s.reqs.get? id = some r → r.who = .gather k n → (s.core k).mode = .running →
    (r.place = .ready ∨ r.place = .host) → Tbl.Sorted s.reqs → ((s.reqs.del id).any fun x => x.2.who == .gather k n) = false →
    Completes (.gatherReturn k id []) s fun t =>
      OnlyChanges [.reqs, .cores] s t ∧ t.reqs.get? id = none ∧ (∀ j, j ≠ id → t.reqs.get? j = s.reqs.get? j)
        ∧ (t.core k).strands.get? n = some .ready ∧ ∀ j, j ≠ k → t.core j = s.core j) ∧
  (∀ s k e i ps m d work, s.live = true → s.slot? (s.core k).queue (s.core k).seq = some e → (s.core k).computes = true →
    s.unpinnedTargets k = [] → s.pinning k = false → s.copiesOut e (s.core k).tile = false →
    e.phaseOf (s.core k).tile = some i → e.phaseStates[i]? = some ps → e.map? ps.map = some m →
    e.tileDef? (s.core k).tile = some d → ((s.runOps k m ps.rerun work).core k).stagedBytes ≤ d.staging →
    Completes (.tileCommitStart k work) s fun t =>
      (t.core k).mode = .committing ∧ (t.core k).staged = ((s.runOps k m ps.rerun work).core k).staged
        ∧ (t.core k).scratch = ((s.runOps k m ps.rerun work).core k).scratch
        ∧ ((t.slot? (s.core k).queue (s.core k).seq).map fun y => (y.tile (s.core k).tile).place) = some (.committing k)
        ∧ ∀ j, j ≠ k → t.core j = s.core j) ∧
  (∀ s k e, s.live = true → s.slot? (s.core k).queue (s.core k).seq = some e → (s.core k).mode = .committing →
    s.pinning k = false → s.missingLines k = [] → e.promise = none →
    (e.phaseStates.all fun ps => (e.map? ps.map).all fun m => m.policy != 2) = true →
    Completes (.commitPhaseEnd k) s fun t =>
      (t.core k).mode = .free ∧ (t.core k).staged = [] ∧ (t.core k).reductions = []
        ∧ ((t.slot? e.queue e.seq).map fun y => (y.tile (s.core k).tile).place) = some .committed
        ∧ (t.queue e.queue).tiles = (s.queue e.queue).tiles + 1) ∧
  (∀ s k e, s.live = true → s.slot? (s.core k).queue (s.core k).seq = some e → (s.core k).mode = .abandoning →
    Completes (.abandonDone k) s fun t =>
      (t.core k).mode = .free ∧ (t.core k).staged = []
        ∧ ((t.slot? e.queue e.seq).map fun y => (y.tile (s.core k).tile).place) = some .waiting) ∧
  (∀ s k, s.live = true → s.forceable k = true → ((s.core k).strands.any fun e => e.2 == .parked) = true →
    ((s.claimants k).any fun x => s.precedes k x (s.core k).cand && !s.worseCore k x) = true →
    Completes (.forcedTack k) s fun t =>
      OnlyChanges [.cores, .ctxs] s t ∧ (t.core k).mode = .abandoning ∧ (t.core k).forced = true
        ∧ ∀ j, j ≠ k → t.core j = s.core j) ∧
  (∀ s k at_ key c, s.live = true → s.forceable k = true → (s.core k).stalled = true → (s.core k).idleSince = some at_ →
    at_ + 8192 ≤ s.time.now → s.claimants k ≠ [] → (s.core k).context = some key → s.ctx? key = some c →
    Completes (.idleStrandsTimeout k) s fun t =>
      OnlyChanges [.cores, .ctxs] s t ∧ (t.core k).mode = .abandoning ∧ (t.core k).forced = true
        ∧ (t.ctx? key).map (·.acct.forced) = some (min (c.acct.forced + 1) (2 ^ 32 - 1))
        ∧ ∀ j, j ≠ k → t.core j = s.core j) ∧
  (∀ s q seq e p, s.live = true → s.slot? q seq = some e → e.switchDecided = true → e.switched = false → e.tack = false →
    e.state = .running → e.promise = some p → p.hem + 4096 ≤ s.time.ct → s.coresOf q seq = [] →
    Completes (.hemForcedTack q seq) s fun t => (t.slot? q seq).map (·.tack) = some true) ∧
  (∀ s q seq e p k c, s.live = true → s.slot? q seq = some e → e.switchDecided = true → e.switched = false → e.tack = false →
    e.state = .running → e.promise = some p → p.hem + 4096 ≤ s.time.ct → s.cores.get? k = some c → c.serves q seq = true →
    c.mode = .running →
    Completes (.hemForcedTack q seq) s fun t =>
      OnlyChanges [.cores, .clusters] s t ∧ (t.core k).mode = .abandoning ∧ (t.core k).forced = true)

/-- R106, R197, R203, R298: the monitor decides the switch of a late launch that has a fallback, and marks one that has none as
overrunning; the switch makes the fallback the launch's variant; the commons go over from one context to the next. -/
def Obligations.MonitorSwitchesAndCommons : Prop :=
  (∀ s e p, s.live = true → s.time.state ≠ .unlocked → s.time.ct % 1024 < 2 → s.slots = [e] → e.promise = some p →
    e.isLaunch = true → e.state = .running → e.failedPhase = none → e.slack p < s.late e → e.canSwitch = true →
    Completes .monitorTick s fun t =>
      OnlyChanges [.slots] s t ∧ t.slots = [{ e with switchDecided := true, tack := false }]) ∧
  (∀ s e p, s.live = true → s.time.state ≠ .unlocked → s.time.ct % 1024 < 2 → s.slots = [e] → e.promise = some p →
    e.isLaunch = true → e.state = .running → e.failedPhase = none → e.slack p < s.late e → e.canSwitch = false →
    (e.switchDecided = false ∨ e.switched = true) → s.breakCause e p = none → e.overrun = false →
    Completes .monitorTick s fun t =>
      OnlyChanges [.slots, .parts, .ic] s t ∧ t.slots = [{ e with overrun := true }]
        ∧ (t.part e.partition).adm.overrun = min ((s.part e.partition).adm.overrun + 1) 0xFFFF
        ∧ (t.ic.src 6).state = (s.ic.src 6).state.fired) ∧
  (∀ s q seq e p g vi v, s.live = true → s.slot? q seq = some e → e.switchDecided = true → e.switched = false → e.tack = true →
    e.state = .running → e.failedPhase = none → e.promise = some p → e.image = some g →
    (e.var?.bind (·.fallback)) = some vi → g.variants[vi]? = some v →
    Completes (.fallbackSwitch q seq) s fun t =>
      ((t.slot? q seq).map fun x => (x.switched, x.variant)) = some (true, vi)
        ∧ (t.part e.partition).adm.fallbacks = min ((s.part e.partition).adm.fallbacks + 1) 0xFFFF) ∧
  (∀ s x e, s.live = true → s.commonsWants = [e] → ctxKey e.partition e.context = ctxKey 63 x →
    s.commons.switching = none → s.commons.running ≠ some (ctxKey 63 x) → s.commonsReserved = false →
    Completes (.commonsSwitch x) s fun t =>
      OnlyChanges [.commons, .cores, .ctxs] s t ∧ t.commons = { s.commons with switching := some (ctxKey 63 x) }) ∧
  (∀ s key, s.live = true → s.commons.switching = some key → s.commonsBusy = false →
    Completes .commonsSwitchDone s fun t =>
      t.commons.running = some key ∧ t.commons.switching = none ∧ t.commons.sliceNs = s.time.now
        ∧ ∀ l ∈ t.lines, l.partition ≠ 63)

/-- R84, R86, R88, R253: an adder applies the oldest reduction of its slice to the line; a bulk mover gains one granule of its
first job; a version gets a page of its own in place of a shared one. -/
def Obligations.AddersAndBulkMoversWork : Prop :=
  (∀ s c sl r l, s.live = true → (s.adders.find? fun r => r.cluster == c && r.slice == sl) = some r →
    s.line? r.partition (r.address / 64) = some l →
    Completes (.reductionApply c sl) s fun t =>
      OnlyChanges [.adders, .lines, .errs, .ic] s t ∧ t.adders = dropFirst c sl s.adders
        ∧ t.line? r.partition (r.address / 64)
          = some { l with words := (applyReduction r l.words).1, dirty := true, useCount := none }
        ∧ (∀ x ∈ t.lines, x.line = r.address / 64 → x.partition = r.partition)
        ∧ ∀ x, x.line ≠ r.address / 64 → (x ∈ t.lines ↔ x ∈ s.lines)) ∧
  (∀ s c j rest, s.live = true → (s.cluster c).mover = j :: rest → 1 < j.granules →
    Completes (.granuleCommit c) s fun t =>
      OnlyChanges [.clusters] s t ∧ (t.cluster c).mover = { j with granules := j.granules - 1 } :: rest
        ∧ ∀ x, x ≠ c → t.cluster x = s.cluster x) ∧
  (∀ s c j rest, s.live = true → (s.cluster c).mover = j :: rest → j.granules ≤ 1 →
    Completes (.granuleCommit c) s fun t => (t.cluster c).mover = rest) ∧
  (∀ s i v p x f a rest, s.live = true → s.folios.get? i = some f → f.slot? v = some x → p ∈ x.copying →
    s.freePages x.holderP = a :: rest → (s.cores.all fun c => c.2.mode != .running) = true →
    Completes (.sharedPageCopyDone i v p) s fun t =>
      OnlyChanges [.folios, .atc, .slots, .cores] s t
        ∧ ((t.folios.get? i).bind fun g => g.slot? v)
          = some { x with copying := x.copying.filter (· != p), pages := x.pages.put p { addr := a } })

/-- R70, R75, R91, R450, R451: the words of a read reach the tile that asked; an acknowledged write leaves the block; tokens accrue by
the share, up to the burst. A back-invalidation takes every copy of the line away, a snoop answers the content of a dirty line, and
both wait while a commit phase writes the line. -/
def Obligations.MemoryPortsAndDirectoryAnswer : Prop :=
  (∀ s port tag id r k n words, s.live = true → s.reqAt port tag = some (id, r) → r.write = false → r.who = .gather k n →
    words.length = r.nWords → (words.all fun w => readWord w == .clean) = true →
    Completes (.memData port tag words) s fun t =>
      (∃ x, t.reqs.get? id = some x ∧ x.place = .ready ∧ x.who = .gather k n) ∧ s.errs = t.errs) ∧
  (∀ s port tag id r, s.live = true → s.reqAt port tag = some (id, r) → r.write = true → Tbl.Sorted s.reqs →
    Completes (.memAck port tag) s fun t => OnlyChanges [.reqs, .parts, .out] s t ∧ t.reqs.get? id = none) ∧
  (∀ s port near p u g, s.live = true → s.time.state ≠ .unlocked → port < s.nPorts → s.accrued.getD port 0 < s.time.ct →
    s.reqs = [] → s.parts.get? p = some u → u.regs.get? (regKey port near) = some g →
    Completes (.regulatorTokenAccrual port) s fun t =>
      OnlyChanges [.parts, .accrued] s t ∧ t.accrued.get? port = some s.time.ct
        ∧ (t.regOf p port near).tokens
          = min (1024 * g.burst)
              (g.tokens + (accrual g near s.time.ct - accrual g near (s.accrued.getD port 0)))) ∧
  (∀ s line, s.live = true → s.committing line = false →
    Completes (.backInval line) s fun t =>
      OnlyChanges [.lines, .out] s t ∧ t.out = .biDone line :: s.out ∧ t.lines = s.lines.filter fun l => l.line != line) ∧
  (∀ s line, s.live = true → s.committing line = false →
    Completes (.snoop line) s fun t =>
      OnlyChanges [.out] s t
        ∧ t.out = .snoopData line ((s.lines.find? fun l => l.line == line && l.dirty).map fun l => l.words.map dataOf) :: s.out) ∧
  (∀ s line, s.live = true → s.committing line = true →
    Completes (.backInval line) s fun t => t = { s with dirWaits := s.dirWaits ++ [(line, false)] }) ∧
  (∀ s line, s.live = true → s.committing line = true →
    Completes (.snoop line) s fun t => t = { s with dirWaits := s.dirWaits ++ [(line, true)] })

/-- R264, R270, R274, R283: a translation that is granted lets its request go to host memory, one without permission is
a fault of its page, an unsupported one is an unresolved fault, and one that an invalidation overtook is asked for again. -/
def Obligations.TranslationCompletionsAreApplied : Prop :=
  (∀ s die slot x i r q n target size, s.live = true → slot < 256 → s.xlats.get? (256 * die + slot) = some x → x.folio = false →
    x.dead = false → x.reissue = false → x.waiters = [i] → s.reqs.get? i = some r → r.who = .spine q n → r.write = false →
    4096 ≤ size → Tbl.Sorted s.xlats → Tbl.Sorted s.reqs → s.slotless die = [] → (s.cores.all fun c => c.2.mode != .running) = true →
    Completes (.translationCompletion die slot (.granted target size true false)) s fun t =>
      t.xlats.get? (256 * die + slot) = none ∧ (t.reqs.get? i).map (·.place) = some .host) ∧
  (∀ s die slot x i r, s.live = true → slot < 256 → s.xlats.get? (256 * die + slot) = some x → x.folio = false →
    x.dead = false → x.reissue = false → x.waiters = [i] → s.reqs.get? i = some r →
    Tbl.Sorted s.xlats → Tbl.Sorted s.reqs → s.slotless die = [] → (s.cores.all fun c => c.2.mode != .running) = true →
    Completes (.translationCompletion die slot .noPermission) s fun t =>
      t.xlats.get? (256 * die + slot) = none ∧ (t.reqs.get? i).map (·.place) = some .faulted
        ∧ ∃ f ∈ t.faults, f.page = x.page ∧ f.partition = r.partition ∧ f.context = r.context ∧ i ∈ f.waiters) ∧
  (∀ s die slot x i r q n e c, s.live = true → slot < 256 → s.xlats.get? (256 * die + slot) = some x → x.folio = false →
    x.dead = false → x.reissue = false → x.waiters = [i] → s.reqs.get? i = some r → r.who = .fill q n →
    s.slot? q n = some e → e.unresolved = none → s.ctx? (ctxKey x.partition x.context) = some c →
    Tbl.Sorted s.xlats → Tbl.Sorted s.reqs → s.slotless die = [] → (s.cores.all fun c => c.2.mode != .running) = true →
    Completes (.translationCompletion die slot .unsupported) s fun t =>
      t.xlats.get? (256 * die + slot) = none ∧ (t.slot? q n).map (·.unresolved) = some (some 1)
        ∧ (t.ctx? (ctxKey x.partition x.context)).map (·.unresolved) = some (min (c.unresolved + 1) 0xFFFF)) ∧
  (∀ s die slot x a, s.live = true → slot < 256 → s.xlats.get? (256 * die + slot) = some x → x.folio = false →
    x.dead = false → x.reissue = true →
    Completes (.translationCompletion die slot a) s fun t =>
      OnlyChanges [.xlats, .out] s t ∧ t.xlats = s.xlats.put (256 * die + slot) { x with reissue := false }
        ∧ t.out = .xlatRequest (256 * die + slot) x.tagA (x.page * 4096) (!x.write) :: s.out) ∧
  (∀ s die slot x e j v, s.live = true → slot < 256 → s.xlats.get? (256 * die + slot) = some x → x.folio = true → x.waiters = [] →
    ((s.folios.get? x.tagA).bind fun f => f.slot? x.version) = some v → folioEntry x.partition x.tagA v x.page = some e →
    s.atcSlot die e.partition = some j →
    Tbl.Sorted s.xlats → s.slotless die = [] → (s.cores.all fun c => c.2.mode != .running) = true →
    Completes (.pageListFill die slot) s fun t =>
      OnlyChanges [.xlats, .atc] s t ∧ t.xlats.get? (256 * die + slot) = none
        ∧ t.atc = s.atc.put j { e with lastUse := s.reqNo })

/-- R270 to R273, R275, R277: a batch of faults goes to the host as a Page Request Group or to the fault ring; the answers of
both sides act on the records that they name. -/
def Obligations.FaultsAreDeliveredAndAnswered : Prop :=
  (∀ s die ctx f c, s.live = true → s.batchOf die ctx = [f] → f.firstNs + 5000 ≤ s.time.now → s.fault? f.id = some f →
    s.ctx? ctx = some c → c.fabric = false → s.pri = true → (s.part (ctx / 64)).priOff = false → s.pagesOut < s.pageAlloc →
    Completes (.faultBatchFlush die ctx) s fun t =>
      OnlyChanges [.faults, .groupNo, .out, .ctxs] s t
        ∧ (t.fault? f.id).map (·.place) = some (.delivered (s.groupNo % 512)) ∧ t.groupNo = s.groupNo + 1
        ∧ t.out = .pageRequests (s.groupNo % 512) c.pasid [f.page * 4096] :: s.out) ∧
  (∀ s die ctx f c, s.live = true → s.batchOf die ctx = [f] → f.firstNs + 5000 ≤ s.time.now → s.fault? f.id = some f →
    s.ctx? ctx = some c → c.fabric = true → c.ringRoom = true → c.ringBroken = false →
    Completes (.faultBatchFlush die ctx) s fun t =>
      (t.fault? f.id).map (·.place) = some (.ring c.fseq)
        ∧ (t.ctx? ctx).map (fun d => (d.fseq, d.ringWrites)) = some (c.fseq + 1, c.ringWrites ++ [c.fseq])) ∧
  (∀ s ctx c n m rest, s.live = true → s.ctx? ctx = some c → c.ringWrites = n :: m :: rest →
    Completes (.faultRingWriteAccepted ctx) s fun t =>
      OnlyChanges [.ctxs, .faults] s t ∧ (t.ctx? ctx).map (·.ringWrites) = some (m :: rest)
        ∧ ∀ f ∈ s.faults, f.place = .ring n → ctxKey f.partition f.context = ctx →
            ∃ g ∈ t.faults, g.id = f.id ∧ g.retryAt = s.time.now + 2048) ∧
  (∀ s ctx c n v, s.live = true → s.ctx? ctx = some c → c.ringWrites = [n] → c.faultVector = v → v.mode = 1 → s.msix.enable = true →
    s.msix.funcMask = false → (s.msix.entries.getD v.entry {}).masked = false →
    Completes (.faultRingWriteAccepted ctx) s fun t =>
      OnlyChanges [.ctxs, .faults, .out] s t ∧ (t.ctx? ctx).map (·.ringWrites) = some [] ∧ t.out = .msix v.entry :: s.out) ∧
  (∀ s ctx c n rest, s.live = true → s.ctx? ctx = some c → c.ringWrites = n :: rest →
    Completes (.faultRingWriteFail ctx) s fun t =>
      OnlyChanges [.ctxs, .faults] s t
        ∧ (t.ctx? ctx).map (fun d => (d.ringBroken, d.ringWrites, d.fseq)) = some (true, [], n)) ∧
  (∀ s group f, s.live = true → (s.faults.filter fun x => x.place == .delivered group) = [f] → f.waiters = [] →
    s.fault? f.id = some f → s.hostWaiting = [] → (s.cores.all fun c => c.2.mode != .running) = true →
    Completes (.prgResponse group .success) s fun t =>
      OnlyChanges [.faults] s t ∧ t.faults = s.faults.filter fun x => x.id != f.id) ∧
  (∀ s group f i r q n e, s.live = true → (s.faults.filter fun x => x.place == .delivered group) = [f] → f.waiters = [i] →
    s.fault? f.id = some f → s.reqs.get? i = some r → r.who = .fill q n → s.slot? q n = some e → e.unresolved = none →
    s.hostWaiting = [] → (s.cores.all fun c => c.2.mode != .running) = true →
    Completes (.prgResponse group .invalid) s fun t =>
      (t.faults.any fun x => x.id == f.id) = false ∧ (t.slot? q n).map (·.unresolved) = some (some 1)) ∧
  (∀ s group f, s.live = true → (s.faults.filter fun x => x.place == .delivered group) = [f] →
    s.hostWaiting = [] → (s.cores.all fun c => c.2.mode != .running) = true →
    Completes (.prgResponse group .failure) s fun t => (t.part f.partition).priOff = true) ∧
  (∀ s p, s.live = true → (s.part p).priOff = true → s.hostWaiting = [] →
    Completes (.priEnable p) s fun t => t = s.modPart p fun u => { u with priOff := false })

/-- R268, R272, R274: faults of a fabric context are retried at growing intervals, the consumer count is polled and read, and an
unresolved fault ends the launch that it belongs to. An invalidation takes the entries of its range out of every ATC, marks the
requests under way in it, and is completed when what was issued with the old translations is over. -/
def Obligations.FabricFaultsAndInvalidations : Prop :=
  (∀ s fault f n i r c w p q e, s.live = true → s.fault? fault = some f → f.place = .ring n → f.retryAt ≠ 0 →
    f.retryAt ≤ s.time.now → f.waiters = [i] → s.reqs.get? i = some r → r.place = .faulted → r.guest = true → r.who = .fill q e →
    s.ctx? (ctxKey r.partition r.context) = some c → c.fabric = true → c.windows.get? (r.address / 2 ^ 60) = some w →
    r.address % 2 ^ 60 + max 1 r.bytes ≤ w.length → r.write = false → w.wrights % 2 = 1 → s.upPort w.ports = some p →
    Completes (.faultRetry fault) s fun t =>
      OnlyChanges [.faults, .reqs, .out] s t
        ∧ (t.fault? fault).map (fun g => (g.interval, g.retryAt))
          = some (min 65536 (2 * f.interval), s.time.now + min 65536 (2 * f.interval))
        ∧ t.out = .fabricReq i w.endpoint w.remote (r.address % 2 ^ 60) r.bytes none p :: s.out) ∧
  (∀ s ctx c p, s.live = true → s.ctx? ctx = some c → c.fabric = true →
    (s.faults.any fun f => ctxKey f.partition f.context == ctx && f.place != .batch) = true → s.time.state ≠ .unlocked →
    s.time.ct % 4096 < 2 → s.upPort (((c.windows.get? 0).map (·.ports)).getD 1) = some p →
    Completes (.consumerPoll ctx) s fun t => t = s.emit (.consumerRead ctx c.consumerAddr)) ∧
  (∀ s ctx c count, s.live = true → s.ctx? ctx = some c → c.fabric = true →
    (s.faults.any fun f => ctxKey f.partition f.context == ctx) = false → (s.cores.all fun c => c.2.mode != .running) = true →
    Completes (.consumerReadDone ctx count) s fun t =>
      OnlyChanges [.ctxs] s t ∧ (t.ctx? ctx).map (·.consumer) = some count) ∧
  (∀ s q seq e cause, s.live = true → s.slot? q seq = some e → e.unresolved = some cause → e.admitted = true → e.isLaunch = true →
    e.state = .running → e.stagings = [] →
    Completes (.unresolvedFault q seq cause) s fun t =>
      OnlyChanges [.slots, .cores, .clusters] s t
        ∧ (t.slot? q seq).map (fun x => (x.state, x.status, x.cause))
          = some (.ended, ((EndWhy.unresolved cause).status e.promise.isSome).1, cause)) ∧
  (∀ s tag pasid base length, s.live = true →
    Completes (.atsInvalidateRequest tag pasid base length) s fun t =>
      OnlyChanges [.atc, .cores, .xlats, .invals] s t
        ∧ (∀ e, e ∈ t.atc ↔ e ∈ s.atc ∧ (!e.2.folio && named pasid e.2.tagA
            && meets e.2.first (e.2.run * 2 ^ e.2.pageLog2) base length) = false)
        ∧ (∀ k x, s.xlats.get? k = some x → x.folio = false → named pasid x.tagA = true → meets (x.page * 4096) 4096 base length = true →
            t.xlats.get? k = some { x with reissue := true })
        ∧ ∃ i, t.invals = s.invals ++ [i] ∧ i.tag = tag) ∧
  (∀ s tag i, s.live = true → (s.invals.find? fun x => x.tag == tag) = some i →
    (i.reqs.any fun r => (s.reqs.get? r).any fun x => x.place == .host) = false →
    (i.cores.any fun k => (s.core k).mode == .committing) = false →
    Completes (.invalidationCompletion tag) s fun t =>
      t = { s with invals := s.invals.filter fun x => x.tag != tag, out := .invalDone tag :: s.out })

/-- R279, R280, R443, R447: an inbound request is answered with the code that its window gives it; a write that is served is answered
after its bytes were committed. The answers of the fabric and of the host reach the request that they name, with their poison; a
refusal, an error or a timeout is an unresolved fault of the launch. -/
def Obligations.InboundAndOutboundRequestsAreAnswered : Prop :=
  (∀ s ep win off w len data c, s.live = true → s.inboundCode ep win off w (if w then data.length else len) = (c, none) →
    Completes (.inboundRequest ep win off w len data) s fun t => t = s.emit (.inboundAnswer ep c)) ∧
  (∀ s ep win off len data w, s.live = true → s.inboundCode ep win off false len = (0, some w) →
    Completes (.inboundRequest ep win off false len data) s fun t => t = s.emit (.inboundAnswer ep 0)) ∧
  (∀ s ep win off len data w, s.live = true → s.inboundCode ep win off true data.length = (0, some w) →
    s.mergeMissing { partition := w.partition, cluster := s.entryCluster w.partition, address := w.target + off, data := data,
                     endpoint := ep } = [] →
    Completes (.inboundRequest ep win off true len data) s fun t => t.out.head? = some (.inboundAnswer ep 0)) ∧
  (∀ s ep win off w len data, s.live = true → (s.inbound.any fun e => e.2.ident == win) = false →
    Completes (.inboundRequest ep win off w len data) s fun t => t = s.emit (.inboundAnswer ep 3)) ∧
  (∀ s id r k n data p, s.live = true → s.reqs.get? id = some r → r.place = .fabric → r.who = .gather k n →
    Completes (.fabricResponse id (.ok data p)) s fun t =>
      (t.reqs.get? id) = some { r with place := .ready, poison := p } ∧ (t.core k).strands.get? n = some .ready
        ∧ ∀ j, j ≠ k → t.core j = s.core j) ∧
  (∀ s id r, s.live = true → s.reqs.get? id = some r → r.place = .fabric →
    Completes (.fabricResponse id .notPresent) s fun t =>
      (t.reqs.get? id).map (·.place) = some .faulted
        ∧ ∃ f ∈ t.faults, f.page = r.address / 4096 ∧ f.partition = r.partition ∧ f.context = r.context ∧ id ∈ f.waiters) ∧
  (∀ s id r q n e, s.live = true → s.reqs.get? id = some r → r.place = .fabric → r.who = .fill q n → s.slot? q n = some e →
    e.unresolved = none →
    Completes (.fabricResponse id .denied) s fun t => (t.slot? q n).map (·.unresolved) = some (some 3)) ∧
  (∀ s id r q n e, s.live = true → s.reqs.get? id = some r → r.place = .fabric → r.who = .fill q n → s.slot? q n = some e →
    e.unresolved = none →
    Completes (.fabricResponse id .noWindow) s fun t => (t.slot? q n).map (·.unresolved) = some (some 4)) ∧
  (∀ s id r q n e, s.live = true → s.reqs.get? id = some r → r.place = .fabric → r.who = .fill q n → s.slot? q n = some e →
    e.unresolved = none → r.upNs + 10000000 ≤ (s.fport r.port).upTime s.time.now →
    Completes (.fabricResponseTimeout id) s fun t =>
      (t.slot? q n).map (·.unresolved) = some (some 3)
        ∧ (t.fport r.port).timeouts = min ((s.fport r.port).timeouts + 1) 0xFFFF) ∧
  (∀ s q seq e, s.live = true → s.slot? q seq = some e → e.isLaunch = true → e.state = .running → e.admitted = true → e.stagings = [] →
    ((s.queue q).writes.head?.any fun w => w.isQualityOf seq) = false →
    Completes (.hostWriteErrorAnswer q seq) s fun t =>
      OnlyChanges [.slots, .cores, .clusters] s t
        ∧ (t.slot? q seq).map (fun x => (x.state, x.status, x.cause))
          = some (.ended, ((EndWhy.unresolved 1).status e.promise.isSome).1, 1)) ∧
  (∀ s id r k n, s.live = true → s.reqs.get? id = some r → r.place = .host → r.who = .gather k n →
    Completes (.hostReadErrorAnswer id) s fun t =>
      (t.reqs.get? id) = some { r with place := .ready, poison := true } ∧ (t.core k).strands.get? n = some .ready)

/-- R403, R404, R446: a link that goes down holds its messages and one that comes up lets them flow in order; an abort
notice of another endpoint ends the launches of its job group. -/
def Obligations.LinksHoldAndAbortNoticesEnd : Prop :=
  (∀ s n, s.live = true → (s.fport n).state = 1 →
    Completes (.linkHeld n) s fun t =>
      OnlyChanges [.fports, .ic] s t ∧ (t.fport n).state = 2
        ∧ (t.fport n).heldEvents = min ((s.fport n).heldEvents + 1) 0xFFFF
        ∧ (t.fport n).upTotal = (s.fport n).upTime s.time.now ∧ (t.ic.src (416 + n)).level = true) ∧
  (∀ s n, s.live = true → n < s.nFports → (s.fport n).state ≠ 1 → s.portless = [] →
    (s.cores.all fun c => c.2.mode != .running) = true →
    Completes (.linkUp n) s fun t =>
      OnlyChanges [.fports, .ic, .out] s t ∧ (t.fport n).state = 1 ∧ (t.fport n).encrypted = true ∧ (t.fport n).held = []
        ∧ t.out = (s.fport n).held.reverse ++ s.out ∧ (t.ic.src (416 + n)).level = false) ∧
  (∀ s g origin serial p e, s.live = true → origin ≠ s.fuses.endpoint →
    ((s.errs.lastAborts.filter fun a => a.1 == g).take 16).contains (g, origin, serial) = false → s.inGroup g = [p] →
    s.slots = [e] → e.partition = p → e.admitted = true → e.isLaunch = true → e.state = .running → e.stagings = [] →
    Completes (.abortNoticeReceived g origin serial) s fun t =>
      (t.part p).received = min ((s.part p).received + 1) 0xFFFF
        ∧ t.errs.lastAborts = (g, origin, serial) :: s.errs.lastAborts
        ∧ (t.slot? e.queue e.seq).map (fun x => (x.state, x.status, x.cause))
          = some (.ended, EndWhy.peer.status e.promise.isSome))

/-- R93, R129, R186, R194, R206, R288, R292, R293, R413, R418, R425: at a frame boundary pending parameters, the soft cap and shares
take effect, reservations that were released go, and a layout change takes place once no launch stands in its way. What the block
shows is brought up to date at each millisecond, and power at each 100 ms. -/
def Obligations.BoundariesBringChangesIntoEffect : Prop :=
  (∀ s, s.live = true → s.time.frameDue = true →
    Completes .frameBoundary s fun t =>
      t.time = { s.time with frameDone := frameOf s.time.ct + 1 } ∧ t.power = s.power.frame
        ∧ (∀ p, (t.part p).promiseLimit = (s.part p).pendLimit.getD (s.part p).promiseLimit
            ∧ (t.part p).startAllow = (s.part p).pendAllow.getD (s.part p).startAllow
            ∧ (t.part p).sliceNs = (s.part p).pendSlice.getD (s.part p).sliceNs)
        ∧ (∀ k c, s.ctx? k = some c → (t.ctx? k).map (·.share) = some (c.pendShare.getD c.share))
        ∧ ∀ p, (t.part p).holds = (s.part p).holds.filter fun h => !h.releasing && frameOf s.time.ct ≤ h.last) ∧
  (∀ s p l, s.live = true → s.time.frameDue = true → (s.part p).pendLayout = some l →
    ((List.range s.nClusters).any fun c => (s.part p).losesIn l c && s.placedIn p c) = false →
    Completes .frameBoundary s fun t =>
      (t.part p).quads = l.quads ∧ (t.part p).ways = l.ways ∧ (t.part p).pendLayout = none
        ∧ ∀ q ∈ (s.part p).quads, q ∉ l.quads → q ∈ (t.part p).clearQuads) ∧
  (∀ s w ws, s.live = true → s.time.state ≠ .unlocked → s.time.msDone < s.time.ct / 1000000 →
    Completes (.msBoundary w ws) s fun t =>
      t.time = { s.time with msDone := s.time.ct / 1000000 } ∧ t.power.blockWatts = w
        ∧ t.power.overSoft = decide (s.power.softCap < w)
        ∧ (∀ p, (t.part p).eventsShown = (s.part p).events ∧ (t.part p).telShown = (s.part p).tel)
        ∧ (∀ q, t.queue q = { s.queue q with tilesShown := (s.queue q).tiles })
        ∧ ∀ k c, s.ctx? k = some c → (t.ctx? k).map (·.shownFaults) = some c.faultTotal) ∧
  (∀ s p u j js, s.live = true → s.time.state ≠ .unlocked → s.time.windowDone < s.time.ct / 100000000 → s.parts.get? p = some u →
    Completes (.powerWindowEnd ((p, j) :: js)) s fun t =>
      OnlyChanges [.time, .parts] s t ∧ t.time = { s.time with windowDone := s.time.ct / 100000000 }
        ∧ t.part p = { u with watts := min 65535 (10 * j), wattsAt := s.outScale (s.time.ct / 100000000 * 100000000) })

/-- R407, R421 to R424: the background slot counts its frame, scrubs one block of each kind and keeps what the ageing monitor
found; what the scrub finds is counted and logged, and a word with a mirror is read from it. -/
def Obligations.BackgroundWorkGoesOn : Prop :=
  (∀ s, s.live = true → s.time.state ≠ .unlocked → 7936 ≤ s.time.ct % 8192 → s.bg.slotDone ≤ frameOf s.time.ct →
    s.boot.scrubF ≠ 0 → s.nearBlocks ≠ 0 → s.bg.frames % s.boot.scrubF = 0 →
    Completes (.backgroundSlot []) s fun t =>
      OnlyChanges [.bg, .out] s t ∧ t.bg.frames = s.bg.frames + 1 ∧ t.bg.slotDone = frameOf s.time.ct + 1
        ∧ t.bg.nearBlock = (if s.bg.nearBlock + 1 < s.nearBlocks then s.bg.nearBlock + 1 else 0)
        ∧ t.bg.cacheBlock = (s.bg.cacheBlock + 1) % 98304 ∧ t.bg.scratchBlock = (s.bg.scratchBlock + 1) % 8192
        ∧ t.out.length = s.out.length + s.nPorts) ∧
  (∀ s k, s.live = true → s.time.state ≠ .unlocked → 7936 ≤ s.time.ct % 8192 → s.bg.slotDone ≤ frameOf s.time.ct →
    k < s.nCores → (s.core k).bin ≠ 0 →
    Completes (.backgroundSlot [(k, true)]) s fun t =>
      OnlyChanges [.bg, .out, .cores] s t ∧ t.core k = { s.core k with binPending := true } ∧ ∀ j, j ≠ k → t.core j = s.core j) ∧
  (∀ s port addr j, s.live = true → s.time.state ≠ .unlocked → port < s.nPorts →
    Completes (.scrubResult port addr (.corrected j)) s fun t =>
      OnlyChanges [.bg, .errs, .ic] s t ∧ t.bg = { s.bg with corrected := s.bg.corrected + 1 }
        ∧ t.errs = s.errs.store (256 + port / 2) { clusterRecord (port / 2) 1 1 addr 0 with symbol := j, ct := s.ctNow }) ∧
  (∀ s port addr, s.live = true → s.time.state ≠ .unlocked → port < s.nPorts →
    Completes (.scrubResult port addr .poison) s fun t =>
      t = { s with bg := { s.bg with uncorrectable := s.bg.uncorrectable + 1 } }) ∧
  (∀ s port addr, s.live = true → s.time.state ≠ .unlocked → port < s.nPorts → s.errs.namesWord addr = false → s.folioAt addr = none →
    Completes (.scrubResult port addr .uncorrectable) s fun t =>
      OnlyChanges [.bg, .errs, .ic] s t ∧ t.bg = { s.bg with uncorrectable := s.bg.uncorrectable + 1 }
        ∧ t.errs = (s.errs.store (256 + port / 2) { clusterRecord (port / 2) 2 3 addr 0 with ct := s.ctNow }).store (256 + port / 2)
            { clusterRecord (port / 2) 4 3 addr 0 with ct := s.ctNow }) ∧
  (∀ s port addr x m, s.live = true → s.time.state ≠ .unlocked → port < s.nPorts → s.errs.namesWord addr = false →
    s.folioAt addr = some x → s.mirrorAt addr = some m →
    Completes (.scrubResult port addr .uncorrectable) s fun t =>
      OnlyChanges [.bg, .free, .reqs, .reqNo] s t
        ∧ ∃ r, t.reqs.get? s.reqNo = some r ∧ r.place = .mirror 0 ∧ r.address = addr ∧ r.bytes = 32)

/-- R122, R124 to R126: how a strobe is taken in each state of the time logic, and how one is rejected or lost. -/
def Obligations.StrobesSteerTheTimeLogic : Prop :=
  (∀ s v par, s.live = true → s.time.released = true → parityOk v par = false → s.time.state ≠ .stepPending →
    Completes (.timeStrobe v par) s fun t =>
      t = { s with time := { s.time with goodRun := 0, rejectedSeen := true, rejected := min (s.time.rejected + 1) 0xFFFF } }) ∧
  (∀ s v par, s.live = true → s.time.released = true → parityOk v par = true → s.time.overdue = false →
    s.time.lastStrobe.any (fun l => s.time.now - l < 500) = false → s.time.state = .unlocked → s.time.goodRun + 1 < 16 →
    Completes (.timeStrobe v par) s fun t =>
      t = { s with time := { s.time with lastStrobe := some s.time.now, expired := false, goodRun := s.time.goodRun + 1 } }) ∧
  (∀ s v par, s.live = true → s.time.released = true → parityOk v par = true → s.time.overdue = false →
    s.time.lastStrobe.any (fun l => s.time.now - l < 500) = false → s.time.state = .unlocked → 16 ≤ s.time.goodRun + 1 →
    s.boot.stage ≠ .time →
    Completes (.timeStrobe v par) s fun t =>
      OnlyChanges [.time, .accrued, .bg] s t ∧ t.time.state = .locked ∧ t.time.ct = v.toNat ∧ t.time.lastStrobe = some s.time.now) ∧
  (∀ s v par, s.live = true → s.time.released = true → parityOk v par = true → s.time.overdue = false →
    s.time.lastStrobe.any (fun l => s.time.now - l < 500) = true → s.time.state = .locked →
    Completes (.timeStrobe v par) s fun t =>
      OnlyChanges [.time, .ic] s t ∧ t.time.state = .holdover ∧ t.time.rejected = min (s.time.rejected + 1) 0xFFFF
        ∧ t.time.ct = s.time.ct ∧ t.time.lastStrobe = s.time.lastStrobe ∧ (t.ic.src 2).state = (s.ic.src 2).state.fired) ∧
  (∀ s v par, s.live = true → s.time.released = true → parityOk v par = true → s.time.overdue = false →
    s.time.lastStrobe.any (fun l => s.time.now - l < 500) = false → s.time.state = .locked → (s.time.offset v.toNat).natAbs ≤ 1000 →
    Completes (.timeStrobe v par) s fun t =>
      OnlyChanges [.time] s t ∧ t.time.state = .locked ∧ t.time.slew = s.time.offset v.toNat ∧ t.time.ct = s.time.ct) ∧
  (∀ s v par, s.live = true → s.time.released = true → parityOk v par = true → s.time.overdue = false →
    s.time.lastStrobe.any (fun l => s.time.now - l < 500) = false → s.time.state = .locked → 1000 < (s.time.offset v.toNat).natAbs →
    Completes (.timeStrobe v par) s fun t =>
      OnlyChanges [.time, .parts, .queues, .ic] s t ∧ t.time.state = .stepPending ∧ t.time.delta = s.time.offset v.toNat
        ∧ t.time.ct = s.time.ct ∧ t.time.steps = min (s.time.steps + 1) 0xFFFF ∧ (t.ic.src 1).state = (s.ic.src 1).state.fired
        ∧ (∀ p u, s.parts.get? p = some u → (t.part p).events.timeSteps = min (u.events.timeSteps + 1) 0xFFFF)
        ∧ ∀ q u, s.queues.get? q = some u → u.state ≠ QState.disabled → (t.queue q).stepF = true) ∧
  (∀ s v par, s.live = true → s.time.released = true → parityOk v par = true → s.time.overdue = false →
    s.time.lastStrobe.any (fun l => s.time.now - l < 500) = false → s.time.state = .holdover → 16 ≤ s.time.goodRun + 1 →
    (s.time.offset v.toNat).natAbs ≤ 1000 →
    Completes (.timeStrobe v par) s fun t =>
      OnlyChanges [.time] s t ∧ t.time.state = .locked ∧ t.time.slew = s.time.offset v.toNat ∧ t.time.holdoverSince = none)

/-- R125, R126, R133 to R135: a strobe that does not come takes LOCKED to HOLDOVER, the anchor brings the step into force, and the
end of a slew is noted. -/
def Obligations.TimeIsLostAndAnchored : Prop :=
  (∀ s, s.live = true → s.time.released = true → s.time.overdue = true → s.time.state = .locked →
    Completes .strobeTimeout s fun t =>
      OnlyChanges [.time, .ic] s t ∧ t.time.state = .holdover ∧ t.time.expired = true ∧ t.time.goodRun = 0
        ∧ t.time.holdovers = min (s.time.holdovers + 1) 0xFFFF ∧ t.time.ct = s.time.ct
        ∧ (t.ic.src 2).state = (s.ic.src 2).state.fired) ∧
  (∀ s, s.live = true → s.time.released = true → s.time.overdue = true → s.time.state = .stepPending →
    Completes .strobeTimeout s fun t =>
      t = { s with time := { s.time with expired := true, goodRun := 0, lostInStep := true } }) ∧
  (∀ s, s.live = true → s.time.state = .stepPending → s.time.stepFrame < frameOf s.time.ct → s.time.lostInStep = false →
    Completes .reanchor s fun t =>
      t.time.state = .locked ∧ t.time.delta = 0 ∧ t.time.ct = shiftBy s.time.delta s.time.ct ∧ t.time.stepAt = t.time.ct
        ∧ t.time.frameDone = frameOf t.time.ct + 1
        ∧ ∀ q n e p, s.slot? q n = some e → e.promise = some p →
            ((t.slot? q n).bind (·.promise)).map (·.deadline) = some (shiftBy s.time.delta p.deadline)) ∧
  (∀ s, s.live = true → s.time.state = .stepPending → s.time.stepFrame < frameOf s.time.ct → s.time.lostInStep = true →
    Completes .reanchor s fun t => t.time.state = .holdover ∧ t.time.ct = shiftBy s.time.delta s.time.ct ∧ t.time.holdoverSeen = true) ∧
  (∀ s, s.live = true → s.time.slewing = true → s.time.slew = 0 →
    Completes .slewComplete s fun t => t = { s with time := { s.time with slewing := false, slewPhase := 0 } })

/-- R375, R376, R379, R380, R391, R393, R394: an uncorrectable word is handled by where it stands: a clean line is dropped, a word of a
dirty line is poisoned, a tile that lost its own state is replayed once, and lost inputs or a second loss make it fail. Poison
that a tile consumes ends its launch, a tile error makes the tile fail, and a word served from the mirror goes to its reader and
is written back. -/
def Obligations.UncorrectableWordsAndPoisonAreContained : Prop :=
  (∀ s c line half syn l, s.live = true → (s.lines.find? fun x => x.cluster == c && x.line == line && x.dirty == false) = some l →
    Completes (.wordUncorrectable (.cleanLine c line half) syn) s fun t =>
      OnlyChanges [.errs, .ic, .lines] s t
        ∧ t.lines = (s.lines.filter fun x => !(x.cluster == c && x.line == line && x.partition == l.partition))
        ∧ t.errs = s.errs.store (256 + c) { clusterRecord c 2 2 (64 * line + 32 * (half % 2)) syn with
                      partition := l.partition, ct := s.ctNow }) ∧
  (∀ s c line half syn l, s.live = true → (s.lines.find? fun x => x.cluster == c && x.line == line && x.dirty == true) = some l →
    Completes (.wordUncorrectable (.dirtyLine c line half) syn) s fun t =>
      OnlyChanges [.errs, .ic, .lines] s t
        ∧ { l with words := l.words.set (half % 2) (poisonWord (dataOf (l.words.getD (half % 2) 0))) } ∈ t.lines) ∧
  (∀ s k syn, s.live = true → k < s.nCores → s.abandonable k = true →
    ((s.slot? (s.core k).queue (s.core k).seq).any fun e => (e.tile (s.core k).tile).replayed) = false →
    Completes (.wordUncorrectable (.tileState k) syn) s fun t =>
      OnlyChanges [.errs, .ic, .cores, .clusters, .commons, .slots, .ctxs] s t
        ∧ t.core k = { (s.core k).force with replay := true } ∧ ∀ j, j ≠ k → t.core j = s.core j) ∧
  (∀ s k syn, s.live = true → k < s.nCores → s.abandonable k = true →
    ((s.slot? (s.core k).queue (s.core k).seq).any fun e => (e.tile (s.core k).tile).replayed) = true →
    Completes (.wordUncorrectable (.tileState k) syn) s fun t =>
      OnlyChanges [.errs, .ic, .cores, .clusters, .commons, .slots, .ctxs] s t
        ∧ t.core k = { (s.core k).force with failed := true, replay := false } ∧ ∀ j, j ≠ k → t.core j = s.core j) ∧
  (∀ s k syn, s.live = true → s.abandonable k = true →
    Completes (.wordUncorrectable (.liveInput k) syn) s fun t =>
      OnlyChanges [.errs, .ic, .cores, .clusters, .commons, .slots, .ctxs] s t
        ∧ t.core k = { (s.core k).force with failed := true, replay := false } ∧ ∀ j, j ≠ k → t.core j = s.core j) ∧
  (∀ s c addr syn, s.live = true → c < s.nClusters → s.folioAt (addr / 32 * 32) = none →
    Completes (.wordUncorrectable (.tier c addr) syn) s fun t =>
      ∃ r, t.reqs.get? s.reqNo = some r ∧ r.address = addr / 32 * 32 ∧ r.bytes = 32 ∧ r.write = true
        ∧ ∃ d, r.words = [poisonWord d]) ∧
  (∀ s k e from_, s.live = true → (s.core k).mode = .running → s.slot? (s.core k).queue (s.core k).seq = some e → e.admitted = true →
    e.isLaunch = true → e.state = .running → e.stagings = [] →
    Completes (.poisonConsumed k from_) s fun t =>
      OnlyChanges [.errs, .ic, .cores, .clusters, .commons, .slots, .ctxs] s t ∧ (t.core k).mode = .abandoning
        ∧ (t.slot? (s.core k).queue (s.core k).seq).map (fun x => (x.state, x.status, x.cause))
          = some (.ended, (EndWhy.poison (match from_ with | .tier => 1 | .cache => 2 | .storedPoison => 3)).status
              e.promise.isSome)) ∧
  (∀ s k e, s.live = true → (s.core k).mode = .running →
    Completes (.tileError k e) s fun t =>
      OnlyChanges [.errs, .ic, .cores, .clusters, .commons, .slots, .ctxs] s t
        ∧ t.core k = { (s.core k).force with failed := true, replay := false } ∧ ∀ j, j ≠ k → t.core j = s.core j) ∧
  (∀ s c f pg w mirror back id r i k n, s.live = true → s.mirrorReq c f pg w = some (id, r, i) → id ≠ s.reqNo → r.who = .gather k n →
    r.hint = .stream → hasData mirror = true → readWord mirror = .clean → hasData back = true → firstBad (r.words.set i mirror) = none →
    Completes (.mirrorServed c f pg w mirror back) s fun t =>
      (t.reqs.get? id).map (·.place) = some .ready ∧ (t.core k).strands.get? n = some .ready
        ∧ (∃ x, t.reqs.get? s.reqNo = some x ∧ x.write = true ∧ x.address = r.address + 32 * i ∧ x.words = [mirror])
        ∧ t.errs = s.errs.store (256 + r.cluster) { clusterRecord r.cluster 5 11 (r.address + 32 * i) (syndromes (r.words.getD i 0)) with
                      partition := r.partition, ct := s.ctNow })

/-- R379, R381, R382, R402: errors in control state act on their domain, and strike at the next level when the domain is already
handling one. -/
def Obligations.ControlErrorsActOnTheirDomain : Prop :=
  (∀ s k syn, s.live = true → k < s.nCores → (s.cluster (k / 16)).quarantined = false →
    Completes (.wordUncorrectable (.coreControl k) syn) s fun t =>
      (t.cluster (k / 16)).quarantined = true ∧ t.errs.escalations = min (s.errs.escalations + 1) 0xFFFF) ∧
  (∀ s c syn, s.live = true → c < s.nClusters → (s.cluster c).quarantined = false →
    Completes (.wordUncorrectable (.clusterControl c) syn) s fun t => (t.cluster c).quarantined = true) ∧
  (∀ s q syn, s.live = true → (s.queue q).state = .active → s.handling (.queue q) = false →
    Completes (.wordUncorrectable (.queueState q) syn) s fun t =>
      OnlyChanges [.errs, .ic] s t ∧ t.errs.handlingQ = q :: s.errs.handlingQ) ∧
  (∀ s p syn, s.live = true → (s.part p).state = .active →
    Completes (.wordUncorrectable (.partitionState p) syn) s fun t =>
      (t.part p).state = .resetting ∧ (t.part p).resetTrigger = 1) ∧
  (∀ s c, s.live = true → c < s.nClusters → (s.cluster c).quarantined = false →
    Completes (.clusterQuarantine c) s fun t =>
      (t.cluster c).quarantined = true
        ∧ (∀ k, clusterOfCore k = c → (s.core k).mode = .running → (t.core k).mode = .abandoning ∧ (t.core k).failed = true)
        ∧ ∀ k, clusterOfCore k ≠ c → t.core k = s.core k) ∧
  (∀ s k, s.live = true → s.handling (.core k) = true → (s.cluster (k / 16)).quarantined = false →
    Completes (.escalated (.core k)) s fun t =>
      (t.cluster (k / 16)).quarantined = true ∧ t.errs.escalations = min (s.errs.escalations + 1) 0xFFFF) ∧
  (∀ s p, s.live = true → (s.part p).state = .resetting → s.errs.fatal = false →
    Completes (.escalated (.partition p)) s fun t =>
      t.errs.fatal = true ∧ t.errs.escalations = min (s.errs.escalations + 1) 0xFFFF
        ∧ t.out.head? = some (.faultReport "BLOCK_FATAL" 0)) ∧
  (∀ s d, s.live = true → d < s.nDies → s.errs.fatal = false →
    Completes (.blockFatal d) s fun t => t.errs.fatal = true ∧ t.out.head? = some (.faultReport "BLOCK_FATAL" 0))

/-- R383, R386, R387: a record that finds room is stored with the next number and with the records lost before it; one that finds its
queue full is counted as lost and changes no record. ERR_POP moves the oldest record of a queue to the log, and a read of
ERR_QSTAT shows the queue and clears LOST with its half. -/
def Obligations.ErrorRecordsAreStoredAndRead : Prop :=
  (∀ (e : Errors) i r, (e.queue i).records.length < 4 → ((e.queue i).records.getLast?.any fun n => r.mergesInto n) = false →
    ((e.store i r).queue i).records = (e.queue i).records ++
        [{ r with recordSeq := e.nextSeq, lost := (e.queue i).lostNow
                  rflags := if (e.queue i).lostNow = 0 then r.rflags else r.rflags ||| 2 }]
      ∧ (e.store i r).nextSeq = e.nextSeq + 1 ∧ ((e.store i r).queue i).lostNow = 0
      ∧ ∀ j, j ≠ i → (e.store i r).queue j = e.queue j) ∧
  (∀ (e : Errors) i r, 4 ≤ (e.queue i).records.length → ((e.queue i).records.getLast?.any fun n => r.mergesInto n) = false →
    ((e.store i r).queue i).records = (e.queue i).records ∧ ((e.store i r).queue i).overrun = true
      ∧ ((e.store i r).queue i).lost = min ((e.queue i).lost + 1) 0xFFFFFFFF ∧ (e.store i r).nextSeq = e.nextSeq) ∧
  (∀ (e : Errors) i r n, (e.queue i).records.getLast? = some n → r.mergesInto n = true →
    ((e.store i r).queue i).records = (e.queue i).records.dropLast ++ [{ n with count := min (n.count + 1) 0xFFFFFFFF }]
      ∧ (e.store i r).nextSeq = e.nextSeq) ∧
  (∀ s i v r rest, s.live = true → i < 275 → v.getLsbD 0 = true → (s.errs.queue i).records = r :: rest →
    Completes (.errPop i v) s fun t =>
      OnlyChanges [.errs, .ic] s t ∧ (t.errs.queue i).records = rest ∧ t.errs.log.getLast? = some r
        ∧ ∀ j, j ≠ i → t.errs.queue j = s.errs.queue j) ∧
  (∀ s i half, s.live = true → i < 275 → readsHigh half = true →
    Completes (.errQstatRead i half) s fun t =>
      OnlyChanges [.errs, .out] s t ∧ t.out = .icValue (halfOf half (s.errs.queue i).stat) :: s.out
        ∧ t.errs.queue i = { s.errs.queue i with lost := 0 } ∧ ∀ j, j ≠ i → t.errs.queue j = s.errs.queue j) ∧
  (∀ s i half, s.live = true → readsHigh half = false →
    Completes (.errQstatRead i half) s fun t => t = s.emit (.icValue (halfOf half (s.errs.queue i).stat)))

/-- R288, R290, R398, R399: a partition reset fences the partition, ends with its translations, lines and reservations gone, and
leaves it ACTIVE; the clearing of a layout change, or of a destruction, frees what was taken. -/
def Obligations.PartitionsAreResetAndCleared : Prop :=
  (∀ s p t0, s.live = true → (s.part p).state = .active →
    Completes (.partitionResetStart p t0) s fun t =>
      (t.part p).state = .resetting ∧ (t.part p).resetStep = 1 ∧ (t.part p).resetTrigger = triggerCode t0
        ∧ (t.part p).resetCt = s.ctNow) ∧
  (∀ s p, s.live = true → (s.part p).state = .resetting → (s.part p).resetStep = 1 → s.drained p = true →
    Completes (.partitionResetDrainDone p) s fun t =>
      (t.part p).resetStep = 2 ∧ (t.part p).state = .resetting ∧ (∀ f ∈ t.faults, f.partition ≠ p) ∧ (∀ l ∈ t.lines, l.partition ≠ p)) ∧
  (∀ s p, s.live = true → (s.part p).state = .resetting → (s.part p).resetStep = 2 → s.drained p = true → (s.part p).key.isSome = true →
    (s.slots.all fun e => e.partition != p) = true → (s.part p).replyTo = [] → (s.part p).stopWanted = false →
    Completes (.partitionResetEnd p) s fun t =>
      (t.part p).state = .active ∧ (t.part p).resetStep = 0 ∧ (t.part p).holds = [] ∧ (t.part p).affinity = []
        ∧ (t.part p).events.resets = min ((s.part p).events.resets + 1) 0xFFFF ∧ (∀ e ∈ t.atc, e.2.partition ≠ p)
        ∧ ∀ k, k / 4 ∈ (s.part p).quads → (t.core k).scratch = []) ∧
  (∀ s p, s.live = true → (s.part p).state ≠ .destroying → ((s.part p).clearQuads ≠ [] ∨ (s.part p).clearWays ≠ []) →
    Completes (.layoutClearingDone p) s fun t =>
      (t.part p).clearQuads = [] ∧ (t.part p).clearWays = [] ∧ (t.part p).quads = (s.part p).quads
        ∧ ∀ k, k / 4 ∈ (s.part p).clearQuads → (t.core k).scratch = []) ∧
  (∀ s p, s.live = true → (s.part p).state = .destroying → s.dismantled p = true → Tbl.Sorted s.parts →
    Completes (.layoutClearingDone p) s fun t => (t.part p).state = .free ∧ (t.part p).key = none ∧ (t.part p).quads = [])

/-- R232, R259, R470: the steps of a revocation after its fence: the drain bound ends what still uses the extent, the invalidation
takes the losing partitions' lines and entries, and the zeroing frees the entry. -/
def Obligations.RevocationsRunToTheirEnd : Prop :=
  (∀ s k x, s.live = true → s.extents.get? k = some x → x.state = .fenced → x.drained = false → x.fenceNs + 50000 ≤ s.time.now →
    s.slots = [] →
    Completes (.revocationDrainBound k) s fun t =>
      (t.extents.get? k).map (fun y => (y.state, y.drained)) = some (.invalidating, true)
        ∧ ∀ i q, s.seqs.get? i = some q → x.losing.getLsbD q.partition = true → q.kvIn x = true →
            t.seqs.get? i = some { q with state := 4 }) ∧
  (∀ s k x, s.live = true → s.extents.get? k = some x → x.state = .invalidating → x.whole = true → x.replyTo = [] →
    Completes (.revocationInvalidated k) s fun t =>
      (t.extents.get? k).map (·.state) = some .zeroing
        ∧ (∀ l ∈ t.lines, x.losing.getLsbD l.partition = true → x.covers (64 * l.line) = false)
        ∧ ∀ a ∈ t.atc, a.2.folio = true → x.losing.getLsbD a.2.partition = true → x.covers a.2.target = false) ∧
  (∀ s k x, s.live = true → s.extents.get? k = some x → x.state = .invalidating → x.whole = false → x.replyTo = [] → x.waiting = [] →
    Completes (.revocationInvalidated k) s fun t =>
      (t.extents.get? k).map (fun y => (y.state, y.rMask, y.wMask, y.pubMask))
          = some (.granted, x.rMask &&& ~~~x.losing, x.wMask &&& ~~~x.losing, x.pubMask &&& ~~~x.losing)
        ∧ t.out.head? = some (.extentReleased x.grant)) ∧
  (∀ s k x, s.live = true → s.extents.get? k = some x → x.state = .zeroing → Tbl.Sorted s.extents →
    Completes (.zeroingDone k) s fun t =>
      OnlyChanges [.extents, .out] s t ∧ t.extents.get? k = none ∧ t.out = .extentReleased x.grant :: s.out
        ∧ ∀ j, j ≠ k → t.extents.get? j = s.extents.get? j)

/-- R328, R329, R332, R335, R337, R345, R347, R467: a notice makes an idle channel PENDING, a core takes it and reads its message, the reply makes
the channel REPLIED, and an acknowledgement or the end of the hold frees it; a notice for a channel that is not idle is refused. -/
def Obligations.MailboxChannelsGoThroughTheirStates : Prop :=
  (∀ s r ch v, s.live = true → (match r with | .view _ _ => false | _ => true) = true → ch < 64 → s.groupOn ch = true →
    (s.chan ch).state = .idle → s.boot.stage ≠ .failed →
    Completes (.scMbNotice r ch v) s fun t =>
      OnlyChanges [.mail, .ic] s t ∧ (t.chan ch).state = .pending ∧ (t.chan ch).opcode = v.toNat % 256
        ∧ (t.chan ch).address = v.toNat / 4096 * 4096 ∧ (t.chan ch).serial = ((s.chan ch).serial + 1) % 65536
        ∧ (t.chan ch).origin = identOf r ∧ t.mail.accepted = s.mail.accepted + 1 ∧ ∀ k, k ≠ ch → t.chan k = s.chan k) ∧
  (∀ s r ch v, s.live = true → (match r with | .view _ _ => false | _ => true) = true → ch < 64 → s.groupOn ch = true →
    ((s.chan ch).state ≠ .idle ∨ s.boot.stage = .failed) →
    Completes (.scMbNotice r ch v) s fun t =>
      t = { s with mail := { s.mail with refused := min (s.mail.refused + 1) 0xFFFF }, out := .errorResponse r :: s.out }) ∧
  (∀ s b ch c, s.live = true → b < 4 → s.boot.mailboxOn = true → s.bobbinFree b = true → s.ic.asleep = false →
    firstTaken (s.takeable b) = some (ch, c) →
    Completes (.noticeTake b) s fun t =>
      OnlyChanges [.mail, .ic, .out, .fports] s t ∧ (t.chan ch).state = .serving ∧ (t.chan ch).serve = .reading
        ∧ (t.chan ch).bobbin = some b ∧ (t.chan ch).takeCt = s.ctInt ∧ ∀ k, k ≠ ch → t.chan k = s.chan k) ∧
  (∀ s ch b m, s.live = true → (s.chan ch).serve = .reading → (s.chan ch).busyRetry = none → opcodeKnown (s.chan ch).opcode = true →
    parseMessage (s.chan ch).opcode (s.chan ch).pagesM1 b = .ok m → m.formatBad = none →
    Completes (.messageReadDone ch (.data b)) s fun t =>
      OnlyChanges [.mail] s t ∧ (t.chan ch).message = some m ∧ (t.chan ch).serve = (if m.gated then .read else .allowed)
        ∧ ∀ k, k ≠ ch → t.chan k = s.chan k) ∧
  (∀ s ch b, s.live = true → (s.chan ch).serve = .reading → (s.chan ch).busyRetry = none → opcodeKnown (s.chan ch).opcode = false →
    Completes (.messageReadDone ch (.data b)) s fun t => OnlyChanges replyParts s t ∧ t.Replying ch Detail.opcode []) ∧
  (∀ s ch, s.live = true → (s.chan ch).serve = .reading → (s.chan ch).busyRetry = none →
    Completes (.messageReadDone ch .failed) s fun t => OnlyChanges replyParts s t ∧ t.Replying ch Detail.unreadable []) ∧
  (∀ s ch, s.live = true → s.mail.level = 2 → (s.chan ch).state = .pending → (s.chan ch).serve = .none →
    opcodeClass (s.chan ch).opcode = 4 →
    Completes (.busyAnswer ch) s fun t =>
      OnlyChanges [.mail, .ic, .out, .fports] s t ∧ (t.chan ch).serve = .reading
        ∧ (t.chan ch).busyRetry = some (if s.time.state = .unlocked then 0 else retryAfter s.ctNow s.backlog)) ∧
  (∀ s ch ok, s.live = true → (s.chan ch).serve = .replying → (s.chan ch).header.opcode ≠ 0x26 →
    Completes (.replyPosted ch ok) s fun t =>
      (t.chan ch).state = .replied ∧ (t.chan ch).replyStatus = (s.chan ch).header.status
        ∧ (t.chan ch).replySerial = (s.chan ch).serial ∧ (t.chan ch).replyLost = !ok
        ∧ (t.chan ch).replyBytes = (if ok then 64 + (s.chan ch).body.length else 0) ∧ ∀ k, k ≠ ch → t.chan k = s.chan k) ∧
  (∀ s r ch v, s.live = true → (match r with | .view _ _ => false | _ => true) = true → ch < 64 → s.groupOn ch = true →
    v.getLsbD 0 = true → (s.chan ch).state = .replied → identOf r = (s.chan ch).origin →
    Completes (.scMbAck r ch v) s fun t => t = s.modChan ch fun c => { c with state := .idle }) ∧
  (∀ s ch, s.live = true → (s.chan ch).state = .replied → (s.chan ch).repliedNs + 100000000 ≤ s.time.now →
    Completes (.replyHoldExpiry ch) s fun t => t = s.modChan ch fun c => { c with state := .idle })

/-- R305, R340, R341: the capability check lets a command through and counts its use, or refuses it with the gate that failed; the use of
a capability that has expired is forgotten. -/
def Obligations.CapabilitiesAreChecked : Prop :=
  (∀ s ch m, s.live = true → (s.chan ch).state = .serving → (s.chan ch).serve = .read → (s.chan ch).message = some m →
    Completes (.capabilityCheck ch) s fun t =>
      (t.ic.src 4).state = (s.ic.src 4).state.fired ∧ (t.chan ch).gate = s.gateOf m (s.chan ch).origin
        ∧ (if s.gateOf m (s.chan ch).origin = 0
           then OnlyChanges [.mail, .ic, .sec] s t ∧ (t.chan ch).serve = .allowed ∧ t.sec = s.sec.use m.cap
           else OnlyChanges (.ic :: replyParts) s t ∧ t.Replying ch Detail.gate []
             ∧ (t.chan ch).header.gate = s.gateOf m (s.chan ch).origin)) ∧
  (∀ s k u, s.live = true → s.sec.uses.get? k = some u → u.notAfter ≠ 0 → u.notAfter < s.ctNow →
    Completes (.capabilityExpiry k) s fun t =>
      OnlyChanges [.sec] s t ∧ t.sec = { s.sec with uses := s.sec.uses.del k })

/-- R169, R175, R343, R344, R386, R389, R396, R398: the commands of class 1, and what a target that does not exist is answered. -/
def Obligations.ClassOneCommandsAreServed : Prop :=
  (∀ s ch m, s.Serving ch 0x10 m → (s.part m.partition).state = .active →
    Completes (.partitionReset ch) s fun t =>
      (t.part m.partition).state = .resetting ∧ ch ∈ (t.part m.partition).replyTo ∧ (t.chan ch).serve = .waiting) ∧
  (∀ s ch m, s.Serving ch 0x10 m → (s.part m.partition).state = .free →
    Completes (.partitionReset ch) s fun t => OnlyChanges replyParts s t ∧ t.Replying ch Detail.notFound []) ∧
  (∀ s ch m, s.Serving ch 0x11 m → (s.queue m.queue).state ≠ .draining → (s.slots.any fun e => e.queue == m.queue) = false →
    m.refusal (inOrder ([s.partMissing m.partition, s.queueMissing m.partition m.queue, s.partNotActive m.partition,
        ⟨(s.queue m.queue).state == .draining && (s.queue m.queue).drainKind == 3, Detail.state, none⟩]
      ++ s.queueChecks m.partition m.queue (m.queueAttrs ((s.queue m.queue).newAttrs.getD (s.queue m.queue).attrs)) m)) = none →
    Completes (.queueReset ch) s fun t =>
      t.Replying ch Detail.none [BitVec.ofNat 8 (((s.queue m.queue).epoch + 1) % 256)]
        ∧ (t.queue m.queue).epoch = ((s.queue m.queue).epoch + 1) % 256 ∧ (t.queue m.queue).retiredSeq = 0
        ∧ (t.queue m.queue).tail = 0 ∧ (t.queue m.queue).tokens = 32
        ∧ (t.queue m.queue).attrs = m.queueAttrs ((s.queue m.queue).newAttrs.getD (s.queue m.queue).attrs)
        ∧ (t.queue m.queue).state = (s.queue m.queue).startState) ∧
  (∀ s ch m, s.Serving ch 0x12 m → m.object = 0 → (s.part m.partition).state ≠ .free → (s.queue m.queue).state = .active →
    (s.queue m.queue).partition = m.partition →
    Completes (.queueStop ch) s fun t =>
      t.Replying ch Detail.none [] ∧ (t.queue m.queue).state = .stopped ∧ (t.queue m.queue).mgmtStop = true
        ∧ ∀ q, q ≠ m.queue → t.queue q = s.queue q) ∧
  (∀ s ch m, s.Serving ch 0x12 m → m.object = 1 → (s.part m.partition).state ≠ .free → (s.part m.partition).mgmtStop = false →
    (s.queue m.queue).state = .stopped → (s.queue m.queue).partition = m.partition →
    Completes (.queueStopResume ch) s fun t =>
      t.Replying ch Detail.none [] ∧ (t.queue m.queue).state = .active ∧ (t.queue m.queue).mgmtStop = false
        ∧ (t.queue m.queue).guestStop = false ∧ ∀ q, q ≠ m.queue → t.queue q = s.queue q) ∧
  (∀ s ch m, s.Serving ch 0x13 m → m.partition = 0xFF →
    Completes (.errorLogRead ch) s fun t =>
      OnlyChanges (.errs :: .ic :: replyParts) s t ∧ (∀ i, (t.errs.queue i).records = []) ∧ ∃ b, t.Replying ch Detail.none b) ∧
  (∀ s ch m i f v pg w x y, s.Serving ch 0x14 m → s.namedFolio m.object = some (i, f) → f.resolve (m.numOr 0x43 0) = some v →
    v.sourceValid = true → v.quarantined = true → v.repairBlocked = false → s.repairs i v = [(pg, w)] → hasData x = true →
    hasData y = true →
    Completes (.folioRepair ch [x] [y]) s fun t =>
      t.Replying ch Detail.none (toLe 4 1)
        ∧ ∃ r, t.reqs.get? s.reqNo = some r ∧ r.write = true ∧ r.address = pg + 32 * w
            ∧ r.words = [encodeWord (dataOf (deliverWord x))])

/-- R304, R306, R311, R314, R315, R316, R317, R323, R343, R344: the commands of class 2 on keys, fuses, requesters and owners. -/
def Obligations.ClassTwoCommandsAreServed : Prop :=
  (∀ s ch m, s.Serving ch 0x20 m → m.partition = 0xFF →
    Completes (.spdmMessage ch) s fun t =>
      t.free = s.free + 1 ∧ ((t.sec.sessions.get? (channelSession ch)).map (·.requester)) = some (s.chan ch).origin
        ∧ ∃ b, t.Replying ch Detail.none b) ∧
  (∀ s ch m k, s.Serving ch 0x21 m → m.partition = 0xFF → s.signKey none = some k → s.replyFits ch 4576 = true →
    Completes (.attest ch) s fun t =>
      OnlyChanges replyParts s t
        ∧ t.Replying ch Detail.none (s.report none ((m.attr? 0x50 0).getD [])
            ++ bytesOf (Config.ecdsaSign k (s.report none ((m.attr? 0x50 0).getD []))))) ∧
  (∀ s ch m, s.Serving ch 0x22 m → (s.part m.partition).state = .active → (s.part m.partition).tdi = .unlocked →
    Completes (.keyZeroise ch) s fun t =>
      (t.part m.partition).key = none ∧ (t.part m.partition).identity = none ∧ (t.part m.partition).keyGone = true
        ∧ (t.part m.partition).state = .resetting ∧ (t.chan ch).serve = .waiting) ∧
  (∀ s ch m k, s.Serving ch 0x23 m → s.sec.retiring = none → s.fuses.activeSlot = some k →
    Completes (.slotRetireCommand ch) s fun t =>
      OnlyChanges [.mail, .sec] s t ∧ t.sec = { s.sec with retiring := some k, retireReply := some ch }
        ∧ (t.chan ch).serve = .waiting) ∧
  (∀ s ch m, s.Serving ch 0x24 m → m.object < 4 → m.object ≠ s.boot.signer →
    Completes (.signerRevoke ch) s fun t =>
      OnlyChanges (.fuses :: replyParts) s t ∧ t.Replying ch Detail.none []
        ∧ t.fuses = { s.fuses with signersRevoked := s.fuses.signersRevoked ||| BitVec.ofNat 4 (2 ^ m.object) }) ∧
  (∀ s ch m, s.Serving ch 0x25 m → m.object ≤ s.boot.fwSvn →
    Completes (.rollbackAdvance ch) s fun t =>
      OnlyChanges (.fuses :: replyParts) s t ∧ t.fuses = { s.fuses with rollback := max s.fuses.rollback m.object }
        ∧ t.Replying ch Detail.none (toLe 1 (max s.fuses.rollback m.object))) ∧
  (∀ s ch m, s.Serving ch 0x25 m → s.boot.fwSvn < m.object →
    Completes (.rollbackAdvance ch) s fun t => OnlyChanges replyParts s t ∧ t.Replying ch Detail.range []) ∧
  (∀ s ch m, s.Serving ch 0x26 m →
    Completes (.fwReboot ch) s fun t => OnlyChanges replyParts s t ∧ t.Replying ch Detail.none []) ∧
  (∀ s ch, s.live = true → (s.chan ch).serve = .replying → (s.chan ch).header.opcode = 0x26 → (s.chan ch).header.status = Status.ok →
    s.pins.coolantOk = true →
    Completes (.replyPosted ch true) s fun t =>
      t.boot.stage = .rom ∧ t.boot.stopped = .no ∧ t.mail.chans = [] ∧ t.parts = [] ∧ t.fuses = s.fusesDone) ∧
  (∀ s ch m, s.Serving ch 0x27 m → m.removes = false → m.identityBad = false → s.sec.requesters.contains m.identity = false →
    s.sec.requesters.length < 16 →
    Completes (.requesterSet ch) s fun t =>
      OnlyChanges (.sec :: replyParts) s t ∧ t.sec = { s.sec with requesters := s.sec.requesters ++ [m.identity] }
        ∧ t.Replying ch Detail.none (toLe 1 (s.sec.requesters.length + 1))) ∧
  (∀ s ch m, s.Serving ch 0x27 m → m.removes = true → m.identityBad = false →
    Completes (.requesterSetRemove ch) s fun t =>
      OnlyChanges (.sec :: replyParts) s t ∧ t.sec = { s.sec with requesters := s.sec.requesters.filter (· != m.identity) }
        ∧ t.Replying ch Detail.none (toLe 1 (s.sec.requesters.filter (· != m.identity)).length)) ∧
  (∀ s ch m, s.Serving ch 0x28 m → s.fuses.ownerBanks.length < 4 →
    Completes (.ownerSet ch) s fun t =>
      OnlyChanges (.fuses :: replyParts) s t
        ∧ t.fuses = { s.fuses with ownerBanks := s.fuses.ownerBanks ++ [BitVec.ofNat 384 (le ((m.attr? 0x51 0).getD []) 0 48)] }
        ∧ t.Replying ch Detail.none (toLe 1 s.fuses.ownerBanks.length))

/-- R284 to R290, R309, R343: PARTITION_CREATE makes the partition with its layout and keys, PARTITION_DESTROY starts its end, and changes of
layout, parameters and regulators are held for their frame boundary. -/
def Obligations.PartitionCommandsAreServed : Prop :=
  (∀ s ch m, s.Serving ch 0x30 m →
    m.refusal (inOrder (⟨kindBad m.partition m.kind, Detail.range, some (0x01, 0)⟩ ::
      (s.layoutChecks m.partition (m.quadsOr []) (m.waysOver []) m ++ [s.rangeCheck m.partition (m.rangeOr (0, 0))]
        ++ s.paramChecks m.partition m.kind m ++ s.regulatorChecks m.partition (m.quadsOr []) m
        ++ [⟨(s.part m.partition).state != .free, Detail.state, none⟩]))) = none →
    Completes (.partitionCreate ch) s fun t =>
      OnlyChanges (.parts :: .sec :: replyParts) s t ∧ (t.part m.partition).state = .active ∧ (t.part m.partition).kind = m.kind
        ∧ (t.part m.partition).quads = m.quadsOr [] ∧ (t.part m.partition).ways = m.waysOver []
        ∧ (t.part m.partition).keyCount = s.sec.creationCount
        ∧ (t.part m.partition).key = some (s.memoryKey m.partition s.sec.creationCount)
        ∧ t.sec.creationCount = s.sec.creationCount + 1
        ∧ t.Replying ch Detail.none (toLe 4 (t.part m.partition).keyId ++ toLe 4 (t.part m.partition).keyCheck)
        ∧ ∀ p, p ≠ m.partition → t.part p = s.part p) ∧
  (∀ s ch m, s.Serving ch 0x31 m → (s.part m.partition).state = .active →
    Completes (.partitionDestroy ch) s fun t =>
      (t.part m.partition).state = .destroying ∧ ch ∈ (t.part m.partition).replyTo ∧ (t.chan ch).serve = .waiting) ∧
  (∀ s ch m, s.Serving ch 0x32 m → (s.part m.partition).state = .active → (s.part m.partition).tdi = .unlocked → m.relays = true →
    (s.layoutChecks m.partition (m.newLayout (s.part m.partition)).quads (m.newLayout (s.part m.partition)).ways m).all (fun c => !c.bad)
      = true →
    (s.part m.partition).sharesOutside (m.newLayout (s.part m.partition)).quads = false →
    m.has 0x04 = false → (s.rangeCheck m.partition ((s.part m.partition).queueFirst, (s.part m.partition).queueCount)).bad = false →
    s.removalBlocked m.partition (m.newLayout (s.part m.partition)) = false →
    s.queueOutside m.partition ((s.part m.partition).queueFirst, (s.part m.partition).queueCount) = false →
    Completes (.layoutChange ch) s fun t =>
      OnlyChanges (.parts :: replyParts) s t ∧ t.Replying ch Detail.none []
        ∧ t.part m.partition = { s.part m.partition with pendLayout := some (m.newLayout (s.part m.partition)) }
        ∧ ∀ p, p ≠ m.partition → t.part p = s.part p) ∧
  (∀ s ch m, s.Serving ch 0x33 m →
    m.refusal (inOrder ([s.partMissing m.partition, s.partNotActive m.partition]
      ++ s.paramChecks m.partition (s.part m.partition).kind m)) = none →
    Completes (.partitionSet ch) s fun t =>
      OnlyChanges (.parts :: replyParts) s t ∧ t.Replying ch Detail.none []
        ∧ (t.part m.partition).pendLimit = ((m.num? 0x05).orElse fun _ => (s.part m.partition).pendLimit)
        ∧ (t.part m.partition).pendAllow = ((m.num? 0x06).orElse fun _ => (s.part m.partition).pendAllow)
        ∧ (t.part m.partition).pendSlice = ((m.num? 0x07).orElse fun _ => (s.part m.partition).pendSlice)
        ∧ (t.part m.partition).promiseLimit = (s.part m.partition).promiseLimit
        ∧ (t.part m.partition).seqLimit = m.numOr 0x08 (s.part m.partition).seqLimit ∧ ∀ p, p ≠ m.partition → t.part p = s.part p) ∧
  (∀ s ch m k b, s.Serving ch 0x34 m → m.all 0x0B = [(k, b)] →
    m.refusal (inOrder ([s.partMissing m.partition, s.partNotActive m.partition]
      ++ s.regulatorChecks m.partition (s.part m.partition).lastingQuads m)) = none →
    Completes (.regulatorSet ch) s fun t =>
      OnlyChanges (.parts :: replyParts) s t ∧ t.Replying ch Detail.none []
        ∧ (t.part m.partition).regs.getD k {} = ((s.part m.partition).regs.getD k {}).request (regulatorOf b) s.admitted
        ∧ ∀ j, j ≠ k → (t.part m.partition).regs.getD j {} = (s.part m.partition).regs.getD j {})

/-- R140, R169, R213, R232, R262, R278, R280, R333, R342, R343, R413: commands on contexts, queues, inbound windows and power. -/
def Obligations.ContextAndQueueCommandsAreServed : Prop :=
  (∀ s ch m, s.Serving ch 0x35 m → m.refusal (inOrder (s.contextChecks m)) = none →
    Completes (.contextCreate ch) s fun t =>
      OnlyChanges (.ctxs :: replyParts) s t ∧ t.Replying ch Detail.none []
        ∧ t.ctx? (ctxKey m.partition m.context) = some m.newContext
        ∧ ∀ k, k ≠ ctxKey m.partition m.context → t.ctx? k = s.ctx? k) ∧
  (∀ s ch m c, s.Serving ch 0x36 m → (s.part m.partition).state = .active → s.ctx? (ctxKey m.partition m.context) = some c →
    ((s.queuesOf m.partition).any fun q => (s.queue q).attrs.context == m.context) = false → Tbl.Sorted s.ctxs →
    Completes (.contextDelete ch) s fun t =>
      t.Replying ch Detail.none [] ∧ t.ctx? (ctxKey m.partition m.context) = none
        ∧ ∀ e ∈ t.seqs, ¬(e.2.partition = c.partition ∧ e.2.context = c.index)) ∧
  (∀ s ch m c, s.Serving ch 0x37 m → s.ctx? (ctxKey m.partition m.context) = some c →
    m.refusal (inOrder ([s.partMissing m.partition, s.contextMissing m, s.partNotActive m.partition,
        ⟨m.outside 0x12 0 65535 || ((s.part m.partition).kind == 1 && m.numOr 0x12 1 != 1), Detail.range, some (0x12, 0)⟩]
      ++ s.windowChecks ((s.ctx? (ctxKey m.partition m.context)).any (·.fabric)) m)) = none →
    Completes (.contextSet ch) s fun t =>
      OnlyChanges (.ctxs :: replyParts) s t ∧ t.Replying ch Detail.none []
        ∧ t.ctx? (ctxKey m.partition m.context)
          = some { c with pendShare := (m.num? 0x12).orElse fun _ => c.pendShare, windows := m.windowsOver c.windows }) ∧
  (∀ s ch m, s.Serving ch 0x38 m → (s.part m.partition).mgmtStop = false →
    m.refusal (inOrder ([s.partMissing m.partition, s.partNotActive m.partition,
        ⟨m.queue < (s.part m.partition).queueFirst || (s.part m.partition).queueFirst + (s.part m.partition).queueCount ≤ m.queue,
          Detail.range, none⟩,
        ⟨(s.queue m.queue).state != .disabled, Detail.state, none⟩]
      ++ s.queueChecks m.partition m.queue (m.queueAttrs {}) m)) = none →
    Completes (.queueCreate ch) s fun t =>
      t.Replying ch Detail.none (toLe 1 (s.queue m.queue).epoch) ∧ (t.queue m.queue).state = .active
        ∧ (t.queue m.queue).partition = m.partition ∧ (t.queue m.queue).attrs = m.queueAttrs {}
        ∧ (t.queue m.queue).epoch = (s.queue m.queue).epoch ∧ (t.queue m.queue).retiredSeq = 0
        ∧ ∀ q, q ≠ m.queue → t.queue q = s.queue q) ∧
  (∀ s ch m, s.Serving ch 0x39 m → (s.part m.partition).state = .active → (s.queue m.queue).state ≠ .disabled →
    (s.queue m.queue).state ≠ .draining → (s.queue m.queue).partition = m.partition →
    (s.slots.any fun e => e.queue == m.queue) = false →
    Completes (.queueDelete ch) s fun t =>
      t.Replying ch Detail.none [] ∧ (t.queue m.queue).state = .disabled ∧ ∀ q, q ≠ m.queue → t.queue q = s.queue q) ∧
  (∀ s ch m, s.Serving ch 0x3D m → (s.part m.partition).state = .active → m.object < 1024 → s.inbound.get? m.object = none →
    allZero ((m.attr? 0x32 0).getD []) = false → (inWindow m.partition ((m.attr? 0x32 0).getD [])).folio = false →
    (s.inWindowChecks (inWindow m.partition ((m.attr? 0x32 0).getD [])) ((m.attr? 0x32 0).getD [])).all (fun c => !c.bad) = true →
    Tbl.Sorted s.inbound →
    Completes (.inboundWindowSet ch) s fun t =>
      OnlyChanges (.inbound :: replyParts) s t ∧ t.Replying ch Detail.none []
        ∧ t.inbound.get? m.object = some (inWindow m.partition ((m.attr? 0x32 0).getD []))
        ∧ ∀ k, k ≠ m.object → t.inbound.get? k = s.inbound.get? k) ∧
  (∀ s ch m v, s.Serving ch 0x3E m → m.num? 0x52 = some v → 400 ≤ v → v ≤ 1150 →
    Completes (.powerCapSet ch) s fun t =>
      OnlyChanges (.power :: replyParts) s t ∧ t.Replying ch Detail.none []
        ∧ t.power = { s.power with pendCap := some v }) ∧
  (∀ s ch m, s.Serving ch 0x3F m → m.object < 256 →
    (s.mail.chans.any fun e => e.2.state != .idle && 8 ≤ e.1 && s.mail.groups.getLsbD (e.1 / 8) && !bitAt m.object (e.1 / 8)) = false →
    Completes (.mbGroupPower ch) s fun t =>
      OnlyChanges replyParts s t ∧ t.mail.groups = BitVec.ofNat 8 m.object ||| 1
        ∧ t.Replying ch Detail.none (toLe 1 (BitVec.ofNat 8 m.object ||| 1).toNat))

/-- R235 to R239, R258, R259, R344, R452, R470: a grant asks the extent manager and takes effect with its answer, rights are added, and a
revocation raises its fence. -/
def Obligations.ExtentCommandsAreServed : Prop :=
  (∀ s ch m, s.Serving ch 0x3A m → m.refusal (s.grantChecks m) = none →
    Completes (.extentGrant ch) s fun t =>
      OnlyChanges [.mail, .out] s t ∧ (t.chan ch).serve = .waiting ∧ (t.chan ch).checkAt = some s.time.now
        ∧ t.out = .extentCheck (le ((m.attr? 0x30 0).getD []) 40 8) (le ((m.attr? 0x30 0).getD []) 0 8)
            (le ((m.attr? 0x30 0).getD []) 8 4) :: s.out) ∧
  (∀ s ch m a g i, s.live = true → (s.chan ch).serve = .waiting → (s.chan ch).message = some m → (s.chan ch).checkAt = some a →
    s.time.now ≤ a + 1000000 → m.refusal (s.grantChecks m) = none → s.freeExtent = some i →
    Completes (.extentCheckAnswer ch true g) s fun t =>
      OnlyChanges (.extents :: replyParts) s t ∧ t.Replying ch Detail.none (toLe 2 i)
        ∧ t.extents.get? i = some (extentOf ((m.attr? 0x30 0).getD []) (g % 8))
        ∧ ∀ k, k ≠ i → t.extents.get? k = s.extents.get? k) ∧
  (∀ s ch m a g, s.live = true → (s.chan ch).serve = .waiting → (s.chan ch).message = some m → (s.chan ch).checkAt = some a →
    Completes (.extentCheckAnswer ch false g) s fun t => OnlyChanges replyParts s t ∧ t.Replying ch Detail.range []) ∧
  (∀ s ch m a, s.live = true → (s.chan ch).serve = .waiting → (s.chan ch).message = some m → (s.chan ch).checkAt = some a →
    a + 1000000 ≤ s.time.now →
    Completes (.extentCheckTimeout ch) s fun t => OnlyChanges replyParts s t ∧ t.Replying ch Detail.range []) ∧
  (∀ s ch m x, s.Serving ch 0x3B m → s.extents.get? m.object = some x → x.state = .granted →
    (x.withRights ((m.attr? 0x31 0).getD [])).mixesRights = false →
    s.freeHolder (x.withRights ((m.attr? 0x31 0).getD [])).holders = false →
    Completes (.extentRights ch) s fun t =>
      OnlyChanges (.extents :: replyParts) s t ∧ t.Replying ch Detail.none []
        ∧ t.extents.get? m.object = some (x.withRights ((m.attr? 0x31 0).getD []))) ∧
  (∀ s ch m x, s.Serving ch 0x3C m → m.partition = 0xFF → s.extents.get? m.object = some x → x.state = .granted →
    Completes (.extentRevoke ch) s fun t =>
      (t.chan ch).serve = .waiting
        ∧ (t.extents.get? m.object).map (fun y => (y.state, y.whole, y.replyTo, y.fenceCt)) = some (.fenced, true, [ch], s.ctNow)) ∧
  (∀ s ch m x, s.Serving ch 0x3C m → m.partition < 64 → (s.part m.partition).state ≠ .free → s.extents.get? m.object = some x →
    x.state = .granted → x.keepsKey (some m.partition) = true →
    Completes (.extentRevoke ch) s fun t => OnlyChanges replyParts s t ∧ t.Replying ch Detail.state []) ∧
  (∀ s g k x, s.live = true → s.extents.get? k = some x → x.state = .granted →
    ((s.extents.filter fun e => e.2.grant == g && !e.2.keepsKey none).map (·.1)) = [k] →
    Completes (.extentRevokeReq g none) s fun t =>
      (t.extents.get? k).map (fun y => (y.state, y.whole, y.replyTo)) = some (.fenced, true, [])) ∧
  (∀ s n, s.live = true → s.boot.stage.code ≤ 4 →
    Completes (.nearTierReport n) s fun t => t = { s with boot := { s.boot with nearTierBytes := n } })

/-- R101, R119, R120, R240 to R242, R257, R260, R343: the registration of graphs and folios. -/
def Obligations.GraphsAndFoliosAreRegistered : Prop :=
  (∀ s ch m image clean i, s.Serving ch 0x50 m → (s.part m.partition).state ≠ .free →
    s.imageAddrBad m.partition (m.numOr 0x40 0) (imageBytesOf image) = false → s.freeGraph = some i →
    Completes (.graphRegister ch image clean) s fun t =>
      match s.checked image clean with
      | .ok g => OnlyChanges (.graphs :: replyParts) s t
          ∧ t.graphs.get? i = some
              { owner := m.partition, generation := ((s.graphs.get? i).map (·.generation)).getD 0, registered := true, current := 1
                versions := [{ number := 1, image := g, address := m.numOr 0x40 0 }] }
          ∧ t.Replying ch Detail.none
              (toLe 8 (mkGraphHandle i m.partition (((s.graphs.get? i).map (·.generation)).getD 0)) ++ toLe 4 1)
      | .error n => OnlyChanges replyParts s t ∧ t.Replying ch Detail.image (toLe 4 n)) ∧
  (∀ s ch m image clean i x, s.Serving ch 0x51 m → s.graphOf m.object = some (i, x) →
    s.imageAddrBad x.owner (m.numOr 0x40 0) (imageBytesOf image) = false → x.versions.length < 4 →
    Completes (.graphPatch ch image clean) s fun t =>
      match s.checked image clean with
      | .ok g => OnlyChanges (.graphs :: replyParts) s t ∧ t.graphs.get? i = some (x.patch g (m.numOr 0x40 0))
          ∧ t.Replying ch Detail.none (toLe 4 (x.current + 1))
      | .error n => OnlyChanges replyParts s t ∧ t.Replying ch Detail.image (toLe 4 n)) ∧
  (∀ s ch m i x, s.Serving ch 0x52 m → s.graphOf m.object = some (i, x) →
    Completes (.graphUnregister ch) s fun t =>
      OnlyChanges (.graphs :: replyParts) s t ∧ t.Replying ch Detail.none []
        ∧ (t.graphs.get? i).map (·.registered) = some false ∧ ∀ k, k ≠ i → t.graphs.get? k = s.graphs.get? k) ∧
  (∀ s ch m i, s.Serving ch 0x53 m → (s.part m.partition).state ≠ .free →
    lengthBad (le ((m.attr? 0x42 0).getD []) 0 8) = false → s.folioNamed ((m.attr? 0x41 0).getD []) = none → s.freeFolio = some i →
    Completes (.folioRegister ch) s fun t =>
      OnlyChanges (.folios :: replyParts) s t
        ∧ (t.folios.get? i).map (fun f => (f.registered, f.owner, f.name, f.length, f.current))
          = some (true, m.partition, (m.attr? 0x41 0).getD [], le ((m.attr? 0x42 0).getD []) 0 8, 0)
        ∧ t.Replying ch Detail.none
            (toLe 8 (mkFolioHandle i m.partition (((s.folios.get? i).map (·.generation)).getD 0)))) ∧
  (∀ s ch m i f, s.Serving ch 0x54 m → s.namedFolio m.object = some (i, f) →
    (defReaders ((m.attr? 0x42 0).getD [])).getLsbD f.owner = true → (defPublishers ((m.attr? 0x42 0).getD [])).getLsbD f.owner = true →
    Completes (.folioSet ch) s fun t =>
      t.Replying ch Detail.none []
        ∧ (t.folios.get? i).map (fun g => (g.readers, g.publishers))
          = some (defReaders ((m.attr? 0x42 0).getD []), defPublishers ((m.attr? 0x42 0).getD []))) ∧
  (∀ s ch m i f, s.Serving ch 0x55 m → (s.part m.partition).state ≠ .free →
    s.folioNamed ((m.attr? 0x41 0).getD []) = some (i, f) → f.readers.getLsbD m.partition = true →
    Completes (.folioLookup ch) s fun t =>
      OnlyChanges replyParts s t
        ∧ t.Replying ch Detail.none (toLe 8 (mkFolioHandle i f.owner f.generation) ++ toLe 8 f.length ++ toLe 4 f.current)) ∧
  (∀ s ch m i f, s.Serving ch 0x56 m → s.namedFolio m.object = some (i, f) →
    Completes (.folioUnregister ch) s fun t =>
      t.Replying ch Detail.none [] ∧ (t.folios.get? i).map (·.registered) = some false
        ∧ ∀ k, k ≠ i → t.folios.get? k = s.folios.get? k)

/-- R343, R346, R418, R427 to R430, R435, R436: the commands that read telemetry, snapshots and power, and firmware's own sample. A
write of SC_RB_INDEX starts a capture, and its end shows the item, or why it has none. -/
def Obligations.TelemetryAndItemsAreRead : Prop :=
  (∀ s ch m, s.Serving ch 0x60 m → m.capZero = false → m.partition = 0xFF →
    s.replyFits ch (s.telemetryBody 0xFF true).length = true →
    Completes (.telemetryRead ch) s fun t => OnlyChanges replyParts s t ∧ t.Replying ch Detail.none (s.telemetryBody 0xFF true)) ∧
  (∀ s ch m, s.Serving ch 0x60 m → m.capZero = false → m.partition = 0xFF →
    s.replyFits ch (s.telemetryBody 0xFF true).length = false →
    Completes (.telemetryRead ch) s fun t =>
      OnlyChanges replyParts s t ∧ t.Replying ch Detail.limit []
        ∧ (t.chan ch).header.neededBytes = 64 + (s.telemetryBody 0xFF true).length) ∧
  (∀ s ch m x, s.Serving ch 0x61 m → m.capZero = false → m.partition = 0xFF → m.numOr 0x53 0 % 4096 = 0 → s.snapshotExtent m = some x →
    Completes (.snapshot ch) s fun t =>
      OnlyChanges (.free :: replyParts) s t
        ∧ ∃ b, Out.snapshot (m.numOr 0x53 0) b ∈ t.out ∧ t.Replying ch Detail.none (toLe 8 b.length)) ∧
  (∀ s ch m, s.Serving ch 0x62 m → s.replyFits ch 1312 = true →
    Completes (.powerRead ch) s fun t => OnlyChanges replyParts s t ∧ t.Replying ch Detail.none s.powerBody) ∧
  (∀ s, s.live = true → s.boot.mailboxOn = true → s.mail.sample.takenNs + s.sampleEvery ≤ s.time.now →
    Completes .firmwareTelemetrySample s fun t =>
      t = { s with mail := { s.mail with sample := s.takeSample }, out := .telemetryStored s.ctNow :: s.out }) ∧
  (∀ s tee l v, s.live = true → (s.lane l).state ≠ 1 →
    Completes (.scRbIndex (.host tee) l v) s fun t =>
      OnlyChanges [.lanes] s t ∧ (t.lane l).state = 1 ∧ (t.lane l).cls = v.toNat % 256
        ∧ (t.lane l).item = v.toNat / 65536 % 2 ^ 32 ∧ (t.lane l).serial = ((s.lane l).serial + 1) % 256
        ∧ (t.lane l).origin = some (.host tee) ∧ ∀ k, k ≠ l → t.lane k = s.lane k) ∧
  (∀ s tee l v, s.live = true → (s.lane l).state = 1 → Completes (.scRbIndex (.host tee) l v) s fun t => t = s) ∧
  (∀ s tee l o, s.live = true → (s.lane l).state = 1 → (s.lane l).origin = some o →
    Completes (.captureDone (.host tee) l) s fun t =>
      OnlyChanges [.lanes, .free] s t ∧ (t.lane l).state = 2 ∧ (t.lane l).ct = s.ctNow
        ∧ (t.lane l).result = (s.capture (.req o) (s.lane l).cls (s.lane l).item).1
        ∧ (t.lane l).data = (s.capture (.req o) (s.lane l).cls (s.lane l).item).2.take 2048 ∧ ∀ k, k ≠ l → t.lane k = s.lane k)

/-- R308, R319, R321 to R323, R326: a class A alarm stops the block and takes its keys, class B alarms strike the partitions of their
cluster and the third in a second counts as class A, and the keys of a struck partition are renewed. -/
def Obligations.AlarmsTakeTheKeys : Prop :=
  (∀ s n, s.boot.outOfReset = true → s.boot.stopped ≠ .classA → 200 ≤ n →
    Completes (.scTamperN n) s fun t =>
      OnlyChanges [.pins, .out, .parts, .sec, .boot] s t ∧ t.boot = { s.boot with stopped := .classA } ∧ t.pins.tamper = true
        ∧ t.sec.capKey = none ∧ t.sec.deviceKey = none ∧ t.sec.aliasKey = none ∧ t.sec.sessions = []
        ∧ t.sec.retiring = s.fuses.activeSlot ∧ ∀ p, (t.part p).key = none ∧ (t.part p).identity = none) ∧
  (∀ s n, s.boot.outOfReset = true → s.boot.stopped ≠ .classA → n < 200 →
    Completes (.scTamperN n) s fun t => t = { s with pins := { s.pins with glitches := min (s.pins.glitches + 1) 0xFFFF } }) ∧
  (∀ s, s.boot.outOfReset = true → s.boot.stopped ≠ .classA → s.fuses.debugLocked = true →
    Completes .debugUnlockAttempt s fun t => t.boot.stopped = .classA ∧ t.sec.capKey = none ∧ t.sec.debugEnabled = s.sec.debugEnabled) ∧
  (∀ s, s.boot.outOfReset = true → s.boot.stopped ≠ .classA → s.fuses.debugLocked = false →
    Completes .debugUnlockAttempt s fun t => t = { s with sec := { s.sec with debugEnabled := true, unlockSeen := true } }) ∧
  (∀ s, s.boot.outOfReset = true → s.boot.stopped ≠ .classA →
    Completes .thimbleDomainGlitch s fun t =>
      OnlyChanges [.out, .parts, .sec, .boot] s t ∧ t.boot.stopped = .classA
        ∧ t.out = .faultReport "CLASS_A" (s.fuses.activeSlot.getD 16) :: s.out) ∧
  (∀ s d u p, s.live = true → (s.sec.classBAt.filter fun t => s.time.now ≤ t + 1000000000).length < 2 → s.struck d u = [p] →
    (s.part p).state = .active →
    Completes (.classBGlitch d u) s fun t =>
      t.sec.classB = min (s.sec.classB + 1) 0xFF ∧ (t.part p).key = none ∧ (t.part p).keyGone = true
        ∧ (t.part p).state = .resetting ∧ t.boot.stopped = .no) ∧
  (∀ s d u, s.live = true → 2 ≤ (s.sec.classBAt.filter fun t => s.time.now ≤ t + 1000000000).length →
    Completes (.classBGlitch d u) s fun t => t.boot.stopped = .classA ∧ ∀ p, (t.part p).key = none) ∧
  (∀ s n, s.sec.retiring = some n → s.live = false →
    Completes .retireFuseBlown s fun t =>
      t = { s with fuses := { s.fuses with retired := s.fuses.retired ||| BitVec.ofNat 16 (2 ^ n) }
                   sec := { s.sec with retiring := none, retireReply := none } }) ∧
  (∀ s n ch, s.sec.retiring = some n → s.live = true → s.sec.retireReply = some ch →
    Completes .retireFuseBlown s fun t =>
      OnlyChanges (.fuses :: .sec :: replyParts) s t
        ∧ t.fuses = { s.fuses with retired := s.fuses.retired ||| BitVec.ofNat 16 (2 ^ n) } ∧ t.sec.retiring = none
        ∧ t.Replying ch Detail.none (toLe 1 (t.fuses.activeSlot.getD 0xFF))) ∧
  (∀ s p, s.live = true → (s.part p).state = .resetting → (s.part p).keyGone = true → (s.part p).key = none →
    Completes (.partitionKeyRenewed p) s fun t =>
      OnlyChanges [.parts, .sec] s t ∧ (t.part p).key = some (s.memoryKey p s.sec.creationCount)
        ∧ (t.part p).keyCount = s.sec.creationCount ∧ t.sec.creationCount = s.sec.creationCount + 1
        ∧ ∀ q, q ≠ p → t.part q = s.part q) ∧
  (∀ s p, s.live = true → (s.part p).identity.isSome = true →
    Completes (.partitionCertificateIssued p) s fun t => t = s.modPart p fun u => { u with certIssued := true })

/-- R316 to R318: the order of a connection's messages, its certificates and its measurements. A request out of order is answered with
ERROR; the order itself is the model's reading of SPDM (log entry 30). -/
def Obligations.ConnectionsAreAnswered : Prop :=
  (∀ s n x, s.Talking n x → x.established = false →
    Completes (.getVersion n) s fun t =>
      OnlyChanges [.sec, .free, .out] s t ∧ t.Responds n "VERSION"
        ∧ t.sec.sessions.get? n = some { requester := x.requester, bound := x.bound, versioned := true }) ∧
  (∀ s n x, s.Talking n x → x.established = true → Completes (.getVersion n) s fun t => t = s.emit (.spdm n "ERROR" [])) ∧
  (∀ s n x, s.Talking n x → x.versioned = true → x.established = false →
    Completes (.getCapabilities n) s fun t =>
      OnlyChanges [.sec, .free, .out] s t ∧ t.Responds n "CAPABILITIES" ∧ t.sec.sessions.get? n = some { x with capable := true }) ∧
  (∀ s n x, s.Talking n x → x.capable = true → x.established = false →
    Completes (.negotiateAlgorithms n true) s fun t =>
      OnlyChanges [.sec, .free, .out] s t ∧ t.Responds n "ALGORITHMS" ∧ t.sec.sessions.get? n = some { x with negotiated := true }) ∧
  (∀ s n x, s.Talking n x → Completes (.negotiateAlgorithms n false) s fun t => t = s.emit (.spdm n "ERROR" [])) ∧
  (∀ s n x, s.Talking n x → x.negotiated = true →
    Completes (.getDigests n) s fun t =>
      t = s.emit (.spdm n "DIGESTS" (([0, 1].filterMap (s.chain x.bound)).map fun c => bytesOf (Config.sha384 c)).flatten)) ∧
  (∀ s n x slot c len, s.Talking n x → x.negotiated = true → s.chain x.bound slot = some c →
    Completes (.getCertificate n slot 0 len) s fun t => t = s.emit (.spdm n "CERTIFICATE" (c.take len))) ∧
  (∀ s n x slot off len, s.Talking n x → x.negotiated = true → s.chain x.bound slot = none →
    Completes (.getCertificate n slot off len) s fun t => t = s.emit (.spdm n "ERROR" [])) ∧
  (∀ s n x slot c k nonce, s.Talking n x → x.negotiated = true → s.chain x.bound slot = some c → s.slotKey x.bound slot = some k →
    Completes (.challenge n slot nonce) s fun t =>
      t = s.emit (.spdm n "CHALLENGE_AUTH" (signed k (bytesOf (Config.sha384 c)) nonce))) ∧
  (∀ s n x i slot b nonce, s.Talking n x → x.negotiated = true → s.measured x.bound nonce i = some b →
    Completes (.getMeasurements n i slot false nonce) s fun t => t = s.emit (.spdm n "MEASUREMENTS" b)) ∧
  (∀ s n x i slot b c k nonce, s.Talking n x → x.negotiated = true → s.measured x.bound nonce i = some b →
    s.chain x.bound slot = some c → s.slotKey x.bound slot = some k →
    Completes (.getMeasurements n i slot true nonce) s fun t => t = s.emit (.spdm n "MEASUREMENTS" (signed k b nonce))) ∧
  (∀ s n x h c, s.Talking n x → x.capable = true →
    Completes (.chunkSend n h 0 c false) s fun t =>
      OnlyChanges [.sec, .free, .out] s t ∧ t.Responds n "CHUNK_SEND_ACK"
        ∧ t.sec.sessions.get? n = some { x with chunks := c, chunkNext := 1 }) ∧
  (∀ s n x h i, s.Talking n x → x.large ≠ [] → 4096 * i < x.large.length →
    Completes (.chunkGet n h i) s fun t =>
      OnlyChanges [.sec, .out] s t ∧ t.out = .spdm n "CHUNK_RESPONSE" ((x.large.drop (4096 * i)).take 4096) :: s.out
        ∧ t.sec.sessions.get? n = some { x with large := if x.large.length ≤ 4096 * (i + 1) then [] else x.large })

/-- R295, R304, R316, R326: a session is exchanged, established and ended; the first with mutual authentication claims an unclaimed
block, and the loss of the session that locked a TDI is an error of the TDI. -/
def Obligations.SessionsAreMadeAndLost : Prop :=
  (∀ s n x r b m, s.Talking n x → x.negotiated = true → x.exchanged = false → s.sec.openSessions < 72 →
    (b.all fun p => (s.part p).state != .free) = true →
    Completes (.keyExchange n r b m) s fun t =>
      OnlyChanges [.sec, .free, .out] s t ∧ t.Responds n "KEY_EXCHANGE_RSP"
        ∧ t.sec.sessions.get? n = some { x with requester := identOf r, bound := b, mutAuth := m, exchanged := true }) ∧
  (∀ s n x r b m, s.Talking n x → 72 ≤ s.sec.openSessions →
    Completes (.keyExchange n r b m) s fun t => t = s.emit (.spdm n "ERROR" [])) ∧
  (∀ s n x d, s.Talking n x → x.exchanged = true → x.established = false → x.mutAuth = true → s.fuses.ownerBanks = [] →
    Completes (.finish n true (some d)) s fun t =>
      OnlyChanges [.sec, .free, .out, .fuses] s t ∧ t.Responds n "FINISH_RSP"
        ∧ t.sec.sessions.get? n = some { x with established := true } ∧ t.fuses = { s.fuses with ownerBanks := [d] }) ∧
  (∀ s n x d, s.Talking n x → x.exchanged = true → x.established = false → s.fuses.ownerBanks ≠ [] →
    Completes (.finish n true d) s fun t =>
      OnlyChanges [.sec, .free, .out] s t ∧ t.Responds n "FINISH_RSP"
        ∧ t.sec.sessions.get? n = some { x with established := true }) ∧
  (∀ s n x, s.Talking n x → x.established = true → Completes (.heartbeat n) s fun t => t = s.emit (.spdm n "HEARTBEAT_ACK" [])) ∧
  (∀ s n x, s.Talking n x → x.established = true →
    Completes (.keyUpdate n) s fun t =>
      OnlyChanges [.sec, .out] s t ∧ t.out = .spdm n "KEY_UPDATE_ACK" [] :: s.out
        ∧ t.sec.sessions.get? n = some { x with keyUpdates := x.keyUpdates + 1 }) ∧
  (∀ s n x, s.Talking n x → x.established = true → (s.parts.any fun e => e.2.tdiSession == some n) = false →
    Completes (.endSession n) s fun t =>
      OnlyChanges [.sec, .out] s t ∧ t.out = .spdm n "END_SESSION_ACK" [] :: s.out
        ∧ t.sec = { s.sec with sessions := s.sec.sessions.del n }) ∧
  (∀ s n x p u, s.live = true → s.sec.sessions.get? n = some x → s.parts.get? p = some u → u.tdiSession = some n →
    (u.tdi = .locked ∨ u.tdi = .run) →
    Completes (.spdmSessionLoss n) s fun t =>
      (t.part p).tdi = .error ∧ (t.part p).mgmtStop = true ∧ t.sec.sessions = s.sec.sessions.del n)

/-- R294 to R296: the device interface of a partition is locked, started, reported and stopped in a session that is bound to it. -/
def Obligations.DeviceInterfacesAreManaged : Prop :=
  (∀ s n p x, s.TalkingTdi n p x →
    Completes (.getTdispVersion n p) s fun t =>
      OnlyChanges [.sec, .free, .out] s t ∧ t.Responds n "TDISP_VERSION" ∧ t.sec.sessions.get? n = some { x with bound := some p }) ∧
  (∀ s n p x, s.TalkingTdi n p x →
    Completes (.getTdispCapabilities n p) s fun t =>
      OnlyChanges [.sec, .free, .out] s t ∧ t.Responds n "TDISP_CAPABILITIES"
        ∧ t.sec.sessions.get? n = some { x with bound := some p }) ∧
  (∀ s n p x, s.TalkingTdi n p x → (s.part p).tdi = .unlocked → (s.part p).state = .active → (s.part p).certIssued = true →
    (s.part p).pendLayout = none →
    Completes (.lockInterfaceRequest n p) s fun t =>
      t.Responds n "LOCK_INTERFACE_RESPONSE" ∧ (t.part p).tdi = .locked ∧ (t.part p).tdiSession = some n
        ∧ (t.part p).mgmtStop = true ∧ ∀ q, q ≠ p → t.part q = s.part q) ∧
  (∀ s n p x, s.TalkingTdi n p x → (s.part p).tdi ≠ .unlocked →
    Completes (.lockInterfaceRequest n p) s fun t =>
      OnlyChanges [.sec, .out] s t ∧ t.out = .spdm n "TDISP_ERROR" [] :: s.out) ∧
  (∀ s n p x, s.TalkingTdi n p x →
    Completes (.getDeviceInterfaceReport n p) s fun t =>
      OnlyChanges [.sec, .out] s t ∧ t.out = .spdm n "DEVICE_INTERFACE_REPORT" (s.interfaceReport p) :: s.out) ∧
  (∀ s n p x, s.TalkingTdi n p x →
    Completes (.getDeviceInterfaceState n p) s fun t =>
      OnlyChanges [.sec, .out] s t ∧ t.out = .spdm n "DEVICE_INTERFACE_STATE" (toLe 1 (s.part p).tdi.code) :: s.out) ∧
  (∀ s n p x, s.TalkingTdi n p x → (s.part p).tdi = .locked → (s.part p).tdiSession = some n →
    Completes (.startInterfaceRequest n p) s fun t =>
      t.Responds n "START_INTERFACE_RESPONSE" ∧ (t.part p).tdi = .run ∧ (t.part p).mgmtStop = false
        ∧ ∀ q, q ≠ p → t.part q = s.part q) ∧
  (∀ s n p x, s.TalkingTdi n p x → (s.part p).tdi = .run → (s.part p).state = .active →
    Completes (.stopInterfaceRequest n p) s fun t =>
      t.Responds n "STOP_INTERFACE_RESPONSE" ∧ (t.part p).ideKey = none ∧ (t.part p).stopWanted = true
        ∧ (t.part p).state = .resetting) ∧
  (∀ s n p x k, s.TalkingTdi n p x →
    Completes (.ideKmKeyProg n p k) s fun t =>
      OnlyChanges [.sec, .parts, .free, .out] s t ∧ t.Responds n "KP_ACK" ∧ t.part p = { s.part p with ideKey := some k }
        ∧ ∀ q, q ≠ p → t.part q = s.part q)

/-- R309, R313, R314, R457, R462, R463, R465 to R467: the boot stages from the assertion of SC_RESET_N to READY, and how each of them
fails. -/
def Obligations.StartUpGoesThroughItsStages : Prop :=
  (∀ s n, s.boot.outOfReset = true → 100 ≤ n →
    Completes (.scResetNAssert n) s fun t =>
      t = { State.reset with pending := s.pending, free := s.free, out := s.out, fuses := s.fusesDone, time := { now := s.time.now } }) ∧
  (∀ s n, s.live = true → n < 100 →
    Completes (.scResetNAssert n) s fun t => t = { s with pins := { s.pins with glitches := min (s.pins.glitches + 1) 0xFFFF } }) ∧
  (∀ s n, s.boot.outOfReset = false → 100 ≤ n →
    Completes (.scResetNDeassert n true false) s fun t =>
      OnlyChanges [.boot, .pins, .power, .out] s t ∧ t.boot.outOfReset = true ∧ t.boot.stage = .rom ∧ t.boot.startNs = s.time.now
        ∧ t.pins.coolantOk = true ∧ t.out = .bootReport 1 0 s.boot.fwVersion :: s.out) ∧
  (∀ s n, s.boot.outOfReset = false → s.boot.stopped = .no → 100 ≤ n →
    Completes (.scResetNDeassert n false false) s fun t => t.boot.outOfReset = true ∧ t.boot.stopped = .coolant) ∧
  (∀ s k, s.live = true → s.boot.stage = .rom → s.fuses.activeSlot = some k →
    Completes (.romDone true) s fun t =>
      OnlyChanges [.boot, .out] s t ∧ t.boot = { s.boot with stage := .keys, reason := 0 }
        ∧ t.out = .bootReport 2 0 s.boot.fwVersion :: s.out) ∧
  (∀ s, s.live = true → s.boot.stage = .rom → s.fuses.activeSlot = none →
    Completes (.romDone true) s fun t => OnlyChanges [.boot, .out] s t ∧ t.boot = { s.boot with stage := .failed, reason := 1 }) ∧
  (∀ s, s.live = true → s.boot.stage = .rom →
    Completes (.romDone false) s fun t => OnlyChanges [.boot, .out] s t ∧ t.boot = { s.boot with stage := .failed, reason := 3 }) ∧
  (∀ s, s.live = true → s.boot.stage = .keys →
    Completes (.keysDone true) s fun t =>
      OnlyChanges [.boot, .out, .sec, .free] s t ∧ t.boot.stage = .image ∧ t.boot.bootReadAt = some s.time.now
        ∧ t.sec.keysDerived = true ∧ t.sec.creationCount = 1 ∧ t.sec.bootNonce = Config.entropy s.free ∧ t.free = s.free + 1
        ∧ t.out.head? = some (.bootRead s.boot.image.length 65536)) ∧
  (∀ s b, s.live = true → s.boot.stage = .image → s.boot.bootReadAt.isSome = true →
    imageWanted (s.boot.image ++ b) ≤ (s.boot.image ++ b).length →
    Completes (.bootData (some b)) s fun t =>
      t = { s with boot := { s.boot with image := s.boot.image ++ b, bootReadAt := none } }) ∧
  (∀ s, s.live = true → s.boot.stage = .image → s.boot.bootReadAt.isSome = true →
    Completes (.bootData none) s fun t =>
      OnlyChanges [.boot, .out] s t ∧ t.boot = { s.boot with stage := .failed, reason := 2, bootReadAt := none }
        ∧ t.out.head? = some (.faultReport "IMAGE_REFUSED" 0)) ∧
  (∀ s a, s.live = true → s.boot.stage = .image → s.boot.bootReadAt = some a → a + 10000000 ≤ s.time.now →
    Completes .bootReadTimeout s fun t =>
      OnlyChanges [.boot, .out] s t ∧ t.boot = { s.boot with stage := .failed, reason := 2, bootReadAt := none }) ∧
  (∀ s ag, s.live = true → s.boot.stage = .image → s.boot.bootReadAt = none →
    Completes (.imageChecked ag) s fun t =>
      if s.imageOk s.boot.image = true then
        OnlyChanges [.boot, .sec, .cores, .out] s t ∧ t.boot.stage = .training ∧ t.boot.doeOn = true ∧ t.boot.fwVerified = true
          ∧ t.boot.fwSvn = le s.boot.image 16 1 ∧ t.boot.signer = le s.boot.image 17 1 ∧ t.boot.fwVersion = le s.boot.image 12 4
          ∧ t.boot.microcodeRev = le s.boot.image 44 4 ∧ t.boot.trainingNs = s.time.now
      else OnlyChanges [.boot, .out] s t ∧ t.boot.stage = .failed ∧ t.boot.reason = 2 ∧ t.boot.doeOn = s.boot.doeOn) ∧
  (∀ s port, s.live = true → s.boot.stage = .training → port < s.nPorts → s.boot.mpFailed.getLsbD port = false →
    Completes (.memoryPortReady port) s fun t =>
      t = { s with boot := { s.boot with mpReady := s.boot.mpReady ||| BitVec.ofNat 32 (2 ^ port) } }) ∧
  (∀ s port, s.live = true → s.boot.stage = .training → port < s.nPorts → s.boot.mpReady.getLsbD port = false →
    s.boot.mpFailed.getLsbD port = false → s.boot.trainingNs + 200000000 ≤ s.time.now →
    Completes (.memoryPortTimeout port) s fun t =>
      t.boot.mpFailed = s.boot.mpFailed ||| BitVec.ofNat 32 (2 ^ port) ∧ (t.cluster (port / 2)).quarantined = true) ∧
  (∀ s, s.live = true → s.boot.stage = .training → s.portsSettled = true → s.fuses.full = false →
    Completes (.trainingDone []) s fun t =>
      OnlyChanges [.boot, .time, .out] s t ∧ t.boot.stage = .time ∧ t.boot.timeNs = s.time.now ∧ t.time = { s.time with released := true }
        ∧ t.boot.scrubF = scrubInterval (s.boot.nearTierBytes / s.nPorts)) ∧
  (∀ s a b v w, s.live = true → s.boot.stage = .training → s.portsSettled = true → s.fuses.full = true → a.bundle = 0 → b.bundle = 1 →
    trainedWidth a.goodLanes s.bridge.widthReq = some v → trainedWidth b.goodLanes s.bridge.widthReq = some w →
    Completes (.trainingDone [a, b]) s fun t =>
      OnlyChanges [.boot, .time, .bridge, .out] s t ∧ t.boot.stage = .time ∧ t.boot.bridgeTrained = true ∧ t.bridge.width01 = v
        ∧ t.bridge.width10 = w ∧ t.bridge.good01 = a.goodLanes ∧ t.bridge.good10 = b.goodLanes ∧ t.time.released = true) ∧
  (∀ s a b, s.live = true → s.boot.stage = .training → s.portsSettled = true → s.fuses.full = true → a.bundle = 0 → b.bundle = 1 →
    a.goodLanes < 256 →
    Completes (.trainingDone [a, b]) s fun t =>
      OnlyChanges [.boot, .out] s t ∧ t.boot = { s.boot with stage := .failed, reason := 4 }) ∧
  (∀ s, s.live = true → s.boot.stage = .time → s.boot.timeNs + 100000000 ≤ s.time.now →
    Completes .timeLimitExpiry s fun t =>
      OnlyChanges [.boot, .out] s t ∧ t.boot.stage = .ready ∧ t.boot.timeExpired = true ∧ t.boot.mailboxOn = true
        ∧ t.boot.readyNs = s.time.now - s.boot.startNs)

/-- R408, R409, R414 to R416, R457: the hard cap, thermal control, the loss of coolant, droops, and inputs that are shorter than their
filter. -/
def Obligations.PowerAndHeatAreControlled : Prop :=
  (∀ s n, s.live = true → 100 ≤ n → s.pins.hardCap = false →
    Completes (.scHardCapAssert n) s fun t =>
      OnlyChanges [.pins, .power, .ic] s t ∧ t.pins.hardCap = true ∧ t.power.hardCap = true
        ∧ t.power.hardEvents = s.power.hardEvents + 1 ∧ (t.ic.src 7).level = true) ∧
  (∀ s n, s.live = true → 100 ≤ n →
    Completes (.scHardCapDeassert n) s fun t =>
      OnlyChanges [.pins, .power, .ic] s t ∧ t.pins.hardCap = false ∧ t.power.hardCap = false
        ∧ t.power.hardEvents = s.power.hardEvents ∧ (t.ic.src 7).level = false) ∧
  (∀ s c e, s.live = true → s.time.ct % 1024 < 2 → c < s.nClusters → e < 920 →
    Completes (.thermalSample [⟨false, c, e⟩]) s fun t =>
      OnlyChanges [.clusters] s t ∧ (t.cluster c).celsius8 = e
        ∧ (t.cluster c).throttled = (decide (840 ≤ e) || ((s.cluster c).throttled && decide (800 ≤ e)))
        ∧ ∀ d, d ≠ c → t.cluster d = s.cluster d) ∧
  (∀ s c e, s.live = true → s.time.ct % 1024 < 2 → c < s.nClusters → 920 ≤ e →
    Completes (.thermalSample [⟨false, c, e⟩]) s fun t =>
      OnlyChanges [.clusters, .boot] s t ∧ t.boot = { s.boot with stopped := .coolant }) ∧
  (∀ s d e, s.live = true → s.time.ct % 1024 < 2 → d < s.nDies → e < 920 →
    Completes (.thermalSample [⟨true, d, e⟩]) s fun t =>
      t = { s with power := { s.power with baseTemp := s.power.baseTemp.put d e } }) ∧
  (∀ s n, s.live = true → 2000 ≤ n →
    Completes (.coolantStop n) s fun t =>
      t = { s with pins := { s.pins with coolantOk := false }, boot := { s.boot with stopped := .coolant } }) ∧
  (∀ s k, s.live = true → k < s.nCores → (s.core k).stretchAt ≠ some (s.time.ct / 1024) →
    Completes (.droopDetect k true) s fun t =>
      OnlyChanges [.cores] s t ∧ (∀ j, j ≠ k → t.core j = s.core j)
        ∧ t.core k = { s.core k with stretchExcess := min ((s.core k).stretchExcess + 1) 0xFFFFFFFF
                                     stretchAt := some (s.time.ct / 1024), excessSeen := true, binPending := true }) ∧
  (∀ s k, s.live = true → Completes (.droopDetect k false) s fun t => t = s) ∧
  (∀ s p w, s.live = true → w < filterTime p →
    Completes (.inputGlitch p w) s fun t => t = { s with pins := { s.pins with glitches := min (s.pins.glitches + 1) 0xFFFF } })

/-- R453 to R456, R458: replays, retrainings and widths of the die bridge. -/
def Obligations.TheBridgeIsRetrainedAndNarrowed : Prop :=
  (∀ s n k, s.live = true → s.fuses.full = true → s.boot.bridgeTrained = true → k ≤ 4 →
    Completes (.bridgeFlitReplay n k) s fun t =>
      OnlyChanges [.bridge] s t ∧ t.bridge.replays = min (s.bridge.replays + 1) 0xFFFF) ∧
  (∀ s k, s.live = true → s.fuses.full = true → s.boot.bridgeTrained = true → s.bridge.retraining01 = false →
    s.time.state ≠ .unlocked → k ≤ 4 → 15 ≤ (s.bridge.replayAt01.filter fun t => s.time.ct ≤ t + 1000000).length →
    Completes (.bridgeFlitReplay 0 k) s fun t => t.bridge.retraining01 = true ∧ t.bridge.replayAt01 = []) ∧
  (∀ s n k, s.live = true → s.fuses.full = true → s.boot.bridgeTrained = true → 4 < k → s.errs.fatal = false →
    Completes (.bridgeFlitReplay n k) s fun t => t.errs.fatal = true) ∧
  (∀ s, s.live = true → s.fuses.full = true → s.boot.bridgeTrained = true →
    Completes (.bridgeRetrainStart 0) s fun t =>
      t = { s with bridge := { s.bridge with retraining01 := true, replayAt01 := [] } }) ∧
  (∀ s a w, s.live = true → s.fuses.full = true → s.boot.bridgeTrained = true → a.bundle = 0 → s.bridge.retraining01 = true →
    trainedWidth a.goodLanes s.bridge.width01 = some w →
    Completes (.bridgeRetrainEnd a) s fun t =>
      OnlyChanges [.bridge, .ic] s t ∧ t.bridge.retraining01 = false ∧ t.bridge.width01 = w ∧ t.bridge.good01 = a.goodLanes
        ∧ t.bridge.retrains = min (s.bridge.retrains + 1) 0xFFFF ∧ t.bridge.width10 = s.bridge.width10) ∧
  (∀ s tee v, s.live = true → s.isMgmt (.host tee) = true → s.fuses.full = true → v.getLsbD 2 = false → v.toNat % 4 ≠ 3 →
    Completes (.widthReq (.host tee) v) s fun t =>
      OnlyChanges [.bridge] s t ∧ t.bridge.widthReq = v.toNat % 4
        ∧ t.bridge.widthPending = (s.bridge.width01 != v.toNat % 4 || s.bridge.width10 != v.toNat % 4)
        ∧ t.bridge.width01 = s.bridge.width01 ∧ t.bridge.width10 = s.bridge.width10) ∧
  (∀ s tee v, s.live = true → s.isMgmt (.host tee) = false →
    Completes (.widthReq (.host tee) v) s fun t => t = { s with bad := s.bad.add 2 0x20608 }) ∧
  (∀ s tee v, s.live = true → s.isMgmt (.host tee) = true → s.fuses.full = true → s.boot.bridgeTrained = true → v.getLsbD 2 = true →
    Completes (.retrain (.host tee) v) s fun t =>
      OnlyChanges [.bridge] s t ∧ t.bridge.retraining01 = true ∧ t.bridge.retraining10 = true) ∧
  (∀ s, s.live = true → s.fuses.full = true → s.boot.bridgeTrained = true → s.bridge.widthPending = true →
    s.bridge.retraining01 = false → s.bridge.retraining10 = false → s.time.state ≠ .unlocked → 7936 ≤ s.time.ct % 8192 →
    (s.bridge.widthReq ≠ 2 ∨ s.bridgePromised = false) →
    Completes .bridgeWidthChange s fun t =>
      OnlyChanges [.bridge, .ic] s t ∧ t.bridge.width01 = widthFor s.bridge.good01 s.bridge.widthReq
        ∧ t.bridge.width10 = widthFor s.bridge.good10 s.bridge.widthReq ∧ t.bridge.widthPending = false) ∧
  (∀ s, s.live = true → s.fuses.full = true → s.boot.bridgeTrained = true → s.bridge.widthPending = true →
    s.bridge.retraining01 = false → s.bridge.retraining10 = false → s.time.state ≠ .unlocked → 7936 ≤ s.time.ct % 8192 →
    s.bridge.widthReq = 2 → s.bridgePromised = true →
    Completes .bridgeWidthChange s fun t =>
      OnlyChanges [.bridge] s t ∧ t.bridge.width01 = widthFor s.bridge.good01 1 ∧ t.bridge.widthPending = true)
end

