-- ==== Sys2Proof/Laws/Tables.lean ====
section
/-!
SUPPORT. Laws of the sparse tables: what a key holds after a change, and that every change keeps the keys in rising order; and
the same of the scratchpads' canonical form.
-/
namespace Sys2Proof.Machine

open Sys2Proof

variable {α : Type}

/-! ### Reading after a change -/

@[simp] theorem tbl_get_nil (k : Nat) : Tbl.get? ([] : Tbl α) k = none := rfl

@[simp] theorem tbl_get_put_same (t : Tbl α) (k : Nat) (a : α) : Tbl.get? (Tbl.put t k a) k = some a := by
  induction t with
  | nil => simp [Tbl.put, Tbl.get?]
  | cons e t ih =>
    obtain ⟨j, b⟩ := e
    simp only [Tbl.put]
    split
    · simp [Tbl.get?]
    · split
      · simp [Tbl.get?]
      · simp [Tbl.get?, *]

theorem tbl_get_put_ne (t : Tbl α) {k j : Nat} (a : α) (h : j ≠ k) : Tbl.get? (Tbl.put t k a) j = Tbl.get? t j := by
  induction t with
  | nil => simp [Tbl.put, Tbl.get?, h.symm]
  | cons e t ih =>
    obtain ⟨i, b⟩ := e
    simp only [Tbl.put]
    split
    · next e => subst e; simp [Tbl.get?, h.symm]
    · split
      · simp [Tbl.get?, h.symm]
      · simp [Tbl.get?, ih]

@[simp] theorem tbl_getD_put_same (t : Tbl α) (k : Nat) (a d : α) : Tbl.getD (Tbl.put t k a) k d = a := by
  simp [Tbl.getD]

theorem tbl_getD_put_ne (t : Tbl α) {k j : Nat} (a d : α) (h : j ≠ k) :
    Tbl.getD (Tbl.put t k a) j d = Tbl.getD t j d := by simp [Tbl.getD, tbl_get_put_ne t a h]

theorem tbl_get_del_ne (t : Tbl α) {k j : Nat} (h : j ≠ k) : Tbl.get? (Tbl.del t k) j = Tbl.get? t j := by
  induction t with
  | nil => rfl
  | cons e t ih =>
    obtain ⟨i, b⟩ := e
    simp only [Tbl.del]
    split
    · next e => subst e; simp [Tbl.get?, h.symm]
    · simp [Tbl.get?, ih]

theorem tbl_get_mapV (t : Tbl α) (f : Nat → α → α) (k : Nat) :
    Tbl.get? (Tbl.mapV t f) k = (Tbl.get? t k).map (f k) := by
  induction t with
  | nil => rfl
  | cons e t ih =>
    obtain ⟨i, b⟩ := e
    simp only [Tbl.mapV, List.map_cons, Tbl.get?] at ih ⊢
    split
    · next e => subst e; rfl
    · exact ih

/-! ### Keys in rising order -/

theorem tbl_mem_put {t : Tbl α} {k : Nat} {a : α} {e : Nat × α} (h : e ∈ Tbl.put t k a) : e = (k, a) ∨ e ∈ t := by
  induction t with
  | nil => simpa [Tbl.put] using h
  | cons x t ih =>
    obtain ⟨j, b⟩ := x
    simp only [Tbl.put] at h
    split at h
    · rcases List.mem_cons.1 h with h | h
      · exact .inl h
      · exact .inr (List.mem_cons_of_mem _ h)
    · split at h
      · exact List.mem_cons.1 h
      · rcases List.mem_cons.1 h with h | h
        · exact .inr (h ▸ List.mem_cons_self)
        · exact (ih h).imp_right (List.mem_cons_of_mem _)

theorem tbl_sub_del (t : Tbl α) (k : Nat) : (Tbl.del t k).Sublist t := by
  induction t with
  | nil => exact .slnil
  | cons x t ih =>
    obtain ⟨j, b⟩ := x
    simp only [Tbl.del]
    split
    · exact List.sublist_cons_self _ _
    · exact ih.cons_cons _

theorem tbl_mem_get {t : Tbl α} {k : Nat} {a : α} (h : Tbl.get? t k = some a) : (k, a) ∈ t := by
  induction t with
  | nil => cases h
  | cons x t ih =>
    obtain ⟨j, b⟩ := x
    simp only [Tbl.get?] at h
    split at h
    · next e => cases h; subst e; exact List.mem_cons_self
    · exact List.mem_cons_of_mem _ (ih h)

@[simp] theorem tbl_sorted_nil : Tbl.Sorted ([] : Tbl α) := List.Pairwise.nil

theorem tbl_sorted_put {t : Tbl α} (k : Nat) (a : α) (h : Tbl.Sorted t) : Tbl.Sorted (Tbl.put t k a) := by
  induction t with
  | nil => simp [Tbl.put, Tbl.Sorted]
  | cons x t ih =>
    obtain ⟨j, b⟩ := x
    obtain ⟨hj, ht⟩ := List.pairwise_cons.1 h
    simp only [Tbl.put]
    split
    · next e => subst e; exact List.pairwise_cons.2 ⟨hj, ht⟩
    · next ne =>
      split
      · next lt =>
        refine List.pairwise_cons.2 ⟨fun e he => ?_, h⟩
        rcases List.mem_cons.1 he with rfl | he
        · exact lt
        · exact Nat.lt_trans lt (hj e he)
      · next nlt =>
        refine List.pairwise_cons.2 ⟨fun e he => ?_, ih ht⟩
        rcases tbl_mem_put he with rfl | he
        · show j < k
          omega
        · exact hj e he

theorem tbl_sorted_del {t : Tbl α} (k : Nat) (h : Tbl.Sorted t) : Tbl.Sorted (Tbl.del t k) := h.sublist (tbl_sub_del t k)

theorem tbl_sorted_filter {t : Tbl α} (p : Nat × α → Bool) (h : Tbl.Sorted t) : Tbl.Sorted (List.filter p t) :=
  h.sublist List.filter_sublist

theorem tbl_sorted_mapV {t : Tbl α} (f : Nat → α → α) (h : Tbl.Sorted t) : Tbl.Sorted (Tbl.mapV t f) :=
  List.pairwise_map.2 h

/-! ### Scratchpads -/

/-- The canonical form as a proposition. -/
theorem memory_wf_iff (t : Tbl Byte) :
    Memory.wf t = true ↔ Tbl.Sorted t ∧ ∀ e ∈ t, e.1 < scratchBytes ∧ e.2 ≠ scratchUnlisted := by
  have chain : ∀ t : Tbl Byte, (t.zip t.tail).all (fun x => x.1.1 < x.2.1) = true ↔ Tbl.Sorted t := by
    intro t
    induction t with
    | nil => simp [Tbl.Sorted]
    | cons a t ih =>
      cases t with
      | nil => simp [Tbl.Sorted]
      | cons b t =>
        simp only [List.tail_cons, List.zip_cons_cons, List.all_cons, Bool.and_eq_true, decide_eq_true_eq] at ih ⊢
        rw [ih]
        constructor
        · rintro ⟨lt, h⟩
          refine List.pairwise_cons.2 ⟨fun e he => ?_, h⟩
          rcases List.mem_cons.1 he with rfl | he
          · exact lt
          · exact Nat.lt_trans lt ((List.pairwise_cons.1 h).1 e he)
        · intro h
          exact ⟨(List.pairwise_cons.1 h).1 b List.mem_cons_self, (List.pairwise_cons.1 h).2⟩
  simp only [Memory.wf, Bool.and_eq_true, chain, List.all_eq_true, decide_eq_true_eq, bne_iff_ne]

@[simp] theorem memory_wf_nil : Memory.wf [] = true := rfl

theorem memory_wf_write {t : Tbl Byte} (a : Nat) (b : Byte) (h : Memory.wf t = true) : Memory.wf (Memory.write t a b) = true := by
  obtain ⟨hs, hv⟩ := (memory_wf_iff t).1 h
  refine (memory_wf_iff _).2 ?_
  unfold Memory.write
  split
  · exact ⟨hs, hv⟩
  · next lt =>
    split
    · exact ⟨tbl_sorted_del a hs, fun e he => hv e ((tbl_sub_del t a).subset he)⟩
    · next nz =>
      refine ⟨tbl_sorted_put a b hs, fun e he => ?_⟩
      rcases tbl_mem_put he with rfl | he
      · exact ⟨Nat.lt_of_not_le lt, nz⟩
      · exact hv e he

theorem memory_wf_writes {t : Tbl Byte} (a : Nat) (bs : Bytes) (h : Memory.wf t = true) : Memory.wf (Memory.writes t a bs) = true := by
  induction bs generalizing t a with
  | nil => exact h
  | cons b bs ih => exact ih (a + 1) (memory_wf_write a b h)

theorem memory_read_write_same {t : Tbl Byte} (a : Nat) (b : Byte) (h : Memory.wf t = true) (lt : a < scratchBytes) :
    Memory.read (Memory.write t a b) a = b := by
  unfold Memory.write Memory.read
  split
  · omega
  · split
    · next z =>
      obtain ⟨hs, -⟩ := (memory_wf_iff t).1 h
      have : Tbl.get? (Tbl.del t a) a = none := by
        clear h
        induction t with
        | nil => rfl
        | cons x t ih =>
          obtain ⟨j, c⟩ := x
          obtain ⟨hj, ht⟩ := List.pairwise_cons.1 hs
          simp only [Tbl.del]
          split
          · next e =>
            cases g : Tbl.get? t a with
            | none => rfl
            | some v => exact absurd (hj _ (tbl_mem_get g)) (by simp [e])
          · next ne => simp [Tbl.get?, ne, ih ht]
      simp [Tbl.getD, this, z]
    · simp

theorem memory_read_write_other (t : Tbl Byte) {a i : Nat} (b : Byte) (h : i ≠ a) :
    Memory.read (Memory.write t a b) i = Memory.read t i := by
  unfold Memory.write Memory.read
  split
  · rfl
  · split
    · simp [Tbl.getD, tbl_get_del_ne t h]
    · exact tbl_getD_put_ne t b _ h

end Sys2Proof.Machine
end

