-- ==== Sys2Proof/Laws/Keeps.lean ====
section
/-!
SUPPORT. What every operation of the model keeps of an earlier state `r`, in the form in which the laws of the operations chain:
what outlives every command, the canonical form of the tables and of the scratchpads, and the bounds of the error stores.
-/
namespace Sys2Proof.Machine

open Sys2Proof

/-- A table is in order if the tables of `r` are. -/
def KTbl (r : State) {α : Type} (t : Tbl α) : Prop := r.Canonical → Tbl.Sorted t

/-- The error stores hold no more than they may if those of `r` do. -/
def KErrs (r : State) (e : Errors) : Prop := r.errs.Bounded → e.Bounded

/-- The same of the record queues, the firmware log, and the quarantine table. -/
def KErrQueues (r : State) (t : Tbl ErrQueue) : Prop := r.errs.Bounded → ∀ x ∈ t, x.2.records.length ≤ 4
def KErrLog (r : State) (l : List ErrRecord) : Prop := r.errs.Bounded → l.length ≤ 4096
def KQuarantine (r : State) (l : List Quarantine) : Prop := r.errs.Bounded → l.length ≤ 1024 ∧ ∀ x ∈ l, x.words.length ≤ 8

/-- A scratchpad is in canonical form if those of `r` are. -/
def KPad (r : State) (t : Tbl Byte) : Prop := r.ScratchWf → Memory.wf t = true

/-- The scratchpads of a table of cores are in canonical form if those of `r` are. -/
def KCores (r : State) (t : Tbl Core) : Prop := ∀ x ∈ t, KPad r x.2.scratch

/-- The local clock has not run back. -/
def KTime (r : State) (t : Time) : Prop := r.time.now ≤ t.now

/-- What state `s` keeps of an earlier state `r`. -/
structure Keeps (r s : State) : Prop where
  pending : s.pending = r.pending
  out : r.out <:+ s.out
  fuses : r.fuses.Blown s.fuses
  now : KTime r s.time
  free : r.free ≤ s.free
  lanes : KTbl r s.lanes
  fports : KTbl r s.fports
  parts : KTbl r s.parts
  ctxs : KTbl r s.ctxs
  queues : KTbl r s.queues
  graphs : KTbl r s.graphs
  seqs : KTbl r s.seqs
  extents : KTbl r s.extents
  folios : KTbl r s.folios
  atc : KTbl r s.atc
  xlats : KTbl r s.xlats
  inbound : KTbl r s.inbound
  reqs : KTbl r s.reqs
  cores : KTbl r s.cores
  clusters : KTbl r s.clusters
  accrued : KTbl r s.accrued
  errs : KErrs r s.errs
  pads : KCores r s.cores

theorem Keeps.refl (s : State) : Keeps s s where
  pending := rfl
  out := List.suffix_refl _
  fuses := ⟨rfl, rfl, rfl, rfl, rfl, rfl, fun _ h => h, fun _ h => h, Nat.le_refl _, List.prefix_refl _⟩
  now := Nat.le_refl _
  free := Nat.le_refl _
  lanes c := c.lanes
  fports c := c.fports
  parts c := c.parts
  ctxs c := c.ctxs
  queues c := c.queues
  graphs c := c.graphs
  seqs c := c.seqs
  extents c := c.extents
  folios c := c.folios
  atc c := c.atc
  xlats c := c.xlats
  inbound c := c.inbound
  reqs c := c.reqs
  cores c := c.cores
  clusters c := c.clusters
  accrued c := c.accrued
  errs b := b
  pads x hx w := w x hx

theorem Keeps.outlives {r s : State} (h : Keeps r s) : Outlives r s := ⟨h.pending, h.out, h.fuses, h.now, h.free⟩

theorem Keeps.canonical {r s : State} (h : Keeps r s) (c : r.Canonical) : s.Canonical :=
  ⟨h.lanes c, h.fports c, h.parts c, h.ctxs c, h.queues c, h.graphs c, h.seqs c, h.extents c, h.folios c, h.atc c, h.xlats c,
    h.inbound c, h.reqs c, h.cores c, h.clusters c, h.accrued c⟩

theorem Keeps.bounded {r s : State} (h : Keeps r s) (b : r.errs.Bounded) : s.errs.Bounded := h.errs b

theorem Keeps.scratchWf {r s : State} (h : Keeps r s) (w : r.ScratchWf) : s.ScratchWf := fun x hx => h.pads x hx w

/-! ### The same as rules that chain -/

section
variable {r s : State} {α : Type}

@[simp] theorem keeps_pending (h : Keeps r s) : (s.pending = r.pending) = True := eq_true h.pending
@[simp] theorem keeps_out (h : Keeps r s) : r.out <:+ s.out := h.out
@[simp] theorem keeps_fuses (h : Keeps r s) : r.fuses.Blown s.fuses := h.fuses
@[simp] theorem keeps_now (h : Keeps r s) : KTime r s.time := h.now
@[simp] theorem keeps_free (h : Keeps r s) : r.free ≤ s.free := h.free
@[simp] theorem keeps_lanes (h : Keeps r s) : KTbl r s.lanes := h.lanes
@[simp] theorem keeps_fports (h : Keeps r s) : KTbl r s.fports := h.fports
@[simp] theorem keeps_parts (h : Keeps r s) : KTbl r s.parts := h.parts
@[simp] theorem keeps_ctxs (h : Keeps r s) : KTbl r s.ctxs := h.ctxs
@[simp] theorem keeps_queues (h : Keeps r s) : KTbl r s.queues := h.queues
@[simp] theorem keeps_graphs (h : Keeps r s) : KTbl r s.graphs := h.graphs
@[simp] theorem keeps_seqs (h : Keeps r s) : KTbl r s.seqs := h.seqs
@[simp] theorem keeps_extents (h : Keeps r s) : KTbl r s.extents := h.extents
@[simp] theorem keeps_folios (h : Keeps r s) : KTbl r s.folios := h.folios
@[simp] theorem keeps_atc (h : Keeps r s) : KTbl r s.atc := h.atc
@[simp] theorem keeps_xlats (h : Keeps r s) : KTbl r s.xlats := h.xlats
@[simp] theorem keeps_inbound (h : Keeps r s) : KTbl r s.inbound := h.inbound
@[simp] theorem keeps_reqs (h : Keeps r s) : KTbl r s.reqs := h.reqs
@[simp] theorem keeps_cores (h : Keeps r s) : KTbl r s.cores := h.cores
@[simp] theorem keeps_clusters (h : Keeps r s) : KTbl r s.clusters := h.clusters
@[simp] theorem keeps_accrued (h : Keeps r s) : KTbl r s.accrued := h.accrued
@[simp] theorem keeps_errs (h : Keeps r s) : KErrs r s.errs := h.errs
@[simp] theorem keeps_pads (h : Keeps r s) : KCores r s.cores := h.pads

@[simp] theorem kTbl_put {t : Tbl α} (k : Nat) (a : α) (h : KTbl r t) : KTbl r (Tbl.put t k a) :=
  fun c => tbl_sorted_put k a (h c)
@[simp] theorem kTbl_del {t : Tbl α} (k : Nat) (h : KTbl r t) : KTbl r (Tbl.del t k) := fun c => tbl_sorted_del k (h c)
@[simp] theorem kTbl_mapV {t : Tbl α} (f : Nat → α → α) (h : KTbl r t) : KTbl r (Tbl.mapV t f) :=
  fun c => tbl_sorted_mapV f (h c)
@[simp] theorem kTbl_filter {t : Tbl α} (p : Nat × α → Bool) (h : KTbl r t) : KTbl r (List.filter p t) :=
  fun c => tbl_sorted_filter p (h c)
theorem kTbl_map {β : Type} {t : Tbl α} (f : Nat × α → β) (h : KTbl r t) : KTbl r (t.map fun e => (e.1, f e) : Tbl β) :=
  fun c => List.pairwise_map.2 (h c)
theorem kTbl_range (f : Nat → α) (n : Nat) : KTbl r ((List.range n).map fun k => (k, f k) : Tbl α) :=
  fun _ => List.pairwise_map.2 List.pairwise_lt_range
@[simp] theorem kTbl_nil : KTbl r ([] : Tbl α) := fun _ => tbl_sorted_nil

@[simp] theorem kPad_nil : KPad r [] := fun _ => memory_wf_nil

/-- The scratchpad of a core of a table. -/
@[simp] theorem kPad_getD {t : Tbl Core} (k : Nat) (h : KCores r t) : KPad r (Tbl.getD t k {}).scratch := by
  unfold Tbl.getD
  cases g : Tbl.get? t k with
  | none => exact kPad_nil
  | some c => exact h _ (tbl_mem_get g)

@[simp] theorem kCores_put {t : Tbl Core} (k : Nat) {c : Core} (h : KCores r t) (hc : KPad r c.scratch) :
    KCores r (Tbl.put t k c) := fun x hx => by
  rcases tbl_mem_put hx with rfl | hx
  · exact hc
  · exact h x hx

@[simp] theorem kCores_filter {t : Tbl Core} (p : Nat × Core → Bool) (h : KCores r t) : KCores r (List.filter p t) :=
  fun x hx => h x (List.mem_filter.1 hx).1

@[simp] theorem kCores_nil : KCores r [] := fun _ hx => by cases hx

@[simp] theorem kCores_mapV {t : Tbl Core} {f : Nat → Core → Core} (h : KCores r t)
    (hf : ∀ k c, KPad r c.scratch → KPad r (f k c).scratch) : KCores r (Tbl.mapV t f) := fun x hx => by
  obtain ⟨y, hy, rfl⟩ := List.mem_map.1 hx
  exact hf _ _ (h y hy)

@[simp] theorem kPad_writes {t : Tbl Byte} (a : Nat) (bs : Bytes) (h : KPad r t) : KPad r (Memory.writes t a bs) :=
  fun w => memory_wf_writes a bs (h w)

/-- A change of a state keeps what the fields that it sets keep. -/
@[simp] theorem keeps_mk {pending free out fuses boot time pins bad sec mail ic msix errs power bg lanes fports bridge commons parts
    ctxs queues slots admitted graphs seqs extents folios atc xlats faults faultNo groupNo pri pageAlloc invals inbound reqs reqNo
    cores clusters lines accrued dirWaits adders merges} :
    Keeps r (State.mk pending free out fuses boot time pins bad sec mail ic msix errs power bg lanes fports bridge commons parts ctxs
        queues slots admitted graphs seqs extents folios atc xlats faults faultNo groupNo pri pageAlloc invals inbound reqs reqNo
        cores clusters lines accrued dirWaits adders merges) ↔
      (pending = r.pending ∧ r.out <:+ out ∧ r.fuses.Blown fuses ∧ KTime r time ∧ r.free ≤ free ∧ KTbl r lanes ∧ KTbl r fports
        ∧ KTbl r parts ∧ KTbl r ctxs ∧ KTbl r queues ∧ KTbl r graphs ∧ KTbl r seqs ∧ KTbl r extents ∧ KTbl r folios ∧ KTbl r atc
        ∧ KTbl r xlats ∧ KTbl r inbound ∧ KTbl r reqs ∧ KTbl r cores ∧ KTbl r clusters ∧ KTbl r accrued ∧ KErrs r errs
        ∧ KCores r cores) :=
  ⟨fun h => ⟨h.1, h.2, h.3, h.4, h.5, h.6, h.7, h.8, h.9, h.10, h.11, h.12, h.13, h.14, h.15, h.16, h.17, h.18, h.19, h.20, h.21,
      h.22, h.23⟩,
    fun ⟨h1, h2, h3, h4, h5, h6, h7, h8, h9, h10, h11, h12, h13, h14, h15, h16, h17, h18, h19, h20, h21, h22, h23⟩ =>
      ⟨h1, h2, h3, h4, h5, h6, h7, h8, h9, h10, h11, h12, h13, h14, h15, h16, h17, h18, h19, h20, h21, h22, h23⟩⟩

@[simp] theorem keeps_ite {c : Prop} [Decidable c] {a b : State} (ha : Keeps r a) (hb : Keeps r b) :
    Keeps r (if c then a else b) := by split <;> assumption
@[simp] theorem kTbl_ite {c : Prop} [Decidable c] {a b : Tbl α} (ha : KTbl r a) (hb : KTbl r b) : KTbl r (if c then a else b) := by
  split <;> assumption
@[simp] theorem kCores_ite {c : Prop} [Decidable c] {a b : Tbl Core} (ha : KCores r a) (hb : KCores r b) :
    KCores r (if c then a else b) := by split <;> assumption
@[simp] theorem kErrs_ite {c : Prop} [Decidable c] {a b : Errors} (ha : KErrs r a) (hb : KErrs r b) :
    KErrs r (if c then a else b) := by split <;> assumption
@[simp] theorem kPad_ite {c : Prop} [Decidable c] {a b : Core} (ha : KPad r a.scratch) (hb : KPad r b.scratch) :
    KPad r (if c then a else b).scratch := by split <;> assumption

@[simp] theorem kPad_core (h : Keeps r s) (k : Nat) : KPad r (s.core k).scratch := kPad_getD k h.pads

/-- A fold keeps what each of its steps keeps. -/
@[simp] theorem keeps_foldl {β : Type} (l : List β) (f : State → β → State) (h : Keeps r s)
    (hf : ∀ s x, Keeps r s → Keeps r (f s x)) : Keeps r (l.foldl f s) := by
  induction l generalizing s with
  | nil => exact h
  | cons x l ih => exact ih (hf s x h)

@[simp] theorem State.emit_keeps (s : State) (o : Out) (h : Keeps r s) : Keeps r (s.emit o) :=
  { h with out := h.out.trans (List.suffix_cons o s.out) }

@[simp] theorem State.draw_keeps (s : State) (h : Keeps r s) : Keeps r s.draw := { h with free := Nat.le_succ_of_le h.free }

theorem keeps_free_add (n : Nat) (h : Keeps r s) : r.free ≤ s.free + n := Nat.le_add_right_of_le h.free

/-! ### The local clock -/

@[simp] theorem kTime_mk {now ct state released goodRun lastStrobe expired slew slewing slewPhase delta stepFrame slewAfter lostInStep holdoverSince boundBefore timeStep holdoverSeen rejectedSeen stepDelta stepAt steps holdovers rejected frameDone fullThrough msDone windowDone} :
    KTime r (Time.mk now ct state released goodRun lastStrobe expired slew slewing slewPhase delta stepFrame slewAfter lostInStep holdoverSince boundBefore timeStep holdoverSeen rejectedSeen stepDelta stepAt steps holdovers rejected frameDone fullThrough msDone windowDone) ↔
      r.time.now ≤ now := Iff.rfl

theorem keeps_now_le (h : Keeps r s) : r.time.now ≤ s.time.now := h.now
theorem keeps_now_add (n : Nat) (h : Keeps r s) : r.time.now ≤ s.time.now + n := Nat.le_add_right_of_le h.now
theorem kTime_add {t : Time} (n : Nat) (h : KTime r t) : r.time.now ≤ t.now + n := Nat.le_add_right_of_le h
theorem kTime_now {t : Time} (h : KTime r t) : r.time.now ≤ t.now := h

/-! ### Fuses -/

theorem blown_retire {a b : Fuses} (x : BitVec 16) (h : a.Blown b) : a.Blown { b with retired := b.retired ||| x } :=
  { h with retired := fun i hi => by simp [h.retired i hi] }

theorem blown_revoke {a b : Fuses} (x : BitVec 4) (h : a.Blown b) :
    a.Blown { b with signersRevoked := b.signersRevoked ||| x } :=
  { h with signersRevoked := fun i hi => by simp [h.signersRevoked i hi] }

theorem blown_rollback {a b : Fuses} (n : Nat) (h : a.Blown b) : a.Blown { b with rollback := max b.rollback n } :=
  { h with rollback := Nat.le_trans h.rollback (Nat.le_max_left _ _) }

theorem blown_bank {a b : Fuses} (d : BitVec 384) (h : a.Blown b) : a.Blown { b with ownerBanks := b.ownerBanks ++ [d] } :=
  { h with ownerBanks := h.ownerBanks.trans (List.prefix_append _ _) }

theorem blown_fusesDone (h : Keeps r s) : r.fuses.Blown s.fusesDone := by
  unfold State.fusesDone
  split
  · exact blown_retire _ h.fuses
  · exact h.fuses

/-! ### The error stores -/

theorem errors_queue_le {e : Errors} (b : e.Bounded) (i : Nat) : (e.queue i).records.length ≤ 4 := by
  unfold Errors.queue Tbl.getD
  cases g : Tbl.get? e.queues i with
  | none => simp
  | some q => exact b.queues _ (tbl_mem_get g)

/-- A record queue may be replaced by one that holds no more than 4 records. -/
theorem errors_put_bounded {e : Errors} (b : e.Bounded) (i : Nat) (q : ErrQueue) (h : q.records.length ≤ 4) :
    ∀ x ∈ Tbl.put e.queues i q, x.2.records.length ≤ 4 := fun x hx => by
  rcases tbl_mem_put hx with rfl | hx
  · exact h
  · exact b.queues x hx

theorem dropLast_getLast_length {α : Type} (l : List α) (f : α → α) :
    (l.dropLast ++ l.getLast?.toList.map f).length = l.length := by
  cases g : l.getLast? with
  | none => simp [List.getLast?_eq_none_iff.1 g]
  | some x =>
    have : l ≠ [] := by rintro rfl; cases g
    have := List.length_pos_of_ne_nil this
    simp only [Option.toList, List.map_cons, List.map_nil, List.length_append, List.length_dropLast, List.length_singleton]
    omega

/-- A change of the stores, by its parts. -/
@[simp] theorem kErrs_mk {n q l d f x y qs a la hq} :
    KErrs r (Errors.mk n q l d f x y qs a la hq) ↔ KErrQueues r q ∧ KErrLog r l ∧ KQuarantine r qs :=
  ⟨fun h => ⟨fun b => (h b).1, fun b => (h b).2, fun b => ⟨(h b).3, (h b).4⟩⟩,
    fun h b => ⟨h.1 b, h.2.1 b, (h.2.2 b).1, (h.2.2 b).2⟩⟩

theorem kErrs_mk_of {n q l d f x y qs a la hq} (h1 : KErrQueues r q) (h2 : KErrLog r l) (h3 : KQuarantine r qs) :
    KErrs r (Errors.mk n q l d f x y qs a la hq) := kErrs_mk.2 ⟨h1, h2, h3⟩

@[simp] theorem kErrs_queues {e : Errors} (h : KErrs r e) : KErrQueues r e.queues := fun b => (h b).queues
@[simp] theorem kErrs_log {e : Errors} (h : KErrs r e) : KErrLog r e.log := fun b => (h b).log
@[simp] theorem kErrs_quarantine {e : Errors} (h : KErrs r e) : KQuarantine r e.quarantine :=
  fun b => ⟨(h b).quarantine, (h b).words⟩
@[simp] theorem kQuarantine_filter {l : List Quarantine} (p : Quarantine → Bool) (h : KQuarantine r l) :
    KQuarantine r (l.filter p) :=
  fun b => ⟨Nat.le_trans (List.length_filter_le p l) (h b).1, fun x hx => (h b).2 x (List.mem_filter.1 hx).1⟩
@[simp] theorem kErrQueues_put {t : Tbl ErrQueue} (i : Nat) {q : ErrQueue} (h : KErrQueues r t)
    (hq : r.errs.Bounded → q.records.length ≤ 4) : KErrQueues r (Tbl.put t i q) := fun b x hx => by
  rcases tbl_mem_put hx with rfl | hx
  · exact hq b
  · exact h b x hx

theorem kErrs_setQueues {e : Errors} {t : Tbl ErrQueue} (h : KErrs r e) (ht : KErrQueues r t) : KErrs r { e with queues := t } :=
  fun b => ⟨ht b, (h b).log, (h b).quarantine, (h b).words⟩

theorem kErrQueues_emptied (t : Tbl ErrQueue) : KErrQueues r (Tbl.mapV t fun _ q => { q with records := [] }) := fun _ x hx => by
  obtain ⟨y, -, rfl⟩ := List.mem_map.1 hx
  simp

theorem kErrs_queue_le {e : Errors} (h : KErrs r e) (i : Nat) (b : r.errs.Bounded) : (e.queue i).records.length ≤ 4 :=
  errors_queue_le (h b) i

end

/-! ### A change of a state, by the fields that it sets -/

section
variable {r s : State} {boot pins bad sec mail ic msix power bg bridge commons slots admitted faults faultNo groupNo pri pageAlloc invals
      reqNo lines dirWaits adders merges}

theorem keeps_set (h : Keeps r s) :
    Keeps r { s with
      boot := boot, pins := pins, bad := bad, sec := sec, mail := mail, ic := ic, msix := msix, power := power, bg := bg,
      bridge := bridge, commons := commons, slots := slots, admitted := admitted, faults := faults, faultNo := faultNo,
      groupNo := groupNo, pri := pri, pageAlloc := pageAlloc, invals := invals, reqNo := reqNo, lines := lines, dirWaits :=
      dirWaits, adders := adders, merges := merges } := { h with }

theorem keeps_set_lanes {t : Tbl _} (h : Keeps r s) (ht : KTbl r t) :
    Keeps r { s with
      lanes := t, boot := boot, pins := pins, bad := bad, sec := sec, mail := mail, ic := ic, msix := msix, power := power,
      bg := bg, bridge := bridge, commons := commons, slots := slots, admitted := admitted, faults := faults, faultNo :=
      faultNo, groupNo := groupNo, pri := pri, pageAlloc := pageAlloc, invals := invals, reqNo := reqNo, lines := lines,
      dirWaits := dirWaits, adders := adders, merges := merges } := { h with lanes := ht }

theorem keeps_set_fports {t : Tbl _} (h : Keeps r s) (ht : KTbl r t) :
    Keeps r { s with
      fports := t, boot := boot, pins := pins, bad := bad, sec := sec, mail := mail, ic := ic, msix := msix, power := power,
      bg := bg, bridge := bridge, commons := commons, slots := slots, admitted := admitted, faults := faults, faultNo :=
      faultNo, groupNo := groupNo, pri := pri, pageAlloc := pageAlloc, invals := invals, reqNo := reqNo, lines := lines,
      dirWaits := dirWaits, adders := adders, merges := merges } := { h with fports := ht }

theorem keeps_set_parts {t : Tbl _} (h : Keeps r s) (ht : KTbl r t) :
    Keeps r { s with
      parts := t, boot := boot, pins := pins, bad := bad, sec := sec, mail := mail, ic := ic, msix := msix, power := power,
      bg := bg, bridge := bridge, commons := commons, slots := slots, admitted := admitted, faults := faults, faultNo :=
      faultNo, groupNo := groupNo, pri := pri, pageAlloc := pageAlloc, invals := invals, reqNo := reqNo, lines := lines,
      dirWaits := dirWaits, adders := adders, merges := merges } := { h with parts := ht }

theorem keeps_set_ctxs {t : Tbl _} (h : Keeps r s) (ht : KTbl r t) :
    Keeps r { s with
      ctxs := t, boot := boot, pins := pins, bad := bad, sec := sec, mail := mail, ic := ic, msix := msix, power := power,
      bg := bg, bridge := bridge, commons := commons, slots := slots, admitted := admitted, faults := faults, faultNo :=
      faultNo, groupNo := groupNo, pri := pri, pageAlloc := pageAlloc, invals := invals, reqNo := reqNo, lines := lines,
      dirWaits := dirWaits, adders := adders, merges := merges } := { h with ctxs := ht }

theorem keeps_set_queues {t : Tbl _} (h : Keeps r s) (ht : KTbl r t) :
    Keeps r { s with
      queues := t, boot := boot, pins := pins, bad := bad, sec := sec, mail := mail, ic := ic, msix := msix, power := power,
      bg := bg, bridge := bridge, commons := commons, slots := slots, admitted := admitted, faults := faults, faultNo :=
      faultNo, groupNo := groupNo, pri := pri, pageAlloc := pageAlloc, invals := invals, reqNo := reqNo, lines := lines,
      dirWaits := dirWaits, adders := adders, merges := merges } := { h with queues := ht }

theorem keeps_set_graphs {t : Tbl _} (h : Keeps r s) (ht : KTbl r t) :
    Keeps r { s with
      graphs := t, boot := boot, pins := pins, bad := bad, sec := sec, mail := mail, ic := ic, msix := msix, power := power,
      bg := bg, bridge := bridge, commons := commons, slots := slots, admitted := admitted, faults := faults, faultNo :=
      faultNo, groupNo := groupNo, pri := pri, pageAlloc := pageAlloc, invals := invals, reqNo := reqNo, lines := lines,
      dirWaits := dirWaits, adders := adders, merges := merges } := { h with graphs := ht }

theorem keeps_set_seqs {t : Tbl _} (h : Keeps r s) (ht : KTbl r t) :
    Keeps r { s with
      seqs := t, boot := boot, pins := pins, bad := bad, sec := sec, mail := mail, ic := ic, msix := msix, power := power,
      bg := bg, bridge := bridge, commons := commons, slots := slots, admitted := admitted, faults := faults, faultNo :=
      faultNo, groupNo := groupNo, pri := pri, pageAlloc := pageAlloc, invals := invals, reqNo := reqNo, lines := lines,
      dirWaits := dirWaits, adders := adders, merges := merges } := { h with seqs := ht }

theorem keeps_set_extents {t : Tbl _} (h : Keeps r s) (ht : KTbl r t) :
    Keeps r { s with
      extents := t, boot := boot, pins := pins, bad := bad, sec := sec, mail := mail, ic := ic, msix := msix, power :=
      power, bg := bg, bridge := bridge, commons := commons, slots := slots, admitted := admitted, faults := faults, faultNo
      := faultNo, groupNo := groupNo, pri := pri, pageAlloc := pageAlloc, invals := invals, reqNo := reqNo, lines := lines,
      dirWaits := dirWaits, adders := adders, merges := merges } := { h with extents := ht }

theorem keeps_set_folios {t : Tbl _} (h : Keeps r s) (ht : KTbl r t) :
    Keeps r { s with
      folios := t, boot := boot, pins := pins, bad := bad, sec := sec, mail := mail, ic := ic, msix := msix, power := power,
      bg := bg, bridge := bridge, commons := commons, slots := slots, admitted := admitted, faults := faults, faultNo :=
      faultNo, groupNo := groupNo, pri := pri, pageAlloc := pageAlloc, invals := invals, reqNo := reqNo, lines := lines,
      dirWaits := dirWaits, adders := adders, merges := merges } := { h with folios := ht }

theorem keeps_set_atc {t : Tbl _} (h : Keeps r s) (ht : KTbl r t) :
    Keeps r { s with
      atc := t, boot := boot, pins := pins, bad := bad, sec := sec, mail := mail, ic := ic, msix := msix, power := power, bg
      := bg, bridge := bridge, commons := commons, slots := slots, admitted := admitted, faults := faults, faultNo :=
      faultNo, groupNo := groupNo, pri := pri, pageAlloc := pageAlloc, invals := invals, reqNo := reqNo, lines := lines,
      dirWaits := dirWaits, adders := adders, merges := merges } := { h with atc := ht }

theorem keeps_set_xlats {t : Tbl _} (h : Keeps r s) (ht : KTbl r t) :
    Keeps r { s with
      xlats := t, boot := boot, pins := pins, bad := bad, sec := sec, mail := mail, ic := ic, msix := msix, power := power,
      bg := bg, bridge := bridge, commons := commons, slots := slots, admitted := admitted, faults := faults, faultNo :=
      faultNo, groupNo := groupNo, pri := pri, pageAlloc := pageAlloc, invals := invals, reqNo := reqNo, lines := lines,
      dirWaits := dirWaits, adders := adders, merges := merges } := { h with xlats := ht }

theorem keeps_set_inbound {t : Tbl _} (h : Keeps r s) (ht : KTbl r t) :
    Keeps r { s with
      inbound := t, boot := boot, pins := pins, bad := bad, sec := sec, mail := mail, ic := ic, msix := msix, power :=
      power, bg := bg, bridge := bridge, commons := commons, slots := slots, admitted := admitted, faults := faults, faultNo
      := faultNo, groupNo := groupNo, pri := pri, pageAlloc := pageAlloc, invals := invals, reqNo := reqNo, lines := lines,
      dirWaits := dirWaits, adders := adders, merges := merges } := { h with inbound := ht }

theorem keeps_set_reqs {t : Tbl _} (h : Keeps r s) (ht : KTbl r t) :
    Keeps r { s with
      reqs := t, boot := boot, pins := pins, bad := bad, sec := sec, mail := mail, ic := ic, msix := msix, power := power,
      bg := bg, bridge := bridge, commons := commons, slots := slots, admitted := admitted, faults := faults, faultNo :=
      faultNo, groupNo := groupNo, pri := pri, pageAlloc := pageAlloc, invals := invals, reqNo := reqNo, lines := lines,
      dirWaits := dirWaits, adders := adders, merges := merges } := { h with reqs := ht }

theorem keeps_set_clusters {t : Tbl _} (h : Keeps r s) (ht : KTbl r t) :
    Keeps r { s with
      clusters := t, boot := boot, pins := pins, bad := bad, sec := sec, mail := mail, ic := ic, msix := msix, power :=
      power, bg := bg, bridge := bridge, commons := commons, slots := slots, admitted := admitted, faults := faults, faultNo
      := faultNo, groupNo := groupNo, pri := pri, pageAlloc := pageAlloc, invals := invals, reqNo := reqNo, lines := lines,
      dirWaits := dirWaits, adders := adders, merges := merges } := { h with clusters := ht }

theorem keeps_set_accrued {t : Tbl _} (h : Keeps r s) (ht : KTbl r t) :
    Keeps r { s with
      accrued := t, boot := boot, pins := pins, bad := bad, sec := sec, mail := mail, ic := ic, msix := msix, power :=
      power, bg := bg, bridge := bridge, commons := commons, slots := slots, admitted := admitted, faults := faults, faultNo
      := faultNo, groupNo := groupNo, pri := pri, pageAlloc := pageAlloc, invals := invals, reqNo := reqNo, lines := lines,
      dirWaits := dirWaits, adders := adders, merges := merges } := { h with accrued := ht }

theorem keeps_set_cores {t : Tbl _} (h : Keeps r s) (ht : KTbl r t) (hp : KCores r t) :
    Keeps r { s with
      cores := t, boot := boot, pins := pins, bad := bad, sec := sec, mail := mail, ic := ic, msix := msix, power := power,
      bg := bg, bridge := bridge, commons := commons, slots := slots, admitted := admitted, faults := faults, faultNo :=
      faultNo, groupNo := groupNo, pri := pri, pageAlloc := pageAlloc, invals := invals, reqNo := reqNo, lines := lines,
      dirWaits := dirWaits, adders := adders, merges := merges } := { h with cores := ht, pads := hp }

theorem keeps_set_errs {e : Errors} (h : Keeps r s) (he : KErrs r e) :
    Keeps r { s with
      errs := e, boot := boot, pins := pins, bad := bad, sec := sec, mail := mail, ic := ic, msix := msix, power := power,
      bg := bg, bridge := bridge, commons := commons, slots := slots, admitted := admitted, faults := faults, faultNo :=
      faultNo, groupNo := groupNo, pri := pri, pageAlloc := pageAlloc, invals := invals, reqNo := reqNo, lines := lines,
      dirWaits := dirWaits, adders := adders, merges := merges } := { h with errs := he }

theorem keeps_set_time {t : Time} (h : Keeps r s) (ht : KTime r t) :
    Keeps r { s with
      time := t, boot := boot, pins := pins, bad := bad, sec := sec, mail := mail, ic := ic, msix := msix, power := power,
      bg := bg, bridge := bridge, commons := commons, slots := slots, admitted := admitted, faults := faults, faultNo :=
      faultNo, groupNo := groupNo, pri := pri, pageAlloc := pageAlloc, invals := invals, reqNo := reqNo, lines := lines,
      dirWaits := dirWaits, adders := adders, merges := merges } := { h with now := ht }

theorem keeps_set_fuses {f : Fuses} (h : Keeps r s) (hf : r.fuses.Blown f) :
    Keeps r { s with
      fuses := f, boot := boot, pins := pins, bad := bad, sec := sec, mail := mail, ic := ic, msix := msix, power := power,
      bg := bg, bridge := bridge, commons := commons, slots := slots, admitted := admitted, faults := faults, faultNo :=
      faultNo, groupNo := groupNo, pri := pri, pageAlloc := pageAlloc, invals := invals, reqNo := reqNo, lines := lines,
      dirWaits := dirWaits, adders := adders, merges := merges } := { h with fuses := hf }

end

end Sys2Proof.Machine
end

