-- ==== Sys2Proof/Laws/KeepsOps.lean ====
section
/-!
SUPPORT. What outlives every command outlives the operations over tables, pools, mailboxes, queues, launches and memory lines
(one lemma an operation, cited instead of unfolding it).
-/
namespace Sys2Proof.Machine

open Sys2Proof

theorem State.modQueue_keeps {r₀ : State} (s : State) (q : Nat) (f : Queue → Queue) (hk : Keeps r₀ s) : Keeps r₀ (State.modQueue s q f) := by
  unfold State.modQueue
  repeat' with_reducible first
    | assumption
    | apply keeps_set
    | apply keeps_set_queues
    | apply Keeps.queues
    | apply kTbl_put

theorem State.modPart_keeps {r₀ : State} (s : State) (p : Nat) (f : Partition → Partition) (hk : Keeps r₀ s) : Keeps r₀ (State.modPart s p f) := by
  unfold State.modPart
  repeat' with_reducible first
    | assumption
    | apply keeps_set
    | apply keeps_set_parts
    | apply Keeps.parts
    | apply kTbl_put

theorem State.modCtx_keeps {r₀ : State} (s : State) (k : Nat) (f : Context → Context) (hk : Keeps r₀ s) : Keeps r₀ (State.modCtx s k f) := by
  unfold State.modCtx
  repeat' with_reducible first
    | assumption
    | split
    | apply keeps_set
    | apply keeps_set_ctxs
    | apply Keeps.ctxs
    | apply kTbl_put

theorem State.modChan_keeps {r₀ : State} (s : State) (ch : Nat) (f : Channel → Channel) (hk : Keeps r₀ s) : Keeps r₀ (State.modChan s ch f) := by
  unfold State.modChan
  repeat' with_reducible first
    | assumption
    | apply keeps_set

theorem State.modCore_keeps {r₀ : State} (s : State) (k : Nat) (f : Core → Core) (hk : Keeps r₀ s) (hf : ∀ c, KPad r₀ c.scratch → KPad r₀ (f c).scratch) : Keeps r₀ (State.modCore s k f) := by
  unfold State.modCore
  exact { hk with cores := kTbl_put _ _ hk.cores, pads := kCores_put _ hk.pads (hf _ (kPad_core hk k)) }

theorem State.modCluster_keeps {r₀ : State} (s : State) (c : Nat) (f : Cluster → Cluster) (hk : Keeps r₀ s) : Keeps r₀ (State.modCluster s c f) := by
  unfold State.modCluster
  repeat' with_reducible first
    | assumption
    | apply keeps_set
    | apply keeps_set_clusters
    | apply Keeps.clusters
    | apply kTbl_put

theorem State.modFport_keeps {r₀ : State} (s : State) (n : Nat) (f : FPort → FPort) (hk : Keeps r₀ s) : Keeps r₀ (State.modFport s n f) := by
  unfold State.modFport
  repeat' with_reducible first
    | assumption
    | apply keeps_set
    | apply keeps_set_fports
    | apply Keeps.fports
    | apply kTbl_put

theorem State.modLane_keeps {r₀ : State} (s : State) (l : Nat) (f : Lane → Lane) (hk : Keeps r₀ s) : Keeps r₀ (State.modLane s l f) := by
  unfold State.modLane
  repeat' with_reducible first
    | assumption
    | apply keeps_set
    | apply keeps_set_lanes
    | apply Keeps.lanes
    | apply kTbl_put

theorem State.modExtent_keeps {r₀ : State} (s : State) (e : Nat) (f : Extent → Extent) (hk : Keeps r₀ s) : Keeps r₀ (State.modExtent s e f) := by
  unfold State.modExtent
  repeat' with_reducible first
    | assumption
    | split
    | apply keeps_set
    | apply keeps_set_extents
    | apply Keeps.extents
    | apply kTbl_put

theorem State.modFolio_keeps {r₀ : State} (s : State) (i : Nat) (f : Folio → Folio) (hk : Keeps r₀ s) : Keeps r₀ (State.modFolio s i f) := by
  unfold State.modFolio
  repeat' with_reducible first
    | assumption
    | split
    | apply keeps_set
    | apply keeps_set_folios
    | apply Keeps.folios
    | apply kTbl_put

theorem State.modGraph_keeps {r₀ : State} (s : State) (i : Nat) (f : Graph → Graph) (hk : Keeps r₀ s) : Keeps r₀ (State.modGraph s i f) := by
  unfold State.modGraph
  repeat' with_reducible first
    | assumption
    | split
    | apply keeps_set
    | apply keeps_set_graphs
    | apply Keeps.graphs
    | apply kTbl_put

theorem State.modSlot_keeps {r₀ : State} (s : State) (q : Nat) (seq : Nat) (f : Slot → Slot) (hk : Keeps r₀ s) : Keeps r₀ (State.modSlot s q seq f) := by
  unfold State.modSlot
  repeat' with_reducible first
    | assumption
    | split
    | apply keeps_set

theorem State.dropSlot_keeps {r₀ : State} (s : State) (q : Nat) (seq : Nat) (hk : Keeps r₀ s) : Keeps r₀ (State.dropSlot s q seq) := by
  unfold State.dropSlot
  repeat' with_reducible first
    | assumption
    | apply keeps_set

theorem State.whenLive_keeps {r₀ : State} (s : State) (f : State → State) (hk : Keeps r₀ s) (hf : ∀ s, Keeps r₀ s → Keeps r₀ (f s)) : Keeps r₀ (State.whenLive s f) := by
  unfold State.whenLive
  repeat' with_reducible first
    | assumption
    | apply hf
    | split

theorem State.when_keeps {r₀ : State} (s : State) (b : Bool) (f : State → State) (hk : Keeps r₀ s) (hf : ∀ s, Keeps r₀ s → Keeps r₀ (f s)) : Keeps r₀ (State.when s b f) := by
  unfold State.when
  repeat' with_reducible first
    | assumption
    | apply hf
    | split

theorem State.access_keeps {r₀ : State} (s : State) (r : Requester) (f : State → State) (hk : Keeps r₀ s) (hf : ∀ s, Keeps r₀ s → Keeps r₀ (f s)) : Keeps r₀ (State.access s r f) := by
  unfold State.access
  (repeat' split) <;> simp [hk, hf]

theorem State.icFire_keeps {r₀ : State} (s : State) (n : Nat) (hk : Keeps r₀ s) : Keeps r₀ (State.icFire s n) := by
  unfold State.icFire
  repeat' with_reducible first
    | assumption
    | apply keeps_set

theorem State.icLevel_keeps {r₀ : State} (s : State) (n : Nat) (b : Bool) (hk : Keeps r₀ s) : Keeps r₀ (State.icLevel s n b) := by
  unfold State.icLevel
  repeat' with_reducible first
    | assumption
    | apply keeps_set

theorem Errors.store_kErrs {r₀ : State} (e : Errors) (i : Nat) (r : ErrRecord) (hk : KErrs r₀ e) : KErrs r₀ (Errors.store e i r) := by
  intro b
  have hb := hk b
  have hi := errors_queue_le hb i
  have key : ∀ q : ErrQueue, q.records.length ≤ 4 → ∀ n l x, Errors.Bounded
      { e with nextSeq := n, queues := Tbl.put e.queues i q, logDropped := l, recordsLost := x } :=
    fun q hq _ _ _ => ⟨errors_put_bounded hb i q hq, hb.log, hb.quarantine, hb.words⟩
  unfold Errors.store
  dsimp only
  repeat' split
  all_goals refine key _ ?_ _ _ _
  all_goals first
    | exact hi
    | (rw [dropLast_getLast_length]; exact hi)
    | (simp only [List.length_append, List.length_singleton]; omega)

theorem State.logError_keeps {r₀ : State} (s : State) (i : Nat) (r : ErrRecord) (hk : Keeps r₀ s) : Keeps r₀ (State.logError s i r) := by
  have hp (r' : ErrRecord) : Keeps r₀ { s with errs := s.errs.store i r' } := { hk with errs := Errors.store_kErrs _ _ _ hk.errs }
  unfold State.logError
  exact State.icLevel_keeps _ _ _ (hp _)

theorem State.popError_keeps {r₀ : State} (s : State) (i : Nat) (hk : Keeps r₀ s) : Keeps r₀ (State.popError s i) := by
  have hp (q : ErrQueue) (hq : r₀.errs.Bounded → q.records.length ≤ 4) :
      Keeps r₀ { s with errs := { s.errs with queues := Tbl.put s.errs.queues i q } } :=
    { hk with errs := fun b =>
        ⟨errors_put_bounded (hk.errs b) i q (hq b), (hk.errs b).log, (hk.errs b).quarantine, (hk.errs b).words⟩ }
  have hl : r₀.errs.Bounded → (s.errs.queue i).records.tail.length ≤ 4 := fun b => by
    have := errors_queue_le (hk.errs b) i
    rw [List.length_tail]
    omega
  unfold State.popError
  dsimp only
  split
  · exact State.icLevel_keeps _ _ _ (hp _ hl)
  · exact hp _ hl

theorem Errors.toLog_kErrs {r₀ : State} (e : Errors) (rs : List ErrRecord) (hk : KErrs r₀ e) : KErrs r₀ (Errors.toLog e rs) := by
  intro b
  have hb := hk b
  unfold Errors.toLog
  refine ⟨hb.queues, ?_, hb.quarantine, hb.words⟩
  simp only [List.length_drop]
  omega

theorem State.badAccess_keeps {r₀ : State} (s : State) (kind : Nat) (offset : Nat) (hk : Keeps r₀ s) : Keeps r₀ (State.badAccess s kind offset) := by
  unfold State.badAccess
  repeat' with_reducible first
    | assumption
    | apply keeps_set

theorem State.badRead_keeps {r₀ : State} (s : State) (r : Requester) (kind : Nat) (offset : Nat) (hk : Keeps r₀ s) : Keeps r₀ (State.badRead s r kind offset) := by
  unfold State.badRead
  repeat' with_reducible first
    | assumption
    | apply State.emit_keeps
    | apply State.badAccess_keeps

theorem State.viaPort_keeps {r₀ : State} (s : State) (n : Nat) (o : Out) (hk : Keeps r₀ s) : Keeps r₀ (State.viaPort s n o) := by
  unfold State.viaPort
  repeat' with_reducible first
    | assumption
    | apply State.emit_keeps
    | apply State.modFport_keeps
    | split

theorem State.viaPath_keeps {r₀ : State} (s : State) (path : Nat) (o : Out) (hk : Keeps r₀ s) : Keeps r₀ (State.viaPath s path o) := by
  unfold State.viaPath
  repeat' with_reducible first
    | assumption
    | apply State.emit_keeps
    | apply State.viaPort_keeps
    | split

theorem State.sendVector_keeps {r₀ : State} (s : State) (path : Nat) (part : Nat) (v : GuestVector) (hk : Keeps r₀ s) : Keeps r₀ (State.sendVector s path part v).1 := by
  unfold State.sendVector
  try dsimp only
  repeat' with_reducible first
    | assumption
    | apply State.emit_keeps
    | apply State.viaPath_keeps
    | split
    | (simp only [keeps_mk]; refine ⟨?_, ?_, ?_, ?_, ?_, ?_, ?_, ?_, ?_, ?_, ?_, ?_, ?_, ?_, ?_, ?_, ?_, ?_, ?_, ?_, ?_, ?_, ?_⟩)
    | apply Keeps.pending
    | apply Keeps.out
    | apply Keeps.fuses
    | apply Keeps.now
    | apply Keeps.free
    | apply Keeps.lanes
    | apply Keeps.fports
    | apply Keeps.parts
    | apply Keeps.ctxs
    | apply Keeps.queues
    | apply Keeps.graphs
    | apply Keeps.seqs
    | apply Keeps.extents
    | apply Keeps.folios
    | apply Keeps.atc
    | apply Keeps.xlats
    | apply Keeps.inbound
    | apply Keeps.reqs
    | apply Keeps.cores
    | apply Keeps.clusters
    | apply Keeps.accrued
    | apply Keeps.errs
    | apply Keeps.pads

theorem State.issueWrites_keeps {r₀ : State} (x0 : Nat) (x1 : State) (x2 : Nat) (hk : Keeps r₀ x1) : Keeps r₀ (State.issueWrites x0 x1 x2) := by
  induction x0 generalizing x1 with
  | zero => exact hk
  | succ n ih =>
    unfold State.issueWrites
    dsimp only
    split
    · exact hk
    · split
      · exact State.viaPath_keeps _ _ _ hk
      · next v _ =>
        have hv := State.sendVector_keeps x1 (x1.queue x2).attrs.path (x1.queue x2).partition v hk
        split
        · next e => rw [e] at hv; exact hv
        · next e => rw [e] at hv; exact ih _ (State.modQueue_keeps _ _ _ hv)
        · next e => rw [e] at hv; exact ih _ (State.modQueue_keeps _ _ _ hv)

theorem State.issueHead_keeps {r₀ : State} (s : State) (q : Nat) (hk : Keeps r₀ s) : Keeps r₀ (State.issueHead s q) := by
  unfold State.issueHead
  repeat' with_reducible first
    | assumption
    | apply State.issueWrites_keeps

theorem State.pushWrite_keeps {r₀ : State} (s : State) (q : Nat) (w : GuestWrite) (hk : Keeps r₀ s) : Keeps r₀ (State.pushWrite s q w) := by
  unfold State.pushWrite
  try dsimp only
  repeat' with_reducible first
    | assumption
    | apply State.modQueue_keeps
    | apply State.issueHead_keeps
    | split

theorem State.pushRecord_keeps {r₀ : State} (s : State) (q : Nat) (w : GuestWrite) (hk : Keeps r₀ s) : Keeps r₀ (State.pushRecord s q w) := by
  unfold State.pushRecord
  repeat' with_reducible first
    | assumption
    | apply State.modQueue_keeps
    | apply State.pushWrite_keeps
    | split

theorem State.writeWord_keeps {r₀ : State} (s : State) (q : Nat) (broken : Bool) (hk : Keeps r₀ s) : Keeps r₀ (State.writeWord s q broken) := by
  unfold State.writeWord
  dsimp only
  split
  · exact hk
  · exact State.modQueue_keeps _ _ _ (keeps_ite (State.pushWrite_keeps _ _ _ (State.pushWrite_keeps _ _ _ hk)) (State.pushWrite_keeps _ _ _ hk))

theorem State.setQState_keeps {r₀ : State} (s : State) (q : Nat) (st : QState) (hk : Keeps r₀ s) : Keeps r₀ (State.setQState s q st) := by
  unfold State.setQState
  exact State.pushWrite_keeps _ _ _ (State.writeWord_keeps _ _ _ (State.modQueue_keeps _ _ _ hk))

theorem State.dropFolioAtc_keeps {r₀ : State} (s : State) (i : Nat) (v : Nat) (hk : Keeps r₀ s) : Keeps r₀ (State.dropFolioAtc s i v) := by
  unfold State.dropFolioAtc
  repeat' with_reducible first
    | assumption
    | apply keeps_set
    | apply keeps_set_atc
    | apply Keeps.atc
    | apply kTbl_filter

theorem State.sweepQuarantine_keeps {r₀ : State} (s : State) (hk : Keeps r₀ s) : Keeps r₀ (State.sweepQuarantine s) := by
  unfold State.sweepQuarantine
  try dsimp only
  repeat' with_reducible first
    | assumption
    | apply keeps_set
    | apply keeps_set_errs
    | apply Keeps.errs
    | apply kErrs_mk_of
    | apply kQuarantine_filter
    | apply kErrQueues_put
    | apply kErrs_queue_le
    | apply kErrs_queues
    | apply kErrs_log
    | apply kErrs_quarantine

theorem State.sweepFolio_keeps {r₀ : State} (s : State) (i : Nat) (hk : Keeps r₀ s) : Keeps r₀ (State.sweepFolio s i) := by
  unfold State.sweepFolio
  try dsimp only
  repeat' with_reducible first
    | assumption
    | apply State.sweepQuarantine_keeps
    | apply State.dropFolioAtc_keeps
    | apply keeps_foldl
    | split
    | apply keeps_set
    | apply keeps_set_folios
    | apply Keeps.folios
    | apply kTbl_put
    | apply kTbl_filter
    | apply kTbl_map
    | intro _

theorem State.discardVersion_keeps {r₀ : State} (s : State) (i : Nat) (v : Nat) (hk : Keeps r₀ s) : Keeps r₀ (State.discardVersion s i v) := by
  unfold State.discardVersion
  try dsimp only
  repeat' with_reducible first
    | assumption
    | apply State.modFolio_keeps
    | apply State.sweepFolio_keeps
    | apply State.dropFolioAtc_keeps
    | split
    | apply keeps_set
    | apply keeps_set_ctxs
    | apply Keeps.ctxs
    | apply kTbl_mapV

theorem State.discardDraft_keeps {r₀ : State} (s : State) (i : Nat) (v : Nat) (hk : Keeps r₀ s) : Keeps r₀ (State.discardDraft s i v) := by
  unfold State.discardDraft
  try dsimp only
  repeat' with_reducible first
    | assumption
    | apply State.modFolio_keeps
    | apply State.discardVersion_keeps
    | split
    | apply keeps_set
    | apply keeps_set_ctxs
    | apply Keeps.ctxs
    | apply kTbl_mapV

theorem State.closeOpens_keeps {r₀ : State} (s : State) (k : Nat) (i : Nat) (v : Nat) (n : Nat) (hk : Keeps r₀ s) : Keeps r₀ (State.closeOpens s k i v n) := by
  unfold State.closeOpens
  try dsimp only
  repeat' with_reducible first
    | assumption
    | apply State.modCtx_keeps
    | apply State.sweepFolio_keeps
    | apply State.modFolio_keeps

theorem State.closeHolds_keeps {r₀ : State} (s : State) (k : Nat) (t : FolioHold → Bool) (hk : Keeps r₀ s) : Keeps r₀ (State.closeHolds s k t) := by
  unfold State.closeHolds
  repeat' with_reducible first
    | assumption
    | apply State.discardDraft_keeps
    | apply State.closeOpens_keeps
    | apply keeps_foldl
    | split
    | apply keeps_set
    | intro _

theorem State.unbindFolio_keeps {r₀ : State} (s : State) (i : Nat) (v : Nat) (hk : Keeps r₀ s) : Keeps r₀ (State.unbindFolio s i v) := by
  unfold State.unbindFolio
  repeat' with_reducible first
    | assumption
    | apply State.sweepFolio_keeps
    | apply State.modFolio_keeps

theorem State.bindFolio_keeps {r₀ : State} (s : State) (i : Nat) (v : Nat) (hk : Keeps r₀ s) : Keeps r₀ (State.bindFolio s i v) := by
  unfold State.bindFolio
  repeat' with_reducible first
    | assumption
    | apply State.modFolio_keeps

theorem State.bindGraph_keeps {r₀ : State} (s : State) (i : Nat) (n : Nat) (hk : Keeps r₀ s) : Keeps r₀ (State.bindGraph s i n) := by
  unfold State.bindGraph
  repeat' with_reducible first
    | assumption
    | apply State.modGraph_keeps

theorem State.unbindGraph_keeps {r₀ : State} (s : State) (i : Nat) (n : Nat) (hk : Keeps r₀ s) : Keeps r₀ (State.unbindGraph s i n) := by
  unfold State.unbindGraph
  repeat' with_reducible first
    | assumption
    | apply State.modGraph_keeps

theorem State.replyWith_keeps {r₀ : State} (s : State) (ch : Nat) (detail : Nat) (body : Bytes) (attrIndex : Nat) (needed : Nat) (retryAfter : Nat) (hk : Keeps r₀ s) : Keeps r₀ (State.replyWith s ch detail body attrIndex needed retryAfter) := by
  unfold State.replyWith
  try dsimp only
  repeat' with_reducible first
    | assumption
    | apply State.modChan_keeps
    | apply State.viaPath_keeps

theorem State.refuse_keeps {r₀ : State} (s : State) (ch : Nat) (detail : Nat) (hk : Keeps r₀ s) : Keeps r₀ (State.refuse s ch detail) := by
  unfold State.refuse
  repeat' with_reducible first
    | assumption
    | apply State.replyWith_keeps

theorem State.refuseAttr_keeps {r₀ : State} (s : State) (ch : Nat) (detail : Nat) (index : Nat) (hk : Keeps r₀ s) : Keeps r₀ (State.refuseAttr s ch detail index) := by
  unfold State.refuseAttr
  repeat' with_reducible first
    | assumption
    | apply State.replyWith_keeps

theorem State.accept_keeps {r₀ : State} (s : State) (ch : Nat) (body : Bytes) (hk : Keeps r₀ s) : Keeps r₀ (State.accept s ch body) := by
  unfold State.accept
  repeat' with_reducible first
    | assumption
    | apply State.replyWith_keeps

theorem State.tooLong_keeps {r₀ : State} (s : State) (ch : Nat) (n : Nat) (hk : Keeps r₀ s) : Keeps r₀ (State.tooLong s ch n) := by
  unfold State.tooLong
  repeat' with_reducible first
    | assumption
    | apply State.replyWith_keeps

theorem State.park_keeps {r₀ : State} (s : State) (ch : Nat) (hk : Keeps r₀ s) : Keeps r₀ (State.park s ch) := by
  unfold State.park
  repeat' with_reducible first
    | assumption
    | apply State.modChan_keeps

theorem State.acceptAll_keeps {r₀ : State} (s : State) (chs : List Nat) (body : Bytes) (hk : Keeps r₀ s) : Keeps r₀ (State.acceptAll s chs body) := by
  unfold State.acceptAll
  repeat' with_reducible first
    | assumption
    | apply State.accept_keeps
    | apply keeps_foldl
    | intro _

theorem State.newEpoch_keeps {r₀ : State} (s : State) (q : Nat) (hk : Keeps r₀ s) : Keeps r₀ (State.newEpoch s q) := by
  unfold State.newEpoch
  try dsimp only
  repeat' with_reducible first
    | assumption
    | apply State.modQueue_keeps
    | apply State.pushWrite_keeps
    | apply State.writeWord_keeps
    | apply keeps_set
    | apply keeps_set_errs
    | apply Keeps.errs
    | apply kErrs_mk_of
    | apply kQuarantine_filter
    | apply kErrQueues_put
    | apply kErrs_queue_le
    | apply kErrs_queues
    | apply kErrs_log
    | apply kErrs_quarantine

theorem State.deleteQueue_keeps {r₀ : State} (s : State) (q : Nat) (hk : Keeps r₀ s) : Keeps r₀ (State.deleteQueue s q) := by
  unfold State.deleteQueue
  try dsimp only
  repeat' with_reducible first
    | assumption
    | apply State.modQueue_keeps
    | apply State.pushWrite_keeps

theorem State.settleQueue_keeps {r₀ : State} (s : State) (q : Nat) (hk : Keeps r₀ s) : Keeps r₀ (State.settleQueue s q) := by
  unfold State.settleQueue
  try dsimp only
  repeat' with_reducible first
    | assumption
    | apply State.newEpoch_keeps
    | apply State.acceptAll_keeps
    | apply State.deleteQueue_keeps
    | split

theorem State.mgmtStopQueue_keeps {r₀ : State} (s : State) (q : Nat) (hk : Keeps r₀ s) : Keeps r₀ (State.mgmtStopQueue s q) := by
  unfold State.mgmtStopQueue
  try dsimp only
  repeat' with_reducible first
    | assumption
    | apply State.modQueue_keeps
    | apply State.setQState_keeps
    | split

theorem State.mgmtResumeQueue_keeps {r₀ : State} (s : State) (q : Nat) (hk : Keeps r₀ s) : Keeps r₀ (State.mgmtResumeQueue s q) := by
  unfold State.mgmtResumeQueue
  try dsimp only
  repeat' with_reducible first
    | assumption
    | apply State.modQueue_keeps
    | apply State.setQState_keeps
    | split

theorem State.stopPartition_keeps {r₀ : State} (s : State) (p : Nat) (hk : Keeps r₀ s) : Keeps r₀ (State.stopPartition s p) := by
  unfold State.stopPartition
  repeat' with_reducible first
    | assumption
    | apply State.mgmtStopQueue_keeps
    | apply State.modPart_keeps
    | apply keeps_foldl

theorem State.resumePartition_keeps {r₀ : State} (s : State) (p : Nat) (hk : Keeps r₀ s) : Keeps r₀ (State.resumePartition s p) := by
  unfold State.resumePartition
  repeat' with_reducible first
    | assumption
    | apply State.mgmtResumeQueue_keeps
    | apply State.modPart_keeps
    | apply keeps_foldl

theorem State.unbind_keeps {r₀ : State} (s : State) (e : Slot) (hk : Keeps r₀ s) : Keeps r₀ (State.unbind s e) := by
  unfold State.unbind
  try dsimp only
  repeat' with_reducible first
    | assumption
    | apply State.unbindGraph_keeps
    | apply State.unbindFolio_keeps
    | apply keeps_foldl
    | split
    | apply keeps_set
    | intro _

theorem State.retireOne_keeps {r₀ : State} (s : State) (e : Slot) (hk : Keeps r₀ s) : Keeps r₀ (State.retireOne s e) := by
  unfold State.retireOne
  try dsimp only
  repeat' with_reducible first
    | assumption
    | apply State.modQueue_keeps
    | apply State.modPart_keeps
    | apply State.dropSlot_keeps
    | apply State.unbind_keeps

theorem State.retireLoop_keeps {r₀ : State} (x0 : Nat) (x1 : State) (x2 : Nat) (hk : Keeps r₀ x1) : Keeps r₀ (State.retireLoop x0 x1 x2) := by
  induction x0 generalizing x1 with
  | zero => exact hk
  | succ n ih =>
    unfold State.retireLoop
    split
    · split
      · exact ih _ (State.retireOne_keeps _ _ hk)
      · exact hk
    · exact hk

theorem State.retireReady_keeps {r₀ : State} (s : State) (q : Nat) (hk : Keeps r₀ s) : Keeps r₀ (State.retireReady s q) := by
  unfold State.retireReady
  try dsimp only
  repeat' with_reducible first
    | assumption
    | apply State.retireLoop_keeps
    | apply State.settleQueue_keeps
    | apply State.writeWord_keeps
    | split

theorem State.finishSlot_keeps {r₀ : State} (s : State) (q : Nat) (seq : Nat) (status : Nat) (cause : Nat) (earliest : optParam Nat 0) (hk : Keeps r₀ s) : Keeps r₀ (State.finishSlot s q seq status cause earliest) := by
  unfold State.finishSlot
  try dsimp only
  repeat' with_reducible first
    | assumption
    | apply State.modSlot_keeps
    | apply State.modPart_keeps
    | apply State.pushRecord_keeps
    | apply State.retireReady_keeps
    | split
    | apply keeps_set
    | apply keeps_set_reqs
    | apply Keeps.reqs
    | apply kTbl_filter

theorem State.refuseSlot_keeps {r₀ : State} (s : State) (q : Nat) (seq : Nat) (status : Nat) (cause : Nat) (earliest : optParam Nat 0) (hk : Keeps r₀ s) : Keeps r₀ (State.refuseSlot s q seq status cause earliest) := by
  unfold State.refuseSlot
  repeat' with_reducible first
    | assumption
    | apply State.finishSlot_keeps
    | apply State.modQueue_keeps

theorem Core.force_pad {r₀ : State} (c : Core) (hk : KPad r₀ c.scratch) : KPad r₀ (Core.force c).scratch := by
  unfold Core.force
  repeat' with_reducible first
    | assumption
    | split

theorem Core.forceFor_pad {r₀ : State} (c : Core) (q : Nat) (seq : Nat) (hk : KPad r₀ c.scratch) : KPad r₀ (Core.forceFor c q seq).scratch := by
  unfold Core.forceFor
  try dsimp only
  repeat' with_reducible first
    | assumption
    | apply Core.force_pad
    | split

theorem State.forceLaunch_keeps {r₀ : State} (s : State) (q : Nat) (seq : Nat) (hk : Keeps r₀ s) : Keeps r₀ (State.forceLaunch s q seq) := by
  unfold State.forceLaunch
  repeat' with_reducible first
    | assumption
    | apply Core.forceFor_pad
    | (simp only [keeps_mk]; refine ⟨?_, ?_, ?_, ?_, ?_, ?_, ?_, ?_, ?_, ?_, ?_, ?_, ?_, ?_, ?_, ?_, ?_, ?_, ?_, ?_, ?_, ?_, ?_⟩)
    | apply Keeps.pending
    | apply Keeps.out
    | apply Keeps.fuses
    | apply Keeps.now
    | apply Keeps.free
    | apply Keeps.lanes
    | apply Keeps.fports
    | apply Keeps.parts
    | apply Keeps.ctxs
    | apply Keeps.queues
    | apply Keeps.graphs
    | apply Keeps.seqs
    | apply Keeps.extents
    | apply Keeps.folios
    | apply Keeps.atc
    | apply Keeps.xlats
    | apply Keeps.inbound
    | apply Keeps.reqs
    | apply Keeps.cores
    | apply Keeps.clusters
    | apply Keeps.accrued
    | apply Keeps.errs
    | apply Keeps.pads
    | apply kTbl_put
    | apply kTbl_del
    | apply kTbl_mapV
    | apply kTbl_filter
    | apply kTbl_nil
    | apply kTbl_map
    | apply kTbl_range
    | apply kCores_put
    | apply kCores_mapV
    | apply kCores_filter
    | apply kCores_nil
    | apply kErrs_mk_of
    | apply kQuarantine_filter
    | apply kErrs_queues
    | apply kErrs_log
    | apply kErrs_quarantine
    | apply kPad_nil
    | apply keeps_free_add
    | apply kErrQueues_put
    | apply kErrs_queue_le
    | apply blown_retire
    | apply blown_revoke
    | apply blown_rollback
    | apply blown_bank
    | apply keeps_now_le
    | apply keeps_now_add
    | apply kTime_now
    | simp only [kTime_mk]
    | intro _

theorem State.discardStagings_keeps {r₀ : State} (s : State) (e : Slot) (hk : Keeps r₀ s) : Keeps r₀ (State.discardStagings s e) := by
  unfold State.discardStagings
  repeat' with_reducible first
    | assumption
    | apply State.discardVersion_keeps
    | apply keeps_foldl
    | intro _

theorem State.endSlot_keeps {r₀ : State} (s : State) (q : Nat) (seq : Nat) (w : EndWhy) (hk : Keeps r₀ s) : Keeps r₀ (State.endSlot s q seq w) := by
  unfold State.endSlot
  try dsimp only
  repeat' with_reducible first
    | assumption
    | apply State.refuseSlot_keeps
    | apply State.finishSlot_keeps
    | apply State.modSlot_keeps
    | apply State.discardStagings_keeps
    | apply State.forceLaunch_keeps
    | split

theorem State.drainQueue_keeps {r₀ : State} (s : State) (q : Nat) (kind : Nat) (a : Option QueueAttrs) (w : EndWhy) (hk : Keeps r₀ s) : Keeps r₀ (State.drainQueue s q kind a w) := by
  unfold State.drainQueue
  try dsimp only
  repeat' with_reducible first
    | assumption
    | apply State.modQueue_keeps
    | apply State.setQState_keeps
    | apply State.settleQueue_keeps
    | apply State.endSlot_keeps
    | apply keeps_foldl
    | apply keeps_set
    | intro _

theorem State.endWhere_keeps {r₀ : State} (s : State) (t : Slot → Bool) (w : EndWhy) (hk : Keeps r₀ s) : Keeps r₀ (State.endWhere s t w) := by
  unfold State.endWhere
  repeat' with_reducible first
    | assumption
    | apply State.endSlot_keeps
    | apply keeps_foldl
    | intro _

theorem State.addReq_keeps {r₀ : State} (s : State) (r : MemReq) (hk : Keeps r₀ s) : Keeps r₀ (State.addReq s r) := by
  unfold State.addReq
  repeat' with_reducible first
    | assumption
    | apply keeps_set
    | apply keeps_set_reqs
    | apply Keeps.reqs
    | apply kTbl_put

theorem State.setReq_keeps {r₀ : State} (s : State) (id : Nat) (r : MemReq) (hk : Keeps r₀ s) : Keeps r₀ (State.setReq s id r) := by
  unfold State.setReq
  repeat' with_reducible first
    | assumption
    | apply keeps_set
    | apply keeps_set_reqs
    | apply Keeps.reqs
    | apply kTbl_put

theorem State.dropReq_keeps {r₀ : State} (s : State) (id : Nat) (hk : Keeps r₀ s) : Keeps r₀ (State.dropReq s id) := by
  unfold State.dropReq
  repeat' with_reducible first
    | assumption
    | apply keeps_set
    | apply keeps_set_reqs
    | apply Keeps.reqs
    | apply kTbl_del

theorem State.charge_keeps {r₀ s t : State} {r : MemReq} (e : s.charge r = some t) (hk : Keeps r₀ s) : Keeps r₀ t := by
  unfold State.charge at e
  dsimp only at e
  repeat' split at e
  all_goals cases e
  all_goals first
    | exact hk
    | exact State.modPart_keeps _ _ _ hk

theorem State.sendReq_keeps {r₀ : State} (s : State) (id : Nat) (r : MemReq) (tag : Nat) (hk : Keeps r₀ s) : Keeps r₀ (State.sendReq s id r tag) := by
  unfold State.sendReq
  try dsimp only
  repeat' with_reducible first
    | assumption
    | apply State.setReq_keeps
    | apply State.emit_keeps
    | split

theorem State.tryIssue_keeps {r₀ : State} (s : State) (id : Nat) (hk : Keeps r₀ s) : Keeps r₀ (State.tryIssue s id) := by
  unfold State.tryIssue
  repeat' with_reducible first
    | assumption
    | apply State.sendReq_keeps
    | refine State.charge_keeps (by assumption) ?_
    | split

theorem State.pumpPort_keeps {r₀ : State} (s : State) (port : Nat) (hk : Keeps r₀ s) : Keeps r₀ (State.pumpPort s port) := by
  unfold State.pumpPort
  repeat' with_reducible first
    | assumption
    | apply State.tryIssue_keeps
    | apply keeps_foldl

theorem State.issuePool_keeps {r₀ : State} (s : State) (id : Nat) (r : MemReq) (hk : Keeps r₀ s) : Keeps r₀ (State.issuePool s id r) := by
  unfold State.issuePool
  repeat' with_reducible first
    | assumption
    | apply State.tryIssue_keeps
    | apply State.draw_keeps
    | apply State.setReq_keeps

theorem State.writeBack_keeps {r₀ : State} (s : State) (p : Nat) (cluster : Nat) (addr : Nat) (bytes : Nat) (words : List (BitVec 288)) (hk : Keeps r₀ s) : Keeps r₀ (State.writeBack s p cluster addr bytes words) := by
  unfold State.writeBack
  try dsimp only
  repeat' with_reducible first
    | assumption
    | apply State.issuePool_keeps
    | apply State.addReq_keeps

theorem State.modLine_keeps {r₀ : State} (s : State) (p : Nat) (line : Nat) (f : Line → Line) (hk : Keeps r₀ s) : Keeps r₀ (State.modLine s p line f) := by
  unfold State.modLine
  repeat' with_reducible first
    | assumption
    | split
    | apply keeps_set

theorem State.flushLine_keeps {r₀ : State} (s : State) (l : Line) (hk : Keeps r₀ s) : Keeps r₀ (State.flushLine s l) := by
  unfold State.flushLine
  repeat' with_reducible first
    | assumption
    | apply State.writeBack_keeps
    | split

theorem State.dropLines_keeps {r₀ : State} (s : State) (flush : Bool) (t : Line → Bool) (hk : Keeps r₀ s) : Keeps r₀ (State.dropLines s flush t) := by
  unfold State.dropLines
  try dsimp only
  repeat' with_reducible first
    | assumption
    | apply State.flushLine_keeps
    | apply keeps_foldl
    | split
    | apply keeps_set

theorem State.keepLine_keeps {r₀ : State} (s : State) (p : Nat) (line : Nat) (hk : Keeps r₀ s) : Keeps r₀ (State.keepLine s p line) := by
  unfold State.keepLine
  try dsimp only
  repeat' with_reducible first
    | assumption
    | apply State.modLine_keeps
    | split

theorem State.hintLine_keeps {r₀ : State} (s : State) (p : Nat) (line : Nat) (h : Hint) (hk : Keeps r₀ s) : Keeps r₀ (State.hintLine s p line h) := by
  unfold State.hintLine
  try dsimp only
  repeat' with_reducible first
    | assumption
    | apply State.modLine_keeps
    | apply State.keepLine_keeps
    | split

theorem State.takeWay_keeps {r₀ s t : State} {p c set way : Nat} (e : s.takeWay p c set = some (t, way)) (hk : Keeps r₀ s) :
    Keeps r₀ t := by
  unfold State.takeWay at e
  dsimp only at e
  repeat' split at e
  all_goals cases e
  · exact hk
  · exact State.dropLines_keeps _ _ _ (State.flushLine_keeps _ _ hk)

theorem State.allocLine_keeps {r₀ : State} (s : State) (p : Nat) (c : Nat) (line : Nat) (words : List (BitVec 288)) (dirty : Bool) (keep : Bool) (h : Hint) (hk : Keeps r₀ s) : Keeps r₀ (State.allocLine s p c line words dirty keep h) := by
  unfold State.allocLine
  try dsimp only
  repeat' with_reducible first
    | assumption
    | apply State.writeBack_keeps
    | apply State.hintLine_keeps
    | apply State.keepLine_keeps
    | refine State.takeWay_keeps (by assumption) ?_
    | split
    | apply keeps_set

theorem State.countLines_keeps {r₀ : State} (s : State) (p : Nat) (hits : Nat) (misses : Nat) (hk : Keeps r₀ s) : Keeps r₀ (State.countLines s p hits misses) := by
  unfold State.countLines
  repeat' with_reducible first
    | assumption
    | apply State.modPart_keeps

theorem State.shareDirty_keeps {r₀ : State} (s : State) (p : Nat) (c : Nat) (line : Nat) (hk : Keeps r₀ s) : Keeps r₀ (State.shareDirty s p c line) := by
  unfold State.shareDirty
  repeat' with_reducible first
    | assumption
    | apply State.allocLine_keeps
    | split

theorem State.readPool_keeps {r₀ : State} (s : State) (id : Nat) (r : MemReq) (hk : Keeps r₀ s) : Keeps r₀ (State.readPool s id r) := by
  unfold State.readPool
  try dsimp only
  repeat' with_reducible first
    | assumption
    | apply State.shareDirty_keeps
    | apply State.countLines_keeps
    | apply State.hintLine_keeps
    | apply State.setReq_keeps
    | apply State.issuePool_keeps
    | apply keeps_foldl
    | split
    | apply keeps_set
    | intro _

theorem Errors.quarantineWord_kErrs {r₀ : State} (e : Errors) (folio page word : Nat) (hk : KErrs r₀ e) :
    KErrs r₀ (e.quarantineWord folio page word).1 := fun b => by
  have hb := hk b
  have hadd : ∀ x : Quarantine, x.words.length ≤ 8 → (x.addWord word).words.length ≤ 8 := fun x hx => by
    unfold Quarantine.addWord
    split
    · exact hx
    · split
      · exact hx
      · simp only [List.length_append, List.length_singleton]
        omega
  unfold Errors.quarantineWord
  split
  · refine ⟨hb.queues, hb.log, by simpa using hb.quarantine, fun x hx => ?_⟩
    obtain ⟨y, hy, rfl⟩ := List.mem_map.1 hx
    split
    · exact hadd y (hb.words y hy)
    · exact hb.words y hy
  · split
    · exact hb
    · next lt =>
      refine ⟨hb.queues, hb.log, ?_, fun x hx => ?_⟩
      · simp only [List.length_append, List.length_singleton]
        omega
      · rcases List.mem_append.1 hx with hx | hx
        · exact hb.words x hx
        · cases List.mem_singleton.1 hx
          simp

theorem State.quarantineAt_keeps {r₀ : State} (s : State) (addr : Nat) (hk : Keeps r₀ s) : Keeps r₀ (State.quarantineAt s addr) := by
  unfold State.quarantineAt
  split
  · exact hk
  · exact State.modFolio_keeps _ _ _ { hk with errs := Errors.quarantineWord_kErrs _ _ _ _ hk.errs }

theorem State.storePoison_keeps {r₀ : State} (s : State) (p : Nat) (c : Nat) (addr : Nat) (raw : BitVec 288) (syn : BitVec 32) (hk : Keeps r₀ s) : Keeps r₀ (State.storePoison s p c addr raw syn) := by
  unfold State.storePoison
  try dsimp only
  repeat' with_reducible first
    | assumption
    | apply State.logError_keeps
    | apply State.quarantineAt_keeps
    | apply State.writeBack_keeps

end Sys2Proof.Machine
end

