-- ==== Sys2Proof/Laws/KeepsQueues.lean ====
section
/-!
SUPPORT. What outlives every command outlives the operations of translation, slots, queues, folios, revocation and scheduling
(one lemma an operation, cited instead of unfolding it).
-/
namespace Sys2Proof.Machine

open Sys2Proof

theorem State.atcFill_keeps {r₀ : State} (s : State) (die : Nat) (a : Atc) (hk : Keeps r₀ s) : Keeps r₀ (State.atcFill s die a) := by
  unfold State.atcFill
  repeat' with_reducible first
    | assumption
    | split
    | apply keeps_set
    | apply keeps_set_atc
    | apply Keeps.atc
    | apply kTbl_put

theorem State.atcDrop_keeps {r₀ : State} (s : State) (t : Atc → Bool) (hk : Keeps r₀ s) : Keeps r₀ (State.atcDrop s t) := by
  unfold State.atcDrop
  try dsimp only
  repeat' with_reducible first
    | assumption
    | (simp only [keeps_mk]; refine ⟨?_, ?_, ?_, ?_, ?_, ?_, ?_, ?_, ?_, ?_, ?_, ?_, ?_, ?_, ?_, ?_, ?_, ?_, ?_, ?_, ?_, ?_, ?_⟩)
    | apply Keeps.pending
    | apply Keeps.out
    | apply Keeps.fuses
    | apply Keeps.now
    | apply Keeps.free
    | apply Keeps.lanes
    | apply Keeps.fports
    | apply Keeps.parts
    | apply Keeps.ctxs
    | apply Keeps.queues
    | apply Keeps.graphs
    | apply Keeps.seqs
    | apply Keeps.extents
    | apply Keeps.folios
    | apply Keeps.atc
    | apply Keeps.xlats
    | apply Keeps.inbound
    | apply Keeps.reqs
    | apply Keeps.cores
    | apply Keeps.clusters
    | apply Keeps.accrued
    | apply Keeps.errs
    | apply Keeps.pads
    | apply kTbl_put
    | apply kTbl_del
    | apply kTbl_mapV
    | apply kTbl_filter
    | apply kTbl_nil
    | apply kTbl_map
    | apply kTbl_range
    | apply kCores_put
    | apply kCores_mapV
    | apply kCores_filter
    | apply kCores_nil
    | apply kErrs_mk_of
    | apply kQuarantine_filter
    | apply kErrs_queues
    | apply kErrs_log
    | apply kErrs_quarantine
    | apply kPad_nil
    | apply keeps_free_add
    | apply kErrQueues_put
    | apply kErrs_queue_le
    | apply blown_retire
    | apply blown_revoke
    | apply blown_rollback
    | apply blown_bank
    | apply keeps_now_le
    | apply keeps_now_add
    | apply kTime_now
    | simp only [kTime_mk]
    | intro _

theorem State.pin_keeps {r₀ : State} (s : State) (core : Nat) (k : Nat) (hk : Keeps r₀ s) : Keeps r₀ (State.pin s core k) := by
  unfold State.pin
  repeat' with_reducible first
    | assumption
    | apply State.modCore_keeps
    | split
    | apply keeps_set
    | apply keeps_set_atc
    | apply Keeps.atc
    | apply kTbl_put
    | intro _

theorem State.unpinAll_keeps {r₀ : State} (s : State) (core : Nat) (hk : Keeps r₀ s) : Keeps r₀ (State.unpinAll s core) := by
  unfold State.unpinAll
  try dsimp only
  repeat' with_reducible first
    | assumption
    | apply State.modCore_keeps
    | apply keeps_foldl
    | split
    | apply keeps_set
    | apply keeps_set_atc
    | apply Keeps.atc
    | apply kTbl_put
    | intro _

theorem State.strandOf_keeps {r₀ : State} (s : State) (r : MemReq) (st : Strand) (hk : Keeps r₀ s) : Keeps r₀ (State.strandOf s r st) := by
  unfold State.strandOf
  repeat' with_reducible first
    | assumption
    | apply State.modCore_keeps
    | split
    | apply keeps_set
    | intro _

theorem State.noteStall_keeps {r₀ : State} (s : State) (k : Nat) (hk : Keeps r₀ s) : Keeps r₀ (State.noteStall s k) := by
  unfold State.noteStall
  repeat' with_reducible first
    | assumption
    | apply State.modCore_keeps
    | split
    | apply keeps_set
    | intro _

theorem State.strandNow_keeps {r₀ : State} (s : State) (r : MemReq) (st : Strand) (hk : Keeps r₀ s) : Keeps r₀ (State.strandNow s r st) := by
  unfold State.strandNow
  repeat' with_reducible first
    | assumption
    | apply State.noteStall_keeps
    | apply State.strandOf_keeps
    | split

theorem State.countUnresolved_keeps {r₀ : State} (s : State) (p : Nat) (x : Nat) (hk : Keeps r₀ s) : Keeps r₀ (State.countUnresolved s p x) := by
  unfold State.countUnresolved
  repeat' with_reducible first
    | assumption
    | apply State.modCtx_keeps

theorem State.unresolveReq_keeps {r₀ : State} (s : State) (id : Nat) (cause : Nat) (hk : Keeps r₀ s) : Keeps r₀ (State.unresolveReq s id cause) := by
  unfold State.unresolveReq
  try dsimp only
  repeat' with_reducible first
    | assumption
    | apply State.dropReq_keeps
    | apply State.modSlot_keeps
    | apply State.setReq_keeps
    | split

theorem State.unresolve_keeps {r₀ : State} (s : State) (id : Nat) (cause : Nat) (hk : Keeps r₀ s) : Keeps r₀ (State.unresolve s id cause) := by
  unfold State.unresolve
  repeat' with_reducible first
    | assumption
    | apply State.countUnresolved_keeps
    | apply State.unresolveReq_keeps
    | split

theorem State.modFault_keeps {r₀ : State} (s : State) (id : Nat) (f : FaultRec → FaultRec) (hk : Keeps r₀ s) : Keeps r₀ (State.modFault s id f) := by
  unfold State.modFault
  repeat' with_reducible first
    | assumption
    | split
    | apply keeps_set

theorem State.recordFault_keeps {r₀ : State} (s : State) (id : Nat) (page : Nat) (hk : Keeps r₀ s) : Keeps r₀ (State.recordFault s id page) := by
  unfold State.recordFault
  try dsimp only
  repeat' with_reducible first
    | assumption
    | apply State.strandNow_keeps
    | apply State.setReq_keeps
    | apply State.modFault_keeps
    | apply State.modCtx_keeps
    | split
    | apply keeps_set

theorem State.noteOverflow_keeps {r₀ : State} (s : State) (p : Nat) (x : Nat) (hk : Keeps r₀ s) : Keeps r₀ (State.noteOverflow s p x) := by
  unfold State.noteOverflow
  try dsimp only
  repeat' with_reducible first
    | assumption
    | apply State.modCtx_keeps

theorem State.bufferFault_keeps {r₀ : State} (s : State) (id : Nat) (hk : Keeps r₀ s) : Keeps r₀ (State.bufferFault s id) := by
  unfold State.bufferFault
  try dsimp only
  repeat' with_reducible first
    | assumption
    | apply State.noteOverflow_keeps
    | apply State.modFault_keeps
    | split

theorem State.ringWrite_keeps {r₀ : State} (s : State) (id : Nat) (hk : Keeps r₀ s) : Keeps r₀ (State.ringWrite s id) := by
  unfold State.ringWrite
  try dsimp only
  repeat' with_reducible first
    | assumption
    | apply State.modFault_keeps
    | apply State.modCtx_keeps
    | apply State.viaPort_keeps
    | split

theorem State.faultUnresolved_keeps {r₀ : State} (s : State) (id : Nat) (cause : Nat) (hk : Keeps r₀ s) : Keeps r₀ (State.faultUnresolved s id cause) := by
  unfold State.faultUnresolved
  try dsimp only
  repeat' with_reducible first
    | assumption
    | apply State.unresolveReq_keeps
    | apply State.countUnresolved_keeps
    | apply State.noteOverflow_keeps
    | apply keeps_foldl
    | split
    | apply keeps_set
    | intro _

theorem State.pageRequest_keeps {r₀ : State} (s : State) (ids : List Nat) (pasid : Nat) (hk : Keeps r₀ s) : Keeps r₀ (State.pageRequest s ids pasid) := by
  unfold State.pageRequest
  try dsimp only
  repeat' with_reducible first
    | assumption
    | apply State.modFault_keeps
    | apply State.emit_keeps
    | apply State.bufferFault_keeps
    | apply keeps_foldl
    | split
    | apply keeps_set
    | intro _

theorem State.deliverFaults_keeps {r₀ : State} (s : State) (p : Nat) (x : Nat) (ids : List Nat) (hk : Keeps r₀ s) : Keeps r₀ (State.deliverFaults s p x ids) := by
  unfold State.deliverFaults
  repeat' with_reducible first
    | assumption
    | apply State.faultUnresolved_keeps
    | apply State.pageRequest_keeps
    | apply State.ringWrite_keeps
    | apply State.bufferFault_keeps
    | apply keeps_foldl
    | split
    | apply keeps_set
    | intro _

theorem State.drainFaults_keeps {r₀ : State} (s : State) (p : Nat) (x : Nat) (hk : Keeps r₀ s) : Keeps r₀ (State.drainFaults s p x) := by
  unfold State.drainFaults
  try dsimp only
  repeat' with_reducible first
    | assumption
    | apply State.noteOverflow_keeps
    | apply State.deliverFaults_keeps
    | split

theorem State.askHost_keeps {r₀ : State} (s : State) (id : Nat) (r : MemReq) (c : Context) (hk : Keeps r₀ s) : Keeps r₀ (State.askHost s id r c) := by
  unfold State.askHost
  try dsimp only
  repeat' with_reducible first
    | assumption
    | apply State.strandNow_keeps
    | apply State.setReq_keeps
    | apply State.emit_keeps
    | split
    | apply keeps_set
    | apply keeps_set_xlats
    | apply Keeps.xlats
    | apply kTbl_put

theorem State.commitStreamNow_keeps {r₀ : State} (s : State) (core : Nat) (hk : Keeps r₀ s) : Keeps r₀ (State.commitStreamNow s core) := by
  unfold State.commitStreamNow
  repeat' with_reducible first
    | assumption
    | apply State.noteStall_keeps
    | apply State.modCore_keeps
    | split
    | apply keeps_set
    | intro _

theorem State.hostAccess_keeps {r₀ : State} (s : State) (id : Nat) (r : MemReq) (k : Nat) (a : Atc) (hk : Keeps r₀ s) : Keeps r₀ (State.hostAccess s id r k a) := by
  unfold State.hostAccess
  try dsimp only
  repeat' with_reducible first
    | assumption
    | apply State.commitStreamNow_keeps
    | apply State.pin_keeps
    | apply State.dropReq_keeps
    | apply State.emit_keeps
    | apply State.strandNow_keeps
    | apply State.setReq_keeps
    | split
    | apply keeps_set
    | apply keeps_set_atc
    | apply Keeps.atc
    | apply kTbl_put

theorem State.windowAccess_keeps {r₀ : State} (s : State) (id : Nat) (r : MemReq) (c : Context) (hk : Keeps r₀ s) : Keeps r₀ (State.windowAccess s id r c) := by
  unfold State.windowAccess
  try dsimp only
  repeat' with_reducible first
    | assumption
    | apply State.unresolve_keeps
    | apply State.commitStreamNow_keeps
    | apply State.dropReq_keeps
    | apply State.strandNow_keeps
    | apply State.setReq_keeps
    | apply State.viaPort_keeps
    | split

theorem State.startGuest_keeps {r₀ : State} (s : State) (id : Nat) (hk : Keeps r₀ s) : Keeps r₀ (State.startGuest s id) := by
  unfold State.startGuest
  repeat' with_reducible first
    | assumption
    | apply State.unresolve_keeps
    | apply State.windowAccess_keeps
    | apply State.hostAccess_keeps
    | apply State.askHost_keeps
    | split

theorem State.askPageList_keeps {r₀ : State} (s : State) (id : Nat) (r : MemReq) (i : Nat) (v : Nat) (page : Nat) (hk : Keeps r₀ s) : Keeps r₀ (State.askPageList s id r i v page) := by
  unfold State.askPageList
  try dsimp only
  repeat' with_reducible first
    | assumption
    | apply State.strandNow_keeps
    | apply State.setReq_keeps
    | split
    | apply keeps_set
    | apply keeps_set_xlats
    | apply Keeps.xlats
    | apply kTbl_put

theorem State.startPool_keeps {r₀ : State} (s : State) (id : Nat) (r : MemReq) (hk : Keeps r₀ s) : Keeps r₀ (State.startPool s id r) := by
  unfold State.startPool
  try dsimp only
  repeat' with_reducible first
    | assumption
    | apply State.readPool_keeps
    | apply State.strandNow_keeps
    | split

theorem State.startFolio_keeps {r₀ : State} (s : State) (id : Nat) (hk : Keeps r₀ s) : Keeps r₀ (State.startFolio s id) := by
  unfold State.startFolio
  repeat' with_reducible first
    | assumption
    | apply State.commitStreamNow_keeps
    | apply State.pin_keeps
    | apply State.dropReq_keeps
    | apply State.startPool_keeps
    | apply State.askPageList_keeps
    | split

theorem State.startReq_keeps {r₀ : State} (s : State) (r : MemReq) (hk : Keeps r₀ s) : Keeps r₀ (State.startReq s r) := by
  unfold State.startReq
  try dsimp only
  repeat' with_reducible first
    | assumption
    | apply State.startGuest_keeps
    | apply State.addReq_keeps
    | apply State.startFolio_keeps
    | apply State.startPool_keeps
    | split

theorem State.restart_keeps {r₀ : State} (s : State) (ids : List Nat) (hk : Keeps r₀ s) : Keeps r₀ (State.restart s ids) := by
  unfold State.restart
  repeat' with_reducible first
    | assumption
    | apply State.startGuest_keeps
    | apply State.startFolio_keeps
    | apply keeps_foldl
    | split
    | apply keeps_set
    | intro _

theorem State.freeXlat_keeps {r₀ : State} (s : State) (k : Nat) (waiters : List Nat) (hk : Keeps r₀ s) : Keeps r₀ (State.freeXlat s k waiters) := by
  unfold State.freeXlat
  try dsimp only
  repeat' with_reducible first
    | assumption
    | apply State.restart_keeps
    | apply keeps_set
    | apply keeps_set_xlats
    | apply Keeps.xlats
    | apply kTbl_del

theorem State.resolveBinding_keeps {r₀ s t : State} {e : Slot} {os : List Override} {i : Nat} {b : Binding} {x : Reloc}
    (h : s.resolveBinding e os i b = .ok (t, x)) (hk : Keeps r₀ s) : Keeps r₀ t := by
  unfold State.resolveBinding at h
  dsimp only at h
  repeat' split at h
  all_goals try cases h
  all_goals try exact hk
  · unfold State.resolveRead at h
    dsimp only at h
    repeat' split at h
    all_goals cases h
    all_goals exact hk
  · unfold State.resolveOutput at h
    dsimp only at h
    repeat' split at h
    all_goals cases h
    all_goals first
      | exact hk
      | exact { hk with folios := kTbl_put _ _ hk.folios }

theorem State.resolveAll_keeps {r₀ : State} (s : State) (e : Slot) (os : List Override) (x0 : List (Nat × Binding)) (x1 : List Reloc) (hk : Keeps r₀ s) : Keeps r₀ (State.resolveAll s e os x0 x1).1 := by
  induction x0 generalizing s x1 with
  | nil => exact hk
  | cons x l ih =>
    obtain ⟨i, b⟩ := x
    unfold State.resolveAll
    split
    · next e => exact ih _ _ (State.resolveBinding_keeps e hk)
    · exact hk

theorem State.admitSlot_keeps {r₀ : State} (s : State) (q : Nat) (seq : Nat) (hk : Keeps r₀ s) : Keeps r₀ (State.admitSlot s q seq) := by
  unfold State.admitSlot
  try dsimp only
  repeat' with_reducible first
    | assumption
    | apply State.modSlot_keeps
    | apply State.modQueue_keeps
    | apply keeps_set

theorem State.refuseLaunch_keeps {r₀ : State} (s : State) (e : Slot) (rs : List Reloc) (x : Refused) (earliest : Nat) (hk : Keeps r₀ s) : Keeps r₀ (State.refuseLaunch s e rs x earliest) := by
  unfold State.refuseLaunch
  repeat' with_reducible first
    | assumption
    | apply State.refuseSlot_keeps
    | apply State.discardStagings_keeps

theorem State.bindAll_keeps {r₀ : State} (s : State) (graph : Nat) (version : Nat) (rs : List Reloc) (hk : Keeps r₀ s) : Keeps r₀ (State.bindAll s graph version rs) := by
  unfold State.bindAll
  repeat' with_reducible first
    | assumption
    | apply State.bindFolio_keeps
    | apply State.bindGraph_keeps
    | apply keeps_foldl
    | split
    | apply keeps_set
    | intro _

theorem State.enterLaunch_keeps {r₀ : State} (s : State) (e : Slot) (graph : Nat) (gv : GraphVersion) (rs : List Reloc) (pr : Option Promise) (cp : List Nat) (cf : List Nat) (holds : List Hold) (hk : Keeps r₀ s) : Keeps r₀ (State.enterLaunch s e graph gv rs pr cp cf holds) := by
  unfold State.enterLaunch
  try dsimp only
  repeat' with_reducible first
    | assumption
    | apply State.bindAll_keeps
    | apply State.modSlot_keeps
    | apply State.modPart_keeps
    | apply State.admitSlot_keeps
    | apply State.pushRecord_keeps
    | split

theorem State.admitLaunch_keeps {r₀ : State} (s : State) (e : Slot) (graph : Nat) (gv : GraphVersion) (v : Variant) (rs : List Reloc) (hk : Keeps r₀ s) : Keeps r₀ (State.admitLaunch s e graph gv v rs) := by
  unfold State.admitLaunch
  try dsimp only
  repeat' with_reducible first
    | assumption
    | apply State.refuseLaunch_keeps
    | apply State.modPart_keeps
    | apply State.enterLaunch_keeps
    | split

theorem State.readGuest_keeps {r₀ : State} (s : State) (e : Slot) (addr : Nat) (n : Nat) (hk : Keeps r₀ s) : Keeps r₀ (State.readGuest s e addr n) := by
  unfold State.readGuest
  repeat' with_reducible first
    | assumption
    | apply State.startReq_keeps
    | apply keeps_foldl
    | intro _

theorem State.endRead_keeps {r₀ : State} (s : State) (e : Slot) (hk : Keeps r₀ s) : Keeps r₀ (State.endRead s e) := by
  unfold State.endRead
  repeat' with_reducible first
    | assumption
    | apply State.modSlot_keeps
    | apply keeps_set
    | apply keeps_set_reqs
    | apply Keeps.reqs
    | apply kTbl_filter

theorem State.bindLaunch_keeps {r₀ : State} (s : State) (e : Slot) (graph : Nat) (gv : GraphVersion) (v : Variant) (hk : Keeps r₀ s) : Keeps r₀ (State.bindLaunch s e graph gv v) := by
  unfold State.bindLaunch
  split
  · exact State.refuseSlot_keeps _ _ _ _ _ _ hk
  · next os _ =>
    have hv := State.resolveAll_keeps s e os ((List.range gv.image.bindings.length).zip gv.image.bindings) [] hk
    split
    · next h => rw [h] at hv; exact State.admitLaunch_keeps _ _ _ _ _ _ hv
    · next h => rw [h] at hv; exact State.refuseLaunch_keeps _ _ _ _ _ hv

theorem State.checkLaunch_keeps {r₀ : State} (s : State) (q : Nat) (seq : Nat) (hk : Keeps r₀ s) : Keeps r₀ (State.checkLaunch s q seq) := by
  unfold State.checkLaunch
  try dsimp only
  repeat' with_reducible first
    | assumption
    | apply State.refuseSlot_keeps
    | apply State.modSlot_keeps
    | apply State.readGuest_keeps
    | apply State.bindLaunch_keeps
    | split

theorem State.onQueuePage_keeps {r₀ : State} (s : State) (r : Requester) (q : Nat) (reg : Nat) (f : State → State) (hk : Keeps r₀ s) (hf : ∀ s, Keeps r₀ s → Keeps r₀ (f s)) : Keeps r₀ (State.onQueuePage s r q reg f) := by
  unfold State.onQueuePage
  repeat' with_reducible first
    | assumption
    | apply State.access_keeps
    | apply State.badAccess_keeps
    | apply hf
    | split
    | intro _

theorem State.refuseUnfetched_keeps {r₀ : State} (s : State) (q : Nat) (seq : Nat) (status : Nat) (cause : Nat) (hk : Keeps r₀ s) : Keeps r₀ (State.refuseUnfetched s q seq status cause) := by
  unfold State.refuseUnfetched
  try dsimp only
  repeat' with_reducible first
    | assumption
    | apply State.refuseSlot_keeps
    | apply keeps_set

theorem State.refuseBlocked_keeps {r₀ : State} (x0 : Nat) (x1 : State) (x2 : Nat) (hk : Keeps r₀ x1) : Keeps r₀ (State.refuseBlocked x0 x1 x2) := by
  induction x0 generalizing x1 with
  | zero => exact hk
  | succ n ih => exact ih _ (State.refuseUnfetched_keeps _ _ _ _ _ (State.modQueue_keeps _ _ _ hk))

theorem State.startResume_keeps {r₀ : State} (s : State) (q : Nat) (hk : Keeps r₀ s) : Keeps r₀ (State.startResume s q) := by
  unfold State.startResume
  try dsimp only
  repeat' with_reducible first
    | assumption
    | apply State.modQueue_keeps
    | apply State.pushWrite_keeps
    | apply keeps_foldl
    | split
    | apply keeps_set
    | intro _

theorem State.endResume_keeps {r₀ : State} (s : State) (q : Nat) (hk : Keeps r₀ s) : Keeps r₀ (State.endResume s q) := by
  unfold State.endResume
  try dsimp only
  repeat' with_reducible first
    | assumption
    | apply State.modQueue_keeps
    | apply State.pushWrite_keeps
    | apply State.refuseBlocked_keeps
    | apply State.writeWord_keeps
    | split

theorem State.noteBlocked_keeps {r₀ : State} (s : State) (q : Nat) (hk : Keeps r₀ s) : Keeps r₀ (State.noteBlocked s q) := by
  unfold State.noteBlocked
  try dsimp only
  repeat' with_reducible first
    | assumption
    | apply State.modPart_keeps
    | apply State.icFire_keeps

theorem State.onSlot_keeps {r₀ : State} (s : State) (q : Nat) (seq : Nat) (t : Slot → Bool) (f : Slot → State → State) (hk : Keeps r₀ s) (hf : ∀ y0 s, Keeps r₀ s → Keeps r₀ (f y0 s)) : Keeps r₀ (State.onSlot s q seq t f) := by
  unfold State.onSlot
  repeat' with_reducible first
    | assumption
    | apply State.when_keeps
    | apply hf
    | split

theorem State.finishOk_keeps {r₀ : State} (s : State) (e : Slot) (hk : Keeps r₀ s) : Keeps r₀ (State.finishOk s e) := by
  unfold State.finishOk
  repeat' with_reducible first
    | assumption
    | apply State.finishSlot_keeps

theorem State.refuseArgs_keeps {r₀ : State} (s : State) (e : Slot) (hk : Keeps r₀ s) : Keeps r₀ (State.refuseArgs s e) := by
  unfold State.refuseArgs
  repeat' with_reducible first
    | assumption
    | apply State.refuseSlot_keeps

theorem State.checkOpcode_keeps {r₀ : State} (s : State) (e : Slot) (hk : Keeps r₀ s) : Keeps r₀ (State.checkOpcode s e) := by
  unfold State.checkOpcode
  try dsimp only
  repeat' with_reducible first
    | assumption
    | apply State.checkLaunch_keeps
    | apply State.modSlot_keeps
    | apply State.refuseArgs_keeps
    | apply State.readGuest_keeps
    | apply State.admitSlot_keeps
    | split

theorem State.checkArrival_keeps {r₀ : State} (s : State) (q : Nat) (b : Bytes) (hk : Keeps r₀ s) : Keeps r₀ (State.checkArrival s q b) := by
  unfold State.checkArrival
  try dsimp only
  repeat' with_reducible first
    | assumption
    | apply State.refuseSlot_keeps
    | apply State.checkOpcode_keeps
    | apply State.refuseArgs_keeps
    | split
    | apply keeps_set

theorem State.startLaunch_keeps {r₀ : State} (s : State) (e : Slot) (hk : Keeps r₀ s) : Keeps r₀ (State.startLaunch s e) := by
  unfold State.startLaunch
  repeat' with_reducible first
    | assumption
    | apply State.modSlot_keeps

theorem State.sendAdvice_keeps {r₀ : State} (s : State) (e : Slot) (kind : Nat) (whenCt : Nat) (hk : Keeps r₀ s) : Keeps r₀ (State.sendAdvice s e kind whenCt) := by
  unfold State.sendAdvice
  try dsimp only
  repeat' with_reducible first
    | assumption
    | apply State.emit_keeps
    | apply State.modSlot_keeps

theorem State.adviseOut_keeps {r₀ : State} (s : State) (q : Nat) (seq : Nat) (value : Nat) (hk : Keeps r₀ s) : Keeps r₀ (State.adviseOut s q seq value) := by
  unfold State.adviseOut
  repeat' with_reducible first
    | assumption
    | apply State.onSlot_keeps
    | apply State.sendAdvice_keeps
    | split
    | intro _

theorem State.fillLine_keeps {r₀ : State} (s : State) (e : Slot) (keep : Bool) (cluster : Nat) (line : Nat) (hk : Keeps r₀ s) : Keeps r₀ (State.fillLine s e keep cluster line) := by
  unfold State.fillLine
  try dsimp only
  repeat' with_reducible first
    | assumption
    | apply State.keepLine_keeps
    | apply State.modSlot_keeps
    | apply State.issuePool_keeps
    | apply State.addReq_keeps
    | split

theorem State.fillRange_keeps {r₀ : State} (s : State) (e : Slot) (hk : Keeps r₀ s) : Keeps r₀ (State.fillRange s e) := by
  unfold State.fillRange
  try dsimp only
  repeat' with_reducible first
    | assumption
    | apply State.modSlot_keeps
    | apply State.fillLine_keeps
    | apply keeps_foldl
    | split
    | apply keeps_set
    | intro _

theorem State.settleAdvice_keeps {r₀ : State} (s : State) (q : Nat) (seq : Nat) (hk : Keeps r₀ s) : Keeps r₀ (State.settleAdvice s q seq) := by
  unfold State.settleAdvice
  repeat' with_reducible first
    | assumption
    | apply State.onSlot_keeps
    | apply State.finishOk_keeps
    | intro _

theorem State.startFence_keeps {r₀ : State} (s : State) (q : Nat) (seq : Nat) (scope : Nat) (hk : Keeps r₀ s) : Keeps r₀ (State.startFence s q seq scope) := by
  unfold State.startFence
  try dsimp only
  repeat' with_reducible first
    | assumption
    | apply State.onSlot_keeps
    | apply State.modSlot_keeps
    | apply State.when_keeps
    | apply State.finishOk_keeps
    | apply keeps_set
    | intro _

theorem State.seqRetire_keeps {r₀ : State} (s : State) (q : Nat) (seq : Nat) (mode : Nat) (t : Bytes → SeqEntry → Bool) (hk : Keeps r₀ s) : Keeps r₀ (State.seqRetire s q seq mode t) := by
  unfold State.seqRetire
  try dsimp only
  repeat' with_reducible first
    | assumption
    | apply State.onSlot_keeps
    | apply State.modSlot_keeps
    | apply State.admitSlot_keeps
    | apply State.when_keeps
    | apply State.finishOk_keeps
    | split
    | apply keeps_set
    | apply keeps_set_seqs
    | apply Keeps.seqs
    | apply kTbl_mapV
    | apply kTbl_filter
    | apply kTbl_map
    | intro _

theorem State.finishFolio_keeps {r₀ : State} (s : State) (e : Slot) (i : Nat) (v : Nat) (status : Nat) (hk : Keeps r₀ s) : Keeps r₀ (State.finishFolio s e i v status) := by
  unfold State.finishFolio
  try dsimp only
  repeat' with_reducible first
    | assumption
    | apply State.pushWrite_keeps
    | apply State.finishSlot_keeps
    | split

theorem State.onFolio_keeps {r₀ : State} (s : State) (q : Nat) (seq : Nat) (op : Nat) (mapped : Bool) (t : Bytes → Bool) (f : Slot → Nat → Folio → State → State) (hk : Keeps r₀ s) (hf : ∀ y0 y1 y2 s, Keeps r₀ s → Keeps r₀ (f y0 y1 y2 s)) : Keeps r₀ (State.onFolio s q seq op mapped t f) := by
  unfold State.onFolio
  repeat' with_reducible first
    | assumption
    | apply State.onSlot_keeps
    | apply State.finishSlot_keeps
    | apply hf
    | split
    | apply keeps_set
    | intro _

theorem State.addOpen_keeps {r₀ : State} (s : State) (e : Slot) (i : Nat) (v : Nat) (hk : Keeps r₀ s) : Keeps r₀ (State.addOpen s e i v) := by
  unfold State.addOpen
  try dsimp only
  repeat' with_reducible first
    | assumption
    | apply State.modFolio_keeps
    | apply State.modCtx_keeps

theorem State.startMirror_keeps {r₀ : State} (s : State) (i : Nat) (v : Nat) (hk : Keeps r₀ s) : Keeps r₀ (State.startMirror s i v) := by
  unfold State.startMirror
  try dsimp only
  repeat' with_reducible first
    | assumption
    | apply State.modFolio_keeps
    | apply State.icFire_keeps
    | split

theorem State.publish_keeps {r₀ : State} (s : State) (i : Nat) (v : Nat) (base : Nat) (source : Nat) (hk : Keeps r₀ s) : Keeps r₀ (State.publish s i v base source) := by
  unfold State.publish
  repeat' with_reducible first
    | assumption
    | apply State.sweepFolio_keeps
    | apply State.startMirror_keeps
    | apply State.modFolio_keeps

theorem State.draftToOpen_keeps {r₀ : State} (s : State) (e : Slot) (i : Nat) (v : Nat) (hk : Keeps r₀ s) : Keeps r₀ (State.draftToOpen s e i v) := by
  unfold State.draftToOpen
  try dsimp only
  repeat' with_reducible first
    | assumption
    | apply State.modCtx_keeps
    | apply State.addOpen_keeps

theorem State.publishList_keeps {r₀ : State} (s : State) (e : Slot) (i : Nat) (f : Folio) (pages : List Nat) (hk : Keeps r₀ s) : Keeps r₀ (State.publishList s e i f pages) := by
  unfold State.publishList
  try dsimp only
  repeat' with_reducible first
    | assumption
    | apply State.finishSlot_keeps
    | apply State.finishFolio_keeps
    | apply State.publish_keeps
    | split
    | apply keeps_set
    | apply keeps_set_folios
    | apply Keeps.folios
    | apply kTbl_put

theorem State.giveMirrors_keeps {r₀ : State} (s : State) (i : Nat) (v : Nat) (owner : Nat) (x0 : List Nat) (hk : Keeps r₀ s) : Keeps r₀ (State.giveMirrors s i v owner x0) := by
  induction x0 generalizing s with
  | nil => exact hk
  | cons k l ih =>
    unfold State.giveMirrors
    dsimp only
    split
    · exact hk
    · split
      · exact ih _ hk
      · exact ih _ (State.modFolio_keeps _ _ _ hk)

theorem State.raiseFence_keeps {r₀ : State} (s : State) (k : Nat) (p : Option Nat) (reply : List Nat) (hk : Keeps r₀ s) : Keeps r₀ (State.raiseFence s k p reply) := by
  unfold State.raiseFence
  try dsimp only
  repeat' with_reducible first
    | assumption
    | apply State.endWhere_keeps
    | apply State.discardDraft_keeps
    | apply keeps_foldl
    | split
    | (simp only [keeps_mk]; refine ⟨?_, ?_, ?_, ?_, ?_, ?_, ?_, ?_, ?_, ?_, ?_, ?_, ?_, ?_, ?_, ?_, ?_, ?_, ?_, ?_, ?_, ?_, ?_⟩)
    | apply Keeps.pending
    | apply Keeps.out
    | apply Keeps.fuses
    | apply Keeps.now
    | apply Keeps.free
    | apply Keeps.lanes
    | apply Keeps.fports
    | apply Keeps.parts
    | apply Keeps.ctxs
    | apply Keeps.queues
    | apply Keeps.graphs
    | apply Keeps.seqs
    | apply Keeps.extents
    | apply Keeps.folios
    | apply Keeps.atc
    | apply Keeps.xlats
    | apply Keeps.inbound
    | apply Keeps.reqs
    | apply Keeps.cores
    | apply Keeps.clusters
    | apply Keeps.accrued
    | apply Keeps.errs
    | apply Keeps.pads
    | apply kTbl_put
    | apply kTbl_del
    | apply kTbl_mapV
    | apply kTbl_filter
    | apply kTbl_nil
    | apply kTbl_map
    | apply kTbl_range
    | apply kCores_put
    | apply kCores_mapV
    | apply kCores_filter
    | apply kCores_nil
    | apply kErrs_mk_of
    | apply kQuarantine_filter
    | apply kErrs_queues
    | apply kErrs_log
    | apply kErrs_quarantine
    | apply kPad_nil
    | apply keeps_free_add
    | apply kErrQueues_put
    | apply kErrs_queue_le
    | apply blown_retire
    | apply blown_revoke
    | apply blown_rollback
    | apply blown_bank
    | apply keeps_now_le
    | apply keeps_now_add
    | apply kTime_now
    | simp only [kTime_mk]
    | intro _

theorem State.askRevoke_keeps {r₀ : State} (s : State) (k : Nat) (p : Option Nat) (ch : Option Nat) (hk : Keeps r₀ s) : Keeps r₀ (State.askRevoke s k p ch) := by
  unfold State.askRevoke
  try dsimp only
  repeat' with_reducible first
    | assumption
    | apply State.acceptAll_keeps
    | apply State.park_keeps
    | apply State.raiseFence_keeps
    | apply State.modExtent_keeps
    | apply keeps_foldl
    | split

theorem State.settleFences_keeps {r₀ : State} (s : State) (hk : Keeps r₀ s) : Keeps r₀ (State.settleFences s) := by
  unfold State.settleFences
  repeat' with_reducible first
    | assumption
    | split
    | apply keeps_set
    | apply keeps_set_extents
    | apply Keeps.extents
    | apply kTbl_mapV

theorem State.nextRevocation_keeps {r₀ : State} (s : State) (k : Nat) (hk : Keeps r₀ s) : Keeps r₀ (State.nextRevocation s k) := by
  unfold State.nextRevocation
  repeat' with_reducible first
    | assumption
    | apply State.askRevoke_keeps
    | apply State.modExtent_keeps
    | apply keeps_foldl
    | split
    | apply keeps_set
    | intro _

theorem State.dropExtentLines_keeps {r₀ : State} (s : State) (x : Extent) (hk : Keeps r₀ s) : Keeps r₀ (State.dropExtentLines s x) := by
  unfold State.dropExtentLines
  repeat' with_reducible first
    | assumption
    | apply State.dropLines_keeps

theorem State.invalidated_keeps {r₀ : State} (s : State) (k : Nat) (hk : Keeps r₀ s) : Keeps r₀ (State.invalidated s k) := by
  unfold State.invalidated
  try dsimp only
  repeat' with_reducible first
    | assumption
    | apply State.dropExtentLines_keeps
    | apply State.atcDrop_keeps
    | apply State.acceptAll_keeps
    | apply State.modExtent_keeps
    | apply State.nextRevocation_keeps
    | apply State.emit_keeps
    | split

theorem State.modShares_keeps {r₀ : State} (s : State) (p : Nat) (c : Nat) (f : Shares → Shares) (hk : Keeps r₀ s) : Keeps r₀ (State.modShares s p c f) := by
  unfold State.modShares
  repeat' with_reducible first
    | assumption
    | apply State.modCluster_keeps
    | split
    | apply keeps_set

theorem State.account_keeps {r₀ : State} (s : State) (key : Nat) (f : Account → Account) (hk : Keeps r₀ s) : Keeps r₀ (State.account s key f) := by
  unfold State.account
  repeat' with_reducible first
    | assumption
    | apply State.modCtx_keeps

theorem State.followWait_keeps {r₀ : State} (s : State) (e : Slot) (hk : Keeps r₀ s) : Keeps r₀ (State.followWait s e) := by
  unfold State.followWait
  repeat' with_reducible first
    | assumption
    | apply State.modSlot_keeps
    | apply State.account_keeps
    | split

theorem State.track_keeps {r₀ : State} (s : State) (hk : Keeps r₀ s) : Keeps r₀ (State.track s) := by
  unfold State.track
  try dsimp only
  repeat' with_reducible first
    | assumption
    | apply State.modShares_keeps
    | apply State.followWait_keeps
    | apply keeps_foldl
    | split
    | apply Keeps.now
    | apply kTbl_map
    | apply kTbl_range
    | intro _

theorem State.chargeTile_keeps {r₀ : State} (s : State) (k : Nat) (discarded : Bool) (hk : Keeps r₀ s) : Keeps r₀ (State.chargeTile s k discarded) := by
  unfold State.chargeTile
  try dsimp only
  repeat' with_reducible first
    | assumption
    | apply State.account_keeps
    | apply State.modShares_keeps
    | split

theorem Core.idle_pad {r₀ : State} (c : Core) (hk : KPad r₀ c.scratch) : KPad r₀ (Core.idle c).scratch := by
  unfold Core.idle
  repeat' with_reducible first
    | assumption

theorem Core.lowerBin_pad {r₀ : State} (c : Core) (hk : KPad r₀ c.scratch) : KPad r₀ (Core.lowerBin c).scratch := by
  unfold Core.lowerBin
  repeat' with_reducible first
    | assumption
    | split

theorem State.endTile_keeps {r₀ : State} (s : State) (k : Nat) (hk : Keeps r₀ s) : Keeps r₀ (State.endTile s k) := by
  unfold State.endTile
  try dsimp only
  repeat' with_reducible first
    | assumption
    | apply State.settleFences_keeps
    | apply State.modCore_keeps
    | apply Core.lowerBin_pad
    | apply Core.idle_pad
    | split
    | apply keeps_set
    | intro _

theorem State.settleLaunch_keeps {r₀ : State} (s : State) (q : Nat) (seq : Nat) (hk : Keeps r₀ s) : Keeps r₀ (State.settleLaunch s q seq) := by
  unfold State.settleLaunch
  try dsimp only
  repeat' with_reducible first
    | assumption
    | apply State.modSlot_keeps
    | split

theorem State.monitorOne_keeps {r₀ : State} (s : State) (q : Nat) (seq : Nat) (hk : Keeps r₀ s) : Keeps r₀ (State.monitorOne s q seq) := by
  unfold State.monitorOne
  try dsimp only
  repeat' with_reducible first
    | assumption
    | apply State.modSlot_keeps
    | apply State.endSlot_keeps
    | apply State.icFire_keeps
    | apply State.modPart_keeps
    | split

end Sys2Proof.Machine
end

