-- ==== Sys2Proof/Laws/KeepsTiles.lean ====
section
/-!
SUPPORT. What outlives every command outlives the operations of tiles, memory commits, translation answers, start-up and keys
(one lemma an operation, cited instead of unfolding it).
-/
namespace Sys2Proof.Machine

open Sys2Proof

theorem Core.poke_pad {r₀ : State} (c : Core) (dst : Nat) (b : Bytes) (hk : KPad r₀ c.scratch) : KPad r₀ (Core.poke c dst b).scratch := by
  unfold Core.poke
  repeat' with_reducible first
    | assumption
    | apply kPad_writes

theorem Core.pokeOut_pad {r₀ : State} (c : Core) (dst : Nat) (b : Bytes) (nans : Nat) (hk : KPad r₀ c.scratch) : KPad r₀ (Core.pokeOut c dst b nans).scratch := by
  unfold Core.pokeOut
  repeat' with_reducible first
    | assumption
    | apply Core.poke_pad

theorem Core.pass_pad {r₀ : State} (c : Core) (p : EnginePass) (m : PhaseMap) (seq : Nat) (draw : Nat) (rerun : Bool) (hk : KPad r₀ c.scratch) : KPad r₀ (Core.pass c p m seq draw rerun).scratch := by
  unfold Core.pass
  try dsimp only
  repeat' with_reducible first
    | assumption

theorem Core.quantise_pad {r₀ : State} (c : Core) (dst : Nat) (f : Fmt) (xs : List (BitVec 32)) (hk : KPad r₀ c.scratch) : KPad r₀ (Core.quantise c dst f xs).scratch := by
  unfold Core.quantise
  try dsimp only
  repeat' with_reducible first
    | assumption
    | apply Core.poke_pad

theorem Core.vector_pad {r₀ : State} (c : Core) (dst : Nat) (op : VecOp) (xs : List (BitVec 64)) (ys : List (BitVec 64)) (zs : List (BitVec 64)) (draw : Nat) (hk : KPad r₀ c.scratch) : KPad r₀ (Core.vector c dst op xs ys zs draw).scratch := by
  unfold Core.vector
  try dsimp only
  repeat' with_reducible first
    | assumption
    | apply Core.pokeOut_pad

theorem Core.hamming_pad {r₀ : State} (c : Core) (dst : Nat) (q : Bytes) (codes : List Bytes) (limit : Option Nat) (hk : KPad r₀ c.scratch) : KPad r₀ (Core.hamming c dst q codes limit).scratch := by
  unfold Core.hamming
  try dsimp only
  repeat' with_reducible first
    | assumption
    | apply Core.poke_pad
    | split

theorem Core.tileOp_pad {r₀ : State} (c : Core) (m : PhaseMap) (rerun : Bool) (draw : Nat) (x0 : TileOp) (hk : KPad r₀ c.scratch) : KPad r₀ (Core.tileOp c m rerun draw x0).scratch := by
  unfold Core.tileOp
  try dsimp only
  repeat' with_reducible first
    | assumption
    | apply Core.pass_pad
    | apply Core.pokeOut_pad
    | apply Core.quantise_pad
    | apply Core.vector_pad
    | apply Core.hamming_pad
    | split

theorem State.runOps_keeps {r₀ : State} (s : State) (k : Nat) (m : PhaseMap) (rerun : Bool) (work : List TileOp) (hk : Keeps r₀ s) : Keeps r₀ (State.runOps s k m rerun work) := by
  unfold State.runOps
  repeat' with_reducible first
    | assumption
    | apply State.modCore_keeps
    | apply Core.tileOp_pad
    | apply keeps_foldl
    | (simp only [keeps_mk]; refine ⟨?_, ?_, ?_, ?_, ?_, ?_, ?_, ?_, ?_, ?_, ?_, ?_, ?_, ?_, ?_, ?_, ?_, ?_, ?_, ?_, ?_, ?_, ?_⟩)
    | apply Keeps.pending
    | apply Keeps.out
    | apply Keeps.fuses
    | apply Keeps.now
    | apply Keeps.free
    | apply Keeps.lanes
    | apply Keeps.fports
    | apply Keeps.parts
    | apply Keeps.ctxs
    | apply Keeps.queues
    | apply Keeps.graphs
    | apply Keeps.seqs
    | apply Keeps.extents
    | apply Keeps.folios
    | apply Keeps.atc
    | apply Keeps.xlats
    | apply Keeps.inbound
    | apply Keeps.reqs
    | apply Keeps.cores
    | apply Keeps.clusters
    | apply Keeps.accrued
    | apply Keeps.errs
    | apply Keeps.pads
    | apply kTbl_put
    | apply kTbl_del
    | apply kTbl_mapV
    | apply kTbl_filter
    | apply kTbl_nil
    | apply kTbl_map
    | apply kTbl_range
    | apply kCores_put
    | apply kCores_mapV
    | apply kCores_filter
    | apply kCores_nil
    | apply kErrs_mk_of
    | apply kQuarantine_filter
    | apply kErrs_queues
    | apply kErrs_log
    | apply kErrs_quarantine
    | apply kPad_nil
    | apply keeps_free_add
    | apply kErrQueues_put
    | apply kErrs_queue_le
    | apply blown_retire
    | apply blown_revoke
    | apply blown_rollback
    | apply blown_bank
    | apply keeps_now_le
    | apply keeps_now_add
    | apply kTime_now
    | simp only [kTime_mk]
    | intro _

theorem State.buildWork_keeps {r₀ : State} (s : State) (e : Slot) (m : PhaseMap) (hk : Keeps r₀ s) : Keeps r₀ (State.buildWork s e m).1 := by
  unfold State.buildWork
  try dsimp only
  repeat' with_reducible first
    | assumption
    | split
    | apply keeps_set
    | apply keeps_set_seqs
    | apply Keeps.seqs
    | apply kTbl_mapV

theorem State.startReshards_keeps {r₀ : State} (s : State) (e : Slot) (k : Nat) (m : PhaseMap) (hk : Keeps r₀ s) : Keeps r₀ (State.startReshards s e k m) := by
  unfold State.startReshards
  try dsimp only
  repeat' with_reducible first
    | assumption
    | apply State.modCluster_keeps
    | apply State.modSlot_keeps
    | apply keeps_foldl
    | apply keeps_set
    | intro _

theorem State.issueGathers_keeps {r₀ : State} (s : State) (k : Nat) (gs : List Gather) (hk : Keeps r₀ s) : Keeps r₀ (State.issueGathers s k gs) := by
  unfold State.issueGathers
  repeat' with_reducible first
    | assumption
    | apply State.startReq_keeps
    | apply keeps_foldl
    | split
    | apply keeps_set
    | intro _

theorem State.startCopies_keeps {r₀ : State} (s : State) (e : Slot) (t : Nat) (hk : Keeps r₀ s) : Keeps r₀ (State.startCopies s e t) := by
  unfold State.startCopies
  repeat' with_reducible first
    | assumption
    | apply State.modFolio_keeps
    | apply keeps_foldl
    | split
    | apply keeps_set
    | intro _

theorem State.pinTargets_keeps {r₀ : State} (s : State) (k : Nat) (hk : Keeps r₀ s) : Keeps r₀ (State.pinTargets s k) := by
  unfold State.pinTargets
  repeat' with_reducible first
    | assumption
    | apply State.startReq_keeps
    | apply keeps_foldl
    | split

theorem State.kick_keeps {r₀ : State} (s : State) (k : Nat) (hk : Keeps r₀ s) : Keeps r₀ (State.kick s k) := by
  unfold State.kick
  try dsimp only
  repeat' with_reducible first
    | assumption
    | apply State.pinTargets_keeps
    | apply State.issueGathers_keeps
    | apply State.modCore_keeps
    | split
    | apply keeps_set
    | intro _

theorem State.kickAll_keeps {r₀ : State} (s : State) (hk : Keeps r₀ s) : Keeps r₀ (State.kickAll s) := by
  unfold State.kickAll
  repeat' with_reducible first
    | assumption
    | apply State.kick_keeps
    | apply keeps_foldl

theorem State.saveLive_keeps {r₀ : State} (s : State) (cs : List Cand) (hk : Keeps r₀ s) : Keeps r₀ (State.saveLive s cs) := by
  unfold State.saveLive
  repeat' with_reducible first
    | assumption
    | apply State.modSlot_keeps
    | apply keeps_foldl
    | apply keeps_set
    | intro _

theorem State.startTile_keeps {r₀ : State} (s : State) (k : Nat) (e : Slot) (t : Nat) (gathers : List Gather) (hk : Keeps r₀ s) : Keeps r₀ (State.startTile s k e t gathers) := by
  unfold State.startTile
  try dsimp only
  repeat' with_reducible first
    | assumption
    | apply State.saveLive_keeps
    | apply State.account_keeps
    | apply State.modSlot_keeps
    | apply State.modCore_keeps
    | apply Core.idle_pad
    | apply State.modShares_keeps
    | apply State.startCopies_keeps
    | apply State.track_keeps
    | apply State.kick_keeps
    | apply State.pinTargets_keeps
    | split

theorem State.fillStaged_keeps {r₀ : State} (s : State) (k : Nat) (hk : Keeps r₀ s) : Keeps r₀ (State.fillStaged s k) := by
  unfold State.fillStaged
  try dsimp only
  repeat' with_reducible first
    | assumption
    | apply State.shareDirty_keeps
    | apply State.issuePool_keeps
    | apply State.addReq_keeps
    | apply keeps_foldl
    | split
    | intro _

theorem State.forceCounted_keeps {r₀ : State} (s : State) (k : Nat) (hk : Keeps r₀ s) : Keeps r₀ (State.forceCounted s k) := by
  unfold State.forceCounted
  try dsimp only
  repeat' with_reducible first
    | assumption
    | apply State.account_keeps
    | apply State.modCore_keeps
    | apply Core.force_pad
    | split

theorem State.dropTileReqs_keeps {r₀ : State} (s : State) (k : Nat) (hk : Keeps r₀ s) : Keeps r₀ (State.dropTileReqs s k) := by
  unfold State.dropTileReqs
  try dsimp only
  repeat' with_reducible first
    | assumption
    | split
    | apply keeps_set
    | apply keeps_set_reqs
    | apply Keeps.reqs
    | apply kTbl_mapV
    | apply kTbl_filter

theorem State.returnTile_keeps {r₀ : State} (s : State) (k : Nat) (hk : Keeps r₀ s) : Keeps r₀ (State.returnTile s k) := by
  unfold State.returnTile
  try dsimp only
  repeat' with_reducible first
    | assumption
    | apply State.modSlot_keeps
    | split

theorem State.commitLine_keeps {r₀ : State} (s : State) (p : Nat) (c : Nat) (line : Nat) (words : List (BitVec 288)) (h : Hint) (hk : Keeps r₀ s) : Keeps r₀ (State.commitLine s p c line words h) := by
  unfold State.commitLine
  try dsimp only
  repeat' with_reducible first
    | assumption
    | apply State.writeBack_keeps
    | apply State.hintLine_keeps
    | apply State.allocLine_keeps
    | split
    | apply keeps_set

theorem State.commitStaged_keeps {r₀ : State} (s : State) (p : Nat) (c : Nat) (ps : List (Nat × Nat × Bytes × Hint)) (line : Nat) (hk : Keeps r₀ s) : Keeps r₀ (State.commitStaged s p c ps line) := by
  unfold State.commitStaged
  try dsimp only
  repeat' with_reducible first
    | assumption
    | apply State.logError_keeps
    | apply State.commitLine_keeps
    | split

theorem State.applyMerge_keeps {r₀ : State} (s : State) (m : Merge) (hk : Keeps r₀ s) : Keeps r₀ (State.applyMerge s m) := by
  unfold State.applyMerge
  try dsimp only
  repeat' with_reducible first
    | assumption
    | apply State.emit_keeps
    | apply State.commitStaged_keeps
    | apply keeps_foldl
    | intro _

theorem State.fillMerge_keeps {r₀ : State} (s : State) (m : Merge) (hk : Keeps r₀ s) : Keeps r₀ (State.fillMerge s m) := by
  unfold State.fillMerge
  try dsimp only
  repeat' with_reducible first
    | assumption
    | apply State.shareDirty_keeps
    | apply State.issuePool_keeps
    | apply State.addReq_keeps
    | apply keeps_foldl
    | split
    | intro _

theorem State.applyMerges_keeps {r₀ : State} (s : State) (hk : Keeps r₀ s) : Keeps r₀ (State.applyMerges s) := by
  unfold State.applyMerges
  try dsimp only
  repeat' with_reducible first
    | assumption
    | apply State.applyMerge_keeps
    | apply keeps_foldl
    | apply keeps_set

theorem State.logCorrected_keeps {r₀ : State} (s : State) (r : MemReq) (addr : Nat) (symbol : Nat) (w : BitVec 288) (hk : Keeps r₀ s) : Keeps r₀ (State.logCorrected s r addr symbol w) := by
  unfold State.logCorrected
  repeat' with_reducible first
    | assumption
    | apply State.logError_keeps

theorem State.arriveWord_keeps {r₀ : State} (s : State) (r : MemReq) (addr : Nat) (w : BitVec 288) (hk : Keeps r₀ s) : Keeps r₀ (State.arriveWord s r addr w).1 := by
  unfold State.arriveWord
  repeat' with_reducible first
    | assumption
    | apply State.logCorrected_keeps
    | apply State.storePoison_keeps
    | split

theorem State.arriveWords_keeps {r₀ : State} (s : State) (r : MemReq) (x0 : Nat) (x1 : List (BitVec 288)) (hk : Keeps r₀ s) : Keeps r₀ (State.arriveWords s r x0 x1).1 := by
  induction x1 generalizing s x0 with
  | nil => exact hk
  | cons w l ih => exact ih _ _ (State.arriveWord_keeps _ _ _ _ hk)

theorem State.allocWords_keeps {r₀ : State} (s : State) (r : MemReq) (x0 : Nat) (x1 : List (BitVec 288)) (hk : Keeps r₀ s) : Keeps r₀ (State.allocWords s r x0 x1) := by
  match x1 with
  | [] => exact hk
  | [_] => exact hk
  | w0 :: w1 :: l =>
    unfold State.allocWords
    refine State.allocWords_keeps _ _ _ l ?_
    split
    · exact hk
    · exact State.allocLine_keeps _ _ _ _ _ _ _ _ hk

theorem State.finishRead_keeps {r₀ : State} (s : State) (id : Nat) (r : MemReq) (words : List (BitVec 288)) (hk : Keeps r₀ s) : Keeps r₀ (State.finishRead s id r words) := by
  unfold State.finishRead
  try dsimp only
  repeat' with_reducible first
    | assumption
    | apply State.allocWords_keeps
    | apply State.strandNow_keeps
    | apply State.setReq_keeps
    | apply State.logError_keeps
    | apply State.settleAdvice_keeps
    | apply State.modSlot_keeps
    | apply State.dropReq_keeps
    | apply State.commitStreamNow_keeps
    | apply State.applyMerges_keeps
    | split

theorem State.goOnRead_keeps {r₀ : State} (s : State) (id : Nat) (r : MemReq) (words : List (BitVec 288)) (hk : Keeps r₀ s) : Keeps r₀ (State.goOnRead s id r words) := by
  unfold State.goOnRead
  repeat' with_reducible first
    | assumption
    | apply State.setReq_keeps
    | apply State.finishRead_keeps
    | split

theorem State.answerInval_keeps {r₀ : State} (s : State) (line : Nat) (hk : Keeps r₀ s) : Keeps r₀ (State.answerInval s line) := by
  unfold State.answerInval
  repeat' with_reducible first
    | assumption
    | apply State.emit_keeps
    | apply keeps_set

theorem State.answerSnoop_keeps {r₀ : State} (s : State) (line : Nat) (hk : Keeps r₀ s) : Keeps r₀ (State.answerSnoop s line) := by
  unfold State.answerSnoop
  repeat' with_reducible first
    | assumption
    | apply State.emit_keeps

theorem State.answerWaits_keeps {r₀ : State} (s : State) (hk : Keeps r₀ s) : Keeps r₀ (State.answerWaits s) := by
  unfold State.answerWaits
  try dsimp only
  repeat' with_reducible first
    | assumption
    | apply State.answerSnoop_keeps
    | apply State.answerInval_keeps
    | apply keeps_foldl
    | split
    | apply keeps_set
    | apply keeps_set_now
    | apply Keeps.now
    | apply kTbl_filter
    | intro _

theorem State.applyUses_keeps {r₀ : State} (s : State) (p : Nat) (lines : List Nat) (hk : Keeps r₀ s) : Keeps r₀ (State.applyUses s p lines) := by
  unfold State.applyUses
  repeat' with_reducible first
    | assumption
    | apply State.dropLines_keeps
    | apply State.modLine_keeps
    | apply keeps_foldl
    | split
    | apply keeps_set
    | intro _

theorem State.guestWrite_keeps {r₀ : State} (s : State) (k : Nat) (e : Slot) (addr : Nat) (data : Bytes) (hk : Keeps r₀ s) : Keeps r₀ (State.guestWrite s k e addr data) := by
  unfold State.guestWrite
  repeat' with_reducible first
    | assumption
    | apply State.startReq_keeps
    | apply State.emit_keeps
    | split

theorem State.commitGuest_keeps {r₀ : State} (s : State) (k : Nat) (e : Slot) (hk : Keeps r₀ s) : Keeps r₀ (State.commitGuest s k e) := by
  unfold State.commitGuest
  repeat' with_reducible first
    | assumption
    | apply State.guestWrite_keeps
    | apply keeps_foldl
    | split
    | apply keeps_set
    | intro _

theorem State.issueReductions_keeps {r₀ : State} (s : State) (k : Nat) (e : Slot) (hk : Keeps r₀ s) : Keeps r₀ (State.issueReductions s k e) := by
  unfold State.issueReductions
  try dsimp only
  repeat' with_reducible first
    | assumption
    | apply keeps_set

theorem State.applySeq_keeps {r₀ : State} (s : State) (k : Nat) (e : Slot) (hk : Keeps r₀ s) : Keeps r₀ (State.applySeq s k e) := by
  unfold State.applySeq
  try dsimp only
  repeat' with_reducible first
    | assumption
    | apply keeps_foldl
    | split
    | apply keeps_set
    | apply keeps_set_seqs
    | apply Keeps.seqs
    | apply kTbl_put
    | apply kTbl_map
    | intro _

theorem State.makeVisible_keeps {r₀ : State} (s : State) (k : Nat) (e : Slot) (hk : Keeps r₀ s) : Keeps r₀ (State.makeVisible s k e) := by
  unfold State.makeVisible
  try dsimp only
  repeat' with_reducible first
    | assumption
    | apply State.commitStaged_keeps
    | apply State.applyUses_keeps
    | apply State.commitGuest_keeps
    | apply State.applySeq_keeps
    | apply State.issueReductions_keeps
    | apply keeps_foldl
    | intro _

theorem State.warmFor_keeps {r₀ : State} (s : State) (k : Nat) (e : Slot) (t : Nat) (hk : Keeps r₀ s) : Keeps r₀ (State.warmFor s k e t) := by
  unfold State.warmFor
  repeat' with_reducible first
    | assumption
    | apply State.modPart_keeps
    | split

theorem State.countTile_keeps {r₀ : State} (s : State) (k : Nat) (e : Slot) (hk : Keeps r₀ s) : Keeps r₀ (State.countTile s k e) := by
  unfold State.countTile
  try dsimp only
  repeat' with_reducible first
    | assumption
    | apply State.modSlot_keeps
    | apply State.modQueue_keeps
    | apply State.modPart_keeps
    | apply State.modCtx_keeps

theorem State.writeQuality_keeps {r₀ : State} (s : State) (q : Nat) (seq : Nat) (hk : Keeps r₀ s) : Keeps r₀ (State.writeQuality s q seq) := by
  unfold State.writeQuality
  repeat' with_reducible first
    | assumption
    | apply State.onSlot_keeps
    | apply State.pushWrite_keeps
    | apply State.modSlot_keeps
    | split
    | apply keeps_set
    | intro _

theorem State.failAfterCommit_keeps {r₀ : State} (s : State) (k : Nat) (e : Slot) (t : Nat) (hk : Keeps r₀ s) : Keeps r₀ (State.failAfterCommit s k e t) := by
  unfold State.failAfterCommit
  repeat' with_reducible first
    | assumption
    | apply State.modSlot_keeps
    | split

theorem State.publishOutputs_keeps {r₀ : State} (s : State) (e : Slot) (hk : Keeps r₀ s) : Keeps r₀ (State.publishOutputs s e).1 := by
  unfold State.publishOutputs
  repeat' with_reducible first
    | assumption
    | apply State.discardStagings_keeps
    | apply State.publish_keeps
    | apply keeps_foldl
    | split
    | apply keeps_set
    | intro _

theorem State.dropFault_keeps {r₀ : State} (s : State) (id : Nat) (hk : Keeps r₀ s) : Keeps r₀ (State.dropFault s id) := by
  unfold State.dropFault
  repeat' with_reducible first
    | assumption
    | apply keeps_set

theorem State.hostOnce_keeps {r₀ : State} (s : State) (id : Nat) (a : Atc) (hk : Keeps r₀ s) : Keeps r₀ (State.hostOnce s id a) := by
  unfold State.hostOnce
  try dsimp only
  repeat' with_reducible first
    | assumption
    | apply State.commitStreamNow_keeps
    | apply State.dropReq_keeps
    | apply State.emit_keeps
    | apply State.strandNow_keeps
    | apply State.setReq_keeps
    | split

theorem State.serveWaiter_keeps {r₀ : State} (s : State) (die : Nat) (pasid : Nat) (a : Atc) (id : Nat) (hk : Keeps r₀ s) : Keeps r₀ (State.serveWaiter s die pasid a id) := by
  unfold State.serveWaiter
  repeat' with_reducible first
    | assumption
    | apply State.hostAccess_keeps
    | apply State.hostOnce_keeps
    | apply State.recordFault_keeps
    | split

theorem State.rebatch_keeps {r₀ : State} (s : State) (k : Nat) (ids : List Nat) (hk : Keeps r₀ s) : Keeps r₀ (State.rebatch s k ids) := by
  unfold State.rebatch
  repeat' with_reducible first
    | assumption
    | apply State.modCtx_keeps
    | apply State.modFault_keeps
    | apply keeps_foldl
    | apply keeps_set
    | intro _

theorem State.retryHost_keeps {r₀ : State} (s : State) (id : Nat) (hk : Keeps r₀ s) : Keeps r₀ (State.retryHost s id) := by
  unfold State.retryHost
  try dsimp only
  repeat' with_reducible first
    | assumption
    | apply State.dropFault_keeps
    | apply State.restart_keeps
    | apply State.modFault_keeps
    | split

theorem State.drainHost_keeps {r₀ : State} (s : State) (hk : Keeps r₀ s) : Keeps r₀ (State.drainHost s) := by
  unfold State.drainHost
  repeat' with_reducible first
    | assumption
    | apply State.drainFaults_keeps
    | apply keeps_foldl
    | intro _

theorem State.sendFaultVector_keeps {r₀ : State} (s : State) (key : Nat) (hk : Keeps r₀ s) : Keeps r₀ (State.sendFaultVector s key) := by
  unfold State.sendFaultVector
  try dsimp only
  repeat' with_reducible first
    | assumption
    | apply State.sendVector_keeps
    | split

theorem State.retryFabric_keeps {r₀ : State} (s : State) (id : Nat) (hk : Keeps r₀ s) : Keeps r₀ (State.retryFabric s id) := by
  unfold State.retryFabric
  try dsimp only
  repeat' with_reducible first
    | assumption
    | apply State.dropFault_keeps
    | apply State.restart_keeps
    | split

theorem State.leaveFault_keeps {r₀ : State} (s : State) (id : Nat) (hk : Keeps r₀ s) : Keeps r₀ (State.leaveFault s id) := by
  unfold State.leaveFault
  repeat' with_reducible first
    | assumption
    | split
    | apply keeps_set

theorem State.answerReq_keeps {r₀ : State} (s : State) (id : Nat) (r : MemReq) (poison : Bool) (hk : Keeps r₀ s) : Keeps r₀ (State.answerReq s id r poison) := by
  unfold State.answerReq
  try dsimp only
  repeat' with_reducible first
    | assumption
    | apply State.leaveFault_keeps
    | apply State.strandNow_keeps
    | apply State.setReq_keeps
    | apply State.commitStreamNow_keeps
    | apply State.dropReq_keeps
    | split

theorem State.holdLink_keeps {r₀ : State} (s : State) (n : Nat) (hk : Keeps r₀ s) : Keeps r₀ (State.holdLink s n) := by
  unfold State.holdLink
  try dsimp only
  repeat' with_reducible first
    | assumption
    | apply State.modFport_keeps
    | apply State.icLevel_keeps

theorem State.logPart_keeps {r₀ : State} (s : State) (p : Nat) (error : Nat) (action : Nat) (hk : Keeps r₀ s) : Keeps r₀ (State.logPart s p error action) := by
  unfold State.logPart
  try dsimp only
  repeat' with_reducible first
    | assumption
    | apply State.logError_keeps

theorem State.abortPart_keeps {r₀ : State} (s : State) (p : Nat) (hk : Keeps r₀ s) : Keeps r₀ (State.abortPart s p) := by
  unfold State.abortPart
  try dsimp only
  repeat' with_reducible first
    | assumption
    | apply State.modPart_keeps
    | apply State.endWhere_keeps
    | apply State.logPart_keeps

theorem State.enterStage_keeps {r₀ : State} (s : State) (st : Stage) (reason : Nat) (hk : Keeps r₀ s) : Keeps r₀ (State.enterStage s st reason) := by
  unfold State.enterStage
  try dsimp only
  repeat' with_reducible first
    | assumption
    | apply State.emit_keeps
    | apply keeps_set

theorem State.failBoot_keeps {r₀ : State} (s : State) (reason : Nat) (hk : Keeps r₀ s) : Keeps r₀ (State.failBoot s reason) := by
  unfold State.failBoot
  repeat' with_reducible first
    | assumption
    | apply State.enterStage_keeps

theorem State.becomeReady_keeps {r₀ : State} (s : State) (expired : Bool) (hk : Keeps r₀ s) : Keeps r₀ (State.becomeReady s expired) := by
  unfold State.becomeReady
  repeat' with_reducible first
    | assumption
    | apply State.enterStage_keeps
    | apply keeps_set

theorem State.wholeReset_keeps {r₀ : State} (s : State) (hk : Keeps r₀ s) : Keeps r₀ (State.wholeReset s) := by
  have hr : r₀.errs.Bounded → State.reset.errs.Bounded := fun _ => ⟨by decide, by decide, by decide, by decide⟩
  unfold State.wholeReset
  exact ⟨hk.pending, hk.out, blown_fusesDone hk, hk.now, hk.free, kTbl_nil, kTbl_nil, kTbl_nil, kTbl_nil, kTbl_nil, kTbl_nil,
    kTbl_nil, kTbl_nil, kTbl_nil, kTbl_nil, kTbl_nil, kTbl_nil, kTbl_nil, kTbl_nil, kTbl_nil, kTbl_nil, hr, kCores_nil⟩

theorem State.coolantStop_keeps {r₀ : State} (s : State) (hk : Keeps r₀ s) : Keeps r₀ (State.coolantStop s) := by
  unfold State.coolantStop
  repeat' with_reducible first
    | assumption
    | split
    | apply keeps_set

theorem State.comeUp_keeps {r₀ : State} (s : State) (coolantOk : Bool) (hardCap : Bool) (hk : Keeps r₀ s) : Keeps r₀ (State.comeUp s coolantOk hardCap) := by
  unfold State.comeUp
  try dsimp only
  repeat' with_reducible first
    | assumption
    | apply State.icLevel_keeps
    | apply State.enterStage_keeps
    | apply State.coolantStop_keeps
    | split
    | apply keeps_set

theorem State.reboot_keeps {r₀ : State} (s : State) (hk : Keeps r₀ s) : Keeps r₀ (State.reboot s) := by
  unfold State.reboot
  repeat' with_reducible first
    | assumption
    | apply State.comeUp_keeps
    | apply State.wholeReset_keeps

theorem State.newInstance_keeps {r₀ : State} (s : State) (p : Nat) (hk : Keeps r₀ s) : Keeps r₀ (State.newInstance s p) := by
  unfold State.newInstance
  try dsimp only
  repeat' with_reducible first
    | assumption
    | apply State.modPart_keeps
    | apply keeps_set

theorem State.zeroise_keeps {r₀ : State} (s : State) (p : Nat) (hk : Keeps r₀ s) : Keeps r₀ (State.zeroise s p) := by
  unfold State.zeroise
  try dsimp only
  repeat' with_reducible first
    | assumption
    | apply State.modPart_keeps
    | apply keeps_set

theorem State.classA_keeps {r₀ : State} (s : State) (hk : Keeps r₀ s) : Keeps r₀ (State.classA s) := by
  unfold State.classA
  try dsimp only
  repeat' with_reducible first
    | assumption
    | apply State.emit_keeps
    | split
    | apply keeps_set
    | apply keeps_set_parts
    | apply Keeps.parts
    | apply kTbl_mapV

end Sys2Proof.Machine
end

