-- ==== Sys2Proof/Laws/KeepsReset.lean ====
section
/-!
SUPPORT. What outlives every command outlives the operations of resets, alarms, time and errors
(one lemma an operation, cited instead of unfolding it).
-/
namespace Sys2Proof.Machine

open Sys2Proof

theorem State.sendAbort_keeps {r₀ : State} (s : State) (p : Nat) (reason : Nat) (hk : Keeps r₀ s) : Keeps r₀ (State.sendAbort s p reason) := by
  unfold State.sendAbort
  try dsimp only
  repeat' with_reducible first
    | assumption
    | apply State.viaPort_keeps
    | apply State.logPart_keeps
    | apply State.modPart_keeps
    | apply State.abortPart_keeps
    | apply keeps_foldl
    | split
    | apply keeps_set
    | apply keeps_set_errs
    | apply Keeps.errs
    | apply kErrs_mk_of
    | apply kQuarantine_filter
    | apply kErrQueues_put
    | apply kErrs_queue_le
    | apply kErrs_queues
    | apply kErrs_log
    | apply kErrs_quarantine

theorem State.tdiError_keeps {r₀ : State} (s : State) (p : Nat) (hk : Keeps r₀ s) : Keeps r₀ (State.tdiError s p) := by
  unfold State.tdiError
  repeat' with_reducible first
    | assumption
    | apply State.stopPartition_keeps
    | apply State.modPart_keeps
    | split

theorem State.abandonCommands_keeps {r₀ : State} (s : State) (p : Nat) (but : Option Nat) (hk : Keeps r₀ s) : Keeps r₀ (State.abandonCommands s p but) := by
  unfold State.abandonCommands
  try dsimp only
  repeat' with_reducible first
    | assumption
    | apply State.refuse_keeps
    | apply keeps_foldl
    | intro _

theorem State.drainForReset_keeps {r₀ : State} (s : State) (kind : Nat) (q : Nat) (hk : Keeps r₀ s) : Keeps r₀ (State.drainForReset s kind q) := by
  unfold State.drainForReset
  try dsimp only
  repeat' with_reducible first
    | assumption
    | apply State.modQueue_keeps
    | apply State.drainQueue_keeps
    | split

theorem State.fencePart_keeps {r₀ : State} (s : State) (p : Nat) (t : ResetTrigger) (record : Nat) (st : PState) (but : Option Nat) (hk : Keeps r₀ s) : Keeps r₀ (State.fencePart s p t record st but) := by
  unfold State.fencePart
  try dsimp only
  repeat' with_reducible first
    | assumption
    | apply State.modPart_keeps
    | apply State.drainForReset_keeps
    | apply State.track_keeps
    | apply State.abandonCommands_keeps
    | apply State.sendAbort_keeps
    | apply State.tdiError_keeps
    | apply keeps_foldl
    | split
    | apply keeps_set
    | apply keeps_set_cores
    | apply Keeps.cores
    | apply Keeps.pads
    | apply kTbl_mapV
    | apply kCores_mapV
    | intro _

theorem State.startReset_keeps {r₀ : State} (s : State) (p : Nat) (t : ResetTrigger) (record : optParam Nat 0) (hk : Keeps r₀ s) : Keeps r₀ (State.startReset s p t record) := by
  unfold State.startReset
  repeat' with_reducible first
    | assumption
    | apply State.fencePart_keeps
    | split

theorem State.dropTranslations_keeps {r₀ : State} (s : State) (p : Nat) (ctx : Option Nat) (hk : Keeps r₀ s) : Keeps r₀ (State.dropTranslations s p ctx) := by
  unfold State.dropTranslations
  try dsimp only
  repeat' with_reducible first
    | assumption
    | split
    | (simp only [keeps_mk]; refine ⟨?_, ?_, ?_, ?_, ?_, ?_, ?_, ?_, ?_, ?_, ?_, ?_, ?_, ?_, ?_, ?_, ?_, ?_, ?_, ?_, ?_, ?_, ?_⟩)
    | apply Keeps.pending
    | apply Keeps.out
    | apply Keeps.fuses
    | apply Keeps.now
    | apply Keeps.free
    | apply Keeps.lanes
    | apply Keeps.fports
    | apply Keeps.parts
    | apply Keeps.ctxs
    | apply Keeps.queues
    | apply Keeps.graphs
    | apply Keeps.seqs
    | apply Keeps.extents
    | apply Keeps.folios
    | apply Keeps.atc
    | apply Keeps.xlats
    | apply Keeps.inbound
    | apply Keeps.reqs
    | apply Keeps.cores
    | apply Keeps.clusters
    | apply Keeps.accrued
    | apply Keeps.errs
    | apply Keeps.pads
    | apply kTbl_put
    | apply kTbl_del
    | apply kTbl_mapV
    | apply kTbl_filter

theorem State.writeDump_keeps {r₀ : State} (s : State) (p : Nat) (hk : Keeps r₀ s) : Keeps r₀ (State.writeDump s p) := by
  unfold State.writeDump
  try dsimp only
  repeat' with_reducible first
    | assumption
    | apply State.emit_keeps
    | apply State.draw_keeps
    | split

theorem State.flushPart_keeps {r₀ : State} (s : State) (p : Nat) (hk : Keeps r₀ s) : Keeps r₀ (State.flushPart s p) := by
  unfold State.flushPart
  repeat' with_reducible first
    | assumption
    | apply State.dropLines_keeps

theorem Core.cleared_pad {r₀ : State} (c : Core) (hk : KPad r₀ c.scratch) : KPad r₀ (Core.cleared c).scratch := by
  unfold Core.cleared
  repeat' with_reducible first
    | assumption
    | apply kPad_writes
    | apply kPad_nil

theorem State.clearCores_keeps {r₀ : State} (s : State) (quads : List Nat) (hk : Keeps r₀ s) : Keeps r₀ (State.clearCores s quads) := by
  unfold State.clearCores
  repeat' with_reducible first
    | assumption
    | apply Core.cleared_pad
    | split
    | apply keeps_set
    | apply keeps_set_cores
    | apply Keeps.cores
    | apply Keeps.pads
    | apply kTbl_mapV
    | apply kCores_mapV
    | intro _

theorem State.clearPart_keeps {r₀ : State} (s : State) (p : Nat) (hk : Keeps r₀ s) : Keeps r₀ (State.clearPart s p) := by
  unfold State.clearPart
  try dsimp only
  repeat' with_reducible first
    | assumption
    | apply State.atcDrop_keeps
    | apply State.clearCores_keeps
    | apply State.modPart_keeps

theorem State.dropWindows_keeps {r₀ : State} (s : State) (t : Nat → InWindow → Bool) (hk : Keeps r₀ s) : Keeps r₀ (State.dropWindows s t) := by
  unfold State.dropWindows
  try dsimp only
  repeat' with_reducible first
    | assumption
    | apply State.sweepFolio_keeps
    | apply State.modFolio_keeps
    | apply keeps_foldl
    | apply keeps_set
    | apply keeps_set_inbound
    | apply Keeps.inbound
    | apply kTbl_filter
    | apply kTbl_map
    | intro _

theorem State.deleteContext_keeps {r₀ : State} (s : State) (k : Nat) (hk : Keeps r₀ s) : Keeps r₀ (State.deleteContext s k) := by
  unfold State.deleteContext
  try dsimp only
  repeat' with_reducible first
    | assumption
    | apply State.dropWindows_keeps
    | apply State.dropTranslations_keeps
    | apply State.closeHolds_keeps
    | apply State.emit_keeps
    | apply State.atcDrop_keeps
    | split
    | (simp only [keeps_mk]; refine ⟨?_, ?_, ?_, ?_, ?_, ?_, ?_, ?_, ?_, ?_, ?_, ?_, ?_, ?_, ?_, ?_, ?_, ?_, ?_, ?_, ?_, ?_, ?_⟩)
    | apply Keeps.pending
    | apply Keeps.out
    | apply Keeps.fuses
    | apply Keeps.now
    | apply Keeps.free
    | apply Keeps.lanes
    | apply Keeps.fports
    | apply Keeps.parts
    | apply Keeps.ctxs
    | apply Keeps.queues
    | apply Keeps.graphs
    | apply Keeps.seqs
    | apply Keeps.extents
    | apply Keeps.folios
    | apply Keeps.atc
    | apply Keeps.xlats
    | apply Keeps.inbound
    | apply Keeps.reqs
    | apply Keeps.cores
    | apply Keeps.clusters
    | apply Keeps.accrued
    | apply Keeps.errs
    | apply Keeps.pads
    | apply kTbl_put
    | apply kTbl_del
    | apply kTbl_mapV
    | apply kTbl_filter

theorem State.dismantle_keeps {r₀ : State} (s : State) (p : Nat) (hk : Keeps r₀ s) : Keeps r₀ (State.dismantle s p) := by
  unfold State.dismantle
  try dsimp only
  repeat' with_reducible first
    | assumption
    | apply State.deleteContext_keeps
    | apply State.dropWindows_keeps
    | apply State.askRevoke_keeps
    | apply State.modPart_keeps
    | apply keeps_foldl
    | apply keeps_set
    | intro _

theorem State.startDestroy_keeps {r₀ : State} (s : State) (p : Nat) (ch : Option Nat) (hk : Keeps r₀ s) : Keeps r₀ (State.startDestroy s p ch) := by
  unfold State.startDestroy
  try dsimp only
  repeat' with_reducible first
    | assumption
    | apply State.modPart_keeps
    | apply State.park_keeps
    | apply State.fencePart_keeps
    | apply keeps_foldl
    | split
    | apply keeps_set
    | intro _

theorem State.resetReply_keeps {r₀ : State} (s : State) (p : Nat) (ch : Nat) (hk : Keeps r₀ s) : Keeps r₀ (State.resetReply s p ch) := by
  unfold State.resetReply
  try dsimp only
  repeat' with_reducible first
    | assumption
    | apply State.accept_keeps
    | apply State.fencePart_keeps
    | split

theorem State.endReset_keeps {r₀ : State} (s : State) (p : Nat) (hk : Keeps r₀ s) : Keeps r₀ (State.endReset s p) := by
  unfold State.endReset
  try dsimp only
  repeat' with_reducible first
    | assumption
    | apply State.clearPart_keeps
    | apply State.resumePartition_keeps
    | apply State.modPart_keeps
    | apply State.newEpoch_keeps
    | apply State.acceptAll_keeps
    | apply State.resetReply_keeps
    | apply keeps_foldl
    | split
    | apply keeps_set
    | intro _

theorem State.endClearing_keeps {r₀ : State} (s : State) (p : Nat) (hk : Keeps r₀ s) : Keeps r₀ (State.endClearing s p) := by
  unfold State.endClearing
  try dsimp only
  repeat' with_reducible first
    | assumption
    | apply State.dropLines_keeps
    | apply State.clearCores_keeps
    | apply State.modPart_keeps

theorem State.endDestroy_keeps {r₀ : State} (s : State) (p : Nat) (hk : Keeps r₀ s) : Keeps r₀ (State.endDestroy s p) := by
  unfold State.endDestroy
  try dsimp only
  repeat' with_reducible first
    | assumption
    | apply State.zeroise_keeps
    | apply State.clearPart_keeps
    | apply State.acceptAll_keeps
    | apply keeps_set
    | apply keeps_set_parts
    | apply Keeps.parts
    | apply kTbl_del

theorem State.becomeFatal_keeps {r₀ : State} (s : State) (hk : Keeps r₀ s) : Keeps r₀ (State.becomeFatal s) := by
  unfold State.becomeFatal
  try dsimp only
  repeat' with_reducible first
    | assumption
    | apply State.sendAbort_keeps
    | apply State.track_keeps
    | apply State.emit_keeps
    | apply State.endWhere_keeps
    | apply keeps_foldl
    | split
    | apply keeps_set
    | apply keeps_set_errs
    | apply Keeps.errs
    | apply kErrs_mk_of
    | apply kQuarantine_filter
    | apply kErrQueues_put
    | apply kErrs_queue_le
    | apply kErrs_queues
    | apply kErrs_log
    | apply kErrs_quarantine
    | intro _

theorem State.whenOn_keeps {r₀ : State} (s : State) (f : State → State) (hk : Keeps r₀ s) (hf : ∀ s, Keeps r₀ s → Keeps r₀ (f s)) : Keeps r₀ (State.whenOn s f) := by
  unfold State.whenOn
  repeat' with_reducible first
    | assumption
    | apply hf
    | split

theorem State.glitch_keeps {r₀ : State} (s : State) (hk : Keeps r₀ s) : Keeps r₀ (State.glitch s) := by
  unfold State.glitch
  repeat' with_reducible first
    | assumption
    | apply keeps_set

theorem State.strike_keeps {r₀ : State} (s : State) (p : Nat) (t : ResetTrigger) (hk : Keeps r₀ s) : Keeps r₀ (State.strike s p t) := by
  unfold State.strike
  try dsimp only
  repeat' with_reducible first
    | assumption
    | apply State.modPart_keeps
    | apply State.zeroise_keeps
    | apply State.startReset_keeps
    | apply State.askRevoke_keeps
    | apply keeps_foldl
    | apply keeps_set
    | intro _

theorem State.toHoldover_keeps {r₀ : State} (s : State) (hk : Keeps r₀ s) : Keeps r₀ (State.toHoldover s) := by
  unfold State.toHoldover
  try dsimp only
  repeat' with_reducible first
    | assumption
    | apply State.icFire_keeps
    | apply keeps_set
    | apply keeps_set_time
    | apply Keeps.now
    | simp only [kTime_mk]
    | apply keeps_now_le

theorem State.loseStrobe_keeps {r₀ : State} (s : State) (hk : Keeps r₀ s) : Keeps r₀ (State.loseStrobe s) := by
  unfold State.loseStrobe
  try dsimp only
  repeat' with_reducible first
    | assumption
    | apply State.toHoldover_keeps
    | split
    | apply keeps_set
    | apply keeps_set_time
    | apply Keeps.now
    | simp only [kTime_mk]
    | apply keeps_now_le

theorem State.rejectStrobe_keeps {r₀ : State} (s : State) (hk : Keeps r₀ s) : Keeps r₀ (State.rejectStrobe s) := by
  unfold State.rejectStrobe
  repeat' with_reducible first
    | assumption
    | apply keeps_set
    | apply keeps_set_time
    | apply Keeps.now
    | simp only [kTime_mk]
    | apply keeps_now_le

theorem State.detectStep_keeps {r₀ : State} (s : State) (e : Int) (hk : Keeps r₀ s) : Keeps r₀ (State.detectStep s e) := by
  unfold State.detectStep
  try dsimp only
  repeat' with_reducible first
    | assumption
    | apply State.icFire_keeps
    | split
    | (simp only [keeps_mk]; refine ⟨?_, ?_, ?_, ?_, ?_, ?_, ?_, ?_, ?_, ?_, ?_, ?_, ?_, ?_, ?_, ?_, ?_, ?_, ?_, ?_, ?_, ?_, ?_⟩)
    | apply Keeps.pending
    | apply Keeps.out
    | apply Keeps.fuses
    | apply Keeps.now
    | apply Keeps.free
    | apply Keeps.lanes
    | apply Keeps.fports
    | apply Keeps.parts
    | apply Keeps.ctxs
    | apply Keeps.queues
    | apply Keeps.graphs
    | apply Keeps.seqs
    | apply Keeps.extents
    | apply Keeps.folios
    | apply Keeps.atc
    | apply Keeps.xlats
    | apply Keeps.inbound
    | apply Keeps.reqs
    | apply Keeps.cores
    | apply Keeps.clusters
    | apply Keeps.accrued
    | apply Keeps.errs
    | apply Keeps.pads
    | apply kTbl_put
    | apply kTbl_del
    | apply kTbl_mapV
    | apply kTbl_filter
    | apply kTbl_nil
    | apply kTbl_map
    | apply kTbl_range
    | apply kCores_put
    | apply kCores_mapV
    | apply kCores_filter
    | apply kCores_nil
    | apply kErrs_mk_of
    | apply kQuarantine_filter
    | apply kErrs_queues
    | apply kErrs_log
    | apply kErrs_quarantine
    | apply kPad_nil
    | apply keeps_free_add
    | apply kErrQueues_put
    | apply kErrs_queue_le
    | apply blown_retire
    | apply blown_revoke
    | apply blown_rollback
    | apply blown_bank
    | apply keeps_now_le
    | apply keeps_now_add
    | apply kTime_now
    | simp only [kTime_mk]

theorem State.lockTime_keeps {r₀ : State} (s : State) (v : Nat) (hk : Keeps r₀ s) : Keeps r₀ (State.lockTime s v) := by
  unfold State.lockTime
  try dsimp only
  repeat' with_reducible first
    | assumption
    | apply State.becomeReady_keeps
    | split
    | (simp only [keeps_mk]; refine ⟨?_, ?_, ?_, ?_, ?_, ?_, ?_, ?_, ?_, ?_, ?_, ?_, ?_, ?_, ?_, ?_, ?_, ?_, ?_, ?_, ?_, ?_, ?_⟩)
    | apply Keeps.pending
    | apply Keeps.out
    | apply Keeps.fuses
    | apply Keeps.now
    | apply Keeps.free
    | apply Keeps.lanes
    | apply Keeps.fports
    | apply Keeps.parts
    | apply Keeps.ctxs
    | apply Keeps.queues
    | apply Keeps.graphs
    | apply Keeps.seqs
    | apply Keeps.extents
    | apply Keeps.folios
    | apply Keeps.atc
    | apply Keeps.xlats
    | apply Keeps.inbound
    | apply Keeps.reqs
    | apply Keeps.cores
    | apply Keeps.clusters
    | apply Keeps.accrued
    | apply Keeps.errs
    | apply Keeps.pads
    | apply kTbl_put
    | apply kTbl_del
    | apply kTbl_mapV
    | apply kTbl_filter
    | apply kTbl_nil
    | apply kTbl_map
    | apply kTbl_range
    | apply kCores_put
    | apply kCores_mapV
    | apply kCores_filter
    | apply kCores_nil
    | apply kErrs_mk_of
    | apply kQuarantine_filter
    | apply kErrs_queues
    | apply kErrs_log
    | apply kErrs_quarantine
    | apply kPad_nil
    | apply keeps_free_add
    | apply kErrQueues_put
    | apply kErrs_queue_le
    | apply blown_retire
    | apply blown_revoke
    | apply blown_rollback
    | apply blown_bank
    | apply keeps_now_le
    | apply keeps_now_add
    | apply kTime_now
    | simp only [kTime_mk]

theorem State.acceptStrobe_keeps {r₀ : State} (s : State) (v : Nat) (hk : Keeps r₀ s) : Keeps r₀ (State.acceptStrobe s v) := by
  unfold State.acceptStrobe
  try dsimp only
  repeat' with_reducible first
    | assumption
    | apply State.lockTime_keeps
    | apply State.detectStep_keeps
    | split
    | apply keeps_set
    | apply keeps_set_time
    | apply Keeps.now
    | simp only [kTime_mk]
    | apply keeps_now_le

theorem State.expireStrobe_keeps {r₀ : State} (s : State) (hk : Keeps r₀ s) : Keeps r₀ (State.expireStrobe s) := by
  unfold State.expireStrobe
  repeat' with_reducible first
    | assumption
    | apply State.loseStrobe_keeps
    | apply keeps_set
    | apply keeps_set_time
    | apply Keeps.now
    | simp only [kTime_mk]
    | apply keeps_now_le

theorem State.frameLayout_keeps {r₀ : State} (s : State) (p : Nat) (hk : Keeps r₀ s) : Keeps r₀ (State.frameLayout s p) := by
  unfold State.frameLayout
  repeat' with_reducible first
    | assumption
    | apply State.modPart_keeps
    | split

theorem State.frameEffects_keeps {r₀ : State} (s : State) (f : Nat) (hk : Keeps r₀ s) : Keeps r₀ (State.frameEffects s f) := by
  unfold State.frameEffects
  try dsimp only
  repeat' with_reducible first
    | assumption
    | apply State.frameLayout_keeps
    | apply State.track_keeps
    | apply State.pumpPort_keeps
    | apply keeps_foldl
    | (simp only [keeps_mk]; refine ⟨?_, ?_, ?_, ?_, ?_, ?_, ?_, ?_, ?_, ?_, ?_, ?_, ?_, ?_, ?_, ?_, ?_, ?_, ?_, ?_, ?_, ?_, ?_⟩)
    | apply Keeps.pending
    | apply Keeps.out
    | apply Keeps.fuses
    | apply Keeps.now
    | apply Keeps.free
    | apply Keeps.lanes
    | apply Keeps.fports
    | apply Keeps.parts
    | apply Keeps.ctxs
    | apply Keeps.queues
    | apply Keeps.graphs
    | apply Keeps.seqs
    | apply Keeps.extents
    | apply Keeps.folios
    | apply Keeps.atc
    | apply Keeps.xlats
    | apply Keeps.inbound
    | apply Keeps.reqs
    | apply Keeps.cores
    | apply Keeps.clusters
    | apply Keeps.accrued
    | apply Keeps.errs
    | apply Keeps.pads
    | apply kTbl_put
    | apply kTbl_del
    | apply kTbl_mapV

theorem State.anchor_keeps {r₀ : State} (s : State) (hk : Keeps r₀ s) : Keeps r₀ (State.anchor s) := by
  unfold State.anchor
  try dsimp only
  repeat' with_reducible first
    | assumption
    | apply State.frameEffects_keeps
    | apply State.toHoldover_keeps
    | split
    | (simp only [keeps_mk]; refine ⟨?_, ?_, ?_, ?_, ?_, ?_, ?_, ?_, ?_, ?_, ?_, ?_, ?_, ?_, ?_, ?_, ?_, ?_, ?_, ?_, ?_, ?_, ?_⟩)
    | apply Keeps.pending
    | apply Keeps.out
    | apply Keeps.fuses
    | apply Keeps.now
    | apply Keeps.free
    | apply Keeps.lanes
    | apply Keeps.fports
    | apply Keeps.parts
    | apply Keeps.ctxs
    | apply Keeps.queues
    | apply Keeps.graphs
    | apply Keeps.seqs
    | apply Keeps.extents
    | apply Keeps.folios
    | apply Keeps.atc
    | apply Keeps.xlats
    | apply Keeps.inbound
    | apply Keeps.reqs
    | apply Keeps.cores
    | apply Keeps.clusters
    | apply Keeps.accrued
    | apply Keeps.errs
    | apply Keeps.pads
    | apply kTbl_put
    | apply kTbl_del
    | apply kTbl_mapV
    | apply kTbl_filter
    | apply kTbl_nil
    | apply kTbl_map
    | apply kTbl_range
    | apply kCores_put
    | apply kCores_mapV
    | apply kCores_filter
    | apply kCores_nil
    | apply kErrs_mk_of
    | apply kQuarantine_filter
    | apply kErrs_queues
    | apply kErrs_log
    | apply kErrs_quarantine
    | apply kPad_nil
    | apply keeps_free_add
    | apply kErrQueues_put
    | apply kErrs_queue_le
    | apply blown_retire
    | apply blown_revoke
    | apply blown_rollback
    | apply blown_bank
    | apply keeps_now_le
    | apply keeps_now_add
    | apply kTime_now
    | simp only [kTime_mk]

theorem State.chargeWaits_keeps {r₀ : State} (s : State) (hk : Keeps r₀ s) : Keeps r₀ (State.chargeWaits s) := by
  unfold State.chargeWaits
  repeat' with_reducible first
    | assumption
    | apply State.account_keeps
    | apply State.modSlot_keeps
    | apply keeps_foldl
    | split
    | apply keeps_set
    | intro _

theorem State.scrubNear_keeps {r₀ : State} (s : State) (hk : Keeps r₀ s) : Keeps r₀ (State.scrubNear s) := by
  unfold State.scrubNear
  try dsimp only
  repeat' with_reducible first
    | assumption
    | apply State.emit_keeps
    | apply keeps_foldl
    | split
    | apply keeps_set
    | intro _

theorem State.scrubSram_keeps {r₀ : State} (s : State) (hk : Keeps r₀ s) : Keeps r₀ (State.scrubSram s) := by
  unfold State.scrubSram
  try dsimp only
  repeat' with_reducible first
    | assumption
    | split
    | apply keeps_set

theorem State.calibrate_keeps {r₀ : State} (s : State) (hk : Keeps r₀ s) : Keeps r₀ (State.calibrate s) := by
  unfold State.calibrate
  try dsimp only
  repeat' with_reducible first
    | assumption
    | split
    | apply keeps_set

theorem State.ageing_keeps {r₀ : State} (s : State) (k : Nat) (low : Bool) (hk : Keeps r₀ s) : Keeps r₀ (State.ageing s k low) := by
  unfold State.ageing
  repeat' with_reducible first
    | assumption
    | apply State.modCore_keeps
    | apply State.emit_keeps
    | split
    | apply keeps_set
    | intro _

theorem State.scrubBad_keeps {r₀ : State} (s : State) (hk : Keeps r₀ s) : Keeps r₀ (State.scrubBad s) := by
  unfold State.scrubBad
  repeat' with_reducible first
    | assumption
    | apply keeps_set

theorem State.scrubMirror_keeps {r₀ : State} (s : State) (c : Nat) (addr : Nat) (i : Nat) (page : Nat) (hk : Keeps r₀ s) : Keeps r₀ (State.scrubMirror s c addr i page) := by
  unfold State.scrubMirror
  try dsimp only
  repeat' with_reducible first
    | assumption
    | apply State.addReq_keeps
    | apply State.draw_keeps

theorem Core.quarantined_pad {r₀ : State} (c : Core) (hk : KPad r₀ c.scratch) : KPad r₀ (Core.quarantined c).scratch := by
  unfold Core.quarantined
  repeat' with_reducible first
    | assumption
    | apply Core.force_pad
    | split

theorem State.quarantine_keeps {r₀ : State} (s : State) (c : Nat) (hk : Keeps r₀ s) : Keeps r₀ (State.quarantine s c) := by
  unfold State.quarantine
  try dsimp only
  repeat' with_reducible first
    | assumption
    | apply State.modCluster_keeps
    | apply Core.quarantined_pad
    | apply State.dropLines_keeps
    | apply State.track_keeps
    | apply State.settleLaunch_keeps
    | apply keeps_foldl
    | split
    | (simp only [keeps_mk]; refine ⟨?_, ?_, ?_, ?_, ?_, ?_, ?_, ?_, ?_, ?_, ?_, ?_, ?_, ?_, ?_, ?_, ?_, ?_, ?_, ?_, ?_, ?_, ?_⟩)
    | apply Keeps.pending
    | apply Keeps.out
    | apply Keeps.fuses
    | apply Keeps.now
    | apply Keeps.free
    | apply Keeps.lanes
    | apply Keeps.fports
    | apply Keeps.parts
    | apply Keeps.ctxs
    | apply Keeps.queues
    | apply Keeps.graphs
    | apply Keeps.seqs
    | apply Keeps.extents
    | apply Keeps.folios
    | apply Keeps.atc
    | apply Keeps.xlats
    | apply Keeps.inbound
    | apply Keeps.reqs
    | apply Keeps.cores
    | apply Keeps.clusters
    | apply Keeps.accrued
    | apply Keeps.errs
    | apply Keeps.pads
    | apply kTbl_put
    | apply kTbl_del
    | apply kTbl_mapV
    | apply kTbl_filter
    | apply kTbl_nil
    | apply kTbl_map
    | apply kTbl_range
    | apply kCores_put
    | apply kCores_mapV
    | apply kCores_filter
    | apply kCores_nil
    | apply kErrs_mk_of
    | apply kQuarantine_filter
    | apply kErrs_queues
    | apply kErrs_log
    | apply kErrs_quarantine
    | apply kPad_nil
    | apply keeps_free_add
    | apply kErrQueues_put
    | apply kErrs_queue_le
    | apply blown_retire
    | apply blown_revoke
    | apply blown_rollback
    | apply blown_bank
    | apply keeps_now_le
    | apply keeps_now_add
    | apply kTime_now
    | simp only [kTime_mk]
    | intro _

theorem State.logEscalated_keeps {r₀ : State} (s : State) (i : Nat) (r : ErrRecord) (hk : Keeps r₀ s) : Keeps r₀ (State.logEscalated s i r).1 := by
  unfold State.logEscalated
  try dsimp only
  repeat' with_reducible first
    | assumption
    | apply State.logError_keeps
    | split
    | apply keeps_set
    | apply keeps_set_errs
    | apply Keeps.errs
    | apply kErrs_mk_of
    | apply kQuarantine_filter
    | apply kErrQueues_put
    | apply kErrs_queue_le
    | apply kErrs_queues
    | apply kErrs_log
    | apply kErrs_quarantine

theorem State.escalateToPart_keeps {r₀ : State} (s : State) (p : Nat) (hk : Keeps r₀ s) : Keeps r₀ (State.escalateToPart s p) := by
  unfold State.escalateToPart
  try dsimp only
  repeat' with_reducible first
    | assumption
    | apply State.logEscalated_keeps
    | apply State.startReset_keeps

theorem State.escalate_keeps {r₀ : State} (s : State) (d : Domain) (hk : Keeps r₀ s) : Keeps r₀ (State.escalate s d) := by
  unfold State.escalate
  try dsimp only
  repeat' with_reducible first
    | assumption
    | apply State.quarantine_keeps
    | apply State.logEscalated_keeps
    | apply State.escalateToPart_keeps
    | apply State.becomeFatal_keeps
    | apply keeps_foldl
    | split

theorem State.clusterError_keeps {r₀ : State} (s : State) (c : Nat) (syn : BitVec 32) (hk : Keeps r₀ s) : Keeps r₀ (State.clusterError s c syn) := by
  unfold State.clusterError
  try dsimp only
  repeat' with_reducible first
    | assumption
    | apply State.escalate_keeps
    | apply State.logError_keeps
    | apply State.quarantine_keeps
    | split

theorem State.queueError_keeps {r₀ : State} (s : State) (q : Nat) (syn : BitVec 32) (hk : Keeps r₀ s) : Keeps r₀ (State.queueError s q syn) := by
  unfold State.queueError
  try dsimp only
  repeat' with_reducible first
    | assumption
    | apply State.escalate_keeps
    | apply State.logError_keeps
    | split
    | apply keeps_set
    | apply keeps_set_errs
    | apply Keeps.errs
    | apply kErrs_mk_of
    | apply kQuarantine_filter
    | apply kErrQueues_put
    | apply kErrs_queue_le
    | apply kErrs_queues
    | apply kErrs_log
    | apply kErrs_quarantine

theorem State.partError_keeps {r₀ : State} (s : State) (p : Nat) (syn : BitVec 32) (hk : Keeps r₀ s) : Keeps r₀ (State.partError s p syn) := by
  unfold State.partError
  try dsimp only
  repeat' with_reducible first
    | assumption
    | apply State.escalate_keeps
    | apply State.logError_keeps
    | apply State.startReset_keeps
    | split

theorem State.dieError_keeps {r₀ : State} (s : State) (d : Nat) (syn : BitVec 32) (hk : Keeps r₀ s) : Keeps r₀ (State.dieError s d syn) := by
  unfold State.dieError
  repeat' with_reducible first
    | assumption
    | apply State.escalate_keeps
    | apply State.logError_keeps
    | apply State.becomeFatal_keeps
    | split

theorem State.failTile_keeps {r₀ : State} (s : State) (k : Nat) (error : Nat) (cause : Nat) (syn : BitVec 32) (hk : Keeps r₀ s) : Keeps r₀ (State.failTile s k error cause syn) := by
  unfold State.failTile
  try dsimp only
  repeat' with_reducible first
    | assumption
    | apply State.logError_keeps
    | apply State.modSlot_keeps
    | apply State.track_keeps
    | apply State.modCore_keeps
    | apply Core.force_pad

theorem State.tileStateError_keeps {r₀ : State} (s : State) (k : Nat) (syn : BitVec 32) (hk : Keeps r₀ s) : Keeps r₀ (State.tileStateError s k syn) := by
  unfold State.tileStateError
  try dsimp only
  repeat' with_reducible first
    | assumption
    | apply State.logError_keeps
    | apply State.failTile_keeps
    | apply State.track_keeps
    | apply State.modCore_keeps
    | apply Core.force_pad
    | split

theorem State.lineError_keeps {r₀ : State} (s : State) (c : Nat) (line : Nat) (half : Nat) (dirty : Bool) (syn : BitVec 32) (hk : Keeps r₀ s) : Keeps r₀ (State.lineError s c line half dirty syn) := by
  unfold State.lineError
  try dsimp only
  repeat' with_reducible first
    | assumption
    | apply State.logError_keeps
    | apply State.dropLines_keeps
    | apply State.modLine_keeps
    | split

theorem State.tierError_keeps {r₀ : State} (s : State) (c : Nat) (addr : Nat) (syn : BitVec 32) (hk : Keeps r₀ s) : Keeps r₀ (State.tierError s c addr syn) := by
  unfold State.tierError
  try dsimp only
  repeat' with_reducible first
    | assumption
    | apply State.scrubMirror_keeps
    | apply State.storePoison_keeps
    | apply State.draw_keeps
    | split

end Sys2Proof.Machine
end

