-- ==== Sys2Proof/Laws/KeepsPorts.lean ====
section
/-!
SUPPORT. What outlives every command outlives the operations of mailbox commands, registers, ports, sessions and the tick
(one lemma an operation, cited instead of unfolding it).
-/
namespace Sys2Proof.Machine

open Sys2Proof

theorem State.serveCmd_keeps {r₀ : State} (s : State) (ch : Nat) (op : Nat) (f : Message → State → State) (hk : Keeps r₀ s) (hf : ∀ y0 s, Keeps r₀ s → Keeps r₀ (f y0 s)) : Keeps r₀ (State.serveCmd s ch op f) := by
  unfold State.serveCmd
  try dsimp only
  repeat' with_reducible first
    | assumption
    | apply State.refuse_keeps
    | apply hf
    | split

theorem State.serveChecked_keeps {r₀ : State} (s : State) (ch : Nat) (op : Nat) (cs : Message → List Check) (f : Message → State → State) (hk : Keeps r₀ s) (hf : ∀ y0 s, Keeps r₀ s → Keeps r₀ (f y0 s)) : Keeps r₀ (State.serveChecked s ch op cs f) := by
  unfold State.serveChecked
  repeat' with_reducible first
    | assumption
    | apply State.serveCmd_keeps
    | apply State.refuseAttr_keeps
    | apply hf
    | split
    | apply keeps_set
    | intro _

theorem State.onCheck_keeps {r₀ : State} (s : State) (ch : Nat) (f : Message → Nat → State → State) (hk : Keeps r₀ s) (hf : ∀ y0 y1 s, Keeps r₀ s → Keeps r₀ (f y0 y1 s)) : Keeps r₀ (State.onCheck s ch f) := by
  unfold State.onCheck
  try dsimp only
  repeat' with_reducible first
    | assumption
    | apply State.modChan_keeps
    | apply hf
    | split

theorem State.hardCapLevel_keeps {r₀ : State} (s : State) (b : Bool) (held : Nat) (hk : Keeps r₀ s) : Keeps r₀ (State.hardCapLevel s b held) := by
  unfold State.hardCapLevel
  try dsimp only
  repeat' with_reducible first
    | assumption
    | apply State.glitch_keeps
    | apply State.icLevel_keeps
    | split
    | apply keeps_set

theorem State.readSensor_keeps {r₀ : State} (s : State) (r : ThermalReading) (hk : Keeps r₀ s) : Keeps r₀ (State.readSensor s r) := by
  unfold State.readSensor
  repeat' with_reducible first
    | assumption
    | apply State.modCluster_keeps
    | split
    | apply keeps_set

theorem State.inStage_keeps {r₀ : State} (s : State) (st : Stage) (f : State → State) (hk : Keeps r₀ s) (hf : ∀ s, Keeps r₀ s → Keeps r₀ (f s)) : Keeps r₀ (State.inStage s st f) := by
  unfold State.inStage
  repeat' with_reducible first
    | assumption
    | apply State.whenLive_keeps
    | apply State.when_keeps
    | apply hf
    | intro _

theorem State.deriveBootKeys_keeps {r₀ : State} (s : State) (hk : Keeps r₀ s) : Keeps r₀ (State.deriveBootKeys s) := by
  unfold State.deriveBootKeys
  try dsimp only
  repeat' with_reducible first
    | assumption
    | split
    | (simp only [keeps_mk]; refine ⟨?_, ?_, ?_, ?_, ?_, ?_, ?_, ?_, ?_, ?_, ?_, ?_, ?_, ?_, ?_, ?_, ?_, ?_, ?_, ?_, ?_, ?_, ?_⟩)
    | apply Keeps.pending
    | apply Keeps.out
    | apply Keeps.fuses
    | apply Keeps.now
    | apply Keeps.free
    | apply Keeps.lanes
    | apply Keeps.fports
    | apply Keeps.parts
    | apply Keeps.ctxs
    | apply Keeps.queues
    | apply Keeps.graphs
    | apply Keeps.seqs
    | apply Keeps.extents
    | apply Keeps.folios
    | apply Keeps.atc
    | apply Keeps.xlats
    | apply Keeps.inbound
    | apply Keeps.reqs
    | apply Keeps.cores
    | apply Keeps.clusters
    | apply Keeps.accrued
    | apply Keeps.errs
    | apply Keeps.pads
    | apply kTbl_put
    | apply kTbl_del
    | apply kTbl_mapV
    | apply kTbl_filter
    | apply kTbl_nil
    | apply kTbl_map
    | apply kTbl_range
    | apply kCores_put
    | apply kCores_mapV
    | apply kCores_filter
    | apply kCores_nil
    | apply kErrs_mk_of
    | apply kQuarantine_filter
    | apply kErrs_queues
    | apply kErrs_log
    | apply kErrs_quarantine
    | apply kPad_nil
    | apply keeps_free_add

theorem State.readBoot_keeps {r₀ : State} (s : State) (hk : Keeps r₀ s) : Keeps r₀ (State.readBoot s) := by
  unfold State.readBoot
  repeat' with_reducible first
    | assumption
    | apply State.emit_keeps
    | apply keeps_set

theorem State.refuseImage_keeps {r₀ : State} (s : State) (hk : Keeps r₀ s) : Keeps r₀ (State.refuseImage s) := by
  unfold State.refuseImage
  repeat' with_reducible first
    | assumption
    | apply State.emit_keeps
    | apply State.failBoot_keeps
    | apply keeps_set

theorem State.takeImage_keeps {r₀ : State} (s : State) (b : Bytes) (hk : Keeps r₀ s) : Keeps r₀ (State.takeImage s b) := by
  unfold State.takeImage
  try dsimp only
  repeat' with_reducible first
    | assumption
    | apply keeps_set

theorem State.loadBins_keeps {r₀ : State} (s : State) (ageing : List (Nat × Nat)) (hk : Keeps r₀ s) : Keeps r₀ (State.loadBins s ageing) := by
  unfold State.loadBins
  try dsimp only
  repeat' with_reducible first
    | assumption
    | apply State.modCore_keeps
    | apply keeps_foldl
    | apply keeps_set
    | intro _

theorem State.enterTime_keeps {r₀ : State} (s : State) (hk : Keeps r₀ s) : Keeps r₀ (State.enterTime s) := by
  unfold State.enterTime
  repeat' with_reducible first
    | assumption
    | apply State.enterStage_keeps
    | apply keeps_set
    | apply keeps_set_time
    | apply Keeps.now
    | simp only [kTime_mk]
    | apply keeps_now_le

theorem ackEffect_keeps {r₀ : State} (s : State) (k : Nat) (hk : Keeps r₀ s) : Keeps r₀ (ackEffect s k) := by
  unfold ackEffect
  try dsimp only
  repeat' with_reducible first
    | assumption
    | apply State.draw_keeps
    | apply State.emit_keeps
    | split
    | apply keeps_set

theorem State.flushMsix_keeps {r₀ : State} (s : State) (hk : Keeps r₀ s) : Keeps r₀ (State.flushMsix s) := by
  unfold State.flushMsix
  try dsimp only
  repeat' with_reducible first
    | assumption
    | apply State.emit_keeps
    | apply keeps_foldl
    | (simp only [keeps_mk]; refine ⟨?_, ?_, ?_, ?_, ?_, ?_, ?_, ?_, ?_, ?_, ?_, ?_, ?_, ?_, ?_, ?_, ?_, ?_, ?_, ?_, ?_, ?_, ?_⟩)
    | apply Keeps.pending
    | apply Keeps.out
    | apply Keeps.fuses
    | apply Keeps.now
    | apply Keeps.free
    | apply Keeps.lanes
    | apply Keeps.fports
    | apply Keeps.parts
    | apply Keeps.ctxs
    | apply Keeps.queues
    | apply Keeps.graphs
    | apply Keeps.seqs
    | apply Keeps.extents
    | apply Keeps.folios
    | apply Keeps.atc
    | apply Keeps.xlats
    | apply Keeps.inbound
    | apply Keeps.reqs
    | apply Keeps.cores
    | apply Keeps.clusters
    | apply Keeps.accrued
    | apply Keeps.errs
    | apply Keeps.pads
    | apply kTbl_put
    | apply kTbl_del
    | apply kTbl_mapV
    | apply kTbl_filter
    | apply kTbl_nil
    | apply kTbl_map
    | apply kTbl_range
    | apply kCores_put
    | apply kCores_mapV
    | apply kCores_filter
    | apply kCores_nil
    | apply kErrs_mk_of
    | apply kQuarantine_filter
    | apply kErrs_queues
    | apply kErrs_log
    | apply kErrs_quarantine
    | apply kPad_nil
    | apply keeps_free_add
    | apply kErrQueues_put
    | apply kErrs_queue_le
    | apply blown_retire
    | apply blown_revoke
    | apply blown_rollback
    | apply blown_bank
    | apply keeps_now_le
    | apply keeps_now_add
    | apply kTime_now
    | simp only [kTime_mk]
    | intro _

theorem State.settleMail_keeps {r₀ : State} (s : State) (hk : Keeps r₀ s) : Keeps r₀ (State.settleMail s) := by
  unfold State.settleMail
  try dsimp only
  repeat' with_reducible first
    | assumption
    | apply State.icLevel_keeps
    | apply keeps_set

theorem State.onChannel_keeps {r₀ : State} (s : State) (r : Requester) (ch : Nat) (reg : Nat) (f : State → State) (hk : Keeps r₀ s) (hf : ∀ s, Keeps r₀ s → Keeps r₀ (f s)) : Keeps r₀ (State.onChannel s r ch reg f) := by
  unfold State.onChannel
  repeat' with_reducible first
    | assumption
    | apply State.access_keeps
    | apply State.badAccess_keeps
    | apply State.emit_keeps
    | apply hf
    | split
    | apply keeps_set
    | intro _

theorem State.readMessage_keeps {r₀ : State} (s : State) (ch : Nat) (hk : Keeps r₀ s) : Keeps r₀ (State.readMessage s ch) := by
  unfold State.readMessage
  repeat' with_reducible first
    | assumption
    | apply State.viaPath_keeps

theorem State.answerBusy_keeps {r₀ : State} (s : State) (ch : Nat) (retry : Nat) (d : ReadData) (hk : Keeps r₀ s) : Keeps r₀ (State.answerBusy s ch retry d) := by
  unfold State.answerBusy
  try dsimp only
  repeat' with_reducible first
    | assumption
    | apply State.modChan_keeps
    | apply State.replyWith_keeps
    | split

theorem State.takeMessage_keeps {r₀ : State} (s : State) (ch : Nat) (b : Bytes) (hk : Keeps r₀ s) : Keeps r₀ (State.takeMessage s ch b) := by
  unfold State.takeMessage
  try dsimp only
  repeat' with_reducible first
    | assumption
    | apply State.modChan_keeps
    | apply State.refuse_keeps
    | apply State.refuseAttr_keeps
    | split

theorem State.notify_keeps {r₀ : State} (s : State) (c : Channel) (hk : Keeps r₀ s) : Keeps r₀ (State.notify s c) := by
  unfold State.notify
  repeat' with_reducible first
    | assumption
    | apply State.sendVector_keeps
    | split

theorem State.turnAway_keeps {r₀ : State} (s : State) (r : Requester) (write : Bool) (kind : Nat) (off : Nat) (hk : Keeps r₀ s) : Keeps r₀ (State.turnAway s r write kind off) := by
  unfold State.turnAway
  repeat' with_reducible first
    | assumption
    | apply State.badAccess_keeps
    | apply State.badRead_keeps
    | split

theorem Time.clearSeen_kTime {r₀ : State} (t : Time) (w : Nat) (hk : KTime r₀ t) : KTime r₀ (Time.clearSeen t w) := by
  unfold Time.clearSeen
  repeat' with_reducible first
    | assumption
    | simp only [kTime_mk]
    | apply keeps_now_le
    | apply keeps_now_add
    | apply kTime_now

theorem State.writeSc_keeps {r₀ : State} (s : State) (off : Nat) (size : Nat) (v : BitVec 64) (a : Place) (hk : Keeps r₀ s) : Keeps r₀ (State.writeSc s off size v a) := by
  unfold State.writeSc
  try dsimp only
  repeat' with_reducible first
    | assumption
    | apply Time.clearSeen_kTime
    | apply State.modPart_keeps
    | apply State.modLane_keeps
    | apply State.modQueue_keeps
    | split
    | apply keeps_set
    | apply keeps_set_time
    | apply Keeps.now

theorem State.scWrite_keeps {r₀ : State} (s : State) (r : Requester) (off : Nat) (size : Nat) (v : BitVec 64) (hk : Keeps r₀ s) : Keeps r₀ (State.scWrite s r off size v) := by
  unfold State.scWrite
  try dsimp only
  repeat' with_reducible first
    | assumption
    | apply State.access_keeps
    | apply State.emit_keeps
    | apply State.badAccess_keeps
    | apply State.writeSc_keeps
    | split
    | intro _

theorem State.writeBar2_keeps {r₀ : State} (s : State) (off : Nat) (size : Nat) (v : BitVec 64) (hk : Keeps r₀ s) : Keeps r₀ (State.writeBar2 s off size v) := by
  unfold State.writeBar2
  try dsimp only
  repeat' with_reducible first
    | assumption
    | apply State.flushMsix_keeps
    | split
    | apply keeps_set

theorem State.writeConfig_keeps {r₀ : State} (s : State) (off : Nat) (v : BitVec 64) (hk : Keeps r₀ s) : Keeps r₀ (State.writeConfig s off v) := by
  unfold State.writeConfig
  repeat' with_reducible first
    | assumption
    | apply State.flushMsix_keeps
    | split
    | apply keeps_set

theorem State.writeBobbin_keeps {r₀ : State} (s : State) (off : Nat) (size : Nat) (v : BitVec 64) (hk : Keeps r₀ s) : Keeps r₀ (State.writeBobbin s off size v) := by
  unfold State.writeBobbin
  try dsimp only
  repeat' with_reducible first
    | assumption
    | apply State.when_keeps
    | split
    | apply keeps_set
    | apply keeps_set_queues
    | apply keeps_set_errs
    | apply Keeps.queues
    | apply Keeps.errs
    | apply kTbl_put
    | apply kErrs_mk_of
    | apply kQuarantine_filter
    | apply kErrQueues_put
    | apply kErrs_queue_le
    | apply kErrs_queues
    | apply kErrs_log
    | apply kErrs_quarantine
    | intro _

theorem State.onBridge_keeps {r₀ : State} (s : State) (f : State → State) (hk : Keeps r₀ s) (hf : ∀ s, Keeps r₀ s → Keeps r₀ (f s)) : Keeps r₀ (State.onBridge s f) := by
  unfold State.onBridge
  repeat' with_reducible first
    | assumption
    | apply State.whenLive_keeps
    | apply State.when_keeps
    | apply hf
    | intro _

theorem State.writeBridgeCtl_keeps {r₀ : State} (s : State) (r : Requester) (v : BitVec 64) (hk : Keeps r₀ s) : Keeps r₀ (State.writeBridgeCtl s r v) := by
  unfold State.writeBridgeCtl
  try dsimp only
  repeat' with_reducible first
    | assumption
    | apply State.access_keeps
    | apply State.badAccess_keeps
    | split
    | apply keeps_set
    | intro _

theorem State.drainErrors_keeps {r₀ : State} (s : State) (hk : Keeps r₀ s) : Keeps r₀ (State.drainErrors s) := by
  have hp : ∀ e : Errors, KErrs r₀ e → Keeps r₀ { s with errs := e } := fun e he => { hk with errs := he }
  have he := kErrs_setQueues (Errors.toLog_kErrs s.errs s.errs.stored hk.errs)
    (kErrQueues_emptied s.errs.queues)
  unfold State.drainErrors
  exact keeps_foldl _ _ (hp _ he) fun s i h => State.icLevel_keeps _ _ _ h

theorem State.endRepair_keeps {r₀ : State} (s : State) (i : Nat) (done : List (Nat × Nat)) (hk : Keeps r₀ s) : Keeps r₀ (State.endRepair s i done) := by
  unfold State.endRepair
  try dsimp only
  repeat' with_reducible first
    | assumption
    | apply State.modFolio_keeps
    | split
    | apply keeps_set
    | apply keeps_set_errs
    | apply Keeps.errs
    | apply kErrs_mk_of
    | apply kQuarantine_filter
    | apply kErrQueues_put
    | apply kErrs_queue_le
    | apply kErrs_queues
    | apply kErrs_log
    | apply kErrs_quarantine

theorem State.setSession_keeps {r₀ : State} (s : State) (n : Nat) (x : Session) (hk : Keeps r₀ s) : Keeps r₀ (State.setSession s n x) := by
  unfold State.setSession
  repeat' with_reducible first
    | assumption
    | apply keeps_set

theorem State.withImage_keeps {r₀ : State} (s : State) (ch : Nat) (image : Bytes) (clean : Bool) (f : GraphImage → State → State) (hk : Keeps r₀ s) (hf : ∀ y0 s, Keeps r₀ s → Keeps r₀ (f y0 s)) : Keeps r₀ (State.withImage s ch image clean f) := by
  unfold State.withImage
  repeat' with_reducible first
    | assumption
    | apply State.replyWith_keeps
    | apply hf
    | split

theorem State.dropReaders_keeps {r₀ : State} (s : State) (i : Nat) (gone : BitVec 64) (hk : Keeps r₀ s) : Keeps r₀ (State.dropReaders s i gone) := by
  unfold State.dropReaders
  try dsimp only
  repeat' with_reducible first
    | assumption
    | apply State.dropWindows_keeps
    | apply State.closeHolds_keeps
    | apply keeps_foldl
    | intro _

theorem State.dropPublishers_keeps {r₀ : State} (s : State) (i : Nat) (gone : BitVec 64) (hk : Keeps r₀ s) : Keeps r₀ (State.dropPublishers s i gone) := by
  unfold State.dropPublishers
  repeat' with_reducible first
    | assumption
    | apply State.closeHolds_keeps
    | apply keeps_foldl
    | intro _

theorem State.revokeSeqs_keeps {r₀ : State} (s : State) (x : Extent) (hk : Keeps r₀ s) : Keeps r₀ (State.revokeSeqs s x) := by
  unfold State.revokeSeqs
  repeat' with_reducible first
    | assumption
    | split
    | apply keeps_set
    | apply keeps_set_seqs
    | apply Keeps.seqs
    | apply kTbl_mapV

theorem State.respond_keeps {r₀ : State} (s : State) (n : Nat) (name : String) (content : Bytes) (hk : Keeps r₀ s) : Keeps r₀ (State.respond s n name content) := by
  unfold State.respond
  repeat' with_reducible first
    | assumption
    | apply State.emit_keeps

theorem State.respondFree_keeps {r₀ : State} (s : State) (n : Nat) (name : String) (hk : Keeps r₀ s) : Keeps r₀ (State.respondFree s n name) := by
  unfold State.respondFree
  repeat' with_reducible first
    | assumption
    | apply State.respond_keeps
    | apply State.draw_keeps

theorem State.spdmError_keeps {r₀ : State} (s : State) (n : Nat) (hk : Keeps r₀ s) : Keeps r₀ (State.spdmError s n) := by
  unfold State.spdmError
  repeat' with_reducible first
    | assumption
    | apply State.respond_keeps

theorem State.onDoe_keeps {r₀ : State} (s : State) (f : State → State) (hk : Keeps r₀ s) (hf : ∀ s, Keeps r₀ s → Keeps r₀ (f s)) : Keeps r₀ (State.onDoe s f) := by
  unfold State.onDoe
  repeat' with_reducible first
    | assumption
    | apply State.whenLive_keeps
    | apply State.when_keeps
    | apply hf
    | intro _

theorem State.inOrderOf_keeps {r₀ : State} (s : State) (n : Nat) (ok : Session → Bool) (f : Session → State → State) (hk : Keeps r₀ s) (hf : ∀ y0 s, Keeps r₀ s → Keeps r₀ (f y0 s)) : Keeps r₀ (State.inOrderOf s n ok f) := by
  unfold State.inOrderOf
  repeat' with_reducible first
    | assumption
    | apply State.onDoe_keeps
    | apply State.spdmError_keeps
    | apply hf
    | split
    | intro _

theorem State.loseSession_keeps {r₀ : State} (s : State) (n : Nat) (hk : Keeps r₀ s) : Keeps r₀ (State.loseSession s n) := by
  unfold State.loseSession
  try dsimp only
  repeat' with_reducible first
    | assumption
    | apply State.tdiError_keeps
    | apply keeps_foldl
    | apply keeps_set

theorem State.onTdi_keeps {r₀ : State} (s : State) (n : Nat) (p : Nat) (f : State → State) (hk : Keeps r₀ s) (hf : ∀ s, Keeps r₀ s → Keeps r₀ (f s)) : Keeps r₀ (State.onTdi s n p f) := by
  unfold State.onTdi
  repeat' with_reducible first
    | assumption
    | apply State.inOrderOf_keeps
    | apply State.setSession_keeps
    | apply hf
    | apply keeps_set
    | intro _

theorem State.tdispError_keeps {r₀ : State} (s : State) (n : Nat) (hk : Keeps r₀ s) : Keeps r₀ (State.tdispError s n) := by
  unfold State.tdispError
  repeat' with_reducible first
    | assumption
    | apply State.respond_keeps

theorem Time.tick_kTime {r₀ : State} (t : Time) (hk : KTime r₀ t) : KTime r₀ (Time.tick t) := by
  unfold Time.tick
  try dsimp only
  repeat' with_reducible first
    | assumption
    | split
    | simp only [kTime_mk]
    | apply keeps_now_le
    | apply keeps_now_add
    | apply kTime_now
    | apply kTime_add

theorem State.tick_keeps {r₀ : State} (s : State) (hk : Keeps r₀ s) : Keeps r₀ (State.tick s) := by
  unfold State.tick
  repeat' with_reducible first
    | assumption
    | apply Time.tick_kTime
    | apply keeps_set
    | apply keeps_set_time
    | apply Keeps.now



end Sys2Proof.Machine
end

