-- ==== Sys2Proof/Laws/State.lean ====
section
/-!
SUPPORT. The small laws of the state: for every operation that changes one field, what each other field holds after it, and what
a read of the entry that it changes answers.
-/
namespace Sys2Proof.Machine

open Sys2Proof

/-! ### State.modQueue -/

@[simp] theorem State.modQueue_pending (s : State) (q : Nat) (f : Queue → Queue) : (s.modQueue q f).pending = s.pending := rfl
@[simp] theorem State.modQueue_free (s : State) (q : Nat) (f : Queue → Queue) : (s.modQueue q f).free = s.free := rfl
@[simp] theorem State.modQueue_out (s : State) (q : Nat) (f : Queue → Queue) : (s.modQueue q f).out = s.out := rfl
@[simp] theorem State.modQueue_fuses (s : State) (q : Nat) (f : Queue → Queue) : (s.modQueue q f).fuses = s.fuses := rfl
@[simp] theorem State.modQueue_boot (s : State) (q : Nat) (f : Queue → Queue) : (s.modQueue q f).boot = s.boot := rfl
@[simp] theorem State.modQueue_time (s : State) (q : Nat) (f : Queue → Queue) : (s.modQueue q f).time = s.time := rfl
@[simp] theorem State.modQueue_pins (s : State) (q : Nat) (f : Queue → Queue) : (s.modQueue q f).pins = s.pins := rfl
@[simp] theorem State.modQueue_bad (s : State) (q : Nat) (f : Queue → Queue) : (s.modQueue q f).bad = s.bad := rfl
@[simp] theorem State.modQueue_sec (s : State) (q : Nat) (f : Queue → Queue) : (s.modQueue q f).sec = s.sec := rfl
@[simp] theorem State.modQueue_mail (s : State) (q : Nat) (f : Queue → Queue) : (s.modQueue q f).mail = s.mail := rfl
@[simp] theorem State.modQueue_ic (s : State) (q : Nat) (f : Queue → Queue) : (s.modQueue q f).ic = s.ic := rfl
@[simp] theorem State.modQueue_msix (s : State) (q : Nat) (f : Queue → Queue) : (s.modQueue q f).msix = s.msix := rfl
@[simp] theorem State.modQueue_errs (s : State) (q : Nat) (f : Queue → Queue) : (s.modQueue q f).errs = s.errs := rfl
@[simp] theorem State.modQueue_power (s : State) (q : Nat) (f : Queue → Queue) : (s.modQueue q f).power = s.power := rfl
@[simp] theorem State.modQueue_bg (s : State) (q : Nat) (f : Queue → Queue) : (s.modQueue q f).bg = s.bg := rfl
@[simp] theorem State.modQueue_lanes (s : State) (q : Nat) (f : Queue → Queue) : (s.modQueue q f).lanes = s.lanes := rfl
@[simp] theorem State.modQueue_fports (s : State) (q : Nat) (f : Queue → Queue) : (s.modQueue q f).fports = s.fports := rfl
@[simp] theorem State.modQueue_bridge (s : State) (q : Nat) (f : Queue → Queue) : (s.modQueue q f).bridge = s.bridge := rfl
@[simp] theorem State.modQueue_commons (s : State) (q : Nat) (f : Queue → Queue) : (s.modQueue q f).commons = s.commons := rfl
@[simp] theorem State.modQueue_parts (s : State) (q : Nat) (f : Queue → Queue) : (s.modQueue q f).parts = s.parts := rfl
@[simp] theorem State.modQueue_ctxs (s : State) (q : Nat) (f : Queue → Queue) : (s.modQueue q f).ctxs = s.ctxs := rfl
@[simp] theorem State.modQueue_slots (s : State) (q : Nat) (f : Queue → Queue) : (s.modQueue q f).slots = s.slots := rfl
@[simp] theorem State.modQueue_admitted (s : State) (q : Nat) (f : Queue → Queue) : (s.modQueue q f).admitted = s.admitted := rfl
@[simp] theorem State.modQueue_graphs (s : State) (q : Nat) (f : Queue → Queue) : (s.modQueue q f).graphs = s.graphs := rfl
@[simp] theorem State.modQueue_seqs (s : State) (q : Nat) (f : Queue → Queue) : (s.modQueue q f).seqs = s.seqs := rfl
@[simp] theorem State.modQueue_extents (s : State) (q : Nat) (f : Queue → Queue) : (s.modQueue q f).extents = s.extents := rfl
@[simp] theorem State.modQueue_folios (s : State) (q : Nat) (f : Queue → Queue) : (s.modQueue q f).folios = s.folios := rfl
@[simp] theorem State.modQueue_atc (s : State) (q : Nat) (f : Queue → Queue) : (s.modQueue q f).atc = s.atc := rfl
@[simp] theorem State.modQueue_xlats (s : State) (q : Nat) (f : Queue → Queue) : (s.modQueue q f).xlats = s.xlats := rfl
@[simp] theorem State.modQueue_faults (s : State) (q : Nat) (f : Queue → Queue) : (s.modQueue q f).faults = s.faults := rfl
@[simp] theorem State.modQueue_faultNo (s : State) (q : Nat) (f : Queue → Queue) : (s.modQueue q f).faultNo = s.faultNo := rfl
@[simp] theorem State.modQueue_groupNo (s : State) (q : Nat) (f : Queue → Queue) : (s.modQueue q f).groupNo = s.groupNo := rfl
@[simp] theorem State.modQueue_pri (s : State) (q : Nat) (f : Queue → Queue) : (s.modQueue q f).pri = s.pri := rfl
@[simp] theorem State.modQueue_pageAlloc (s : State) (q : Nat) (f : Queue → Queue) : (s.modQueue q f).pageAlloc = s.pageAlloc := rfl
@[simp] theorem State.modQueue_invals (s : State) (q : Nat) (f : Queue → Queue) : (s.modQueue q f).invals = s.invals := rfl
@[simp] theorem State.modQueue_inbound (s : State) (q : Nat) (f : Queue → Queue) : (s.modQueue q f).inbound = s.inbound := rfl
@[simp] theorem State.modQueue_reqs (s : State) (q : Nat) (f : Queue → Queue) : (s.modQueue q f).reqs = s.reqs := rfl
@[simp] theorem State.modQueue_reqNo (s : State) (q : Nat) (f : Queue → Queue) : (s.modQueue q f).reqNo = s.reqNo := rfl
@[simp] theorem State.modQueue_cores (s : State) (q : Nat) (f : Queue → Queue) : (s.modQueue q f).cores = s.cores := rfl
@[simp] theorem State.modQueue_clusters (s : State) (q : Nat) (f : Queue → Queue) : (s.modQueue q f).clusters = s.clusters := rfl
@[simp] theorem State.modQueue_lines (s : State) (q : Nat) (f : Queue → Queue) : (s.modQueue q f).lines = s.lines := rfl
@[simp] theorem State.modQueue_accrued (s : State) (q : Nat) (f : Queue → Queue) : (s.modQueue q f).accrued = s.accrued := rfl
@[simp] theorem State.modQueue_dirWaits (s : State) (q : Nat) (f : Queue → Queue) : (s.modQueue q f).dirWaits = s.dirWaits := rfl
@[simp] theorem State.modQueue_adders (s : State) (q : Nat) (f : Queue → Queue) : (s.modQueue q f).adders = s.adders := rfl
@[simp] theorem State.modQueue_merges (s : State) (q : Nat) (f : Queue → Queue) : (s.modQueue q f).merges = s.merges := rfl

/-! ### State.modPart -/

@[simp] theorem State.modPart_pending (s : State) (p : Nat) (f : Partition → Partition) : (s.modPart p f).pending = s.pending := rfl
@[simp] theorem State.modPart_free (s : State) (p : Nat) (f : Partition → Partition) : (s.modPart p f).free = s.free := rfl
@[simp] theorem State.modPart_out (s : State) (p : Nat) (f : Partition → Partition) : (s.modPart p f).out = s.out := rfl
@[simp] theorem State.modPart_fuses (s : State) (p : Nat) (f : Partition → Partition) : (s.modPart p f).fuses = s.fuses := rfl
@[simp] theorem State.modPart_boot (s : State) (p : Nat) (f : Partition → Partition) : (s.modPart p f).boot = s.boot := rfl
@[simp] theorem State.modPart_time (s : State) (p : Nat) (f : Partition → Partition) : (s.modPart p f).time = s.time := rfl
@[simp] theorem State.modPart_pins (s : State) (p : Nat) (f : Partition → Partition) : (s.modPart p f).pins = s.pins := rfl
@[simp] theorem State.modPart_bad (s : State) (p : Nat) (f : Partition → Partition) : (s.modPart p f).bad = s.bad := rfl
@[simp] theorem State.modPart_sec (s : State) (p : Nat) (f : Partition → Partition) : (s.modPart p f).sec = s.sec := rfl
@[simp] theorem State.modPart_mail (s : State) (p : Nat) (f : Partition → Partition) : (s.modPart p f).mail = s.mail := rfl
@[simp] theorem State.modPart_ic (s : State) (p : Nat) (f : Partition → Partition) : (s.modPart p f).ic = s.ic := rfl
@[simp] theorem State.modPart_msix (s : State) (p : Nat) (f : Partition → Partition) : (s.modPart p f).msix = s.msix := rfl
@[simp] theorem State.modPart_errs (s : State) (p : Nat) (f : Partition → Partition) : (s.modPart p f).errs = s.errs := rfl
@[simp] theorem State.modPart_power (s : State) (p : Nat) (f : Partition → Partition) : (s.modPart p f).power = s.power := rfl
@[simp] theorem State.modPart_bg (s : State) (p : Nat) (f : Partition → Partition) : (s.modPart p f).bg = s.bg := rfl
@[simp] theorem State.modPart_lanes (s : State) (p : Nat) (f : Partition → Partition) : (s.modPart p f).lanes = s.lanes := rfl
@[simp] theorem State.modPart_fports (s : State) (p : Nat) (f : Partition → Partition) : (s.modPart p f).fports = s.fports := rfl
@[simp] theorem State.modPart_bridge (s : State) (p : Nat) (f : Partition → Partition) : (s.modPart p f).bridge = s.bridge := rfl
@[simp] theorem State.modPart_commons (s : State) (p : Nat) (f : Partition → Partition) : (s.modPart p f).commons = s.commons := rfl
@[simp] theorem State.modPart_ctxs (s : State) (p : Nat) (f : Partition → Partition) : (s.modPart p f).ctxs = s.ctxs := rfl
@[simp] theorem State.modPart_queues (s : State) (p : Nat) (f : Partition → Partition) : (s.modPart p f).queues = s.queues := rfl
@[simp] theorem State.modPart_slots (s : State) (p : Nat) (f : Partition → Partition) : (s.modPart p f).slots = s.slots := rfl
@[simp] theorem State.modPart_admitted (s : State) (p : Nat) (f : Partition → Partition) : (s.modPart p f).admitted = s.admitted := rfl
@[simp] theorem State.modPart_graphs (s : State) (p : Nat) (f : Partition → Partition) : (s.modPart p f).graphs = s.graphs := rfl
@[simp] theorem State.modPart_seqs (s : State) (p : Nat) (f : Partition → Partition) : (s.modPart p f).seqs = s.seqs := rfl
@[simp] theorem State.modPart_extents (s : State) (p : Nat) (f : Partition → Partition) : (s.modPart p f).extents = s.extents := rfl
@[simp] theorem State.modPart_folios (s : State) (p : Nat) (f : Partition → Partition) : (s.modPart p f).folios = s.folios := rfl
@[simp] theorem State.modPart_atc (s : State) (p : Nat) (f : Partition → Partition) : (s.modPart p f).atc = s.atc := rfl
@[simp] theorem State.modPart_xlats (s : State) (p : Nat) (f : Partition → Partition) : (s.modPart p f).xlats = s.xlats := rfl
@[simp] theorem State.modPart_faults (s : State) (p : Nat) (f : Partition → Partition) : (s.modPart p f).faults = s.faults := rfl
@[simp] theorem State.modPart_faultNo (s : State) (p : Nat) (f : Partition → Partition) : (s.modPart p f).faultNo = s.faultNo := rfl
@[simp] theorem State.modPart_groupNo (s : State) (p : Nat) (f : Partition → Partition) : (s.modPart p f).groupNo = s.groupNo := rfl
@[simp] theorem State.modPart_pri (s : State) (p : Nat) (f : Partition → Partition) : (s.modPart p f).pri = s.pri := rfl
@[simp] theorem State.modPart_pageAlloc (s : State) (p : Nat) (f : Partition → Partition) : (s.modPart p f).pageAlloc = s.pageAlloc := rfl
@[simp] theorem State.modPart_invals (s : State) (p : Nat) (f : Partition → Partition) : (s.modPart p f).invals = s.invals := rfl
@[simp] theorem State.modPart_inbound (s : State) (p : Nat) (f : Partition → Partition) : (s.modPart p f).inbound = s.inbound := rfl
@[simp] theorem State.modPart_reqs (s : State) (p : Nat) (f : Partition → Partition) : (s.modPart p f).reqs = s.reqs := rfl
@[simp] theorem State.modPart_reqNo (s : State) (p : Nat) (f : Partition → Partition) : (s.modPart p f).reqNo = s.reqNo := rfl
@[simp] theorem State.modPart_cores (s : State) (p : Nat) (f : Partition → Partition) : (s.modPart p f).cores = s.cores := rfl
@[simp] theorem State.modPart_clusters (s : State) (p : Nat) (f : Partition → Partition) : (s.modPart p f).clusters = s.clusters := rfl
@[simp] theorem State.modPart_lines (s : State) (p : Nat) (f : Partition → Partition) : (s.modPart p f).lines = s.lines := rfl
@[simp] theorem State.modPart_accrued (s : State) (p : Nat) (f : Partition → Partition) : (s.modPart p f).accrued = s.accrued := rfl
@[simp] theorem State.modPart_dirWaits (s : State) (p : Nat) (f : Partition → Partition) : (s.modPart p f).dirWaits = s.dirWaits := rfl
@[simp] theorem State.modPart_adders (s : State) (p : Nat) (f : Partition → Partition) : (s.modPart p f).adders = s.adders := rfl
@[simp] theorem State.modPart_merges (s : State) (p : Nat) (f : Partition → Partition) : (s.modPart p f).merges = s.merges := rfl

/-! ### State.modChan -/

@[simp] theorem State.modChan_pending (s : State) (ch : Nat) (f : Channel → Channel) : (s.modChan ch f).pending = s.pending := rfl
@[simp] theorem State.modChan_free (s : State) (ch : Nat) (f : Channel → Channel) : (s.modChan ch f).free = s.free := rfl
@[simp] theorem State.modChan_out (s : State) (ch : Nat) (f : Channel → Channel) : (s.modChan ch f).out = s.out := rfl
@[simp] theorem State.modChan_fuses (s : State) (ch : Nat) (f : Channel → Channel) : (s.modChan ch f).fuses = s.fuses := rfl
@[simp] theorem State.modChan_boot (s : State) (ch : Nat) (f : Channel → Channel) : (s.modChan ch f).boot = s.boot := rfl
@[simp] theorem State.modChan_time (s : State) (ch : Nat) (f : Channel → Channel) : (s.modChan ch f).time = s.time := rfl
@[simp] theorem State.modChan_pins (s : State) (ch : Nat) (f : Channel → Channel) : (s.modChan ch f).pins = s.pins := rfl
@[simp] theorem State.modChan_bad (s : State) (ch : Nat) (f : Channel → Channel) : (s.modChan ch f).bad = s.bad := rfl
@[simp] theorem State.modChan_sec (s : State) (ch : Nat) (f : Channel → Channel) : (s.modChan ch f).sec = s.sec := rfl
@[simp] theorem State.modChan_ic (s : State) (ch : Nat) (f : Channel → Channel) : (s.modChan ch f).ic = s.ic := rfl
@[simp] theorem State.modChan_msix (s : State) (ch : Nat) (f : Channel → Channel) : (s.modChan ch f).msix = s.msix := rfl
@[simp] theorem State.modChan_errs (s : State) (ch : Nat) (f : Channel → Channel) : (s.modChan ch f).errs = s.errs := rfl
@[simp] theorem State.modChan_power (s : State) (ch : Nat) (f : Channel → Channel) : (s.modChan ch f).power = s.power := rfl
@[simp] theorem State.modChan_bg (s : State) (ch : Nat) (f : Channel → Channel) : (s.modChan ch f).bg = s.bg := rfl
@[simp] theorem State.modChan_lanes (s : State) (ch : Nat) (f : Channel → Channel) : (s.modChan ch f).lanes = s.lanes := rfl
@[simp] theorem State.modChan_fports (s : State) (ch : Nat) (f : Channel → Channel) : (s.modChan ch f).fports = s.fports := rfl
@[simp] theorem State.modChan_bridge (s : State) (ch : Nat) (f : Channel → Channel) : (s.modChan ch f).bridge = s.bridge := rfl
@[simp] theorem State.modChan_commons (s : State) (ch : Nat) (f : Channel → Channel) : (s.modChan ch f).commons = s.commons := rfl
@[simp] theorem State.modChan_parts (s : State) (ch : Nat) (f : Channel → Channel) : (s.modChan ch f).parts = s.parts := rfl
@[simp] theorem State.modChan_ctxs (s : State) (ch : Nat) (f : Channel → Channel) : (s.modChan ch f).ctxs = s.ctxs := rfl
@[simp] theorem State.modChan_queues (s : State) (ch : Nat) (f : Channel → Channel) : (s.modChan ch f).queues = s.queues := rfl
@[simp] theorem State.modChan_slots (s : State) (ch : Nat) (f : Channel → Channel) : (s.modChan ch f).slots = s.slots := rfl
@[simp] theorem State.modChan_admitted (s : State) (ch : Nat) (f : Channel → Channel) : (s.modChan ch f).admitted = s.admitted := rfl
@[simp] theorem State.modChan_graphs (s : State) (ch : Nat) (f : Channel → Channel) : (s.modChan ch f).graphs = s.graphs := rfl
@[simp] theorem State.modChan_seqs (s : State) (ch : Nat) (f : Channel → Channel) : (s.modChan ch f).seqs = s.seqs := rfl
@[simp] theorem State.modChan_extents (s : State) (ch : Nat) (f : Channel → Channel) : (s.modChan ch f).extents = s.extents := rfl
@[simp] theorem State.modChan_folios (s : State) (ch : Nat) (f : Channel → Channel) : (s.modChan ch f).folios = s.folios := rfl
@[simp] theorem State.modChan_atc (s : State) (ch : Nat) (f : Channel → Channel) : (s.modChan ch f).atc = s.atc := rfl
@[simp] theorem State.modChan_xlats (s : State) (ch : Nat) (f : Channel → Channel) : (s.modChan ch f).xlats = s.xlats := rfl
@[simp] theorem State.modChan_faults (s : State) (ch : Nat) (f : Channel → Channel) : (s.modChan ch f).faults = s.faults := rfl
@[simp] theorem State.modChan_faultNo (s : State) (ch : Nat) (f : Channel → Channel) : (s.modChan ch f).faultNo = s.faultNo := rfl
@[simp] theorem State.modChan_groupNo (s : State) (ch : Nat) (f : Channel → Channel) : (s.modChan ch f).groupNo = s.groupNo := rfl
@[simp] theorem State.modChan_pri (s : State) (ch : Nat) (f : Channel → Channel) : (s.modChan ch f).pri = s.pri := rfl
@[simp] theorem State.modChan_pageAlloc (s : State) (ch : Nat) (f : Channel → Channel) : (s.modChan ch f).pageAlloc = s.pageAlloc := rfl
@[simp] theorem State.modChan_invals (s : State) (ch : Nat) (f : Channel → Channel) : (s.modChan ch f).invals = s.invals := rfl
@[simp] theorem State.modChan_inbound (s : State) (ch : Nat) (f : Channel → Channel) : (s.modChan ch f).inbound = s.inbound := rfl
@[simp] theorem State.modChan_reqs (s : State) (ch : Nat) (f : Channel → Channel) : (s.modChan ch f).reqs = s.reqs := rfl
@[simp] theorem State.modChan_reqNo (s : State) (ch : Nat) (f : Channel → Channel) : (s.modChan ch f).reqNo = s.reqNo := rfl
@[simp] theorem State.modChan_cores (s : State) (ch : Nat) (f : Channel → Channel) : (s.modChan ch f).cores = s.cores := rfl
@[simp] theorem State.modChan_clusters (s : State) (ch : Nat) (f : Channel → Channel) : (s.modChan ch f).clusters = s.clusters := rfl
@[simp] theorem State.modChan_lines (s : State) (ch : Nat) (f : Channel → Channel) : (s.modChan ch f).lines = s.lines := rfl
@[simp] theorem State.modChan_accrued (s : State) (ch : Nat) (f : Channel → Channel) : (s.modChan ch f).accrued = s.accrued := rfl
@[simp] theorem State.modChan_dirWaits (s : State) (ch : Nat) (f : Channel → Channel) : (s.modChan ch f).dirWaits = s.dirWaits := rfl
@[simp] theorem State.modChan_adders (s : State) (ch : Nat) (f : Channel → Channel) : (s.modChan ch f).adders = s.adders := rfl
@[simp] theorem State.modChan_merges (s : State) (ch : Nat) (f : Channel → Channel) : (s.modChan ch f).merges = s.merges := rfl

/-! ### State.modCore -/

@[simp] theorem State.modCore_pending (s : State) (k : Nat) (f : Core → Core) : (s.modCore k f).pending = s.pending := rfl
@[simp] theorem State.modCore_free (s : State) (k : Nat) (f : Core → Core) : (s.modCore k f).free = s.free := rfl
@[simp] theorem State.modCore_out (s : State) (k : Nat) (f : Core → Core) : (s.modCore k f).out = s.out := rfl
@[simp] theorem State.modCore_fuses (s : State) (k : Nat) (f : Core → Core) : (s.modCore k f).fuses = s.fuses := rfl
@[simp] theorem State.modCore_boot (s : State) (k : Nat) (f : Core → Core) : (s.modCore k f).boot = s.boot := rfl
@[simp] theorem State.modCore_time (s : State) (k : Nat) (f : Core → Core) : (s.modCore k f).time = s.time := rfl
@[simp] theorem State.modCore_pins (s : State) (k : Nat) (f : Core → Core) : (s.modCore k f).pins = s.pins := rfl
@[simp] theorem State.modCore_bad (s : State) (k : Nat) (f : Core → Core) : (s.modCore k f).bad = s.bad := rfl
@[simp] theorem State.modCore_sec (s : State) (k : Nat) (f : Core → Core) : (s.modCore k f).sec = s.sec := rfl
@[simp] theorem State.modCore_mail (s : State) (k : Nat) (f : Core → Core) : (s.modCore k f).mail = s.mail := rfl
@[simp] theorem State.modCore_ic (s : State) (k : Nat) (f : Core → Core) : (s.modCore k f).ic = s.ic := rfl
@[simp] theorem State.modCore_msix (s : State) (k : Nat) (f : Core → Core) : (s.modCore k f).msix = s.msix := rfl
@[simp] theorem State.modCore_errs (s : State) (k : Nat) (f : Core → Core) : (s.modCore k f).errs = s.errs := rfl
@[simp] theorem State.modCore_power (s : State) (k : Nat) (f : Core → Core) : (s.modCore k f).power = s.power := rfl
@[simp] theorem State.modCore_bg (s : State) (k : Nat) (f : Core → Core) : (s.modCore k f).bg = s.bg := rfl
@[simp] theorem State.modCore_lanes (s : State) (k : Nat) (f : Core → Core) : (s.modCore k f).lanes = s.lanes := rfl
@[simp] theorem State.modCore_fports (s : State) (k : Nat) (f : Core → Core) : (s.modCore k f).fports = s.fports := rfl
@[simp] theorem State.modCore_bridge (s : State) (k : Nat) (f : Core → Core) : (s.modCore k f).bridge = s.bridge := rfl
@[simp] theorem State.modCore_commons (s : State) (k : Nat) (f : Core → Core) : (s.modCore k f).commons = s.commons := rfl
@[simp] theorem State.modCore_parts (s : State) (k : Nat) (f : Core → Core) : (s.modCore k f).parts = s.parts := rfl
@[simp] theorem State.modCore_ctxs (s : State) (k : Nat) (f : Core → Core) : (s.modCore k f).ctxs = s.ctxs := rfl
@[simp] theorem State.modCore_queues (s : State) (k : Nat) (f : Core → Core) : (s.modCore k f).queues = s.queues := rfl
@[simp] theorem State.modCore_slots (s : State) (k : Nat) (f : Core → Core) : (s.modCore k f).slots = s.slots := rfl
@[simp] theorem State.modCore_admitted (s : State) (k : Nat) (f : Core → Core) : (s.modCore k f).admitted = s.admitted := rfl
@[simp] theorem State.modCore_graphs (s : State) (k : Nat) (f : Core → Core) : (s.modCore k f).graphs = s.graphs := rfl
@[simp] theorem State.modCore_seqs (s : State) (k : Nat) (f : Core → Core) : (s.modCore k f).seqs = s.seqs := rfl
@[simp] theorem State.modCore_extents (s : State) (k : Nat) (f : Core → Core) : (s.modCore k f).extents = s.extents := rfl
@[simp] theorem State.modCore_folios (s : State) (k : Nat) (f : Core → Core) : (s.modCore k f).folios = s.folios := rfl
@[simp] theorem State.modCore_atc (s : State) (k : Nat) (f : Core → Core) : (s.modCore k f).atc = s.atc := rfl
@[simp] theorem State.modCore_xlats (s : State) (k : Nat) (f : Core → Core) : (s.modCore k f).xlats = s.xlats := rfl
@[simp] theorem State.modCore_faults (s : State) (k : Nat) (f : Core → Core) : (s.modCore k f).faults = s.faults := rfl
@[simp] theorem State.modCore_faultNo (s : State) (k : Nat) (f : Core → Core) : (s.modCore k f).faultNo = s.faultNo := rfl
@[simp] theorem State.modCore_groupNo (s : State) (k : Nat) (f : Core → Core) : (s.modCore k f).groupNo = s.groupNo := rfl
@[simp] theorem State.modCore_pri (s : State) (k : Nat) (f : Core → Core) : (s.modCore k f).pri = s.pri := rfl
@[simp] theorem State.modCore_pageAlloc (s : State) (k : Nat) (f : Core → Core) : (s.modCore k f).pageAlloc = s.pageAlloc := rfl
@[simp] theorem State.modCore_invals (s : State) (k : Nat) (f : Core → Core) : (s.modCore k f).invals = s.invals := rfl
@[simp] theorem State.modCore_inbound (s : State) (k : Nat) (f : Core → Core) : (s.modCore k f).inbound = s.inbound := rfl
@[simp] theorem State.modCore_reqs (s : State) (k : Nat) (f : Core → Core) : (s.modCore k f).reqs = s.reqs := rfl
@[simp] theorem State.modCore_reqNo (s : State) (k : Nat) (f : Core → Core) : (s.modCore k f).reqNo = s.reqNo := rfl
@[simp] theorem State.modCore_clusters (s : State) (k : Nat) (f : Core → Core) : (s.modCore k f).clusters = s.clusters := rfl
@[simp] theorem State.modCore_lines (s : State) (k : Nat) (f : Core → Core) : (s.modCore k f).lines = s.lines := rfl
@[simp] theorem State.modCore_accrued (s : State) (k : Nat) (f : Core → Core) : (s.modCore k f).accrued = s.accrued := rfl
@[simp] theorem State.modCore_dirWaits (s : State) (k : Nat) (f : Core → Core) : (s.modCore k f).dirWaits = s.dirWaits := rfl
@[simp] theorem State.modCore_adders (s : State) (k : Nat) (f : Core → Core) : (s.modCore k f).adders = s.adders := rfl
@[simp] theorem State.modCore_merges (s : State) (k : Nat) (f : Core → Core) : (s.modCore k f).merges = s.merges := rfl

/-! ### State.modCluster -/

@[simp] theorem State.modCluster_pending (s : State) (c : Nat) (f : Cluster → Cluster) : (s.modCluster c f).pending = s.pending := rfl
@[simp] theorem State.modCluster_free (s : State) (c : Nat) (f : Cluster → Cluster) : (s.modCluster c f).free = s.free := rfl
@[simp] theorem State.modCluster_out (s : State) (c : Nat) (f : Cluster → Cluster) : (s.modCluster c f).out = s.out := rfl
@[simp] theorem State.modCluster_fuses (s : State) (c : Nat) (f : Cluster → Cluster) : (s.modCluster c f).fuses = s.fuses := rfl
@[simp] theorem State.modCluster_boot (s : State) (c : Nat) (f : Cluster → Cluster) : (s.modCluster c f).boot = s.boot := rfl
@[simp] theorem State.modCluster_time (s : State) (c : Nat) (f : Cluster → Cluster) : (s.modCluster c f).time = s.time := rfl
@[simp] theorem State.modCluster_pins (s : State) (c : Nat) (f : Cluster → Cluster) : (s.modCluster c f).pins = s.pins := rfl
@[simp] theorem State.modCluster_bad (s : State) (c : Nat) (f : Cluster → Cluster) : (s.modCluster c f).bad = s.bad := rfl
@[simp] theorem State.modCluster_sec (s : State) (c : Nat) (f : Cluster → Cluster) : (s.modCluster c f).sec = s.sec := rfl
@[simp] theorem State.modCluster_mail (s : State) (c : Nat) (f : Cluster → Cluster) : (s.modCluster c f).mail = s.mail := rfl
@[simp] theorem State.modCluster_ic (s : State) (c : Nat) (f : Cluster → Cluster) : (s.modCluster c f).ic = s.ic := rfl
@[simp] theorem State.modCluster_msix (s : State) (c : Nat) (f : Cluster → Cluster) : (s.modCluster c f).msix = s.msix := rfl
@[simp] theorem State.modCluster_errs (s : State) (c : Nat) (f : Cluster → Cluster) : (s.modCluster c f).errs = s.errs := rfl
@[simp] theorem State.modCluster_power (s : State) (c : Nat) (f : Cluster → Cluster) : (s.modCluster c f).power = s.power := rfl
@[simp] theorem State.modCluster_bg (s : State) (c : Nat) (f : Cluster → Cluster) : (s.modCluster c f).bg = s.bg := rfl
@[simp] theorem State.modCluster_lanes (s : State) (c : Nat) (f : Cluster → Cluster) : (s.modCluster c f).lanes = s.lanes := rfl
@[simp] theorem State.modCluster_fports (s : State) (c : Nat) (f : Cluster → Cluster) : (s.modCluster c f).fports = s.fports := rfl
@[simp] theorem State.modCluster_bridge (s : State) (c : Nat) (f : Cluster → Cluster) : (s.modCluster c f).bridge = s.bridge := rfl
@[simp] theorem State.modCluster_commons (s : State) (c : Nat) (f : Cluster → Cluster) : (s.modCluster c f).commons = s.commons := rfl
@[simp] theorem State.modCluster_parts (s : State) (c : Nat) (f : Cluster → Cluster) : (s.modCluster c f).parts = s.parts := rfl
@[simp] theorem State.modCluster_ctxs (s : State) (c : Nat) (f : Cluster → Cluster) : (s.modCluster c f).ctxs = s.ctxs := rfl
@[simp] theorem State.modCluster_queues (s : State) (c : Nat) (f : Cluster → Cluster) : (s.modCluster c f).queues = s.queues := rfl
@[simp] theorem State.modCluster_slots (s : State) (c : Nat) (f : Cluster → Cluster) : (s.modCluster c f).slots = s.slots := rfl
@[simp] theorem State.modCluster_admitted (s : State) (c : Nat) (f : Cluster → Cluster) : (s.modCluster c f).admitted = s.admitted := rfl
@[simp] theorem State.modCluster_graphs (s : State) (c : Nat) (f : Cluster → Cluster) : (s.modCluster c f).graphs = s.graphs := rfl
@[simp] theorem State.modCluster_seqs (s : State) (c : Nat) (f : Cluster → Cluster) : (s.modCluster c f).seqs = s.seqs := rfl
@[simp] theorem State.modCluster_extents (s : State) (c : Nat) (f : Cluster → Cluster) : (s.modCluster c f).extents = s.extents := rfl
@[simp] theorem State.modCluster_folios (s : State) (c : Nat) (f : Cluster → Cluster) : (s.modCluster c f).folios = s.folios := rfl
@[simp] theorem State.modCluster_atc (s : State) (c : Nat) (f : Cluster → Cluster) : (s.modCluster c f).atc = s.atc := rfl
@[simp] theorem State.modCluster_xlats (s : State) (c : Nat) (f : Cluster → Cluster) : (s.modCluster c f).xlats = s.xlats := rfl
@[simp] theorem State.modCluster_faults (s : State) (c : Nat) (f : Cluster → Cluster) : (s.modCluster c f).faults = s.faults := rfl
@[simp] theorem State.modCluster_faultNo (s : State) (c : Nat) (f : Cluster → Cluster) : (s.modCluster c f).faultNo = s.faultNo := rfl
@[simp] theorem State.modCluster_groupNo (s : State) (c : Nat) (f : Cluster → Cluster) : (s.modCluster c f).groupNo = s.groupNo := rfl
@[simp] theorem State.modCluster_pri (s : State) (c : Nat) (f : Cluster → Cluster) : (s.modCluster c f).pri = s.pri := rfl
@[simp] theorem State.modCluster_pageAlloc (s : State) (c : Nat) (f : Cluster → Cluster) : (s.modCluster c f).pageAlloc = s.pageAlloc := rfl
@[simp] theorem State.modCluster_invals (s : State) (c : Nat) (f : Cluster → Cluster) : (s.modCluster c f).invals = s.invals := rfl
@[simp] theorem State.modCluster_inbound (s : State) (c : Nat) (f : Cluster → Cluster) : (s.modCluster c f).inbound = s.inbound := rfl
@[simp] theorem State.modCluster_reqs (s : State) (c : Nat) (f : Cluster → Cluster) : (s.modCluster c f).reqs = s.reqs := rfl
@[simp] theorem State.modCluster_reqNo (s : State) (c : Nat) (f : Cluster → Cluster) : (s.modCluster c f).reqNo = s.reqNo := rfl
@[simp] theorem State.modCluster_cores (s : State) (c : Nat) (f : Cluster → Cluster) : (s.modCluster c f).cores = s.cores := rfl
@[simp] theorem State.modCluster_lines (s : State) (c : Nat) (f : Cluster → Cluster) : (s.modCluster c f).lines = s.lines := rfl
@[simp] theorem State.modCluster_accrued (s : State) (c : Nat) (f : Cluster → Cluster) : (s.modCluster c f).accrued = s.accrued := rfl
@[simp] theorem State.modCluster_dirWaits (s : State) (c : Nat) (f : Cluster → Cluster) : (s.modCluster c f).dirWaits = s.dirWaits := rfl
@[simp] theorem State.modCluster_adders (s : State) (c : Nat) (f : Cluster → Cluster) : (s.modCluster c f).adders = s.adders := rfl
@[simp] theorem State.modCluster_merges (s : State) (c : Nat) (f : Cluster → Cluster) : (s.modCluster c f).merges = s.merges := rfl

/-! ### State.modFport -/

@[simp] theorem State.modFport_pending (s : State) (n : Nat) (f : FPort → FPort) : (s.modFport n f).pending = s.pending := rfl
@[simp] theorem State.modFport_free (s : State) (n : Nat) (f : FPort → FPort) : (s.modFport n f).free = s.free := rfl
@[simp] theorem State.modFport_out (s : State) (n : Nat) (f : FPort → FPort) : (s.modFport n f).out = s.out := rfl
@[simp] theorem State.modFport_fuses (s : State) (n : Nat) (f : FPort → FPort) : (s.modFport n f).fuses = s.fuses := rfl
@[simp] theorem State.modFport_boot (s : State) (n : Nat) (f : FPort → FPort) : (s.modFport n f).boot = s.boot := rfl
@[simp] theorem State.modFport_time (s : State) (n : Nat) (f : FPort → FPort) : (s.modFport n f).time = s.time := rfl
@[simp] theorem State.modFport_pins (s : State) (n : Nat) (f : FPort → FPort) : (s.modFport n f).pins = s.pins := rfl
@[simp] theorem State.modFport_bad (s : State) (n : Nat) (f : FPort → FPort) : (s.modFport n f).bad = s.bad := rfl
@[simp] theorem State.modFport_sec (s : State) (n : Nat) (f : FPort → FPort) : (s.modFport n f).sec = s.sec := rfl
@[simp] theorem State.modFport_mail (s : State) (n : Nat) (f : FPort → FPort) : (s.modFport n f).mail = s.mail := rfl
@[simp] theorem State.modFport_ic (s : State) (n : Nat) (f : FPort → FPort) : (s.modFport n f).ic = s.ic := rfl
@[simp] theorem State.modFport_msix (s : State) (n : Nat) (f : FPort → FPort) : (s.modFport n f).msix = s.msix := rfl
@[simp] theorem State.modFport_errs (s : State) (n : Nat) (f : FPort → FPort) : (s.modFport n f).errs = s.errs := rfl
@[simp] theorem State.modFport_power (s : State) (n : Nat) (f : FPort → FPort) : (s.modFport n f).power = s.power := rfl
@[simp] theorem State.modFport_bg (s : State) (n : Nat) (f : FPort → FPort) : (s.modFport n f).bg = s.bg := rfl
@[simp] theorem State.modFport_lanes (s : State) (n : Nat) (f : FPort → FPort) : (s.modFport n f).lanes = s.lanes := rfl
@[simp] theorem State.modFport_bridge (s : State) (n : Nat) (f : FPort → FPort) : (s.modFport n f).bridge = s.bridge := rfl
@[simp] theorem State.modFport_commons (s : State) (n : Nat) (f : FPort → FPort) : (s.modFport n f).commons = s.commons := rfl
@[simp] theorem State.modFport_parts (s : State) (n : Nat) (f : FPort → FPort) : (s.modFport n f).parts = s.parts := rfl
@[simp] theorem State.modFport_ctxs (s : State) (n : Nat) (f : FPort → FPort) : (s.modFport n f).ctxs = s.ctxs := rfl
@[simp] theorem State.modFport_queues (s : State) (n : Nat) (f : FPort → FPort) : (s.modFport n f).queues = s.queues := rfl
@[simp] theorem State.modFport_slots (s : State) (n : Nat) (f : FPort → FPort) : (s.modFport n f).slots = s.slots := rfl
@[simp] theorem State.modFport_admitted (s : State) (n : Nat) (f : FPort → FPort) : (s.modFport n f).admitted = s.admitted := rfl
@[simp] theorem State.modFport_graphs (s : State) (n : Nat) (f : FPort → FPort) : (s.modFport n f).graphs = s.graphs := rfl
@[simp] theorem State.modFport_seqs (s : State) (n : Nat) (f : FPort → FPort) : (s.modFport n f).seqs = s.seqs := rfl
@[simp] theorem State.modFport_extents (s : State) (n : Nat) (f : FPort → FPort) : (s.modFport n f).extents = s.extents := rfl
@[simp] theorem State.modFport_folios (s : State) (n : Nat) (f : FPort → FPort) : (s.modFport n f).folios = s.folios := rfl
@[simp] theorem State.modFport_atc (s : State) (n : Nat) (f : FPort → FPort) : (s.modFport n f).atc = s.atc := rfl
@[simp] theorem State.modFport_xlats (s : State) (n : Nat) (f : FPort → FPort) : (s.modFport n f).xlats = s.xlats := rfl
@[simp] theorem State.modFport_faults (s : State) (n : Nat) (f : FPort → FPort) : (s.modFport n f).faults = s.faults := rfl
@[simp] theorem State.modFport_faultNo (s : State) (n : Nat) (f : FPort → FPort) : (s.modFport n f).faultNo = s.faultNo := rfl
@[simp] theorem State.modFport_groupNo (s : State) (n : Nat) (f : FPort → FPort) : (s.modFport n f).groupNo = s.groupNo := rfl
@[simp] theorem State.modFport_pri (s : State) (n : Nat) (f : FPort → FPort) : (s.modFport n f).pri = s.pri := rfl
@[simp] theorem State.modFport_pageAlloc (s : State) (n : Nat) (f : FPort → FPort) : (s.modFport n f).pageAlloc = s.pageAlloc := rfl
@[simp] theorem State.modFport_invals (s : State) (n : Nat) (f : FPort → FPort) : (s.modFport n f).invals = s.invals := rfl
@[simp] theorem State.modFport_inbound (s : State) (n : Nat) (f : FPort → FPort) : (s.modFport n f).inbound = s.inbound := rfl
@[simp] theorem State.modFport_reqs (s : State) (n : Nat) (f : FPort → FPort) : (s.modFport n f).reqs = s.reqs := rfl
@[simp] theorem State.modFport_reqNo (s : State) (n : Nat) (f : FPort → FPort) : (s.modFport n f).reqNo = s.reqNo := rfl
@[simp] theorem State.modFport_cores (s : State) (n : Nat) (f : FPort → FPort) : (s.modFport n f).cores = s.cores := rfl
@[simp] theorem State.modFport_clusters (s : State) (n : Nat) (f : FPort → FPort) : (s.modFport n f).clusters = s.clusters := rfl
@[simp] theorem State.modFport_lines (s : State) (n : Nat) (f : FPort → FPort) : (s.modFport n f).lines = s.lines := rfl
@[simp] theorem State.modFport_accrued (s : State) (n : Nat) (f : FPort → FPort) : (s.modFport n f).accrued = s.accrued := rfl
@[simp] theorem State.modFport_dirWaits (s : State) (n : Nat) (f : FPort → FPort) : (s.modFport n f).dirWaits = s.dirWaits := rfl
@[simp] theorem State.modFport_adders (s : State) (n : Nat) (f : FPort → FPort) : (s.modFport n f).adders = s.adders := rfl
@[simp] theorem State.modFport_merges (s : State) (n : Nat) (f : FPort → FPort) : (s.modFport n f).merges = s.merges := rfl

/-! ### State.modLane -/

@[simp] theorem State.modLane_pending (s : State) (l : Nat) (f : Lane → Lane) : (s.modLane l f).pending = s.pending := rfl
@[simp] theorem State.modLane_free (s : State) (l : Nat) (f : Lane → Lane) : (s.modLane l f).free = s.free := rfl
@[simp] theorem State.modLane_out (s : State) (l : Nat) (f : Lane → Lane) : (s.modLane l f).out = s.out := rfl
@[simp] theorem State.modLane_fuses (s : State) (l : Nat) (f : Lane → Lane) : (s.modLane l f).fuses = s.fuses := rfl
@[simp] theorem State.modLane_boot (s : State) (l : Nat) (f : Lane → Lane) : (s.modLane l f).boot = s.boot := rfl
@[simp] theorem State.modLane_time (s : State) (l : Nat) (f : Lane → Lane) : (s.modLane l f).time = s.time := rfl
@[simp] theorem State.modLane_pins (s : State) (l : Nat) (f : Lane → Lane) : (s.modLane l f).pins = s.pins := rfl
@[simp] theorem State.modLane_bad (s : State) (l : Nat) (f : Lane → Lane) : (s.modLane l f).bad = s.bad := rfl
@[simp] theorem State.modLane_sec (s : State) (l : Nat) (f : Lane → Lane) : (s.modLane l f).sec = s.sec := rfl
@[simp] theorem State.modLane_mail (s : State) (l : Nat) (f : Lane → Lane) : (s.modLane l f).mail = s.mail := rfl
@[simp] theorem State.modLane_ic (s : State) (l : Nat) (f : Lane → Lane) : (s.modLane l f).ic = s.ic := rfl
@[simp] theorem State.modLane_msix (s : State) (l : Nat) (f : Lane → Lane) : (s.modLane l f).msix = s.msix := rfl
@[simp] theorem State.modLane_errs (s : State) (l : Nat) (f : Lane → Lane) : (s.modLane l f).errs = s.errs := rfl
@[simp] theorem State.modLane_power (s : State) (l : Nat) (f : Lane → Lane) : (s.modLane l f).power = s.power := rfl
@[simp] theorem State.modLane_bg (s : State) (l : Nat) (f : Lane → Lane) : (s.modLane l f).bg = s.bg := rfl
@[simp] theorem State.modLane_fports (s : State) (l : Nat) (f : Lane → Lane) : (s.modLane l f).fports = s.fports := rfl
@[simp] theorem State.modLane_bridge (s : State) (l : Nat) (f : Lane → Lane) : (s.modLane l f).bridge = s.bridge := rfl
@[simp] theorem State.modLane_commons (s : State) (l : Nat) (f : Lane → Lane) : (s.modLane l f).commons = s.commons := rfl
@[simp] theorem State.modLane_parts (s : State) (l : Nat) (f : Lane → Lane) : (s.modLane l f).parts = s.parts := rfl
@[simp] theorem State.modLane_ctxs (s : State) (l : Nat) (f : Lane → Lane) : (s.modLane l f).ctxs = s.ctxs := rfl
@[simp] theorem State.modLane_queues (s : State) (l : Nat) (f : Lane → Lane) : (s.modLane l f).queues = s.queues := rfl
@[simp] theorem State.modLane_slots (s : State) (l : Nat) (f : Lane → Lane) : (s.modLane l f).slots = s.slots := rfl
@[simp] theorem State.modLane_admitted (s : State) (l : Nat) (f : Lane → Lane) : (s.modLane l f).admitted = s.admitted := rfl
@[simp] theorem State.modLane_graphs (s : State) (l : Nat) (f : Lane → Lane) : (s.modLane l f).graphs = s.graphs := rfl
@[simp] theorem State.modLane_seqs (s : State) (l : Nat) (f : Lane → Lane) : (s.modLane l f).seqs = s.seqs := rfl
@[simp] theorem State.modLane_extents (s : State) (l : Nat) (f : Lane → Lane) : (s.modLane l f).extents = s.extents := rfl
@[simp] theorem State.modLane_folios (s : State) (l : Nat) (f : Lane → Lane) : (s.modLane l f).folios = s.folios := rfl
@[simp] theorem State.modLane_atc (s : State) (l : Nat) (f : Lane → Lane) : (s.modLane l f).atc = s.atc := rfl
@[simp] theorem State.modLane_xlats (s : State) (l : Nat) (f : Lane → Lane) : (s.modLane l f).xlats = s.xlats := rfl
@[simp] theorem State.modLane_faults (s : State) (l : Nat) (f : Lane → Lane) : (s.modLane l f).faults = s.faults := rfl
@[simp] theorem State.modLane_faultNo (s : State) (l : Nat) (f : Lane → Lane) : (s.modLane l f).faultNo = s.faultNo := rfl
@[simp] theorem State.modLane_groupNo (s : State) (l : Nat) (f : Lane → Lane) : (s.modLane l f).groupNo = s.groupNo := rfl
@[simp] theorem State.modLane_pri (s : State) (l : Nat) (f : Lane → Lane) : (s.modLane l f).pri = s.pri := rfl
@[simp] theorem State.modLane_pageAlloc (s : State) (l : Nat) (f : Lane → Lane) : (s.modLane l f).pageAlloc = s.pageAlloc := rfl
@[simp] theorem State.modLane_invals (s : State) (l : Nat) (f : Lane → Lane) : (s.modLane l f).invals = s.invals := rfl
@[simp] theorem State.modLane_inbound (s : State) (l : Nat) (f : Lane → Lane) : (s.modLane l f).inbound = s.inbound := rfl
@[simp] theorem State.modLane_reqs (s : State) (l : Nat) (f : Lane → Lane) : (s.modLane l f).reqs = s.reqs := rfl
@[simp] theorem State.modLane_reqNo (s : State) (l : Nat) (f : Lane → Lane) : (s.modLane l f).reqNo = s.reqNo := rfl
@[simp] theorem State.modLane_cores (s : State) (l : Nat) (f : Lane → Lane) : (s.modLane l f).cores = s.cores := rfl
@[simp] theorem State.modLane_clusters (s : State) (l : Nat) (f : Lane → Lane) : (s.modLane l f).clusters = s.clusters := rfl
@[simp] theorem State.modLane_lines (s : State) (l : Nat) (f : Lane → Lane) : (s.modLane l f).lines = s.lines := rfl
@[simp] theorem State.modLane_accrued (s : State) (l : Nat) (f : Lane → Lane) : (s.modLane l f).accrued = s.accrued := rfl
@[simp] theorem State.modLane_dirWaits (s : State) (l : Nat) (f : Lane → Lane) : (s.modLane l f).dirWaits = s.dirWaits := rfl
@[simp] theorem State.modLane_adders (s : State) (l : Nat) (f : Lane → Lane) : (s.modLane l f).adders = s.adders := rfl
@[simp] theorem State.modLane_merges (s : State) (l : Nat) (f : Lane → Lane) : (s.modLane l f).merges = s.merges := rfl

/-! ### State.modSlot -/

@[simp] theorem State.modSlot_pending (s : State) (q n : Nat) (f : Slot → Slot) : (s.modSlot q n f).pending = s.pending := rfl
@[simp] theorem State.modSlot_free (s : State) (q n : Nat) (f : Slot → Slot) : (s.modSlot q n f).free = s.free := rfl
@[simp] theorem State.modSlot_out (s : State) (q n : Nat) (f : Slot → Slot) : (s.modSlot q n f).out = s.out := rfl
@[simp] theorem State.modSlot_fuses (s : State) (q n : Nat) (f : Slot → Slot) : (s.modSlot q n f).fuses = s.fuses := rfl
@[simp] theorem State.modSlot_boot (s : State) (q n : Nat) (f : Slot → Slot) : (s.modSlot q n f).boot = s.boot := rfl
@[simp] theorem State.modSlot_time (s : State) (q n : Nat) (f : Slot → Slot) : (s.modSlot q n f).time = s.time := rfl
@[simp] theorem State.modSlot_pins (s : State) (q n : Nat) (f : Slot → Slot) : (s.modSlot q n f).pins = s.pins := rfl
@[simp] theorem State.modSlot_bad (s : State) (q n : Nat) (f : Slot → Slot) : (s.modSlot q n f).bad = s.bad := rfl
@[simp] theorem State.modSlot_sec (s : State) (q n : Nat) (f : Slot → Slot) : (s.modSlot q n f).sec = s.sec := rfl
@[simp] theorem State.modSlot_mail (s : State) (q n : Nat) (f : Slot → Slot) : (s.modSlot q n f).mail = s.mail := rfl
@[simp] theorem State.modSlot_ic (s : State) (q n : Nat) (f : Slot → Slot) : (s.modSlot q n f).ic = s.ic := rfl
@[simp] theorem State.modSlot_msix (s : State) (q n : Nat) (f : Slot → Slot) : (s.modSlot q n f).msix = s.msix := rfl
@[simp] theorem State.modSlot_errs (s : State) (q n : Nat) (f : Slot → Slot) : (s.modSlot q n f).errs = s.errs := rfl
@[simp] theorem State.modSlot_power (s : State) (q n : Nat) (f : Slot → Slot) : (s.modSlot q n f).power = s.power := rfl
@[simp] theorem State.modSlot_bg (s : State) (q n : Nat) (f : Slot → Slot) : (s.modSlot q n f).bg = s.bg := rfl
@[simp] theorem State.modSlot_lanes (s : State) (q n : Nat) (f : Slot → Slot) : (s.modSlot q n f).lanes = s.lanes := rfl
@[simp] theorem State.modSlot_fports (s : State) (q n : Nat) (f : Slot → Slot) : (s.modSlot q n f).fports = s.fports := rfl
@[simp] theorem State.modSlot_bridge (s : State) (q n : Nat) (f : Slot → Slot) : (s.modSlot q n f).bridge = s.bridge := rfl
@[simp] theorem State.modSlot_commons (s : State) (q n : Nat) (f : Slot → Slot) : (s.modSlot q n f).commons = s.commons := rfl
@[simp] theorem State.modSlot_parts (s : State) (q n : Nat) (f : Slot → Slot) : (s.modSlot q n f).parts = s.parts := rfl
@[simp] theorem State.modSlot_ctxs (s : State) (q n : Nat) (f : Slot → Slot) : (s.modSlot q n f).ctxs = s.ctxs := rfl
@[simp] theorem State.modSlot_queues (s : State) (q n : Nat) (f : Slot → Slot) : (s.modSlot q n f).queues = s.queues := rfl
@[simp] theorem State.modSlot_admitted (s : State) (q n : Nat) (f : Slot → Slot) : (s.modSlot q n f).admitted = s.admitted := rfl
@[simp] theorem State.modSlot_graphs (s : State) (q n : Nat) (f : Slot → Slot) : (s.modSlot q n f).graphs = s.graphs := rfl
@[simp] theorem State.modSlot_seqs (s : State) (q n : Nat) (f : Slot → Slot) : (s.modSlot q n f).seqs = s.seqs := rfl
@[simp] theorem State.modSlot_extents (s : State) (q n : Nat) (f : Slot → Slot) : (s.modSlot q n f).extents = s.extents := rfl
@[simp] theorem State.modSlot_folios (s : State) (q n : Nat) (f : Slot → Slot) : (s.modSlot q n f).folios = s.folios := rfl
@[simp] theorem State.modSlot_atc (s : State) (q n : Nat) (f : Slot → Slot) : (s.modSlot q n f).atc = s.atc := rfl
@[simp] theorem State.modSlot_xlats (s : State) (q n : Nat) (f : Slot → Slot) : (s.modSlot q n f).xlats = s.xlats := rfl
@[simp] theorem State.modSlot_faults (s : State) (q n : Nat) (f : Slot → Slot) : (s.modSlot q n f).faults = s.faults := rfl
@[simp] theorem State.modSlot_faultNo (s : State) (q n : Nat) (f : Slot → Slot) : (s.modSlot q n f).faultNo = s.faultNo := rfl
@[simp] theorem State.modSlot_groupNo (s : State) (q n : Nat) (f : Slot → Slot) : (s.modSlot q n f).groupNo = s.groupNo := rfl
@[simp] theorem State.modSlot_pri (s : State) (q n : Nat) (f : Slot → Slot) : (s.modSlot q n f).pri = s.pri := rfl
@[simp] theorem State.modSlot_pageAlloc (s : State) (q n : Nat) (f : Slot → Slot) : (s.modSlot q n f).pageAlloc = s.pageAlloc := rfl
@[simp] theorem State.modSlot_invals (s : State) (q n : Nat) (f : Slot → Slot) : (s.modSlot q n f).invals = s.invals := rfl
@[simp] theorem State.modSlot_inbound (s : State) (q n : Nat) (f : Slot → Slot) : (s.modSlot q n f).inbound = s.inbound := rfl
@[simp] theorem State.modSlot_reqs (s : State) (q n : Nat) (f : Slot → Slot) : (s.modSlot q n f).reqs = s.reqs := rfl
@[simp] theorem State.modSlot_reqNo (s : State) (q n : Nat) (f : Slot → Slot) : (s.modSlot q n f).reqNo = s.reqNo := rfl
@[simp] theorem State.modSlot_cores (s : State) (q n : Nat) (f : Slot → Slot) : (s.modSlot q n f).cores = s.cores := rfl
@[simp] theorem State.modSlot_clusters (s : State) (q n : Nat) (f : Slot → Slot) : (s.modSlot q n f).clusters = s.clusters := rfl
@[simp] theorem State.modSlot_lines (s : State) (q n : Nat) (f : Slot → Slot) : (s.modSlot q n f).lines = s.lines := rfl
@[simp] theorem State.modSlot_accrued (s : State) (q n : Nat) (f : Slot → Slot) : (s.modSlot q n f).accrued = s.accrued := rfl
@[simp] theorem State.modSlot_dirWaits (s : State) (q n : Nat) (f : Slot → Slot) : (s.modSlot q n f).dirWaits = s.dirWaits := rfl
@[simp] theorem State.modSlot_adders (s : State) (q n : Nat) (f : Slot → Slot) : (s.modSlot q n f).adders = s.adders := rfl
@[simp] theorem State.modSlot_merges (s : State) (q n : Nat) (f : Slot → Slot) : (s.modSlot q n f).merges = s.merges := rfl

/-! ### State.dropSlot -/

@[simp] theorem State.dropSlot_pending (s : State) (q n : Nat) : (s.dropSlot q n).pending = s.pending := rfl
@[simp] theorem State.dropSlot_free (s : State) (q n : Nat) : (s.dropSlot q n).free = s.free := rfl
@[simp] theorem State.dropSlot_out (s : State) (q n : Nat) : (s.dropSlot q n).out = s.out := rfl
@[simp] theorem State.dropSlot_fuses (s : State) (q n : Nat) : (s.dropSlot q n).fuses = s.fuses := rfl
@[simp] theorem State.dropSlot_boot (s : State) (q n : Nat) : (s.dropSlot q n).boot = s.boot := rfl
@[simp] theorem State.dropSlot_time (s : State) (q n : Nat) : (s.dropSlot q n).time = s.time := rfl
@[simp] theorem State.dropSlot_pins (s : State) (q n : Nat) : (s.dropSlot q n).pins = s.pins := rfl
@[simp] theorem State.dropSlot_bad (s : State) (q n : Nat) : (s.dropSlot q n).bad = s.bad := rfl
@[simp] theorem State.dropSlot_sec (s : State) (q n : Nat) : (s.dropSlot q n).sec = s.sec := rfl
@[simp] theorem State.dropSlot_mail (s : State) (q n : Nat) : (s.dropSlot q n).mail = s.mail := rfl
@[simp] theorem State.dropSlot_ic (s : State) (q n : Nat) : (s.dropSlot q n).ic = s.ic := rfl
@[simp] theorem State.dropSlot_msix (s : State) (q n : Nat) : (s.dropSlot q n).msix = s.msix := rfl
@[simp] theorem State.dropSlot_errs (s : State) (q n : Nat) : (s.dropSlot q n).errs = s.errs := rfl
@[simp] theorem State.dropSlot_power (s : State) (q n : Nat) : (s.dropSlot q n).power = s.power := rfl
@[simp] theorem State.dropSlot_bg (s : State) (q n : Nat) : (s.dropSlot q n).bg = s.bg := rfl
@[simp] theorem State.dropSlot_lanes (s : State) (q n : Nat) : (s.dropSlot q n).lanes = s.lanes := rfl
@[simp] theorem State.dropSlot_fports (s : State) (q n : Nat) : (s.dropSlot q n).fports = s.fports := rfl
@[simp] theorem State.dropSlot_bridge (s : State) (q n : Nat) : (s.dropSlot q n).bridge = s.bridge := rfl
@[simp] theorem State.dropSlot_commons (s : State) (q n : Nat) : (s.dropSlot q n).commons = s.commons := rfl
@[simp] theorem State.dropSlot_parts (s : State) (q n : Nat) : (s.dropSlot q n).parts = s.parts := rfl
@[simp] theorem State.dropSlot_ctxs (s : State) (q n : Nat) : (s.dropSlot q n).ctxs = s.ctxs := rfl
@[simp] theorem State.dropSlot_queues (s : State) (q n : Nat) : (s.dropSlot q n).queues = s.queues := rfl
@[simp] theorem State.dropSlot_admitted (s : State) (q n : Nat) : (s.dropSlot q n).admitted = s.admitted := rfl
@[simp] theorem State.dropSlot_graphs (s : State) (q n : Nat) : (s.dropSlot q n).graphs = s.graphs := rfl
@[simp] theorem State.dropSlot_seqs (s : State) (q n : Nat) : (s.dropSlot q n).seqs = s.seqs := rfl
@[simp] theorem State.dropSlot_extents (s : State) (q n : Nat) : (s.dropSlot q n).extents = s.extents := rfl
@[simp] theorem State.dropSlot_folios (s : State) (q n : Nat) : (s.dropSlot q n).folios = s.folios := rfl
@[simp] theorem State.dropSlot_atc (s : State) (q n : Nat) : (s.dropSlot q n).atc = s.atc := rfl
@[simp] theorem State.dropSlot_xlats (s : State) (q n : Nat) : (s.dropSlot q n).xlats = s.xlats := rfl
@[simp] theorem State.dropSlot_faults (s : State) (q n : Nat) : (s.dropSlot q n).faults = s.faults := rfl
@[simp] theorem State.dropSlot_faultNo (s : State) (q n : Nat) : (s.dropSlot q n).faultNo = s.faultNo := rfl
@[simp] theorem State.dropSlot_groupNo (s : State) (q n : Nat) : (s.dropSlot q n).groupNo = s.groupNo := rfl
@[simp] theorem State.dropSlot_pri (s : State) (q n : Nat) : (s.dropSlot q n).pri = s.pri := rfl
@[simp] theorem State.dropSlot_pageAlloc (s : State) (q n : Nat) : (s.dropSlot q n).pageAlloc = s.pageAlloc := rfl
@[simp] theorem State.dropSlot_invals (s : State) (q n : Nat) : (s.dropSlot q n).invals = s.invals := rfl
@[simp] theorem State.dropSlot_inbound (s : State) (q n : Nat) : (s.dropSlot q n).inbound = s.inbound := rfl
@[simp] theorem State.dropSlot_reqs (s : State) (q n : Nat) : (s.dropSlot q n).reqs = s.reqs := rfl
@[simp] theorem State.dropSlot_reqNo (s : State) (q n : Nat) : (s.dropSlot q n).reqNo = s.reqNo := rfl
@[simp] theorem State.dropSlot_cores (s : State) (q n : Nat) : (s.dropSlot q n).cores = s.cores := rfl
@[simp] theorem State.dropSlot_clusters (s : State) (q n : Nat) : (s.dropSlot q n).clusters = s.clusters := rfl
@[simp] theorem State.dropSlot_lines (s : State) (q n : Nat) : (s.dropSlot q n).lines = s.lines := rfl
@[simp] theorem State.dropSlot_accrued (s : State) (q n : Nat) : (s.dropSlot q n).accrued = s.accrued := rfl
@[simp] theorem State.dropSlot_dirWaits (s : State) (q n : Nat) : (s.dropSlot q n).dirWaits = s.dirWaits := rfl
@[simp] theorem State.dropSlot_adders (s : State) (q n : Nat) : (s.dropSlot q n).adders = s.adders := rfl
@[simp] theorem State.dropSlot_merges (s : State) (q n : Nat) : (s.dropSlot q n).merges = s.merges := rfl

/-! ### State.emit -/

@[simp] theorem State.emit_pending (s : State) (o : Out) : (s.emit o).pending = s.pending := rfl
@[simp] theorem State.emit_free (s : State) (o : Out) : (s.emit o).free = s.free := rfl
@[simp] theorem State.emit_fuses (s : State) (o : Out) : (s.emit o).fuses = s.fuses := rfl
@[simp] theorem State.emit_boot (s : State) (o : Out) : (s.emit o).boot = s.boot := rfl
@[simp] theorem State.emit_time (s : State) (o : Out) : (s.emit o).time = s.time := rfl
@[simp] theorem State.emit_pins (s : State) (o : Out) : (s.emit o).pins = s.pins := rfl
@[simp] theorem State.emit_bad (s : State) (o : Out) : (s.emit o).bad = s.bad := rfl
@[simp] theorem State.emit_sec (s : State) (o : Out) : (s.emit o).sec = s.sec := rfl
@[simp] theorem State.emit_mail (s : State) (o : Out) : (s.emit o).mail = s.mail := rfl
@[simp] theorem State.emit_ic (s : State) (o : Out) : (s.emit o).ic = s.ic := rfl
@[simp] theorem State.emit_msix (s : State) (o : Out) : (s.emit o).msix = s.msix := rfl
@[simp] theorem State.emit_errs (s : State) (o : Out) : (s.emit o).errs = s.errs := rfl
@[simp] theorem State.emit_power (s : State) (o : Out) : (s.emit o).power = s.power := rfl
@[simp] theorem State.emit_bg (s : State) (o : Out) : (s.emit o).bg = s.bg := rfl
@[simp] theorem State.emit_lanes (s : State) (o : Out) : (s.emit o).lanes = s.lanes := rfl
@[simp] theorem State.emit_fports (s : State) (o : Out) : (s.emit o).fports = s.fports := rfl
@[simp] theorem State.emit_bridge (s : State) (o : Out) : (s.emit o).bridge = s.bridge := rfl
@[simp] theorem State.emit_commons (s : State) (o : Out) : (s.emit o).commons = s.commons := rfl
@[simp] theorem State.emit_parts (s : State) (o : Out) : (s.emit o).parts = s.parts := rfl
@[simp] theorem State.emit_ctxs (s : State) (o : Out) : (s.emit o).ctxs = s.ctxs := rfl
@[simp] theorem State.emit_queues (s : State) (o : Out) : (s.emit o).queues = s.queues := rfl
@[simp] theorem State.emit_slots (s : State) (o : Out) : (s.emit o).slots = s.slots := rfl
@[simp] theorem State.emit_admitted (s : State) (o : Out) : (s.emit o).admitted = s.admitted := rfl
@[simp] theorem State.emit_graphs (s : State) (o : Out) : (s.emit o).graphs = s.graphs := rfl
@[simp] theorem State.emit_seqs (s : State) (o : Out) : (s.emit o).seqs = s.seqs := rfl
@[simp] theorem State.emit_extents (s : State) (o : Out) : (s.emit o).extents = s.extents := rfl
@[simp] theorem State.emit_folios (s : State) (o : Out) : (s.emit o).folios = s.folios := rfl
@[simp] theorem State.emit_atc (s : State) (o : Out) : (s.emit o).atc = s.atc := rfl
@[simp] theorem State.emit_xlats (s : State) (o : Out) : (s.emit o).xlats = s.xlats := rfl
@[simp] theorem State.emit_faults (s : State) (o : Out) : (s.emit o).faults = s.faults := rfl
@[simp] theorem State.emit_faultNo (s : State) (o : Out) : (s.emit o).faultNo = s.faultNo := rfl
@[simp] theorem State.emit_groupNo (s : State) (o : Out) : (s.emit o).groupNo = s.groupNo := rfl
@[simp] theorem State.emit_pri (s : State) (o : Out) : (s.emit o).pri = s.pri := rfl
@[simp] theorem State.emit_pageAlloc (s : State) (o : Out) : (s.emit o).pageAlloc = s.pageAlloc := rfl
@[simp] theorem State.emit_invals (s : State) (o : Out) : (s.emit o).invals = s.invals := rfl
@[simp] theorem State.emit_inbound (s : State) (o : Out) : (s.emit o).inbound = s.inbound := rfl
@[simp] theorem State.emit_reqs (s : State) (o : Out) : (s.emit o).reqs = s.reqs := rfl
@[simp] theorem State.emit_reqNo (s : State) (o : Out) : (s.emit o).reqNo = s.reqNo := rfl
@[simp] theorem State.emit_cores (s : State) (o : Out) : (s.emit o).cores = s.cores := rfl
@[simp] theorem State.emit_clusters (s : State) (o : Out) : (s.emit o).clusters = s.clusters := rfl
@[simp] theorem State.emit_lines (s : State) (o : Out) : (s.emit o).lines = s.lines := rfl
@[simp] theorem State.emit_accrued (s : State) (o : Out) : (s.emit o).accrued = s.accrued := rfl
@[simp] theorem State.emit_dirWaits (s : State) (o : Out) : (s.emit o).dirWaits = s.dirWaits := rfl
@[simp] theorem State.emit_adders (s : State) (o : Out) : (s.emit o).adders = s.adders := rfl
@[simp] theorem State.emit_merges (s : State) (o : Out) : (s.emit o).merges = s.merges := rfl

/-! ### State.draw -/

@[simp] theorem State.draw_pending (s : State) : (s.draw).pending = s.pending := rfl
@[simp] theorem State.draw_out (s : State) : (s.draw).out = s.out := rfl
@[simp] theorem State.draw_fuses (s : State) : (s.draw).fuses = s.fuses := rfl
@[simp] theorem State.draw_boot (s : State) : (s.draw).boot = s.boot := rfl
@[simp] theorem State.draw_time (s : State) : (s.draw).time = s.time := rfl
@[simp] theorem State.draw_pins (s : State) : (s.draw).pins = s.pins := rfl
@[simp] theorem State.draw_bad (s : State) : (s.draw).bad = s.bad := rfl
@[simp] theorem State.draw_sec (s : State) : (s.draw).sec = s.sec := rfl
@[simp] theorem State.draw_mail (s : State) : (s.draw).mail = s.mail := rfl
@[simp] theorem State.draw_ic (s : State) : (s.draw).ic = s.ic := rfl
@[simp] theorem State.draw_msix (s : State) : (s.draw).msix = s.msix := rfl
@[simp] theorem State.draw_errs (s : State) : (s.draw).errs = s.errs := rfl
@[simp] theorem State.draw_power (s : State) : (s.draw).power = s.power := rfl
@[simp] theorem State.draw_bg (s : State) : (s.draw).bg = s.bg := rfl
@[simp] theorem State.draw_lanes (s : State) : (s.draw).lanes = s.lanes := rfl
@[simp] theorem State.draw_fports (s : State) : (s.draw).fports = s.fports := rfl
@[simp] theorem State.draw_bridge (s : State) : (s.draw).bridge = s.bridge := rfl
@[simp] theorem State.draw_commons (s : State) : (s.draw).commons = s.commons := rfl
@[simp] theorem State.draw_parts (s : State) : (s.draw).parts = s.parts := rfl
@[simp] theorem State.draw_ctxs (s : State) : (s.draw).ctxs = s.ctxs := rfl
@[simp] theorem State.draw_queues (s : State) : (s.draw).queues = s.queues := rfl
@[simp] theorem State.draw_slots (s : State) : (s.draw).slots = s.slots := rfl
@[simp] theorem State.draw_admitted (s : State) : (s.draw).admitted = s.admitted := rfl
@[simp] theorem State.draw_graphs (s : State) : (s.draw).graphs = s.graphs := rfl
@[simp] theorem State.draw_seqs (s : State) : (s.draw).seqs = s.seqs := rfl
@[simp] theorem State.draw_extents (s : State) : (s.draw).extents = s.extents := rfl
@[simp] theorem State.draw_folios (s : State) : (s.draw).folios = s.folios := rfl
@[simp] theorem State.draw_atc (s : State) : (s.draw).atc = s.atc := rfl
@[simp] theorem State.draw_xlats (s : State) : (s.draw).xlats = s.xlats := rfl
@[simp] theorem State.draw_faults (s : State) : (s.draw).faults = s.faults := rfl
@[simp] theorem State.draw_faultNo (s : State) : (s.draw).faultNo = s.faultNo := rfl
@[simp] theorem State.draw_groupNo (s : State) : (s.draw).groupNo = s.groupNo := rfl
@[simp] theorem State.draw_pri (s : State) : (s.draw).pri = s.pri := rfl
@[simp] theorem State.draw_pageAlloc (s : State) : (s.draw).pageAlloc = s.pageAlloc := rfl
@[simp] theorem State.draw_invals (s : State) : (s.draw).invals = s.invals := rfl
@[simp] theorem State.draw_inbound (s : State) : (s.draw).inbound = s.inbound := rfl
@[simp] theorem State.draw_reqs (s : State) : (s.draw).reqs = s.reqs := rfl
@[simp] theorem State.draw_reqNo (s : State) : (s.draw).reqNo = s.reqNo := rfl
@[simp] theorem State.draw_cores (s : State) : (s.draw).cores = s.cores := rfl
@[simp] theorem State.draw_clusters (s : State) : (s.draw).clusters = s.clusters := rfl
@[simp] theorem State.draw_lines (s : State) : (s.draw).lines = s.lines := rfl
@[simp] theorem State.draw_accrued (s : State) : (s.draw).accrued = s.accrued := rfl
@[simp] theorem State.draw_dirWaits (s : State) : (s.draw).dirWaits = s.dirWaits := rfl
@[simp] theorem State.draw_adders (s : State) : (s.draw).adders = s.adders := rfl
@[simp] theorem State.draw_merges (s : State) : (s.draw).merges = s.merges := rfl

/-! ### State.icFire -/

@[simp] theorem State.icFire_pending (s : State) (n : Nat) : (s.icFire n).pending = s.pending := rfl
@[simp] theorem State.icFire_free (s : State) (n : Nat) : (s.icFire n).free = s.free := rfl
@[simp] theorem State.icFire_out (s : State) (n : Nat) : (s.icFire n).out = s.out := rfl
@[simp] theorem State.icFire_fuses (s : State) (n : Nat) : (s.icFire n).fuses = s.fuses := rfl
@[simp] theorem State.icFire_boot (s : State) (n : Nat) : (s.icFire n).boot = s.boot := rfl
@[simp] theorem State.icFire_time (s : State) (n : Nat) : (s.icFire n).time = s.time := rfl
@[simp] theorem State.icFire_pins (s : State) (n : Nat) : (s.icFire n).pins = s.pins := rfl
@[simp] theorem State.icFire_bad (s : State) (n : Nat) : (s.icFire n).bad = s.bad := rfl
@[simp] theorem State.icFire_sec (s : State) (n : Nat) : (s.icFire n).sec = s.sec := rfl
@[simp] theorem State.icFire_mail (s : State) (n : Nat) : (s.icFire n).mail = s.mail := rfl
@[simp] theorem State.icFire_msix (s : State) (n : Nat) : (s.icFire n).msix = s.msix := rfl
@[simp] theorem State.icFire_errs (s : State) (n : Nat) : (s.icFire n).errs = s.errs := rfl
@[simp] theorem State.icFire_power (s : State) (n : Nat) : (s.icFire n).power = s.power := rfl
@[simp] theorem State.icFire_bg (s : State) (n : Nat) : (s.icFire n).bg = s.bg := rfl
@[simp] theorem State.icFire_lanes (s : State) (n : Nat) : (s.icFire n).lanes = s.lanes := rfl
@[simp] theorem State.icFire_fports (s : State) (n : Nat) : (s.icFire n).fports = s.fports := rfl
@[simp] theorem State.icFire_bridge (s : State) (n : Nat) : (s.icFire n).bridge = s.bridge := rfl
@[simp] theorem State.icFire_commons (s : State) (n : Nat) : (s.icFire n).commons = s.commons := rfl
@[simp] theorem State.icFire_parts (s : State) (n : Nat) : (s.icFire n).parts = s.parts := rfl
@[simp] theorem State.icFire_ctxs (s : State) (n : Nat) : (s.icFire n).ctxs = s.ctxs := rfl
@[simp] theorem State.icFire_queues (s : State) (n : Nat) : (s.icFire n).queues = s.queues := rfl
@[simp] theorem State.icFire_slots (s : State) (n : Nat) : (s.icFire n).slots = s.slots := rfl
@[simp] theorem State.icFire_admitted (s : State) (n : Nat) : (s.icFire n).admitted = s.admitted := rfl
@[simp] theorem State.icFire_graphs (s : State) (n : Nat) : (s.icFire n).graphs = s.graphs := rfl
@[simp] theorem State.icFire_seqs (s : State) (n : Nat) : (s.icFire n).seqs = s.seqs := rfl
@[simp] theorem State.icFire_extents (s : State) (n : Nat) : (s.icFire n).extents = s.extents := rfl
@[simp] theorem State.icFire_folios (s : State) (n : Nat) : (s.icFire n).folios = s.folios := rfl
@[simp] theorem State.icFire_atc (s : State) (n : Nat) : (s.icFire n).atc = s.atc := rfl
@[simp] theorem State.icFire_xlats (s : State) (n : Nat) : (s.icFire n).xlats = s.xlats := rfl
@[simp] theorem State.icFire_faults (s : State) (n : Nat) : (s.icFire n).faults = s.faults := rfl
@[simp] theorem State.icFire_faultNo (s : State) (n : Nat) : (s.icFire n).faultNo = s.faultNo := rfl
@[simp] theorem State.icFire_groupNo (s : State) (n : Nat) : (s.icFire n).groupNo = s.groupNo := rfl
@[simp] theorem State.icFire_pri (s : State) (n : Nat) : (s.icFire n).pri = s.pri := rfl
@[simp] theorem State.icFire_pageAlloc (s : State) (n : Nat) : (s.icFire n).pageAlloc = s.pageAlloc := rfl
@[simp] theorem State.icFire_invals (s : State) (n : Nat) : (s.icFire n).invals = s.invals := rfl
@[simp] theorem State.icFire_inbound (s : State) (n : Nat) : (s.icFire n).inbound = s.inbound := rfl
@[simp] theorem State.icFire_reqs (s : State) (n : Nat) : (s.icFire n).reqs = s.reqs := rfl
@[simp] theorem State.icFire_reqNo (s : State) (n : Nat) : (s.icFire n).reqNo = s.reqNo := rfl
@[simp] theorem State.icFire_cores (s : State) (n : Nat) : (s.icFire n).cores = s.cores := rfl
@[simp] theorem State.icFire_clusters (s : State) (n : Nat) : (s.icFire n).clusters = s.clusters := rfl
@[simp] theorem State.icFire_lines (s : State) (n : Nat) : (s.icFire n).lines = s.lines := rfl
@[simp] theorem State.icFire_accrued (s : State) (n : Nat) : (s.icFire n).accrued = s.accrued := rfl
@[simp] theorem State.icFire_dirWaits (s : State) (n : Nat) : (s.icFire n).dirWaits = s.dirWaits := rfl
@[simp] theorem State.icFire_adders (s : State) (n : Nat) : (s.icFire n).adders = s.adders := rfl
@[simp] theorem State.icFire_merges (s : State) (n : Nat) : (s.icFire n).merges = s.merges := rfl

/-! ### State.icLevel -/

@[simp] theorem State.icLevel_pending (s : State) (n : Nat) (b : Bool) : (s.icLevel n b).pending = s.pending := rfl
@[simp] theorem State.icLevel_free (s : State) (n : Nat) (b : Bool) : (s.icLevel n b).free = s.free := rfl
@[simp] theorem State.icLevel_out (s : State) (n : Nat) (b : Bool) : (s.icLevel n b).out = s.out := rfl
@[simp] theorem State.icLevel_fuses (s : State) (n : Nat) (b : Bool) : (s.icLevel n b).fuses = s.fuses := rfl
@[simp] theorem State.icLevel_boot (s : State) (n : Nat) (b : Bool) : (s.icLevel n b).boot = s.boot := rfl
@[simp] theorem State.icLevel_time (s : State) (n : Nat) (b : Bool) : (s.icLevel n b).time = s.time := rfl
@[simp] theorem State.icLevel_pins (s : State) (n : Nat) (b : Bool) : (s.icLevel n b).pins = s.pins := rfl
@[simp] theorem State.icLevel_bad (s : State) (n : Nat) (b : Bool) : (s.icLevel n b).bad = s.bad := rfl
@[simp] theorem State.icLevel_sec (s : State) (n : Nat) (b : Bool) : (s.icLevel n b).sec = s.sec := rfl
@[simp] theorem State.icLevel_mail (s : State) (n : Nat) (b : Bool) : (s.icLevel n b).mail = s.mail := rfl
@[simp] theorem State.icLevel_msix (s : State) (n : Nat) (b : Bool) : (s.icLevel n b).msix = s.msix := rfl
@[simp] theorem State.icLevel_errs (s : State) (n : Nat) (b : Bool) : (s.icLevel n b).errs = s.errs := rfl
@[simp] theorem State.icLevel_power (s : State) (n : Nat) (b : Bool) : (s.icLevel n b).power = s.power := rfl
@[simp] theorem State.icLevel_bg (s : State) (n : Nat) (b : Bool) : (s.icLevel n b).bg = s.bg := rfl
@[simp] theorem State.icLevel_lanes (s : State) (n : Nat) (b : Bool) : (s.icLevel n b).lanes = s.lanes := rfl
@[simp] theorem State.icLevel_fports (s : State) (n : Nat) (b : Bool) : (s.icLevel n b).fports = s.fports := rfl
@[simp] theorem State.icLevel_bridge (s : State) (n : Nat) (b : Bool) : (s.icLevel n b).bridge = s.bridge := rfl
@[simp] theorem State.icLevel_commons (s : State) (n : Nat) (b : Bool) : (s.icLevel n b).commons = s.commons := rfl
@[simp] theorem State.icLevel_parts (s : State) (n : Nat) (b : Bool) : (s.icLevel n b).parts = s.parts := rfl
@[simp] theorem State.icLevel_ctxs (s : State) (n : Nat) (b : Bool) : (s.icLevel n b).ctxs = s.ctxs := rfl
@[simp] theorem State.icLevel_queues (s : State) (n : Nat) (b : Bool) : (s.icLevel n b).queues = s.queues := rfl
@[simp] theorem State.icLevel_slots (s : State) (n : Nat) (b : Bool) : (s.icLevel n b).slots = s.slots := rfl
@[simp] theorem State.icLevel_admitted (s : State) (n : Nat) (b : Bool) : (s.icLevel n b).admitted = s.admitted := rfl
@[simp] theorem State.icLevel_graphs (s : State) (n : Nat) (b : Bool) : (s.icLevel n b).graphs = s.graphs := rfl
@[simp] theorem State.icLevel_seqs (s : State) (n : Nat) (b : Bool) : (s.icLevel n b).seqs = s.seqs := rfl
@[simp] theorem State.icLevel_extents (s : State) (n : Nat) (b : Bool) : (s.icLevel n b).extents = s.extents := rfl
@[simp] theorem State.icLevel_folios (s : State) (n : Nat) (b : Bool) : (s.icLevel n b).folios = s.folios := rfl
@[simp] theorem State.icLevel_atc (s : State) (n : Nat) (b : Bool) : (s.icLevel n b).atc = s.atc := rfl
@[simp] theorem State.icLevel_xlats (s : State) (n : Nat) (b : Bool) : (s.icLevel n b).xlats = s.xlats := rfl
@[simp] theorem State.icLevel_faults (s : State) (n : Nat) (b : Bool) : (s.icLevel n b).faults = s.faults := rfl
@[simp] theorem State.icLevel_faultNo (s : State) (n : Nat) (b : Bool) : (s.icLevel n b).faultNo = s.faultNo := rfl
@[simp] theorem State.icLevel_groupNo (s : State) (n : Nat) (b : Bool) : (s.icLevel n b).groupNo = s.groupNo := rfl
@[simp] theorem State.icLevel_pri (s : State) (n : Nat) (b : Bool) : (s.icLevel n b).pri = s.pri := rfl
@[simp] theorem State.icLevel_pageAlloc (s : State) (n : Nat) (b : Bool) : (s.icLevel n b).pageAlloc = s.pageAlloc := rfl
@[simp] theorem State.icLevel_invals (s : State) (n : Nat) (b : Bool) : (s.icLevel n b).invals = s.invals := rfl
@[simp] theorem State.icLevel_inbound (s : State) (n : Nat) (b : Bool) : (s.icLevel n b).inbound = s.inbound := rfl
@[simp] theorem State.icLevel_reqs (s : State) (n : Nat) (b : Bool) : (s.icLevel n b).reqs = s.reqs := rfl
@[simp] theorem State.icLevel_reqNo (s : State) (n : Nat) (b : Bool) : (s.icLevel n b).reqNo = s.reqNo := rfl
@[simp] theorem State.icLevel_cores (s : State) (n : Nat) (b : Bool) : (s.icLevel n b).cores = s.cores := rfl
@[simp] theorem State.icLevel_clusters (s : State) (n : Nat) (b : Bool) : (s.icLevel n b).clusters = s.clusters := rfl
@[simp] theorem State.icLevel_lines (s : State) (n : Nat) (b : Bool) : (s.icLevel n b).lines = s.lines := rfl
@[simp] theorem State.icLevel_accrued (s : State) (n : Nat) (b : Bool) : (s.icLevel n b).accrued = s.accrued := rfl
@[simp] theorem State.icLevel_dirWaits (s : State) (n : Nat) (b : Bool) : (s.icLevel n b).dirWaits = s.dirWaits := rfl
@[simp] theorem State.icLevel_adders (s : State) (n : Nat) (b : Bool) : (s.icLevel n b).adders = s.adders := rfl
@[simp] theorem State.icLevel_merges (s : State) (n : Nat) (b : Bool) : (s.icLevel n b).merges = s.merges := rfl

/-! ### State.badAccess -/

@[simp] theorem State.badAccess_pending (s : State) (k o : Nat) : (s.badAccess k o).pending = s.pending := rfl
@[simp] theorem State.badAccess_free (s : State) (k o : Nat) : (s.badAccess k o).free = s.free := rfl
@[simp] theorem State.badAccess_out (s : State) (k o : Nat) : (s.badAccess k o).out = s.out := rfl
@[simp] theorem State.badAccess_fuses (s : State) (k o : Nat) : (s.badAccess k o).fuses = s.fuses := rfl
@[simp] theorem State.badAccess_boot (s : State) (k o : Nat) : (s.badAccess k o).boot = s.boot := rfl
@[simp] theorem State.badAccess_time (s : State) (k o : Nat) : (s.badAccess k o).time = s.time := rfl
@[simp] theorem State.badAccess_pins (s : State) (k o : Nat) : (s.badAccess k o).pins = s.pins := rfl
@[simp] theorem State.badAccess_sec (s : State) (k o : Nat) : (s.badAccess k o).sec = s.sec := rfl
@[simp] theorem State.badAccess_mail (s : State) (k o : Nat) : (s.badAccess k o).mail = s.mail := rfl
@[simp] theorem State.badAccess_ic (s : State) (k o : Nat) : (s.badAccess k o).ic = s.ic := rfl
@[simp] theorem State.badAccess_msix (s : State) (k o : Nat) : (s.badAccess k o).msix = s.msix := rfl
@[simp] theorem State.badAccess_errs (s : State) (k o : Nat) : (s.badAccess k o).errs = s.errs := rfl
@[simp] theorem State.badAccess_power (s : State) (k o : Nat) : (s.badAccess k o).power = s.power := rfl
@[simp] theorem State.badAccess_bg (s : State) (k o : Nat) : (s.badAccess k o).bg = s.bg := rfl
@[simp] theorem State.badAccess_lanes (s : State) (k o : Nat) : (s.badAccess k o).lanes = s.lanes := rfl
@[simp] theorem State.badAccess_fports (s : State) (k o : Nat) : (s.badAccess k o).fports = s.fports := rfl
@[simp] theorem State.badAccess_bridge (s : State) (k o : Nat) : (s.badAccess k o).bridge = s.bridge := rfl
@[simp] theorem State.badAccess_commons (s : State) (k o : Nat) : (s.badAccess k o).commons = s.commons := rfl
@[simp] theorem State.badAccess_parts (s : State) (k o : Nat) : (s.badAccess k o).parts = s.parts := rfl
@[simp] theorem State.badAccess_ctxs (s : State) (k o : Nat) : (s.badAccess k o).ctxs = s.ctxs := rfl
@[simp] theorem State.badAccess_queues (s : State) (k o : Nat) : (s.badAccess k o).queues = s.queues := rfl
@[simp] theorem State.badAccess_slots (s : State) (k o : Nat) : (s.badAccess k o).slots = s.slots := rfl
@[simp] theorem State.badAccess_admitted (s : State) (k o : Nat) : (s.badAccess k o).admitted = s.admitted := rfl
@[simp] theorem State.badAccess_graphs (s : State) (k o : Nat) : (s.badAccess k o).graphs = s.graphs := rfl
@[simp] theorem State.badAccess_seqs (s : State) (k o : Nat) : (s.badAccess k o).seqs = s.seqs := rfl
@[simp] theorem State.badAccess_extents (s : State) (k o : Nat) : (s.badAccess k o).extents = s.extents := rfl
@[simp] theorem State.badAccess_folios (s : State) (k o : Nat) : (s.badAccess k o).folios = s.folios := rfl
@[simp] theorem State.badAccess_atc (s : State) (k o : Nat) : (s.badAccess k o).atc = s.atc := rfl
@[simp] theorem State.badAccess_xlats (s : State) (k o : Nat) : (s.badAccess k o).xlats = s.xlats := rfl
@[simp] theorem State.badAccess_faults (s : State) (k o : Nat) : (s.badAccess k o).faults = s.faults := rfl
@[simp] theorem State.badAccess_faultNo (s : State) (k o : Nat) : (s.badAccess k o).faultNo = s.faultNo := rfl
@[simp] theorem State.badAccess_groupNo (s : State) (k o : Nat) : (s.badAccess k o).groupNo = s.groupNo := rfl
@[simp] theorem State.badAccess_pri (s : State) (k o : Nat) : (s.badAccess k o).pri = s.pri := rfl
@[simp] theorem State.badAccess_pageAlloc (s : State) (k o : Nat) : (s.badAccess k o).pageAlloc = s.pageAlloc := rfl
@[simp] theorem State.badAccess_invals (s : State) (k o : Nat) : (s.badAccess k o).invals = s.invals := rfl
@[simp] theorem State.badAccess_inbound (s : State) (k o : Nat) : (s.badAccess k o).inbound = s.inbound := rfl
@[simp] theorem State.badAccess_reqs (s : State) (k o : Nat) : (s.badAccess k o).reqs = s.reqs := rfl
@[simp] theorem State.badAccess_reqNo (s : State) (k o : Nat) : (s.badAccess k o).reqNo = s.reqNo := rfl
@[simp] theorem State.badAccess_cores (s : State) (k o : Nat) : (s.badAccess k o).cores = s.cores := rfl
@[simp] theorem State.badAccess_clusters (s : State) (k o : Nat) : (s.badAccess k o).clusters = s.clusters := rfl
@[simp] theorem State.badAccess_lines (s : State) (k o : Nat) : (s.badAccess k o).lines = s.lines := rfl
@[simp] theorem State.badAccess_accrued (s : State) (k o : Nat) : (s.badAccess k o).accrued = s.accrued := rfl
@[simp] theorem State.badAccess_dirWaits (s : State) (k o : Nat) : (s.badAccess k o).dirWaits = s.dirWaits := rfl
@[simp] theorem State.badAccess_adders (s : State) (k o : Nat) : (s.badAccess k o).adders = s.adders := rfl
@[simp] theorem State.badAccess_merges (s : State) (k o : Nat) : (s.badAccess k o).merges = s.merges := rfl

/-! ### State.modCtx -/

@[simp] theorem State.modCtx_pending (s : State) (k : Nat) (f : Context → Context) : (s.modCtx k f).pending = s.pending := by unfold State.modCtx; split <;> rfl
@[simp] theorem State.modCtx_free (s : State) (k : Nat) (f : Context → Context) : (s.modCtx k f).free = s.free := by unfold State.modCtx; split <;> rfl
@[simp] theorem State.modCtx_out (s : State) (k : Nat) (f : Context → Context) : (s.modCtx k f).out = s.out := by unfold State.modCtx; split <;> rfl
@[simp] theorem State.modCtx_fuses (s : State) (k : Nat) (f : Context → Context) : (s.modCtx k f).fuses = s.fuses := by unfold State.modCtx; split <;> rfl
@[simp] theorem State.modCtx_boot (s : State) (k : Nat) (f : Context → Context) : (s.modCtx k f).boot = s.boot := by unfold State.modCtx; split <;> rfl
@[simp] theorem State.modCtx_time (s : State) (k : Nat) (f : Context → Context) : (s.modCtx k f).time = s.time := by unfold State.modCtx; split <;> rfl
@[simp] theorem State.modCtx_pins (s : State) (k : Nat) (f : Context → Context) : (s.modCtx k f).pins = s.pins := by unfold State.modCtx; split <;> rfl
@[simp] theorem State.modCtx_bad (s : State) (k : Nat) (f : Context → Context) : (s.modCtx k f).bad = s.bad := by unfold State.modCtx; split <;> rfl
@[simp] theorem State.modCtx_sec (s : State) (k : Nat) (f : Context → Context) : (s.modCtx k f).sec = s.sec := by unfold State.modCtx; split <;> rfl
@[simp] theorem State.modCtx_mail (s : State) (k : Nat) (f : Context → Context) : (s.modCtx k f).mail = s.mail := by unfold State.modCtx; split <;> rfl
@[simp] theorem State.modCtx_ic (s : State) (k : Nat) (f : Context → Context) : (s.modCtx k f).ic = s.ic := by unfold State.modCtx; split <;> rfl
@[simp] theorem State.modCtx_msix (s : State) (k : Nat) (f : Context → Context) : (s.modCtx k f).msix = s.msix := by unfold State.modCtx; split <;> rfl
@[simp] theorem State.modCtx_errs (s : State) (k : Nat) (f : Context → Context) : (s.modCtx k f).errs = s.errs := by unfold State.modCtx; split <;> rfl
@[simp] theorem State.modCtx_power (s : State) (k : Nat) (f : Context → Context) : (s.modCtx k f).power = s.power := by unfold State.modCtx; split <;> rfl
@[simp] theorem State.modCtx_bg (s : State) (k : Nat) (f : Context → Context) : (s.modCtx k f).bg = s.bg := by unfold State.modCtx; split <;> rfl
@[simp] theorem State.modCtx_lanes (s : State) (k : Nat) (f : Context → Context) : (s.modCtx k f).lanes = s.lanes := by unfold State.modCtx; split <;> rfl
@[simp] theorem State.modCtx_fports (s : State) (k : Nat) (f : Context → Context) : (s.modCtx k f).fports = s.fports := by unfold State.modCtx; split <;> rfl
@[simp] theorem State.modCtx_bridge (s : State) (k : Nat) (f : Context → Context) : (s.modCtx k f).bridge = s.bridge := by unfold State.modCtx; split <;> rfl
@[simp] theorem State.modCtx_commons (s : State) (k : Nat) (f : Context → Context) : (s.modCtx k f).commons = s.commons := by unfold State.modCtx; split <;> rfl
@[simp] theorem State.modCtx_parts (s : State) (k : Nat) (f : Context → Context) : (s.modCtx k f).parts = s.parts := by unfold State.modCtx; split <;> rfl
@[simp] theorem State.modCtx_queues (s : State) (k : Nat) (f : Context → Context) : (s.modCtx k f).queues = s.queues := by unfold State.modCtx; split <;> rfl
@[simp] theorem State.modCtx_slots (s : State) (k : Nat) (f : Context → Context) : (s.modCtx k f).slots = s.slots := by unfold State.modCtx; split <;> rfl
@[simp] theorem State.modCtx_admitted (s : State) (k : Nat) (f : Context → Context) : (s.modCtx k f).admitted = s.admitted := by unfold State.modCtx; split <;> rfl
@[simp] theorem State.modCtx_graphs (s : State) (k : Nat) (f : Context → Context) : (s.modCtx k f).graphs = s.graphs := by unfold State.modCtx; split <;> rfl
@[simp] theorem State.modCtx_seqs (s : State) (k : Nat) (f : Context → Context) : (s.modCtx k f).seqs = s.seqs := by unfold State.modCtx; split <;> rfl
@[simp] theorem State.modCtx_extents (s : State) (k : Nat) (f : Context → Context) : (s.modCtx k f).extents = s.extents := by unfold State.modCtx; split <;> rfl
@[simp] theorem State.modCtx_folios (s : State) (k : Nat) (f : Context → Context) : (s.modCtx k f).folios = s.folios := by unfold State.modCtx; split <;> rfl
@[simp] theorem State.modCtx_atc (s : State) (k : Nat) (f : Context → Context) : (s.modCtx k f).atc = s.atc := by unfold State.modCtx; split <;> rfl
@[simp] theorem State.modCtx_xlats (s : State) (k : Nat) (f : Context → Context) : (s.modCtx k f).xlats = s.xlats := by unfold State.modCtx; split <;> rfl
@[simp] theorem State.modCtx_faults (s : State) (k : Nat) (f : Context → Context) : (s.modCtx k f).faults = s.faults := by unfold State.modCtx; split <;> rfl
@[simp] theorem State.modCtx_faultNo (s : State) (k : Nat) (f : Context → Context) : (s.modCtx k f).faultNo = s.faultNo := by unfold State.modCtx; split <;> rfl
@[simp] theorem State.modCtx_groupNo (s : State) (k : Nat) (f : Context → Context) : (s.modCtx k f).groupNo = s.groupNo := by unfold State.modCtx; split <;> rfl
@[simp] theorem State.modCtx_pri (s : State) (k : Nat) (f : Context → Context) : (s.modCtx k f).pri = s.pri := by unfold State.modCtx; split <;> rfl
@[simp] theorem State.modCtx_pageAlloc (s : State) (k : Nat) (f : Context → Context) : (s.modCtx k f).pageAlloc = s.pageAlloc := by unfold State.modCtx; split <;> rfl
@[simp] theorem State.modCtx_invals (s : State) (k : Nat) (f : Context → Context) : (s.modCtx k f).invals = s.invals := by unfold State.modCtx; split <;> rfl
@[simp] theorem State.modCtx_inbound (s : State) (k : Nat) (f : Context → Context) : (s.modCtx k f).inbound = s.inbound := by unfold State.modCtx; split <;> rfl
@[simp] theorem State.modCtx_reqs (s : State) (k : Nat) (f : Context → Context) : (s.modCtx k f).reqs = s.reqs := by unfold State.modCtx; split <;> rfl
@[simp] theorem State.modCtx_reqNo (s : State) (k : Nat) (f : Context → Context) : (s.modCtx k f).reqNo = s.reqNo := by unfold State.modCtx; split <;> rfl
@[simp] theorem State.modCtx_cores (s : State) (k : Nat) (f : Context → Context) : (s.modCtx k f).cores = s.cores := by unfold State.modCtx; split <;> rfl
@[simp] theorem State.modCtx_clusters (s : State) (k : Nat) (f : Context → Context) : (s.modCtx k f).clusters = s.clusters := by unfold State.modCtx; split <;> rfl
@[simp] theorem State.modCtx_lines (s : State) (k : Nat) (f : Context → Context) : (s.modCtx k f).lines = s.lines := by unfold State.modCtx; split <;> rfl
@[simp] theorem State.modCtx_accrued (s : State) (k : Nat) (f : Context → Context) : (s.modCtx k f).accrued = s.accrued := by unfold State.modCtx; split <;> rfl
@[simp] theorem State.modCtx_dirWaits (s : State) (k : Nat) (f : Context → Context) : (s.modCtx k f).dirWaits = s.dirWaits := by unfold State.modCtx; split <;> rfl
@[simp] theorem State.modCtx_adders (s : State) (k : Nat) (f : Context → Context) : (s.modCtx k f).adders = s.adders := by unfold State.modCtx; split <;> rfl
@[simp] theorem State.modCtx_merges (s : State) (k : Nat) (f : Context → Context) : (s.modCtx k f).merges = s.merges := by unfold State.modCtx; split <;> rfl

/-! ### State.modExtent -/

@[simp] theorem State.modExtent_pending (s : State) (e : Nat) (f : Extent → Extent) : (s.modExtent e f).pending = s.pending := by unfold State.modExtent; split <;> rfl
@[simp] theorem State.modExtent_free (s : State) (e : Nat) (f : Extent → Extent) : (s.modExtent e f).free = s.free := by unfold State.modExtent; split <;> rfl
@[simp] theorem State.modExtent_out (s : State) (e : Nat) (f : Extent → Extent) : (s.modExtent e f).out = s.out := by unfold State.modExtent; split <;> rfl
@[simp] theorem State.modExtent_fuses (s : State) (e : Nat) (f : Extent → Extent) : (s.modExtent e f).fuses = s.fuses := by unfold State.modExtent; split <;> rfl
@[simp] theorem State.modExtent_boot (s : State) (e : Nat) (f : Extent → Extent) : (s.modExtent e f).boot = s.boot := by unfold State.modExtent; split <;> rfl
@[simp] theorem State.modExtent_time (s : State) (e : Nat) (f : Extent → Extent) : (s.modExtent e f).time = s.time := by unfold State.modExtent; split <;> rfl
@[simp] theorem State.modExtent_pins (s : State) (e : Nat) (f : Extent → Extent) : (s.modExtent e f).pins = s.pins := by unfold State.modExtent; split <;> rfl
@[simp] theorem State.modExtent_bad (s : State) (e : Nat) (f : Extent → Extent) : (s.modExtent e f).bad = s.bad := by unfold State.modExtent; split <;> rfl
@[simp] theorem State.modExtent_sec (s : State) (e : Nat) (f : Extent → Extent) : (s.modExtent e f).sec = s.sec := by unfold State.modExtent; split <;> rfl
@[simp] theorem State.modExtent_mail (s : State) (e : Nat) (f : Extent → Extent) : (s.modExtent e f).mail = s.mail := by unfold State.modExtent; split <;> rfl
@[simp] theorem State.modExtent_ic (s : State) (e : Nat) (f : Extent → Extent) : (s.modExtent e f).ic = s.ic := by unfold State.modExtent; split <;> rfl
@[simp] theorem State.modExtent_msix (s : State) (e : Nat) (f : Extent → Extent) : (s.modExtent e f).msix = s.msix := by unfold State.modExtent; split <;> rfl
@[simp] theorem State.modExtent_errs (s : State) (e : Nat) (f : Extent → Extent) : (s.modExtent e f).errs = s.errs := by unfold State.modExtent; split <;> rfl
@[simp] theorem State.modExtent_power (s : State) (e : Nat) (f : Extent → Extent) : (s.modExtent e f).power = s.power := by unfold State.modExtent; split <;> rfl
@[simp] theorem State.modExtent_bg (s : State) (e : Nat) (f : Extent → Extent) : (s.modExtent e f).bg = s.bg := by unfold State.modExtent; split <;> rfl
@[simp] theorem State.modExtent_lanes (s : State) (e : Nat) (f : Extent → Extent) : (s.modExtent e f).lanes = s.lanes := by unfold State.modExtent; split <;> rfl
@[simp] theorem State.modExtent_fports (s : State) (e : Nat) (f : Extent → Extent) : (s.modExtent e f).fports = s.fports := by unfold State.modExtent; split <;> rfl
@[simp] theorem State.modExtent_bridge (s : State) (e : Nat) (f : Extent → Extent) : (s.modExtent e f).bridge = s.bridge := by unfold State.modExtent; split <;> rfl
@[simp] theorem State.modExtent_commons (s : State) (e : Nat) (f : Extent → Extent) : (s.modExtent e f).commons = s.commons := by unfold State.modExtent; split <;> rfl
@[simp] theorem State.modExtent_parts (s : State) (e : Nat) (f : Extent → Extent) : (s.modExtent e f).parts = s.parts := by unfold State.modExtent; split <;> rfl
@[simp] theorem State.modExtent_ctxs (s : State) (e : Nat) (f : Extent → Extent) : (s.modExtent e f).ctxs = s.ctxs := by unfold State.modExtent; split <;> rfl
@[simp] theorem State.modExtent_queues (s : State) (e : Nat) (f : Extent → Extent) : (s.modExtent e f).queues = s.queues := by unfold State.modExtent; split <;> rfl
@[simp] theorem State.modExtent_slots (s : State) (e : Nat) (f : Extent → Extent) : (s.modExtent e f).slots = s.slots := by unfold State.modExtent; split <;> rfl
@[simp] theorem State.modExtent_admitted (s : State) (e : Nat) (f : Extent → Extent) : (s.modExtent e f).admitted = s.admitted := by unfold State.modExtent; split <;> rfl
@[simp] theorem State.modExtent_graphs (s : State) (e : Nat) (f : Extent → Extent) : (s.modExtent e f).graphs = s.graphs := by unfold State.modExtent; split <;> rfl
@[simp] theorem State.modExtent_seqs (s : State) (e : Nat) (f : Extent → Extent) : (s.modExtent e f).seqs = s.seqs := by unfold State.modExtent; split <;> rfl
@[simp] theorem State.modExtent_folios (s : State) (e : Nat) (f : Extent → Extent) : (s.modExtent e f).folios = s.folios := by unfold State.modExtent; split <;> rfl
@[simp] theorem State.modExtent_atc (s : State) (e : Nat) (f : Extent → Extent) : (s.modExtent e f).atc = s.atc := by unfold State.modExtent; split <;> rfl
@[simp] theorem State.modExtent_xlats (s : State) (e : Nat) (f : Extent → Extent) : (s.modExtent e f).xlats = s.xlats := by unfold State.modExtent; split <;> rfl
@[simp] theorem State.modExtent_faults (s : State) (e : Nat) (f : Extent → Extent) : (s.modExtent e f).faults = s.faults := by unfold State.modExtent; split <;> rfl
@[simp] theorem State.modExtent_faultNo (s : State) (e : Nat) (f : Extent → Extent) : (s.modExtent e f).faultNo = s.faultNo := by unfold State.modExtent; split <;> rfl
@[simp] theorem State.modExtent_groupNo (s : State) (e : Nat) (f : Extent → Extent) : (s.modExtent e f).groupNo = s.groupNo := by unfold State.modExtent; split <;> rfl
@[simp] theorem State.modExtent_pri (s : State) (e : Nat) (f : Extent → Extent) : (s.modExtent e f).pri = s.pri := by unfold State.modExtent; split <;> rfl
@[simp] theorem State.modExtent_pageAlloc (s : State) (e : Nat) (f : Extent → Extent) : (s.modExtent e f).pageAlloc = s.pageAlloc := by unfold State.modExtent; split <;> rfl
@[simp] theorem State.modExtent_invals (s : State) (e : Nat) (f : Extent → Extent) : (s.modExtent e f).invals = s.invals := by unfold State.modExtent; split <;> rfl
@[simp] theorem State.modExtent_inbound (s : State) (e : Nat) (f : Extent → Extent) : (s.modExtent e f).inbound = s.inbound := by unfold State.modExtent; split <;> rfl
@[simp] theorem State.modExtent_reqs (s : State) (e : Nat) (f : Extent → Extent) : (s.modExtent e f).reqs = s.reqs := by unfold State.modExtent; split <;> rfl
@[simp] theorem State.modExtent_reqNo (s : State) (e : Nat) (f : Extent → Extent) : (s.modExtent e f).reqNo = s.reqNo := by unfold State.modExtent; split <;> rfl
@[simp] theorem State.modExtent_cores (s : State) (e : Nat) (f : Extent → Extent) : (s.modExtent e f).cores = s.cores := by unfold State.modExtent; split <;> rfl
@[simp] theorem State.modExtent_clusters (s : State) (e : Nat) (f : Extent → Extent) : (s.modExtent e f).clusters = s.clusters := by unfold State.modExtent; split <;> rfl
@[simp] theorem State.modExtent_lines (s : State) (e : Nat) (f : Extent → Extent) : (s.modExtent e f).lines = s.lines := by unfold State.modExtent; split <;> rfl
@[simp] theorem State.modExtent_accrued (s : State) (e : Nat) (f : Extent → Extent) : (s.modExtent e f).accrued = s.accrued := by unfold State.modExtent; split <;> rfl
@[simp] theorem State.modExtent_dirWaits (s : State) (e : Nat) (f : Extent → Extent) : (s.modExtent e f).dirWaits = s.dirWaits := by unfold State.modExtent; split <;> rfl
@[simp] theorem State.modExtent_adders (s : State) (e : Nat) (f : Extent → Extent) : (s.modExtent e f).adders = s.adders := by unfold State.modExtent; split <;> rfl
@[simp] theorem State.modExtent_merges (s : State) (e : Nat) (f : Extent → Extent) : (s.modExtent e f).merges = s.merges := by unfold State.modExtent; split <;> rfl

/-! ### State.modFolio -/

@[simp] theorem State.modFolio_pending (s : State) (i : Nat) (f : Folio → Folio) : (s.modFolio i f).pending = s.pending := by unfold State.modFolio; split <;> rfl
@[simp] theorem State.modFolio_free (s : State) (i : Nat) (f : Folio → Folio) : (s.modFolio i f).free = s.free := by unfold State.modFolio; split <;> rfl
@[simp] theorem State.modFolio_out (s : State) (i : Nat) (f : Folio → Folio) : (s.modFolio i f).out = s.out := by unfold State.modFolio; split <;> rfl
@[simp] theorem State.modFolio_fuses (s : State) (i : Nat) (f : Folio → Folio) : (s.modFolio i f).fuses = s.fuses := by unfold State.modFolio; split <;> rfl
@[simp] theorem State.modFolio_boot (s : State) (i : Nat) (f : Folio → Folio) : (s.modFolio i f).boot = s.boot := by unfold State.modFolio; split <;> rfl
@[simp] theorem State.modFolio_time (s : State) (i : Nat) (f : Folio → Folio) : (s.modFolio i f).time = s.time := by unfold State.modFolio; split <;> rfl
@[simp] theorem State.modFolio_pins (s : State) (i : Nat) (f : Folio → Folio) : (s.modFolio i f).pins = s.pins := by unfold State.modFolio; split <;> rfl
@[simp] theorem State.modFolio_bad (s : State) (i : Nat) (f : Folio → Folio) : (s.modFolio i f).bad = s.bad := by unfold State.modFolio; split <;> rfl
@[simp] theorem State.modFolio_sec (s : State) (i : Nat) (f : Folio → Folio) : (s.modFolio i f).sec = s.sec := by unfold State.modFolio; split <;> rfl
@[simp] theorem State.modFolio_mail (s : State) (i : Nat) (f : Folio → Folio) : (s.modFolio i f).mail = s.mail := by unfold State.modFolio; split <;> rfl
@[simp] theorem State.modFolio_ic (s : State) (i : Nat) (f : Folio → Folio) : (s.modFolio i f).ic = s.ic := by unfold State.modFolio; split <;> rfl
@[simp] theorem State.modFolio_msix (s : State) (i : Nat) (f : Folio → Folio) : (s.modFolio i f).msix = s.msix := by unfold State.modFolio; split <;> rfl
@[simp] theorem State.modFolio_errs (s : State) (i : Nat) (f : Folio → Folio) : (s.modFolio i f).errs = s.errs := by unfold State.modFolio; split <;> rfl
@[simp] theorem State.modFolio_power (s : State) (i : Nat) (f : Folio → Folio) : (s.modFolio i f).power = s.power := by unfold State.modFolio; split <;> rfl
@[simp] theorem State.modFolio_bg (s : State) (i : Nat) (f : Folio → Folio) : (s.modFolio i f).bg = s.bg := by unfold State.modFolio; split <;> rfl
@[simp] theorem State.modFolio_lanes (s : State) (i : Nat) (f : Folio → Folio) : (s.modFolio i f).lanes = s.lanes := by unfold State.modFolio; split <;> rfl
@[simp] theorem State.modFolio_fports (s : State) (i : Nat) (f : Folio → Folio) : (s.modFolio i f).fports = s.fports := by unfold State.modFolio; split <;> rfl
@[simp] theorem State.modFolio_bridge (s : State) (i : Nat) (f : Folio → Folio) : (s.modFolio i f).bridge = s.bridge := by unfold State.modFolio; split <;> rfl
@[simp] theorem State.modFolio_commons (s : State) (i : Nat) (f : Folio → Folio) : (s.modFolio i f).commons = s.commons := by unfold State.modFolio; split <;> rfl
@[simp] theorem State.modFolio_parts (s : State) (i : Nat) (f : Folio → Folio) : (s.modFolio i f).parts = s.parts := by unfold State.modFolio; split <;> rfl
@[simp] theorem State.modFolio_ctxs (s : State) (i : Nat) (f : Folio → Folio) : (s.modFolio i f).ctxs = s.ctxs := by unfold State.modFolio; split <;> rfl
@[simp] theorem State.modFolio_queues (s : State) (i : Nat) (f : Folio → Folio) : (s.modFolio i f).queues = s.queues := by unfold State.modFolio; split <;> rfl
@[simp] theorem State.modFolio_slots (s : State) (i : Nat) (f : Folio → Folio) : (s.modFolio i f).slots = s.slots := by unfold State.modFolio; split <;> rfl
@[simp] theorem State.modFolio_admitted (s : State) (i : Nat) (f : Folio → Folio) : (s.modFolio i f).admitted = s.admitted := by unfold State.modFolio; split <;> rfl
@[simp] theorem State.modFolio_graphs (s : State) (i : Nat) (f : Folio → Folio) : (s.modFolio i f).graphs = s.graphs := by unfold State.modFolio; split <;> rfl
@[simp] theorem State.modFolio_seqs (s : State) (i : Nat) (f : Folio → Folio) : (s.modFolio i f).seqs = s.seqs := by unfold State.modFolio; split <;> rfl
@[simp] theorem State.modFolio_extents (s : State) (i : Nat) (f : Folio → Folio) : (s.modFolio i f).extents = s.extents := by unfold State.modFolio; split <;> rfl
@[simp] theorem State.modFolio_atc (s : State) (i : Nat) (f : Folio → Folio) : (s.modFolio i f).atc = s.atc := by unfold State.modFolio; split <;> rfl
@[simp] theorem State.modFolio_xlats (s : State) (i : Nat) (f : Folio → Folio) : (s.modFolio i f).xlats = s.xlats := by unfold State.modFolio; split <;> rfl
@[simp] theorem State.modFolio_faults (s : State) (i : Nat) (f : Folio → Folio) : (s.modFolio i f).faults = s.faults := by unfold State.modFolio; split <;> rfl
@[simp] theorem State.modFolio_faultNo (s : State) (i : Nat) (f : Folio → Folio) : (s.modFolio i f).faultNo = s.faultNo := by unfold State.modFolio; split <;> rfl
@[simp] theorem State.modFolio_groupNo (s : State) (i : Nat) (f : Folio → Folio) : (s.modFolio i f).groupNo = s.groupNo := by unfold State.modFolio; split <;> rfl
@[simp] theorem State.modFolio_pri (s : State) (i : Nat) (f : Folio → Folio) : (s.modFolio i f).pri = s.pri := by unfold State.modFolio; split <;> rfl
@[simp] theorem State.modFolio_pageAlloc (s : State) (i : Nat) (f : Folio → Folio) : (s.modFolio i f).pageAlloc = s.pageAlloc := by unfold State.modFolio; split <;> rfl
@[simp] theorem State.modFolio_invals (s : State) (i : Nat) (f : Folio → Folio) : (s.modFolio i f).invals = s.invals := by unfold State.modFolio; split <;> rfl
@[simp] theorem State.modFolio_inbound (s : State) (i : Nat) (f : Folio → Folio) : (s.modFolio i f).inbound = s.inbound := by unfold State.modFolio; split <;> rfl
@[simp] theorem State.modFolio_reqs (s : State) (i : Nat) (f : Folio → Folio) : (s.modFolio i f).reqs = s.reqs := by unfold State.modFolio; split <;> rfl
@[simp] theorem State.modFolio_reqNo (s : State) (i : Nat) (f : Folio → Folio) : (s.modFolio i f).reqNo = s.reqNo := by unfold State.modFolio; split <;> rfl
@[simp] theorem State.modFolio_cores (s : State) (i : Nat) (f : Folio → Folio) : (s.modFolio i f).cores = s.cores := by unfold State.modFolio; split <;> rfl
@[simp] theorem State.modFolio_clusters (s : State) (i : Nat) (f : Folio → Folio) : (s.modFolio i f).clusters = s.clusters := by unfold State.modFolio; split <;> rfl
@[simp] theorem State.modFolio_lines (s : State) (i : Nat) (f : Folio → Folio) : (s.modFolio i f).lines = s.lines := by unfold State.modFolio; split <;> rfl
@[simp] theorem State.modFolio_accrued (s : State) (i : Nat) (f : Folio → Folio) : (s.modFolio i f).accrued = s.accrued := by unfold State.modFolio; split <;> rfl
@[simp] theorem State.modFolio_dirWaits (s : State) (i : Nat) (f : Folio → Folio) : (s.modFolio i f).dirWaits = s.dirWaits := by unfold State.modFolio; split <;> rfl
@[simp] theorem State.modFolio_adders (s : State) (i : Nat) (f : Folio → Folio) : (s.modFolio i f).adders = s.adders := by unfold State.modFolio; split <;> rfl
@[simp] theorem State.modFolio_merges (s : State) (i : Nat) (f : Folio → Folio) : (s.modFolio i f).merges = s.merges := by unfold State.modFolio; split <;> rfl

/-! ### State.modGraph -/

@[simp] theorem State.modGraph_pending (s : State) (i : Nat) (f : Graph → Graph) : (s.modGraph i f).pending = s.pending := by unfold State.modGraph; split <;> rfl
@[simp] theorem State.modGraph_free (s : State) (i : Nat) (f : Graph → Graph) : (s.modGraph i f).free = s.free := by unfold State.modGraph; split <;> rfl
@[simp] theorem State.modGraph_out (s : State) (i : Nat) (f : Graph → Graph) : (s.modGraph i f).out = s.out := by unfold State.modGraph; split <;> rfl
@[simp] theorem State.modGraph_fuses (s : State) (i : Nat) (f : Graph → Graph) : (s.modGraph i f).fuses = s.fuses := by unfold State.modGraph; split <;> rfl
@[simp] theorem State.modGraph_boot (s : State) (i : Nat) (f : Graph → Graph) : (s.modGraph i f).boot = s.boot := by unfold State.modGraph; split <;> rfl
@[simp] theorem State.modGraph_time (s : State) (i : Nat) (f : Graph → Graph) : (s.modGraph i f).time = s.time := by unfold State.modGraph; split <;> rfl
@[simp] theorem State.modGraph_pins (s : State) (i : Nat) (f : Graph → Graph) : (s.modGraph i f).pins = s.pins := by unfold State.modGraph; split <;> rfl
@[simp] theorem State.modGraph_bad (s : State) (i : Nat) (f : Graph → Graph) : (s.modGraph i f).bad = s.bad := by unfold State.modGraph; split <;> rfl
@[simp] theorem State.modGraph_sec (s : State) (i : Nat) (f : Graph → Graph) : (s.modGraph i f).sec = s.sec := by unfold State.modGraph; split <;> rfl
@[simp] theorem State.modGraph_mail (s : State) (i : Nat) (f : Graph → Graph) : (s.modGraph i f).mail = s.mail := by unfold State.modGraph; split <;> rfl
@[simp] theorem State.modGraph_ic (s : State) (i : Nat) (f : Graph → Graph) : (s.modGraph i f).ic = s.ic := by unfold State.modGraph; split <;> rfl
@[simp] theorem State.modGraph_msix (s : State) (i : Nat) (f : Graph → Graph) : (s.modGraph i f).msix = s.msix := by unfold State.modGraph; split <;> rfl
@[simp] theorem State.modGraph_errs (s : State) (i : Nat) (f : Graph → Graph) : (s.modGraph i f).errs = s.errs := by unfold State.modGraph; split <;> rfl
@[simp] theorem State.modGraph_power (s : State) (i : Nat) (f : Graph → Graph) : (s.modGraph i f).power = s.power := by unfold State.modGraph; split <;> rfl
@[simp] theorem State.modGraph_bg (s : State) (i : Nat) (f : Graph → Graph) : (s.modGraph i f).bg = s.bg := by unfold State.modGraph; split <;> rfl
@[simp] theorem State.modGraph_lanes (s : State) (i : Nat) (f : Graph → Graph) : (s.modGraph i f).lanes = s.lanes := by unfold State.modGraph; split <;> rfl
@[simp] theorem State.modGraph_fports (s : State) (i : Nat) (f : Graph → Graph) : (s.modGraph i f).fports = s.fports := by unfold State.modGraph; split <;> rfl
@[simp] theorem State.modGraph_bridge (s : State) (i : Nat) (f : Graph → Graph) : (s.modGraph i f).bridge = s.bridge := by unfold State.modGraph; split <;> rfl
@[simp] theorem State.modGraph_commons (s : State) (i : Nat) (f : Graph → Graph) : (s.modGraph i f).commons = s.commons := by unfold State.modGraph; split <;> rfl
@[simp] theorem State.modGraph_parts (s : State) (i : Nat) (f : Graph → Graph) : (s.modGraph i f).parts = s.parts := by unfold State.modGraph; split <;> rfl
@[simp] theorem State.modGraph_ctxs (s : State) (i : Nat) (f : Graph → Graph) : (s.modGraph i f).ctxs = s.ctxs := by unfold State.modGraph; split <;> rfl
@[simp] theorem State.modGraph_queues (s : State) (i : Nat) (f : Graph → Graph) : (s.modGraph i f).queues = s.queues := by unfold State.modGraph; split <;> rfl
@[simp] theorem State.modGraph_slots (s : State) (i : Nat) (f : Graph → Graph) : (s.modGraph i f).slots = s.slots := by unfold State.modGraph; split <;> rfl
@[simp] theorem State.modGraph_admitted (s : State) (i : Nat) (f : Graph → Graph) : (s.modGraph i f).admitted = s.admitted := by unfold State.modGraph; split <;> rfl
@[simp] theorem State.modGraph_seqs (s : State) (i : Nat) (f : Graph → Graph) : (s.modGraph i f).seqs = s.seqs := by unfold State.modGraph; split <;> rfl
@[simp] theorem State.modGraph_extents (s : State) (i : Nat) (f : Graph → Graph) : (s.modGraph i f).extents = s.extents := by unfold State.modGraph; split <;> rfl
@[simp] theorem State.modGraph_folios (s : State) (i : Nat) (f : Graph → Graph) : (s.modGraph i f).folios = s.folios := by unfold State.modGraph; split <;> rfl
@[simp] theorem State.modGraph_atc (s : State) (i : Nat) (f : Graph → Graph) : (s.modGraph i f).atc = s.atc := by unfold State.modGraph; split <;> rfl
@[simp] theorem State.modGraph_xlats (s : State) (i : Nat) (f : Graph → Graph) : (s.modGraph i f).xlats = s.xlats := by unfold State.modGraph; split <;> rfl
@[simp] theorem State.modGraph_faults (s : State) (i : Nat) (f : Graph → Graph) : (s.modGraph i f).faults = s.faults := by unfold State.modGraph; split <;> rfl
@[simp] theorem State.modGraph_faultNo (s : State) (i : Nat) (f : Graph → Graph) : (s.modGraph i f).faultNo = s.faultNo := by unfold State.modGraph; split <;> rfl
@[simp] theorem State.modGraph_groupNo (s : State) (i : Nat) (f : Graph → Graph) : (s.modGraph i f).groupNo = s.groupNo := by unfold State.modGraph; split <;> rfl
@[simp] theorem State.modGraph_pri (s : State) (i : Nat) (f : Graph → Graph) : (s.modGraph i f).pri = s.pri := by unfold State.modGraph; split <;> rfl
@[simp] theorem State.modGraph_pageAlloc (s : State) (i : Nat) (f : Graph → Graph) : (s.modGraph i f).pageAlloc = s.pageAlloc := by unfold State.modGraph; split <;> rfl
@[simp] theorem State.modGraph_invals (s : State) (i : Nat) (f : Graph → Graph) : (s.modGraph i f).invals = s.invals := by unfold State.modGraph; split <;> rfl
@[simp] theorem State.modGraph_inbound (s : State) (i : Nat) (f : Graph → Graph) : (s.modGraph i f).inbound = s.inbound := by unfold State.modGraph; split <;> rfl
@[simp] theorem State.modGraph_reqs (s : State) (i : Nat) (f : Graph → Graph) : (s.modGraph i f).reqs = s.reqs := by unfold State.modGraph; split <;> rfl
@[simp] theorem State.modGraph_reqNo (s : State) (i : Nat) (f : Graph → Graph) : (s.modGraph i f).reqNo = s.reqNo := by unfold State.modGraph; split <;> rfl
@[simp] theorem State.modGraph_cores (s : State) (i : Nat) (f : Graph → Graph) : (s.modGraph i f).cores = s.cores := by unfold State.modGraph; split <;> rfl
@[simp] theorem State.modGraph_clusters (s : State) (i : Nat) (f : Graph → Graph) : (s.modGraph i f).clusters = s.clusters := by unfold State.modGraph; split <;> rfl
@[simp] theorem State.modGraph_lines (s : State) (i : Nat) (f : Graph → Graph) : (s.modGraph i f).lines = s.lines := by unfold State.modGraph; split <;> rfl
@[simp] theorem State.modGraph_accrued (s : State) (i : Nat) (f : Graph → Graph) : (s.modGraph i f).accrued = s.accrued := by unfold State.modGraph; split <;> rfl
@[simp] theorem State.modGraph_dirWaits (s : State) (i : Nat) (f : Graph → Graph) : (s.modGraph i f).dirWaits = s.dirWaits := by unfold State.modGraph; split <;> rfl
@[simp] theorem State.modGraph_adders (s : State) (i : Nat) (f : Graph → Graph) : (s.modGraph i f).adders = s.adders := by unfold State.modGraph; split <;> rfl
@[simp] theorem State.modGraph_merges (s : State) (i : Nat) (f : Graph → Graph) : (s.modGraph i f).merges = s.merges := by unfold State.modGraph; split <;> rfl

/-! ### Reads of the entry that an operation changes -/

@[simp] theorem State.queue_modQueue_same (s : State) (q : Nat) (f : Queue → Queue) : (s.modQueue q f).queue q = f (s.queue q) := by
  simp [State.queue, State.modQueue]
theorem State.queue_modQueue_ne (s : State) {q k : Nat} (f : Queue → Queue) (h : k ≠ q) :
    (s.modQueue q f).queue k = s.queue k := by
  simp only [State.queue, State.modQueue]
  exact tbl_getD_put_ne _ _ _ h

@[simp] theorem State.part_modPart_same (s : State) (p : Nat) (f : Partition → Partition) :
    (s.modPart p f).part p = f (s.part p) := by simp [State.part, State.modPart]
theorem State.part_modPart_ne (s : State) {p k : Nat} (f : Partition → Partition) (h : k ≠ p) :
    (s.modPart p f).part k = s.part k := by
  simp only [State.part, State.modPart]
  exact tbl_getD_put_ne _ _ _ h

@[simp] theorem State.chan_modChan_same (s : State) (ch : Nat) (f : Channel → Channel) :
    (s.modChan ch f).chan ch = f (s.chan ch) := by simp [State.chan, State.modChan]
theorem State.chan_modChan_ne (s : State) {ch k : Nat} (f : Channel → Channel) (h : k ≠ ch) :
    (s.modChan ch f).chan k = s.chan k := by
  simp only [State.chan, State.modChan]
  exact tbl_getD_put_ne _ _ _ h

@[simp] theorem State.core_modCore_same (s : State) (k : Nat) (f : Core → Core) : (s.modCore k f).core k = f (s.core k) := by
  simp [State.core, State.modCore]
theorem State.core_modCore_ne (s : State) {k j : Nat} (f : Core → Core) (h : j ≠ k) :
    (s.modCore k f).core j = s.core j := by
  simp only [State.core, State.modCore]
  exact tbl_getD_put_ne _ _ _ h

@[simp] theorem State.cluster_modCluster_same (s : State) (c : Nat) (f : Cluster → Cluster) :
    (s.modCluster c f).cluster c = f (s.cluster c) := by simp [State.cluster, State.modCluster]
@[simp] theorem State.fport_modFport_same (s : State) (n : Nat) (f : FPort → FPort) :
    (s.modFport n f).fport n = f (s.fport n) := by simp [State.fport, State.modFport]
@[simp] theorem State.lane_modLane_same (s : State) (l : Nat) (f : Lane → Lane) : (s.modLane l f).lane l = f (s.lane l) := by
  simp [State.lane, State.modLane]

theorem State.ctx_modCtx_same (s : State) (k : Nat) (f : Context → Context) : (s.modCtx k f).ctx? k = (s.ctx? k).map f := by
  unfold State.modCtx State.ctx?
  split
  · next h => simp [h]
  · next h => simp [h]

@[simp] theorem State.emit_out (s : State) (o : Out) : (s.emit o).out = o :: s.out := rfl
@[simp] theorem State.draw_free (s : State) : s.draw.free = s.free + 1 := rfl

/-! ### Guards -/

@[simp] theorem State.when_true (s : State) (f : State → State) : s.when true f = f s := rfl
@[simp] theorem State.when_false (s : State) (f : State → State) : s.when false f = s := rfl
theorem State.whenLive_live {s : State} (h : s.live = true) (f : State → State) : s.whenLive f = f s := by simp [State.whenLive, h]
theorem State.whenLive_dead {s : State} (h : s.live = false) (f : State → State) : s.whenLive f = s := by simp [State.whenLive, h]
theorem State.access_live {s : State} (h : s.live = true) (r : Requester) (f : State → State) : s.access r f = f s := by
  simp only [State.live, Bool.and_eq_true] at h
  simp [State.access, h.1, h.2]

end Sys2Proof.Machine
end

