-- ==== Sys2Proof/Laws/Slots.lean ====
section
/-!
SUPPORT. How a slot finishes (R159): what the operations that write for a queue leave alone, and that `finishSlot` and
`refuseSlot` leave the slot FINISHED with its status, in the table or retired.
-/
namespace Sys2Proof.Machine

open Sys2Proof

/-! ### Frames -/

theorem OnlyChanges.refl (ps : List Part) (s : State) : OnlyChanges ps s s := by intro p _; cases p <;> rfl

theorem Part.Same.trans {s t u : State} {p : Part} (h : p.Same s t) (k : p.Same t u) : p.Same s u := by
  cases p <;> exact Eq.trans k h

theorem OnlyChanges.trans {ps : List Part} {s t u : State} (h : OnlyChanges ps s t) (k : OnlyChanges ps t u) :
    OnlyChanges ps s u := fun p hp => (h p hp).trans (k p hp)

theorem OnlyChanges.mono {ps qs : List Part} {s t : State} (h : OnlyChanges ps s t) (k : ps ⊆ qs) : OnlyChanges qs s t :=
  fun p hp => h p fun a => hp (k a)

theorem completes_of {i : Instr} {s t : State} {P : State → Prop} (h : exec i s = .next t) (hp : P t) : Completes i s P :=
  ⟨t, h, hp⟩

theorem live_parts {s : State} (h : s.live = true) : s.boot.stopped = .no ∧ s.boot.outOfReset = true := by
  simpa [State.live] using h

theorem access_of_live {s : State} (h : s.live = true) (r : Requester) (f : State → State) : s.access r f = f s := by
  obtain ⟨a, b⟩ := live_parts h
  simp [State.access, a, b]

/-! ### Writes owed to the guest -/

/-- The slots, and the state and latch of every queue, stand as before. -/
def SameQueues (s t : State) : Prop :=
  t.slots = s.slots ∧ ∀ x, (t.queue x).state = (s.queue x).state ∧ (t.queue x).retiredSeq = (s.queue x).retiredSeq

theorem SameQueues.refl (s : State) : SameQueues s s := ⟨rfl, fun _ => ⟨rfl, rfl⟩⟩

theorem SameQueues.trans {s t u : State} (h : SameQueues s t) (k : SameQueues t u) : SameQueues s u :=
  ⟨k.1.trans h.1, fun x => ⟨(k.2 x).1.trans (h.2 x).1, (k.2 x).2.trans (h.2 x).2⟩⟩

theorem SameQueues.of_queues {s t : State} (h : t.slots = s.slots) (k : t.queues = s.queues) : SameQueues s t :=
  ⟨h, fun x => by simp [State.queue, k]⟩

theorem modQueue_same (s : State) (q : Nat) (f : Queue → Queue) (h : ∀ u, (f u).state = u.state ∧ (f u).retiredSeq = u.retiredSeq) :
    SameQueues s (s.modQueue q f) := by
  refine ⟨rfl, fun x => ?_⟩
  by_cases hx : x = q
  · subst hx; simpa using h _
  · simp [State.queue_modQueue_ne s _ hx]

theorem viaPort_same (s : State) (n : Nat) (o : Out) : SameQueues s (s.viaPort n o) := by
  unfold State.viaPort; split <;> exact .of_queues rfl rfl

theorem viaPath_same (s : State) (n : Nat) (o : Out) : SameQueues s (s.viaPath n o) := by
  unfold State.viaPath; split
  · exact .of_queues rfl rfl
  · exact viaPort_same _ _ _

theorem sendVector_same (s : State) (path p : Nat) (v : GuestVector) : SameQueues s (s.sendVector path p v).1 := by
  unfold State.sendVector
  split
  · split
    · exact .refl _
    · dsimp only; split <;> exact .of_queues rfl rfl
  · split
    · exact viaPath_same _ _ _
    · exact .refl _

theorem issueWrites_same (n : Nat) (s : State) (q : Nat) : SameQueues s (s.issueWrites n q) := by
  induction n generalizing s with
  | zero => exact .refl _
  | succ n ih =>
    unfold State.issueWrites
    dsimp only
    split
    · exact .refl _
    · split
      · exact viaPath_same _ _ _
      · rename_i v _
        have h := sendVector_same s (s.queue q).attrs.path (s.queue q).partition v
        split
        · rename_i he; rw [he] at h; exact h
        · rename_i he; rw [he] at h
          exact h.trans (SameQueues.trans (modQueue_same _ q _ fun _ => by exact ⟨rfl, rfl⟩) (ih _))
        · rename_i he; rw [he] at h
          exact h.trans (SameQueues.trans (modQueue_same _ q _ fun _ => by exact ⟨rfl, rfl⟩) (ih _))

theorem pushWrite_same (s : State) (q : Nat) (w : GuestWrite) : SameQueues s (s.pushWrite q w) := by
  unfold State.pushWrite
  have h := modQueue_same s q (fun u => { u with writes := u.writes ++ [w] }) fun _ => ⟨rfl, rfl⟩
  dsimp only; split
  · exact h.trans (issueWrites_same _ _ _)
  · exact h

theorem pushRecord_same (s : State) (q : Nat) (w : GuestWrite) : SameQueues s (s.pushRecord q w) := by
  unfold State.pushRecord
  split
  · exact .refl _
  · split
    · exact modQueue_same _ _ _ fun _ => ⟨rfl, rfl⟩
    · exact pushWrite_same _ _ _

theorem writeWord_same (s : State) (q : Nat) (b : Bool) : SameQueues s (s.writeWord q b) := by
  unfold State.writeWord
  dsimp only; split
  · exact .refl _
  · refine .trans ?_ (modQueue_same _ _ _ fun _ => ⟨rfl, rfl⟩)
    split
    · exact (pushWrite_same _ _ _).trans (pushWrite_same _ _ _)
    · exact pushWrite_same _ _ _

theorem modGraph_same (s : State) (i : Nat) (f : Graph → Graph) : SameQueues s (s.modGraph i f) := .of_queues (by simp) (by simp)

theorem modFolio_same (s : State) (i : Nat) (f : Folio → Folio) : SameQueues s (s.modFolio i f) := .of_queues (by simp) (by simp)

theorem foldl_same {α : Type} (f : State → α → State) (h : ∀ s x, SameQueues s (f s x)) (l : List α) (s : State) :
    SameQueues s (l.foldl f s) := by
  induction l generalizing s with
  | nil => exact .refl _
  | cons x l ih => exact (h s x).trans (ih _)

theorem sweepFolio_same (s : State) (i : Nat) : SameQueues s (s.sweepFolio i) := by
  unfold State.sweepFolio
  split
  · exact .refl _
  · dsimp only
    have h : ∀ (t : State) (l : List Nat), SameQueues t (l.foldl (fun (s : State) v => s.dropFolioAtc i v) t) := fun t l =>
      foldl_same (fun (s : State) v => s.dropFolioAtc i v) (fun _ _ => .of_queues rfl rfl) l t
    have k : ∀ t : State, SameQueues t t.sweepQuarantine := fun _ => .of_queues rfl rfl
    refine SameQueues.trans ?_ (k _)
    refine SameQueues.trans ?_ (h _ _)
    exact .of_queues rfl rfl

theorem unbind_same (s : State) (e : Slot) : SameQueues s (s.unbind e) := by
  unfold State.unbind
  refine .trans ?_ (foldl_same _ (fun s r => ?_) _ _)
  · split
    · exact modGraph_same _ _ _
    · exact .refl _
  · split
    · exact (modFolio_same _ _ _).trans (sweepFolio_same _ _)
    · exact (modFolio_same _ _ _).trans (sweepFolio_same _ _)
    · exact .refl _

/-! ### Retiring -/

theorem SlotEnded.same {s t : State} {q seq st c : Nat} (h : SameQueues s t) (k : s.SlotEnded q seq st c) :
    t.SlotEnded q seq st c := by
  simpa [State.SlotEnded, State.slot?, h.1, (h.2 q).2] using k

theorem modPart_queue (s : State) (p : Nat) (f : Partition → Partition) (q : Nat) : (s.modPart p f).queue q = s.queue q := rfl

theorem slot_of_some {s : State} {q n : Nat} {e : Slot} (h : s.slot? q n = some e) : e.queue = q ∧ e.seq = n := by
  have := List.find?_some h
  simpa using this

theorem slot_dropSlot_ne (s : State) {q n m : Nat} (h : m ≠ n) : (s.dropSlot q n).slot? q m = s.slot? q m := by
  unfold State.dropSlot State.slot?
  simp only [List.find?_filter]
  congr 1
  funext x
  by_cases hq : x.queue = q <;> by_cases hm : x.seq = m <;> simp [hq, hm, h]

theorem slot_dropSlot_same (s : State) (q n : Nat) : (s.dropSlot q n).slot? q n = none := by
  unfold State.dropSlot State.slot?
  simp only [List.find?_eq_none, List.mem_filter]
  rintro x ⟨_, hx⟩ hy
  simp [hy] at hx

theorem retireOne_ended {s : State} {q seq st c : Nat} {e : Slot} (hf : s.slot? q ((s.queue q).retiredSeq + 1) = some e)
    (h : s.SlotEnded q seq st c) :
    (s.retireOne e).SlotEnded q seq st c ∧ ((s.retireOne e).queue q).state = (s.queue q).state := by
  obtain ⟨hq, hs⟩ := slot_of_some hf
  have hu := unbind_same ((s.modQueue e.queue fun u =>
      { u with retiredSeq := e.seq, interruptF := u.interruptF || flagInterrupt e.flags }).modPart e.partition fun p =>
        { p with tel := p.tel.retired e }) e
  have hret : ((s.retireOne e).queue q).retiredSeq = (s.queue q).retiredSeq + 1 := by
    have h1 := (hu.2 q).2
    show ((State.unbind _ e).queue q).retiredSeq = _
    rw [h1, ← hs]
    rw [modPart_queue, hq, State.queue_modQueue_same]
  have hslots (m : Nat) : (s.retireOne e).slot? q m = if m = e.seq then none else s.slot? q m := by
    have h2 : ∀ m, (State.unbind ((s.modQueue e.queue fun u =>
        { u with retiredSeq := e.seq, interruptF := u.interruptF || flagInterrupt e.flags }).modPart e.partition fun p =>
          { p with tel := p.tel.retired e }) e).slot? q m = s.slot? q m := by
      intro m; simp [State.slot?, hu.1]
    unfold State.retireOne
    dsimp only
    rw [hq] at h2 ⊢
    split
    · rename_i hm; subst hm; exact slot_dropSlot_same _ _ _
    · rename_i hm; rw [slot_dropSlot_ne _ hm]; exact h2 m
  refine ⟨?_, ?_⟩
  · unfold State.SlotEnded
    rw [hslots, hret]
    rcases h with ⟨x, hx, hp⟩ | ⟨hn, hle⟩
    · by_cases hm : seq = e.seq
      · exact .inr ⟨by simp [hm], by omega⟩
      · exact .inl ⟨x, by simp [hm, hx], hp⟩
    · exact .inr ⟨by simp [hn], by omega⟩
  · have h1 := (hu.2 q).1
    show ((State.unbind _ e).queue q).state = _
    rw [h1]
    rw [modPart_queue, hq, State.queue_modQueue_same]

theorem retireLoop_ended (n : Nat) {s : State} {q seq st c : Nat} (h : s.SlotEnded q seq st c) :
    (State.retireLoop n s q).SlotEnded q seq st c ∧ ((State.retireLoop n s q).queue q).state = (s.queue q).state := by
  induction n generalizing s with
  | zero => exact ⟨h, rfl⟩
  | succ n ih =>
    unfold State.retireLoop
    split
    · rename_i e he
      split
      · obtain ⟨h1, h2⟩ := retireOne_ended he h
        obtain ⟨h3, h4⟩ := ih h1
        exact ⟨h3, h4.trans h2⟩
      · exact ⟨h, rfl⟩
    · exact ⟨h, rfl⟩

/-- Outside a drain, what can retire retires and the ended slot stays ended. -/
theorem retireReady_ended {s : State} {q seq st c : Nat} (hd : (s.queue q).state ≠ .draining) (h : s.SlotEnded q seq st c) :
    (s.retireReady q).SlotEnded q seq st c := by
  obtain ⟨h1, h2⟩ := retireLoop_ended s.slots.length h
  have key : ∀ t : State, SameQueues (State.retireLoop s.slots.length s q) t → (t.settleQueue q).SlotEnded q seq st c := by
    intro t ht
    have hs : (t.queue q).state ≠ .draining := by rw [(ht.2 q).1, h2]; exact hd
    have : t.settleQueue q = t := by simp [State.settleQueue, hs]
    rw [this]
    exact SlotEnded.same ht h1
  unfold State.retireReady
  dsimp only
  split
  · exact key _ (.refl _)
  · exact key _ (writeWord_same _ _ _)

/-! ### What finishing may change -/

theorem foldl_frame {α : Type} {ps : List Part} (f : State → α → State) (h : ∀ s x, OnlyChanges ps s (f s x)) (l : List α)
    (s : State) : OnlyChanges ps s (l.foldl f s) := by
  induction l generalizing s with
  | nil => exact .refl _ _
  | cons x l ih => exact (h s x).trans (ih _)

theorem modQueue_frame (s : State) (q : Nat) (f : Queue → Queue) : OnlyChanges [.queues] s (s.modQueue q f) := by
  intro p hp
  cases p <;> first | rfl | simp at hp

theorem modPart_frame (s : State) (q : Nat) (f : Partition → Partition) : OnlyChanges [.parts] s (s.modPart q f) := by
  intro p hp
  cases p <;> first | rfl | simp at hp

theorem modSlot_frame (s : State) (q n : Nat) (f : Slot → Slot) : OnlyChanges [.slots] s (s.modSlot q n f) := by
  intro p hp
  cases p <;> first | rfl | simp at hp

theorem viaPath_frame (s : State) (n : Nat) (o : Out) : OnlyChanges [.out, .fports] s (s.viaPath n o) := by
  unfold State.viaPath State.viaPort
  intro p hp
  split
  · cases p <;> first | rfl | simp at hp
  · split <;> cases p <;> first | rfl | simp at hp

theorem sendVector_frame (s : State) (path p : Nat) (v : GuestVector) :
    OnlyChanges [.out, .fports, .msix] s (s.sendVector path p v).1 := by
  unfold State.sendVector
  split
  · split
    · exact .refl _ _
    · dsimp only
      split
      · intro p hp
        cases p <;> first | rfl | simp at hp
      · intro p hp
        cases p <;> first | rfl | simp at hp
  · split
    · exact (viaPath_frame _ _ _).mono (by simp)
    · exact .refl _ _

theorem issueWrites_frame (n : Nat) (s : State) (q : Nat) :
    OnlyChanges [.queues, .out, .fports, .msix] s (s.issueWrites n q) := by
  induction n generalizing s with
  | zero => exact .refl _ _
  | succ n ih =>
    unfold State.issueWrites
    dsimp only
    split
    · exact .refl _ _
    · split
      · exact (viaPath_frame _ _ _).mono (by simp)
      · rename_i v _
        have h := sendVector_frame s (s.queue q).attrs.path (s.queue q).partition v
        split
        · rename_i he; rw [he] at h; exact h.mono (by simp)
        · rename_i he; rw [he] at h
          exact (h.mono (by simp)).trans (((modQueue_frame _ q _).mono (by simp)).trans (ih _))
        · rename_i he; rw [he] at h
          exact (h.mono (by simp)).trans (((modQueue_frame _ q _).mono (by simp)).trans (ih _))

theorem pushWrite_frame (s : State) (q : Nat) (w : GuestWrite) :
    OnlyChanges [.queues, .out, .fports, .msix] s (s.pushWrite q w) := by
  unfold State.pushWrite
  dsimp only
  split
  · exact ((modQueue_frame _ _ _).mono (by simp)).trans (issueWrites_frame _ _ _)
  · exact (modQueue_frame _ _ _).mono (by simp)

theorem pushRecord_frame (s : State) (q : Nat) (w : GuestWrite) :
    OnlyChanges [.queues, .out, .fports, .msix] s (s.pushRecord q w) := by
  unfold State.pushRecord
  split
  · exact .refl _ _
  · split
    · exact (modQueue_frame _ _ _).mono (by simp)
    · exact pushWrite_frame _ _ _

theorem writeWord_frame (s : State) (q : Nat) (b : Bool) :
    OnlyChanges [.queues, .out, .fports, .msix] s (s.writeWord q b) := by
  unfold State.writeWord
  dsimp only
  split
  · exact .refl _ _
  · refine .trans ?_ ((modQueue_frame _ _ _).mono (by simp))
    split
    · exact (pushWrite_frame _ _ _).trans (pushWrite_frame _ _ _)
    · exact pushWrite_frame _ _ _

theorem setQState_frame (s : State) (q : Nat) (st : QState) :
    OnlyChanges [.queues, .out, .fports, .msix] s (s.setQState q st) := by
  unfold State.setQState
  exact (((modQueue_frame _ _ _).mono (by simp)).trans (writeWord_frame _ _ _)).trans (pushWrite_frame _ _ _)

theorem sweepFolio_frame (s : State) (i : Nat) : OnlyChanges [.folios, .atc, .errs] s (s.sweepFolio i) := by
  unfold State.sweepFolio
  split
  · exact .refl _ _
  · dsimp only
    have h : ∀ (t : State) (l : List Nat),
        OnlyChanges [.folios, .atc, .errs] t (l.foldl (fun (s : State) v => s.dropFolioAtc i v) t) := fun t l =>
      foldl_frame (fun (s : State) v => s.dropFolioAtc i v)
        (fun _ _ p hp => by cases p <;> first | rfl | simp at hp) l t
    have k : ∀ t : State, OnlyChanges [.folios, .atc, .errs] t t.sweepQuarantine := fun _ p hp => by
      cases p <;> first | rfl | simp at hp
    refine OnlyChanges.trans ?_ (k _)
    refine OnlyChanges.trans ?_ (h _ _)
    intro p hp
    cases p <;> first | rfl | simp at hp

theorem modGraph_frame (s : State) (i : Nat) (f : Graph → Graph) : OnlyChanges [.graphs] s (s.modGraph i f) := by
  unfold State.modGraph
  split
  · intro p hp
    cases p <;> first | rfl | simp at hp
  · exact .refl _ _

theorem modFolio_frame (s : State) (i : Nat) (f : Folio → Folio) : OnlyChanges [.folios] s (s.modFolio i f) := by
  unfold State.modFolio
  split
  · intro p hp
    cases p <;> first | rfl | simp at hp
  · exact .refl _ _

theorem unbind_frame (s : State) (e : Slot) : OnlyChanges [.graphs, .folios, .atc, .errs] s (s.unbind e) := by
  unfold State.unbind
  have one : ∀ (s : State) f v, OnlyChanges [.graphs, .folios, .atc, .errs] s (s.unbindFolio f v) := fun s f v =>
    ((modFolio_frame _ _ _).mono (by simp)).trans ((sweepFolio_frame _ _).mono (by simp))
  refine .trans ?_ (foldl_frame _ (fun s r => ?_) _ _)
  · split
    · exact (modGraph_frame _ _ _).mono (by simp)
    · exact .refl _ _
  · split
    · exact one _ _ _
    · exact one _ _ _
    · exact .refl _ _

theorem retireOne_frame (s : State) (e : Slot) : OnlyChanges finishParts s (s.retireOne e) := by
  unfold State.retireOne
  have drop : ∀ (t : State) q n, OnlyChanges finishParts t (t.dropSlot q n) := fun t q n p hp => by
    cases p <;> first | rfl | simp [finishParts] at hp
  refine OnlyChanges.trans ?_ (drop _ _ _)
  refine OnlyChanges.trans ?_ ((unbind_frame _ _).mono (by simp [finishParts]))
  exact ((modQueue_frame _ _ _).mono (by simp [finishParts])).trans ((modPart_frame _ _ _).mono (by simp [finishParts]))

theorem retireLoop_frame (n : Nat) (s : State) (q : Nat) : OnlyChanges finishParts s (State.retireLoop n s q) := by
  induction n generalizing s with
  | zero => exact .refl _ _
  | succ n ih =>
    unfold State.retireLoop
    split
    · split
      · exact (retireOne_frame _ _).trans (ih _)
      · exact .refl _ _
    · exact .refl _ _

/-- Outside a drain, retiring changes `finishParts` alone. -/
theorem retireReady_frame {s : State} {q seq st c : Nat} (hd : (s.queue q).state ≠ .draining) (h : s.SlotEnded q seq st c) :
    OnlyChanges finishParts s (s.retireReady q) := by
  obtain ⟨_, h2⟩ := retireLoop_ended s.slots.length h
  have key : ∀ t : State, SameQueues (State.retireLoop s.slots.length s q) t → t.settleQueue q = t := by
    intro t ht
    have hs : (t.queue q).state ≠ .draining := by rw [(ht.2 q).1, h2]; exact hd
    simp [State.settleQueue, hs]
  unfold State.retireReady
  dsimp only
  split
  · rw [key _ (.refl _)]; exact retireLoop_frame _ _ _
  · rw [key _ (writeWord_same _ _ _)]
    exact (retireLoop_frame _ _ _).trans ((writeWord_frame _ _ _).mono (by simp [finishParts]))

/-- A slot that finishes outside a drain has finished with the status and the cause that it is given, and only
`finishParts` change. -/
theorem finishSlot_does {s : State} {q seq : Nat} {e : Slot} (st c earliest : Nat) (hd : (s.queue q).state ≠ .draining)
    (he : s.slot? q seq = some e) :
    (s.finishSlot q seq st c earliest).SlotEnded q seq st c ∧ OnlyChanges finishParts s (s.finishSlot q seq st c earliest) := by
  unfold State.finishSlot
  rw [he]
  dsimp only
  obtain ⟨hq, hs⟩ := slot_of_some he
  have ended : ∀ t : State,
      SameQueues (s.modSlot q seq fun _ => { e with status := st, cause := c, state := .finished, adviceOut := false, fills := 0 }) t →
      t.SlotEnded q seq st c := by
    intro t ht
    refine SlotEnded.same ht
      (.inl ⟨{ e with status := st, cause := c, state := .finished, adviceOut := false, fills := 0 }, ?_, rfl, rfl, rfl⟩)
    unfold State.modSlot State.slot? at *
    dsimp only
    generalize s.slots = l at he
    induction l with
    | nil => cases he
    | cons x l ih =>
      simp only [List.map_cons, List.find?_cons] at he ⊢
      by_cases hx : (x.queue == q && x.seq == seq) = true
      · simp [hx, hq, hs]
      · simp only [hx] at he ⊢
        simp only [Bool.false_eq_true, if_false, hx]
        exact ih he
  have base : ∀ t : State,
      SameQueues (s.modSlot q seq fun _ => { e with status := st, cause := c, state := .finished, adviceOut := false, fills := 0 }) t →
      OnlyChanges finishParts s t →
      (t.retireReady q).SlotEnded q seq st c ∧ OnlyChanges finishParts s (t.retireReady q) := by
    intro t ht hf
    have hd' : (t.queue q).state ≠ .draining := by rw [(ht.2 q).1]; exact hd
    exact ⟨retireReady_ended hd' (ended t ht), hf.trans (retireReady_frame hd' (ended t ht))⟩
  split
  · refine base _ (.trans (.of_queues ?_ ?_) (pushRecord_same _ _ _))
      (OnlyChanges.trans ?_ ((pushRecord_frame _ _ _).mono (by simp [finishParts])))
    · rfl
    · rfl
    · intro p hp
      cases p <;> first | rfl | simp [finishParts] at hp
  · refine base _ (.of_queues ?_ ?_) ?_
    · rfl
    · rfl
    · intro p hp
      cases p <;> first | rfl | simp [finishParts] at hp

theorem refuseSlot_does {s : State} {q seq : Nat} {e : Slot} (st c earliest : Nat) (hd : (s.queue q).state ≠ .draining)
    (he : s.slot? q seq = some e) :
    (s.refuseSlot q seq st c earliest).SlotEnded q seq st c ∧ OnlyChanges finishParts s (s.refuseSlot q seq st c earliest) := by
  unfold State.refuseSlot
  obtain ⟨h1, h2⟩ := finishSlot_does (q := q) (s := s.modQueue q fun u => { u with admittedSeq := max u.admittedSeq seq }) st c earliest
    (by simpa using hd) (by simpa [State.slot?] using he)
  exact ⟨h1, ((modQueue_frame _ _ _).mono (by simp [finishParts])).trans h2⟩

end Sys2Proof.Machine
end

