-- ==== Sys2Proof/WellFormed.lean ====
section
/-!
DEFINITION. The ranges of the commands' operands: unit numbers of R4 in the Full configuration, table sizes, widths,
and the shapes of the data that a command brings.
-/
namespace Sys2Proof

/-- A requester names a view of BAR4 (R442), or a fabric port FP0 to FP3 and a 17-bit endpoint (R278). -/
def Requester.wf : Requester → Bool
  | .host _ => true
  | .view _ p => p < 64
  | .fabric port ep => port < 4 && ep < 2 ^ 17

/-- Read data are whole: a slot read brings no more than a page of bytes. -/
def ReadData.wf : ReadData → Bool
  | .data b => b.length ≤ 2 ^ 22
  | .poisoned => true
  | .failed => true

def WordPlace.wf : WordPlace → Bool
  | .cleanLine c _ h => c < 16 && h < 2
  | .dirtyLine c _ h => c < 16 && h < 2
  | .tileState k => k < 256
  | .liveInput k => k < 256
  | .tier c a => c < 16 && a < 2 ^ 52
  | .coreControl k => k < 256
  | .clusterControl c => c < 16
  | .queueState q => q < 4096
  | .admittedCopy q => q < 4096
  | .partitionState p => p < 64
  | .dieState d => d < 2

def Domain.wf : Domain → Bool
  | .core k => k < 256
  | .cluster c => c < 16
  | .queue q => q < 4096
  | .partition p => p < 64
  | .die d => d < 2

/-- A queue and a slot of it: sequence numbers start at 1 and have 64 bits (R142). -/
def slotOk (q seq : Nat) : Bool := q < 4096 && 0 < seq && seq < 2 ^ 64

/-- A conversation with Thimble: up to 256 on the host port, and one for each mailbox channel from 256 on (R316). -/
def sessionOk (n : Nat) : Bool := n < 320

/-- Reads issued by one tile step: strand, binding, size and alignment as in R65, R66 and R100. -/
def Gather.wf (g : Gather) : Bool :=
  g.strand < 64 && g.binding < 1024 && [4, 8, 16, 32, 64, 128, 256].contains g.size && g.offset % g.size == 0

/-- The operands of a command are in range. Log entry 57 (DESIGN CHOICE). -/
def Instr.wf : Instr → Bool
  | .registerWrite r _ o n _ | .badScAccess r _ o n => r.wf && o < 2 ^ 28 && n < 65
  | .scBadAccessRead r _ => r.wf
  | .scQcountsRead r q _ => r.wf && q < 4096
  | .scQdb r q _ => r.wf && q < 4096
  | .doorbellTokenAccrual q | .slotFetch q => q < 4096
  | .slotArrival q d => q < 4096 && d.wf
  | .externalConstantsReadDone q n d | .overrideTableReadDone q n d | .chainStore q n d
  | .pageListReadDone q n d => slotOk q n && d.wf
  | .nop q n | .launch q n | .chainRun q n | .adviseNormal q n | .adviseHot q n | .adviseCold q n
  | .adviseWillNeed q n | .adviseDontNeed q n | .adviseReleaseKeep q n | .prefetchNearTier q n
  | .prefetchClusterCache q n | .prefetchBoth q n | .adviceAck q n | .fenceQueue q n | .fenceContext q n
  | .fenceFinish q n | .seqAdmit q n | .seqRetireOne q n | .seqRetireGroup q n | .seqRetireContext q n
  | .folioOpenRead q n _ | .folioOpenDraft q n _ | .folioClose q n _ | .folioPublish q n _
  | .launchFinish q n | .fallbackSwitch q n | .hemForcedTack q n | .hostWriteErrorAnswer q n => slotOk q n
  | .seqEntryFreed e => e < 16384
  | .phaseStart q n p => slotOk q n && p < 64
  | .baste k | .contextSwitchDone k | .commitPhaseEnd k | .forcedTack k | .idleStrandsTimeout k
  | .abandonDone k => k < 256
  | .tileStart k gs => k < 256 && gs.all Gather.wf
  | .tileCommitStart k _ => k < 256
  | .gatherReturn k _ gs => k < 256 && gs.all Gather.wf
  | .reductionApply c s => c < 16 && s < 8
  | .granuleCommit c => c < 16
  | .sharedPageCopyDone f _ _ => f < 16384
  | .memData p t _ | .memAck p t => p < 32 && t < 4096
  | .backInval l | .snoop l => l < 2 ^ 46
  | .queueWriteAccepted q | .interruptLost q | .queueAreaAccessFail q _ | .queueGuilty q _ => q < 4096
  | .scQctlStop r q | .scQctlResume r q => r.wf && q < 4096
  | .monitorTick | .commonsSwitchDone | .frameBoundary | .strobeTimeout | .reanchor => true
  | .commonsSwitch x => x < 64
  | .translationCompletion d n _ | .pageListFill d n => d < 2 && n < 256
  | .faultBatchFlush d x => d < 2 && x < 4096
  | .faultRingWriteFail x | .consumerPoll x | .faultRingWriteAccepted x => x < 4096
  | .consumerReadDone x n => x < 4096 && n < 2 ^ 64
  | .prgResponse g _ => g < 512
  | .faultRetry _ => true
  | .unresolvedFault q n c => slotOk q n && c < 2 ^ 16
  | .atsInvalidateRequest t p _ _ => t < 32 && p.all (· < 2 ^ 20)
  | .invalidationCompletion t => t < 32
  | .inboundRequest e w _ _ n _ => e < 2 ^ 17 && w < 1024 && n ≤ 4096
  | .fabricResponse _ _ | .fabricResponseTimeout _ | .hostReadErrorAnswer _ => true
  | .linkHeld p | .linkUp p | .linkUnencrypted p => p < 4
  | .abortNoticeReceived g o _ => g < 2 ^ 16 && o < 2 ^ 17
  | .backgroundSlot as => as.all fun a => a.1 < 256
  | .scrubResult p a _ => p < 32 && a < 2 ^ 52
  | .msBoundary w cs => w < 2 ^ 16 && cs.all fun c => c.1 < 16 && c.2 < 2 ^ 16
  | .powerWindowEnd js => js.all fun j => j.1 < 64
  | .timeStrobe _ _ => true
  | .wordUncorrectable p _ => p.wf
  | .poisonConsumed k _ | .tileError k _ => k < 256
  | .clusterQuarantine c => c < 16
  | .escalated d => d.wf
  | .mirrorServed c f _ w _ _ => c < 16 && f < 16384 && w < 2048
  | .mirrorCopyDone f _ => f < 16384
  | .errPop i _ | .errQstatRead i _ => i < 275
  | .partitionResetStart p _ | .partitionResetDrainDone p | .partitionResetEnd p => p < 64
  | .blockFatal d => d < 2
  | .revocationDrainBound e | .revocationInvalidated e | .zeroingDone e => e < 4096
  | .scMbNotice r ch _ => r.wf && ch < 64
  | .noticeTake b => b < 4
  | .messageReadDone ch d => ch < 64 && d.wf
  | .scMbAck r ch _ => r.wf && ch < 64
  | .capabilityCheck ch | .busyAnswer ch | .replyPosted ch _ | .replyHoldExpiry ch | .partitionReset ch
  | .queueReset ch | .queueStop ch | .queueStopResume ch | .errorLogRead ch | .folioRepair ch _ _
  | .spdmMessage ch | .attest ch | .keyZeroise ch | .signerRevoke ch | .rollbackAdvance ch | .fwReboot ch
  | .requesterSet ch | .requesterSetRemove ch | .ownerSet ch | .partitionCreate ch | .partitionDestroy ch
  | .layoutChange ch | .partitionSet ch | .regulatorSet ch | .contextCreate ch | .contextDelete ch
  | .contextSet ch | .queueCreate ch | .queueDelete ch | .extentGrant ch | .extentRights ch | .extentRevoke ch
  | .inboundWindowSet ch | .powerCapSet ch | .mbGroupPower ch | .graphRegister ch _ _ | .graphPatch ch _ _
  | .graphUnregister ch | .folioRegister ch | .folioSet ch | .folioLookup ch | .folioUnregister ch
  | .telemetryRead ch | .snapshot ch | .powerRead ch | .extentCheckAnswer ch _ _ | .extentCheckTimeout ch
  | .slotRetireCommand ch => ch < 64
  | .capabilityExpiry _ => true
  | .firmwareTelemetrySample => true
  | .extentRevokeReq _ p => p.all (· < 64)
  | .nearTierReport _ => true
  | .bootData d => d.all fun b => b.length ≤ 65536
  | .icDoorbellFire _ | .icDoorbellDeassert _ | .icSetPending _ | .icClearPending _ => true
  | .icAck c | .icEoi c _ => c < 4
  | .stormWindowExpiry n => n < 1024
  | .sleepReq | .icWake _ => true
  | .msixUnmask e => e.all (· < 2048)
  | .scTamperN _ => true
  | .debugUnlockAttempt => true
  | .classBGlitch _ _ => true
  | .retireFuseBlown => true
  | .partitionKeyRenewed p => p < 64
  | .getVersion n | .getCapabilities n | .negotiateAlgorithms n _ | .getDigests n | .heartbeat n | .keyUpdate n
  | .endSession n | .spdmSessionLoss n | .finish n _ _ | .chunkSend n _ _ _ _ | .chunkGet n _ _ => sessionOk n
  | .getCertificate n slot _ _ | .challenge n slot _ | .getMeasurements n _ slot _ _ => sessionOk n && slot < 8
  | .keyExchange n r b _ => sessionOk n && r.wf && b.all (· < 64)
  | .getTdispVersion n p | .getTdispCapabilities n p | .lockInterfaceRequest n p
  | .getDeviceInterfaceReport n p | .getDeviceInterfaceState n p | .startInterfaceRequest n p
  | .stopInterfaceRequest n p | .ideKmKeyProg n p _ => sessionOk n && p < 64
  | .scHardCapAssert _ | .scHardCapDeassert _ => true
  | .thermalSample rs => rs.all fun r => if r.base then r.unit < 2 else r.unit < 16
  | .coolantStop _ => true
  | .droopDetect k _ => k < 256
  | .scResetNAssert _ | .scResetNDeassert _ _ _ | .romDone _ | .keysDone _ => true
  | .imageChecked as => as.all fun a => a.1 < 256
  | .memoryPortReady p | .memoryPortTimeout p => p < 32
  | .trainingDone ts => ts.all fun t => t.bundle < 2
  | .timeLimitExpiry => true
  | .bridgeFlitReplay b _ | .bridgeRetrainStart b => b < 2
  | .bridgeRetrainEnd t => t.bundle < 2
  | .widthReq r _ | .retrain r _ => r.wf
  | .bridgeWidthChange => true
  | .scSignalsRead r _ => r.wf
  | .scRbIndex r l _ | .captureDone r l => r.wf && l < 16
  | .icStatusRead _ => true
  | .bootReadTimeout | .thimbleDomainGlitch => true
  | .partitionCertificateIssued p | .priEnable p | .layoutClearingDone p => p < 64
  | .inputGlitch _ _ => true
  | .slewComplete => true
  | .regulatorTokenAccrual p => p < 32

end Sys2Proof
end

