-- ==== Sys2Proof/Tests/Slice0.lean ====
section
/-!
SUPPORT. Tests of the model, each on one command and a small state. Beside the checks of single numbers that the spec gives,
they show for each clause of the statements of Certificates/Slice0/Obligations.lean a state and operands that meet its
hypotheses together.
-/
namespace Sys2Proof.Tests

set_option Elab.async false

open Sys2Proof Sys2Proof.Machine

/-- The state after a command. -/
def after (c : Instr) (s : State) : State :=
  match exec c s with
  | .next t => t
  | _ => s

/-- A block that has started. -/
def up : State :=
  { State.reset with boot := { State.reset.boot with stage := .ready, outOfReset := true, doeOn := true, mailboxOn := true } }

/-! ### Steps -/

theorem test_front_command : step { up with pending := [.sleepReq, .linkHeld 0] }
    = exec .sleepReq { up with pending := [.linkHeld 0] } := by rfl

theorem test_idle : (match step up with | .next t => t.time.now | _ => 0) = 1 := by decide +kernel

theorem test_stopped_block : State.reset.live = false ∧ actsWhenStopped .sleepReq = false
    ∧ after .sleepReq State.reset = State.reset := by decide +kernel

/-! ### The interrupt controller -/

/-- Source 5 (an edge source) is pending at priority 3 on core 2; source 3 (a level source) is high. -/
def sIc : State :=
  { up with
    time := { up.time with now := 100000 }
    ic := { up.ic with
      srcs := [(3, { level := true }), (5, { enable := true, priority := 3, target := 2, state := .pending }),
               (7, { window := some 90000, fires := 4 })]
      cores := [(1, { stack := [(3, 4), (9, 7)] }), (3, { stack := [(5, 2)] })] } }

theorem test_ic_fire_edge : sIc.live = true ∧ dbOp 6 = 0 ∧ sourceListed sIc.fuses.full (dbSource 6) = true
    ∧ isLevelSource (dbSource 6) = false ∧ ((after (.icDoorbellFire 6) sIc).ic.src 6).state = .pending := by decide +kernel

theorem test_ic_fire_level : dbOp 7 = 0 ∧ sourceListed sIc.fuses.full (dbSource 7) = true ∧ isLevelSource (dbSource 7) = true
    ∧ (sIc.ic.src (dbSource 7)).level = false ∧ ((after (.icDoorbellFire 7) sIc).ic.src 7).level = true := by decide +kernel

theorem test_ic_fire_cleared_level : dbOp 3 = 0 ∧ isLevelSource (dbSource 3) = true ∧ (sIc.ic.src (dbSource 3)).level = true
    ∧ (sIc.ic.src (dbSource 3)).state = .inactive ∧ ((after (.icDoorbellFire 3) sIc).ic.src 3).state = .pending := by
  decide +kernel

/-- OP 1 in bits [11:10] (R355): the word 0x403 deasserts source 3. -/
theorem test_ic_deassert : dbOp 0x403 = 1 ∧ dbSource 0x403 = 3 ∧ isLevelSource 3 = true
    ∧ ((after (.icDoorbellDeassert 0x403) sIc).ic.src 3).level = false := by decide +kernel

theorem test_ic_set_pending : ((after (.icSetPending 600) sIc).ic.src 600).state = .pending := by decide +kernel

theorem test_ic_clear_pending : ((after (.icClearPending 5) sIc).ic.src 5).state = .inactive := by decide +kernel

theorem test_ic_ack : sIc.ic.lingers 2 sIc.time.now = none ∧ sIc.ic.candidate 2 = some (5, 3)
    ∧ (after (.icAck 2) sIc).out.head? = some (.icValue 5) ∧ ((after (.icAck 2) sIc).ic.core 2).stack = [(5, 3)] := by
  decide +kernel

theorem test_ic_ack_none : sIc.ic.lingers 0 sIc.time.now = none ∧ sIc.ic.candidate 0 = none
    ∧ (after (.icAck 0) sIc).out.head? = some (.icValue 0xFFFF) := by decide +kernel

/-- Source 5 was disabled 10 ns ago while it was core 2's candidate (R360). -/
def sLinger : State :=
  { sIc with ic := { sIc.ic with srcs := [(5, { priority := 3, target := 2, state := .pending })]
                                 cores := [(2, { lingering := some (5, 99990) })] } }

theorem test_ic_ack_lingering : sLinger.live = true ∧ sLinger.ic.lingers 2 sLinger.time.now = some (5, 3)
    ∧ sLinger.ic.candidate 2 = none := by decide +kernel

theorem test_ic_eoi_edge : sIc.live = true ∧ (sIc.ic.core 3).stack = [(dbSource 5, 2)] ∧ isLevelSource (dbSource 5) = false
    ∧ ((after (.icEoi 3 5) sIc).ic.core 3).stack = [] := by decide +kernel

/-- A level source that is still high is pending again after its EOI, and that is a fire (R358). -/
theorem test_ic_eoi_level : (sIc.ic.core 1).stack = [(dbSource 3, 4), (9, 7)] ∧ isLevelSource (dbSource 3) = true
    ∧ (sIc.ic.src 3).level = true ∧ ((after (.icEoi 1 3) sIc).ic.src 3).state = .pending := by decide +kernel

/-- As `sIc`, with source 3 enabled and active. -/
def sEoi : State := { sIc with ic := sIc.ic.setSrc 3 { level := true, enable := true, state := .active } }

theorem test_ic_eoi_counts : (sEoi.ic.src 3).level = true ∧ sEoi.ic.asleep = false ∧ (sEoi.ic.src 3).enable = true
    ∧ (sEoi.ic.src 3).windowOpen 100000 = false ∧ ((after (.icEoi 1 3) sEoi).ic.src 3).fires = 1 := by decide +kernel

theorem test_ic_bad_eoi : (sIc.ic.core 1).stack.head?.map (·.1) ≠ some (dbSource 9)
    ∧ (after (.icEoi 1 9) sIc).ic.badEoi = 1 := by decide +kernel

theorem test_storm_window_expiry : (sIc.ic.src 7).window = some 90000 ∧ 90000 + 8000 ≤ sIc.time.now
    ∧ ((after (.stormWindowExpiry 7) sIc).ic.src 7).fires = 0 := by decide +kernel

theorem test_sleep_refused : sIc.ic.asleep = false ∧ sIc.ic.awake = true
    ∧ (after .sleepReq sIc).ic.sleepRefused = true := by decide +kernel

theorem test_sleep : up.live = true ∧ up.ic.asleep = false ∧ up.ic.awake = false
    ∧ (after .sleepReq up).ic.asleep = true := by decide +kernel

/-- The controller asleep. -/
def sAsleep : State := { sIc with ic := { sIc.ic with asleep := true } }

theorem test_wake : sAsleep.live = true ∧ sAsleep.ic.asleep = true ∧ (after (.icWake true) sAsleep).ic.restored = true := by
  decide +kernel

theorem test_ic_status : (after (.icStatusRead .whole) { sIc with ic := { sIc.ic with badEoi := 2 } }).ic.badEoi = 0 := by
  decide +kernel

/-- Entry 9 of the MSI-X table holds a pending message under its mask. -/
def sMsix : State := { up with msix := { enable := true, entries := [(9, { pending := true })] } }

theorem test_msix_unmask : sMsix.live = true ∧ sMsix.msix.enable = true ∧ sMsix.msix.funcMask = false ∧ sMsix.msix.due = []
    ∧ (sMsix.msix.entries.getD 9 {}).pending = true ∧ (after (.msixUnmask (some 9)) sMsix).out.head? = some (.msix 9) := by
  decide +kernel

theorem test_msix_sorted : Tbl.Sorted sMsix.msix.entries := by unfold Tbl.Sorted; decide +kernel

/-! ### Registers -/

/-- SC_CAP at offset 0x10: a plain read. -/
theorem test_read : up.inDarkGroup (.host false) 0x10 = false ∧ up.accessKind (.host false) false 0x20000 8 = 0
    ∧ readClears (placeOf (.host false) 0x20000) = false := by decide +kernel

theorem test_bad_access_read : up.isMgmt (.host true) = true ∧ readsLow .whole = true
    ∧ (after (.scBadAccessRead (.host true) .whole) { up with bad := { count := 3 } }).bad.count = 0 := by decide +kernel

/-- A block whose management requesters leave out the host port. -/
def noMgmt : State := { up with sec := { up.sec with requesters := [0x80000007] } }

theorem test_bad_access_denied : noMgmt.live = true ∧ noMgmt.isMgmt (.host false) = false
    ∧ (after (.scBadAccessRead (.host false) .whole) noMgmt).out.head? = some (.regValue (.host false) 0) := by decide +kernel

theorem test_signals_read : (after (.scSignalsRead (.host true) .low) { up with pins := { glitches := 3 } }).pins.glitches = 0 := by
  decide +kernel

theorem test_signals_denied : (after (.scSignalsRead (.host false) .low) noMgmt).out.head? = some (.regValue (.host false) 0) := by
  decide +kernel

/-- An access of 2 bytes is of a wrong size, kind 3. -/
theorem test_turned_away_read : up.inDarkGroup (.host false) 0x20000 = false ∧ up.accessKind (.host false) false 0x20000 2 = 3
    ∧ (after (.badScAccess (.host false) false 0x20000 2) up).bad.lastKind = 3 := by decide +kernel

theorem test_turned_away_write : up.accessKind (.host false) true 0x20000 2 ≠ 0
    ∧ (after (.badScAccess (.host false) true 0x20000 2) up).bad.count = 1 := by decide +kernel

/-- A block whose mailbox groups are all powered down. -/
def dark : State := { up with mail := { up.mail with groups := 0 } }

theorem test_dark_group : dark.live = true ∧ dark.inDarkGroup (.host false) 0x40000 = true
    ∧ (after (.badScAccess (.host false) false 0x40000 8) dark).out.head? = some (.unsupported (.host false)) := by decide +kernel

/-- A block stopped by a class A alarm. -/
def stopped : State := { up with boot := { up.boot with stopped := .classA } }

theorem test_stopped_access : stopped.boot.stopped ≠ .no
    ∧ (after (.badScAccess (.host false) false 0 8) stopped).out.head? = some (.errorResponse (.host false))
    ∧ (after (.scQdb (.host false) 5 0) stopped).out.head? = some (.errorResponse (.host false)) := by decide +kernel

theorem test_time_status_write :
    (after (.registerWrite (.host true) .sc 0x20008 8 4) { up with time := { up.time with timeStep := true } }).time.timeStep
      = false := by decide +kernel

theorem test_pjob_write : ((after (.registerWrite (.host true) .sc (0x20800 + 8 * 7) 8 0x12345) up).part 7).jobGroup = 0x2345 := by
  decide +kernel

theorem test_ic_src_write : absentSource up.fuses.full 5 = false
    ∧ ((after (.registerWrite (.host true) .bobbin (0x0C010000 + 8 * 5) 8 0x231) up).ic.src 5)
      = { enable := true, priority := 3, target := 2 } := by decide +kernel

theorem test_primask_write :
    ((after (.registerWrite (.host true) .bobbin (0x0C001018 + 0x100 * 2) 8 9) sIc).ic.core 2).primask = 9 := by decide +kernel

theorem test_msix_address_write : up.msix.due = []
    ∧ ((after (.registerWrite (.host true) .bar2 (16 * 9) 8 0xFEE00000) up).msix.entries.getD 9 {}).address = 0xFEE00000 := by
  decide +kernel

/-! ### Queues -/

/-- Queue 5 of partition 1, a ring of 16 slots, bound to HOST context 0. -/
def q5 : Queue :=
  { state := .active, partition := 1, tokens := 1, epoch := 2
    attrs := { ringLog2 := 4, maxInflight := 8, dbRate := 1000 } }

/-- A block with that queue. -/
def sQ : State :=
  { up with
    time := { up.time with now := 100000 }
    parts := [(1, { state := .active, queueFirst := 0, queueCount := 16 })]
    ctxs := [(ctxKey 1 0, { partition := 1, index := 0, pasid := 9 })]
    queues := [(5, q5)] }

/-- As `sQ`, with queue 5 changed. -/
def sQof (u : Queue) : State := { sQ with queues := [(5, u)] }

theorem test_doorbell : sQ.live = true ∧ sQ.reachesQueue (.host false) 5 = true
    ∧ ((after (.scQdb (.host false) 5 0x20003) sQ).queue 5).tail = 3 := by decide +kernel

/-- With no token left the doorbell is absorbed (R158). -/
theorem test_doorbell_absorbed : ((after (.scQdb (.host false) 5 0x20003) (sQof { q5 with tokens := 0 })).queue 5).pendingTail
    = some 3 := by decide +kernel

theorem test_doorbell_unreachable : sQ.reachesQueue (.fabric 0 7) 5 = false
    ∧ (after (.scQdb (.fabric 0 7) 5 0x20003) sQ).bad.lastKind = 2 := by decide +kernel

theorem test_token_accrues : (sQ.queue 5).tokenDue sQ.time.now = true ∧ (sQ.queue 5).pendingTail = none
    ∧ ((after (.doorbellTokenAccrual 5) sQ).queue 5).tokens = 2 := by decide +kernel

theorem test_token_takes_tail : ((sQof { q5 with pendingTail := some 6 }).queue 5).tokenDue 100000 = true
    ∧ (6 < q5.ringSize ∧ q5.ahead q5.tail < q5.ahead 6)
    ∧ ((after (.doorbellTokenAccrual 5) (sQof { q5 with pendingTail := some 6 })).queue 5).tail = 6 := by decide +kernel

theorem test_qcounts_read : ((after (.scQcountsRead (.host false) 5 .whole) (sQof { q5 with dbStale := 4 })).queue 5).counts = 0 := by
  decide +kernel

theorem test_int_lost_cleared : (0x2000000 : BitVec 64).getLsbD 25 = true
    ∧ ((after (.registerWrite (.host false) .sc (queueOffset 5 8) 8 0x2000000) (sQof { q5 with intLost := true })).queue 5).intLost
      = false := by decide +kernel

/-- Queue 5 owes a status record, then a completion word. -/
def q5w : Queue := { q5 with writes := [.final {}, .word {}] }

theorem test_write_accepted : q5w.resuming = none ∧ q5w.vectorOf (.word {}) = none ∧ q5w.attrs.path = 0
    ∧ (after (.queueWriteAccepted 5) (sQof q5w)).out.head? = some (.guest 5 (.word {})) := by decide +kernel

theorem test_last_write_accepted : ((after (.queueWriteAccepted 5) (sQof { q5 with writes := [.word {}] })).queue 5).writes = [] := by
  decide +kernel

theorem test_interrupt_lost : (q5.vectorOf .completionInterrupt).isSome = true
    ∧ ((after (.interruptLost 5) (sQof { q5 with writes := [.completionInterrupt] })).queue 5).intLost = true := by decide +kernel

theorem test_fetch_fails : ((after (.queueAreaAccessFail 5 .fetch) (sQof { q5 with fetching := true, nextSeq := 4 })).queue 5).state
      = .blocked
    ∧ ((after (.queueAreaAccessFail 5 .fetch) (sQof { q5 with fetching := true, nextSeq := 4 })).queue 5).blockPoint = 4 := by
  decide +kernel

theorem test_stop : ((after (.scQctlStop (.host false) 5) sQ).queue 5).state = .stopped := by decide +kernel

theorem test_resume : (sQof { q5 with state := .stopped, guestStop := true }).reachesQueue (.host false) 5 = true
    ∧ ((after (.scQctlResume (.host false) 5) (sQof { q5 with state := .stopped, guestStop := true })).queue 5).state = .active := by
  decide +kernel

theorem test_resume_ignored : after (.scQctlResume (.host false) 5) (sQof { q5 with state := .stopped, mgmtStop := true })
    = sQof { q5 with state := .stopped, mgmtStop := true } := by decide +kernel

theorem test_resume_blocked :
    ((after (.scQctlResume (.host false) 5) (sQof { q5 with state := .blocked, tail := 3 })).queue 5).resuming = some 3 := by
  decide +kernel

/-- The bytes of a slot with an opcode and the argument bytes of R144. -/
def raw (op : Nat) (a : Bytes) : Bytes := toLe 2 op ++ zeros 62 ++ a

/-- A running launch of queue 5. -/
def l1 : Slot := { queue := 5, seq := 1, partition := 1, raw := raw 1 [], opcode := 1, order := 1, state := .running, variant := 0 }

/-- Queue 5 is blamed for an error, with one launch under way. -/
def sGuilty : State := { sQ with errs := { sQ.errs with handlingQ := [5] }, slots := [l1] }

theorem test_guilty : 5 ∈ sGuilty.errs.handlingQ ∧ l1.admitted = true ∧ l1.isLaunch = true
    ∧ ((after (.queueGuilty 5 true) sGuilty).queue 5).state = .guilty
    ∧ (after (.queueGuilty 5 true) sGuilty).slots.map (·.status) = [Status.queueGuilty] := by decide +kernel

/-! ### Slots: NOP, FENCE, ADVISE, PREFETCH -/

/-- An admitted slot of queue 5 with an opcode and arguments. -/
def slotOf (op : Nat) (a : Bytes) : Slot :=
  { queue := 5, seq := 1, partition := 1, raw := raw op a, opcode := op, order := 1 }

/-- As `sQ`, with one slot, an extent of four granules in which P1 holds R and W, and a line of it in cluster 0. -/
def sS (e : Slot) : State :=
  { sQ with
    slots := [e], admitted := 1
    queues := [(5, { q5 with nextSeq := 2, admittedSeq := 1 })]
    extents := [(0, { base := 0, granules := 4, rMask := 2, wMask := 2, pubMask := 2 })]
    lines := [{ cluster := 0, way := 0, partition := 1, line := 2, words := [], keep := true }] }

theorem test_nop : (sS (slotOf Op.nop [])).Working 5 1 (slotOf Op.nop [])
    ∧ (sS (slotOf Op.nop [])).mayStart Op.nop (slotOf Op.nop []) = true
    ∧ ((after (.nop 5 1) (sS (slotOf Op.nop []))).queue 5).retiredSeq = 1 := by decide +kernel

/-- FENCE of kind 0 (the queue) or 1 (the context). -/
def fence (k : Byte) : Slot := slotOf Op.fence [k]

theorem test_fence_queue : (fence 0).admitted = true ∧ le (args (fence 0).raw) 0 1 = 0 ∧ (5, 1) ∉ (fence 0).covers
    ∧ (sS (fence 0)).fenceOpen (fence 0) = true
    ∧ ((after (.fenceQueue 5 1) (sS (fence 0))).queue 5).retiredSeq = 1 := by decide +kernel

theorem test_fence_context : le (args (fence 1).raw) 0 1 = 1
    ∧ ((after (.fenceContext 5 1) (sS (fence 1))).queue 5).retiredSeq = 1 := by decide +kernel

/-- A FENCE of sequence 2 that waits for the launch of sequence 1. -/
def waiting (k : Byte) : Slot := { fence k with seq := 2, order := 2, covers := [(5, 1)] }

/-- That FENCE behind the launch. -/
def sWaiting (k : Byte) : State := { sS (fence k) with slots := [l1, waiting k] }

theorem test_fence_queue_waits : (sWaiting 0).Working 5 2 (waiting 0) ∧ (5, 2) ∉ (waiting 0).covers
    ∧ (sWaiting 0).fenceOpen (waiting 0) = false
    ∧ ((after (.fenceQueue 5 2) (sWaiting 0)).slot? 5 2).map (·.state) = some .running := by decide +kernel

theorem test_fence_context_waits : (sWaiting 1).Working 5 2 (waiting 1) ∧ (sWaiting 1).fenceOpen (waiting 1) = false
    ∧ ((after (.fenceContext 5 2) (sWaiting 1)).slot? 5 2).map (·.state) = some .running := by decide +kernel

/-- The FENCE runs and the launch before it has finished. -/
def sPassed : State := { sS (fence 0) with slots := [{ l1 with state := .finished }, { waiting 0 with state := .running }] }

theorem test_fence_finish : sPassed.Working 5 2 { waiting 0 with state := .running }
    ∧ sPassed.fenceOpen { waiting 0 with state := .running } = true
    ∧ ((after (.fenceFinish 5 2) sPassed).queue 5).retiredSeq = 2 := by decide +kernel

/-- The arguments of ADVISE or PREFETCH on the second line of the extent: value or kind `v`, for cluster 0. -/
def adviceArgs (v : Byte) : Bytes := zeros 8 ++ toLe 8 64 ++ toLe 8 64 ++ zeros 4 ++ [v, 0] ++ toLe 2 1

def advise (v : Byte) : Slot := slotOf Op.advise (adviceArgs v)
def prefetch (v : Byte) : Slot := slotOf Op.prefetch (adviceArgs v)

theorem test_advice_ack : let e := { advise 1 with state := SlotState.running, adviceOut := true }
    (sS e).Working 5 1 e ∧ e.fills = 0 ∧ ((after (.adviceAck 5 1) (sS e)).queue 5).retiredSeq = 1 := by decide +kernel

theorem test_advice_ack_fills : let e := { advise 1 with state := SlotState.running, adviceOut := true, fills := 2 }
    (sS e).Working 5 1 e ∧ e.fills ≠ 0
      ∧ ((after (.adviceAck 5 1) (sS e)).slot? 5 1).map (·.adviceOut) = some false := by decide +kernel

theorem test_advise_normal : (sS (advise 0)).Working 5 1 (advise 0) ∧ (sS (advise 0)).mayStart Op.advise (advise 0) = true
    ∧ le (args (advise 0).raw) 28 1 = 0
    ∧ (after (.adviseNormal 5 1) (sS (advise 0))).out.head? = some (.advice 0 0 0 64 64 0) := by decide +kernel

theorem test_advise_hot : le (args (advise 1).raw) 28 1 = 1
    ∧ (after (.adviseHot 5 1) (sS (advise 1))).out.head? = some (.advice 0 1 0 64 64 0) := by decide +kernel

theorem test_advise_cold : le (args (advise 2).raw) 28 1 = 2
    ∧ (after (.adviseCold 5 1) (sS (advise 2))).out.head? = some (.advice 0 2 0 64 64 0) := by decide +kernel

theorem test_advise_will_need : le (args (advise 3).raw) 28 1 = 3
    ∧ (after (.adviseWillNeed 5 1) (sS (advise 3))).out.head? = some (.advice 0 3 0 64 64 0) := by decide +kernel

theorem test_prefetch_near_tier : (sS (prefetch 0)).mayStart Op.prefetch (prefetch 0) = true ∧ le (args (prefetch 0).raw) 28 1 = 0
    ∧ (after (.prefetchNearTier 5 1) (sS (prefetch 0))).out.head? = some (.advice 0 0x10 0 64 64 0) := by decide +kernel

theorem test_advise_dont_need : le (args (advise 4).raw) 28 1 = 4
    ∧ ((after (.adviseDontNeed 5 1) (sS (advise 4))).lines.map (·.line)) = [2] := by decide +kernel

theorem test_advise_release_keep : le (args (advise 5).raw) 28 1 = 5 ∧ (sS (advise 5)).rangeOf (advise 5) = some [(64, 64)]
    ∧ ((after (.adviseReleaseKeep 5 1) (sS (advise 5))).lines.map (·.keep)) = [true] := by decide +kernel

theorem test_prefetch_misses : le (args (prefetch 1).raw) 28 1 = 1 ∧ le (args (prefetch 2).raw) 28 1 = 2
    ∧ (sS (prefetch 1)).rangeOf (prefetch 1) = some [(64 * 1, 64)] ∧ (sS (prefetch 1)).prefetchClusters (prefetch 1) = [0]
    ∧ (sS (prefetch 2)).rangeOf (prefetch 2) = some [(64 * 1, 64)] ∧ (sS (prefetch 2)).prefetchClusters (prefetch 2) = [0]
    ∧ (sS (prefetch 1)).line? 1 1 = none := by decide +kernel

/-- A PREFETCH of line 2, which cluster 0 holds. -/
def prefetchHit : Slot := slotOf Op.prefetch (zeros 8 ++ toLe 8 128 ++ toLe 8 64 ++ zeros 4 ++ [1, 0] ++ toLe 2 1)

theorem test_prefetch_hits : (sS prefetchHit).mayStart Op.prefetch prefetchHit = true ∧ le (args prefetchHit.raw) 28 1 = 1
    ∧ (sS prefetchHit).rangeOf prefetchHit = some [(64 * 2, 64)] ∧ (sS prefetchHit).prefetchClusters prefetchHit = [0]
    ∧ ((sS prefetchHit).line? prefetchHit.partition 2).isSome = true ∧ le (args prefetchHit.raw) 29 1 = 0
    ∧ flagKeep prefetchHit.flags = false
    ∧ ((after (.prefetchClusterCache 5 1) (sS prefetchHit)).queue 5).retiredSeq = 1 := by decide +kernel

/-! ### Launches, CHAIN and the sequence table -/

/-- A launch that is admitted, and one that a CHAIN RUN brought. -/
def launch0 : Slot := { l1 with state := .admitted }
def chainRun0 : Slot := { launch0 with opcode := Op.chain }

theorem test_launch : (sS launch0).mayStart Op.launch launch0 = true
    ∧ ((after (.launch 5 1) (sS launch0)).slot? 5 1).map (·.state) = some .running := by decide +kernel

theorem test_chain_run : (sS chainRun0).mayStart Op.chain chainRun0 = true ∧ chainRun0.isLaunch = true
    ∧ ((after (.chainRun 5 1) (sS chainRun0)).slot? 5 1).map (·.state) = some .running := by decide +kernel

/-- A CHAIN STORE of entry 3 that waits for its image. -/
def chainStore0 : Slot := { slotOf Op.chain ([0, 0] ++ toLe 2 3) with order := 0 }

theorem test_chain_store : (sS chainStore0).Working 5 1 chainStore0 ∧ chainStore0.awaits Op.chain = true
    ∧ isRun chainStore0.raw = false ∧ (sS chainStore0).readEnds chainStore0 = true
    ∧ (sS chainStore0).readResult chainStore0 (.data (raw 1 (zeros 64))) = .data (raw 1 (zeros 64))
    ∧ storableImage (raw 1 (zeros 64)) = true
    ∧ ((after (.chainStore 5 1 (.data (raw 1 (zeros 64)))) (sS chainStore0)).ctx? (ctxKey 1 0)).map (·.chain)
      = some [(3, raw 1 (zeros 64))] := by decide +kernel

theorem test_chain_store_refused : storableImage (raw 5 (zeros 64)) = false
    ∧ (after (.chainStore 5 1 (.data (raw 5 (zeros 64)))) (sS chainStore0)).ctxs = sQ.ctxs := by decide +kernel

/-- A SEQ_ADMIT of key 77 in group 2, whose KV range is the extent's first granule. -/
def seqAdmit0 : Slot :=
  { slotOf Op.seqAdmit (toLe 8 77 ++ toLe 2 2 ++ zeros 6 ++ zeros 8 ++ zeros 8 ++ toLe 8 4096 ++ zeros 8) with order := 0 }

/-- A sequence-table entry of the same context. -/
def seq77 : SeqEntry :=
  { key := 77, group := 2, context := 0, partition := 1, position := 0, maxPosition := 0, kvBase := 0, kvBytes := 4096, sampling := 0 }

/-- As `sS`, with a limit of 4 entries and entry 6 taken. -/
def sSeq (e : Slot) (x : SeqEntry) : State :=
  { sS e with parts := [(1, { state := .active, queueFirst := 0, queueCount := 16, seqLimit := 4 })], seqs := [(6, x)] }

theorem test_seq_admit : let s := sSeq seqAdmit0 { seq77 with key := 78 }
    seqAdmit0.awaits Op.seqAdmit = true
      ∧ ((s.seqsOf 1 0).any fun x => x.2.key == (seqEntryOf seqAdmit0).key) = false
      ∧ s.kvOk 1 (seqEntryOf seqAdmit0).kvBase (seqEntryOf seqAdmit0).kvBytes = true
      ∧ (s.seqs.filter fun x => x.2.partition == 1).length < (s.part 1).seqLimit ∧ s.seqs.firstFree 16384 = some 0
      ∧ ((after (.seqAdmit 5 1) s).seqs.get? 0).map (·.key) = some 77 := by decide +kernel

theorem test_seq_admit_twice : let s := sSeq seqAdmit0 seq77
    ((s.seqsOf 1 0).any fun x => x.2.key == (seqEntryOf seqAdmit0).key) = true
      ∧ (after (.seqAdmit 5 1) s).seqs = s.seqs := by decide +kernel

theorem test_seq_admit_full : let s := { sSeq seqAdmit0 { seq77 with key := 78 } with parts := [(1, { state := .active, seqLimit := 1 })] }
    (s.part 1).seqLimit ≤ (s.seqs.filter fun x => x.2.partition == 1).length
      ∧ s.kvOk 1 (seqEntryOf seqAdmit0).kvBase (seqEntryOf seqAdmit0).kvBytes = true := by decide +kernel

/-- SEQ_RETIRE of one key, of a group, or of the context. -/
def seqRetire0 (k : Byte) : Slot := { slotOf Op.seqRetire (toLe 8 77 ++ [k, 0] ++ toLe 2 2) with order := 0 }

theorem test_seq_retire_one : (seqRetire0 0).awaits Op.seqRetire = true ∧ le (args (seqRetire0 0).raw) 8 1 = 0
    ∧ (after (.seqRetireOne 5 1) (sSeq (seqRetire0 0) seq77)).seqs.get? 6 = some { seq77 with state := 3 } := by decide +kernel

theorem test_seq_retire_group : le (args (seqRetire0 1).raw) 8 1 = 1
    ∧ (after (.seqRetireGroup 5 1) (sSeq (seqRetire0 1) seq77)).seqs.get? 6 = some { seq77 with state := 3 } := by decide +kernel

theorem test_seq_retire_context : le (args (seqRetire0 2).raw) 8 1 = 2
    ∧ (after (.seqRetireContext 5 1) (sSeq (seqRetire0 2) seq77)).seqs.get? 6 = some { seq77 with state := 3 } := by decide +kernel

theorem test_seq_sorted : Tbl.Sorted (sSeq (seqRetire0 0) seq77).seqs := by unfold Tbl.Sorted; decide +kernel

theorem test_seq_entry_freed : let s := sSeq (slotOf Op.nop []) { seq77 with state := 3 }
    s.live = true ∧ s.seqHeld 6 = false ∧ (after (.seqEntryFreed 6) s).seqs = [] := by decide +kernel

/-! ### Arrivals and the reads of the checks -/

/-- Queue 5 waits for slot 1, whose read is under way. -/
def sFetch (st : QState) : State := sQof { q5 with state := st, tail := 1, fetching := true }

theorem test_slot_fetch : (sQof { q5 with tail := 1 }).mayFetch 5 = true
    ∧ (after (.slotFetch 5) (sQof { q5 with tail := 1 })).out.head? = some (.slotRead 5 0) := by decide +kernel

theorem test_arrival_admits : (sFetch .active).live = true ∧ ((sFetch .active).queue 5).fetching = true
    ∧ slotFieldCause false false (raw 0 (zeros 64)) = none ∧ SlotField.fOpcode (raw 0 (zeros 64)) = Op.nop
    ∧ (sFetch .active).slot? 5 1 = none
    ∧ (after (.slotArrival 5 (.data (raw 0 (zeros 64)))) (sFetch .active)).slots.map (·.order) = [1] := by decide +kernel

/-- Opcode 11 is none of R143's: cause 1. -/
theorem test_arrival_refused : slotFieldCause false false (raw 11 (zeros 64)) = some 1
    ∧ ((after (.slotArrival 5 (.data (raw 11 (zeros 64)))) (sFetch .active)).queue 5).retiredSeq = 1 := by decide +kernel

theorem test_arrival_stopped : ((sFetch .stopped).queue 5).fetching = true
    ∧ ((after (.slotArrival 5 (.data (raw 0 (zeros 64)))) (sFetch .stopped)).queue 5).retiredSeq = 1 := by decide +kernel

theorem test_arrival_guilty : ((sFetch .guilty).queue 5).fetching = true
    ∧ ((after (.slotArrival 5 (.data (raw 0 (zeros 64)))) (sFetch .guilty)).queue 5).retiredSeq = 1 := by decide +kernel

theorem test_arrival_poisoned : ((after (.slotArrival 5 .poisoned) (sFetch .active)).queue 5).nextSeq = 2 := by decide +kernel

/-- A launch that waits for its external constants, or for its override table. -/
def reading (st : SlotState) : Slot := { l1 with order := 0, state := st }

theorem test_constants_read : (sS (reading .readingConsts)).Working 5 1 (reading .readingConsts)
    ∧ (sS (reading .readingConsts)).readEnds (reading .readingConsts) = true
    ∧ (sS (reading .readingConsts)).readResult (reading .readingConsts) (.data [7]) = .data [7] := by decide +kernel

theorem test_constants_unreadable :
    ((after (.externalConstantsReadDone 5 1 .failed) (sS (reading .readingConsts))).queue 5).retiredSeq = 1 := by decide +kernel

theorem test_overrides_read : (sS (reading .readingOverrides)).Working 5 1 (reading .readingOverrides)
    ∧ (sS (reading .readingOverrides)).readEnds (reading .readingOverrides) = true
    ∧ (sS (reading .readingOverrides)).readResult (reading .readingOverrides) (.data [7]) = .data [7] := by decide +kernel

theorem test_overrides_unreadable :
    ((after (.overrideTableReadDone 5 1 .poisoned) (sS (reading .readingOverrides))).queue 5).retiredSeq = 1 := by decide +kernel

/-! ### Folios -/

/-- Folio 3 of P1, of one page, with version 1 current, and version slots of which the second holds a draft. -/
def folio3 : Folio :=
  { owner := 1, registered := true, length := pageBytes, readers := 2, publishers := 2, current := 1, nextVersion := 3
    slots := [{ version := 1, vstate := .current, pages := [(0, { addr := 0 })] },
              { version := 2, vstate := .draft, holderP := 1, holderX := 0 }, {}] }

def folioHandle3 : Bytes := toLe 8 (mkFolioHandle 3 1 0)

/-- FOLIO_OPEN of a version, for reading (0) or as a draft (1); FOLIO_CLOSE and FOLIO_PUBLISH of a version. -/
def folioOpen (v : Nat) (kind : Byte) : Slot := slotOf Op.folioOpen (folioHandle3 ++ toLe 4 v ++ [kind] ++ zeros 32)
def folioClose (v : Nat) : Slot := slotOf Op.folioClose (folioHandle3 ++ toLe 4 v ++ zeros 32)
def folioPublish (v expected : Nat) : Slot := slotOf Op.folioPublish (folioHandle3 ++ toLe 4 v ++ toLe 4 expected ++ zeros 32)

/-- As `sS`, with a folio and with context 0 holding the draft and two opens of version 1 when `h`. -/
def sF (e : Slot) (f : Folio) (h : Bool) : State :=
  { sS e with
    folios := [(3, f)]
    ctxs := [(ctxKey 1 0, { partition := 1, index := 0, holds := { folio := 3, version := 2, opens := 0, draft := true }
      :: (if h then [{ folio := 3, version := 1, opens := 2, draft := false }] else []) })] }

theorem test_folio_open : let e := folioOpen 0 0
    let s := sF e folio3 false
    (s.Alone 5 1 e ∧ s.mayStart Op.folioOpen e = true ∧ le (args e.raw) 12 1 = 0)
      ∧ (s.namedFolio (le (args e.raw) 0 8)).map (·.1) = some 3 ∧ le (args e.raw) 16 8 = 0
      ∧ (folio3.resolve (le (args e.raw) 8 4)).map (·.version) = some 1
      ∧ ((s.ctx? (ctxKey 1 0)).bind fun c => c.openOf 3 1) = none
      ∧ ((after (.folioOpenRead 5 1 false) s).folios.get? 3).map (fun f => f.slots.map (·.opens)) = some [1, 0, 0] := by
  decide +kernel

theorem test_folio_open_quarantined :
    let f := { folio3 with slots := [{ version := 1, vstate := VState.current, quarantined := true }] }
    let s := sF (folioOpen 1 0) f false
    (f.resolve 1).map (fun v => (v.published, v.revoked, v.quarantined)) = some (true, false, true)
      ∧ (s.namedFolio (le (args (folioOpen 1 0).raw) 0 8)).map (·.1) = some 3
      ∧ ((after (.folioOpenRead 5 1 false) s).queue 5).retiredSeq = 1 := by decide +kernel

theorem test_folio_open_draft : let e := folioOpen 0xFFFFFFFF 1
    le (args e.raw) 12 1 = 1 ∧ le (args e.raw) 8 4 = 0xFFFFFFFF
      ∧ (folio3.take { vstate := .draft, holderP := 1, holderX := 0 }).map (·.2) = some 3
      ∧ ((after (.folioOpenDraft 5 1 false) (sF e folio3 false)).ctx? (ctxKey 1 0)).map (fun c => c.holds.map (·.version))
        = some [2, 3] := by decide +kernel

theorem test_folio_close : let e := folioClose 1
    let s := sF e folio3 true
    s.mayStart Op.folioClose e = true ∧ le (args e.raw) 8 4 = 1
      ∧ ((s.ctx? (ctxKey 1 0)).bind fun c => c.openOf 3 1).map (·.opens) = some 2
      ∧ ((s.ctx? (ctxKey 1 0)).bind fun c => c.draftOf 3 1) = none
      ∧ ((after (.folioClose 5 1 false) s).ctx? (ctxKey 1 0)).map (fun c => c.holds.map (·.opens)) = some [0, 1] := by
  decide +kernel

theorem test_folio_publish_conflict : let e := folioPublish 2 9
    (sF e folio3 false).mayStart Op.folioPublish e = true ∧ folio3.current ≠ le (args e.raw) 12 4
      ∧ ((after (.folioPublish 5 1 false) (sF e folio3 false)).folios.get? 3).map (·.current) = some 1 := by decide +kernel

theorem test_folio_publish : let e := folioPublish 2 1
    let s := sF e folio3 false
    s.Alone 5 1 e ∧ folio3.current = le (args e.raw) 12 4 ∧ e.publishing = none
      ∧ ((s.ctx? (ctxKey 1 0)).bind fun c => c.draftOf 3 2).isSome = true
      ∧ ((after (.folioPublish 5 1 false) s).folios.get? 3).map (·.current) = some 2 := by decide +kernel

/-- A FOLIO_PUBLISH of the one page at `a` that waits for its page list. -/
def listed : Slot := { folioPublish 0 1 with order := 0 }

theorem test_page_list : let s := sF listed { folio3 with current := 1 } false
    s.Working 5 1 listed ∧ listed.awaits Op.folioPublish = true ∧ s.readEnds listed = true
      ∧ s.readResult listed (.data (toLe 8 pageBytes)) = .data (toLe 8 pageBytes)
      ∧ (toLe 8 pageBytes).length = 8 * (folio3.length / pageBytes)
      ∧ s.pagesOk 1 (pageList (toLe 8 pageBytes) 1) = true
      ∧ ((after (.pageListReadDone 5 1 (.data (toLe 8 pageBytes))) s).slot? 5 1).bind (·.publishing) = some [pageBytes] := by
  decide +kernel

theorem test_page_list_refused : let s := sF listed folio3 false
    s.pagesOk 1 (pageList (toLe 8 0) 1) = false
      ∧ ((after (.pageListReadDone 5 1 (.data (toLe 8 0))) s).queue 5).retiredSeq = 1 := by decide +kernel

/-- Version 1 is being mirrored, and its page has its mirror. -/
def mirroring : Folio :=
  { folio3 with slots := [{ version := 1, vstate := .current, mirror := 1, pages := [(0, { addr := 0, mirror := some pageBytes })] }] }

theorem test_mirror_copy_done : (mirroring.slot? 1).map (·.mirror) = some 1
    ∧ ((after (.mirrorCopyDone 3 1) (sF (folioOpen 0 0) mirroring false)).folios.get? 3).map (fun f => f.slots.map (·.mirror))
      = some [2] := by decide +kernel

/-! ### Tiles -/

def variant0 : Variant :=
  { fallbackRole := false, isDefault := true, promisable := true, fallback := none, resumeMask := 0, expectedNs := 0
    wcetNs := 1000, firstMap := 0, mapCount := 1, firstTile := 0, tileCount := 1, clusters := 1, nearRate := 0, capRate := 0
    engineNs := 0 }

def map0 : PhaseMap :=
  { phase := 0, barrierAfter := false, usesSeqTable := false, shards := 1, quadsPerShard := 1, firstTile := 0, tileCount := 1
    wcetNs := 1000, expectedNs := 0, weightTag := 0, kvTag := 0, reshardFirst := 0, reshardN := 0, tolAbs := 0, tolRel := 0
    threshold := 0, policy := 0 }

def tile0 : TileDef :=
  { phase := 0, reductionsF := false, seamEligible := false, lastOfPhase := true, lastOfLaunch := true, sameCore := false
    usesHamming := false, strands := 1, stitchEntry := 0, cyclesMax := 0, liveBytes := 0, live := [], reductions := 0
    staging := 64, commits := [], predN := 0, succs := [], shard := 0, planEndNs := 1000 }

/-- A graph image of one variant, one phase and one tile. -/
def graph0 : GraphImage :=
  { imageBytes := 0, microcodeMin := 0, gflags := 0, variants := [variant0], bindings := [], phaseMaps := [map0], reshards := []
    tiles := [tile0], constBytes := 0, qualityBinding := none, digest := 0 }

/-- A launch of that graph on cluster 0, its phase started or not, its tile where `p` says. -/
def running (started : Bool) (p : TilePlace) : Slot :=
  { l1 with image := some graph0, primary := 0, placed := [0], phaseStates := [{ map := 0, started := started }]
            tiles := [(0, { place := p })] }

/-- As `sS`, with P1 on quad 0 with four ways, and core 0 as given. -/
def sT (e : Slot) (c : Core) : State :=
  { sS e with
    parts := [(1, { state := .active, queueFirst := 0, queueCount := 16, quads := [0], ways := [(0, { first := 0, ways := 4 })] })]
    cores := [(0, c)] }

/-- Core 0 at work on the launch's tile. -/
def atWork (m : CoreMode) : Core := { mode := m, queue := 5, seq := 1, partition := 1, context := some (ctxKey 1 0) }

theorem test_phase_start : let e := running false .waiting
    e.dispatches = true ∧ ((List.range e.phaseStates.length).find? fun k => e.phaseNo k == 0) = some 0
      ∧ e.map? 0 = some map0 ∧ e.phaseReady 0 = true
      ∧ ((after (.phaseStart 5 1 0) (sT e {})).slot? 5 1).map (fun x => x.phaseStates.map (·.started)) = some [true] := by
  decide +kernel

theorem test_tile_start : let e := running true .waiting
    let s := sT e {}
    s.coreFree 0 = true ∧ s.lowerFirst 0 = false ∧ s.choose 0 = some { queue := 5, seq := 1, tile := 0 }
      ∧ e.guestPages 0 = [] ∧ e.outputPages 0 = [] ∧ ((after (.tileStart 0 []) s).core 0).mode = .running := by decide +kernel

/-- A switch from another context takes 2,500 ns (R219). -/
theorem test_tile_start_switches :
    ((after (.tileStart 0 []) (sT (running true .waiting) { lastContext := some 70 })).core 0).mode = .switching 102500 := by
  decide +kernel

theorem test_baste : let s := sT (running true (.running 0)) (atWork .running)
    (s.core 0).mode = .running ∧ ((after (.baste 0) s).core 0).basted = none := by decide +kernel

theorem test_context_switch_done : let s := sT (running true (.running 0)) (atWork (.switching 99000))
    99000 ≤ s.time.now ∧ (s.core 0).startReads = [] ∧ s.unpinnedTargets 0 = []
      ∧ ((after (.contextSwitchDone 0) s).core 0).mode = .running := by decide +kernel

/-- A read of strand 2 of core 0. -/
def gather2 : MemReq := { who := .gather 0 2, partition := 1, cluster := 0, address := 64, bytes := 64, place := .ready }

theorem test_gather_return : let s := { sT (running true (.running 0)) (atWork .running) with reqs := [(4, gather2)] }
    s.reqs.get? 4 = some gather2 ∧ ((s.reqs.del 4).any fun x => x.2.who == .gather 0 2) = false
      ∧ ((after (.gatherReturn 0 4 []) s).core 0).strands.get? 2 = some .ready := by decide +kernel

theorem test_reqs_sorted : Tbl.Sorted [(4, gather2)] := by unfold Tbl.Sorted; decide +kernel

theorem test_commit_start : let e := running true (.running 0)
    let s := sT e (atWork .running)
    (s.core 0).computes = true ∧ s.unpinnedTargets 0 = [] ∧ s.pinning 0 = false ∧ s.copiesOut e 0 = false ∧ e.phaseOf 0 = some 0
      ∧ e.tileDef? 0 = some tile0 ∧ ((s.runOps 0 map0 false []).core 0).stagedBytes ≤ tile0.staging
      ∧ ((after (.tileCommitStart 0 []) s).core 0).mode = .committing := by decide +kernel

theorem test_commit_end : let e := running true (.committing 0)
    let s := sT e (atWork .committing)
    s.pinning 0 = false ∧ s.missingLines 0 = [] ∧ e.promise = none
      ∧ (e.phaseStates.all fun ps => (e.map? ps.map).all fun m => m.policy != 2) = true
      ∧ ((after (.commitPhaseEnd 0) s).slot? 5 1).map (fun x => (x.state, x.tilesDone)) = some (.ended, 1) := by decide +kernel

theorem test_abandon_done : let s := sT (running true (.running 0)) (atWork .abandoning)
    (s.core 0).mode = .abandoning
      ∧ ((after (.abandonDone 0) s).slot? 5 1).map (fun x => (x.tile 0).place) = some .waiting := by decide +kernel

/-- Core 0 holds a parked tile of launch 1 of queue 5, and a promised launch of queue 6 finds no free core of quad 0. -/
def sClaim : State :=
  let s := sT (running true (.running 0)) { atWork .running with strands := [(0, .parked)], idleSince := some 90000 }
  { s with
    slots := s.slots ++ [{ running true .waiting with
      queue := 6, order := 2
      promise := some { deadline := 9, effective := 9, hem := 5, origin := 0, budget := 1, reserve := 0, scaleI := 16 } }]
    cores := s.cores ++ [(1, { mode := .running, partition := 2 }), (2, { mode := .running, partition := 2 }),
                         (3, { mode := .running, partition := 2 })] }

theorem test_forced_tack : sClaim.live = true ∧ sClaim.forceable 0 = true
    ∧ ((sClaim.core 0).strands.any fun e => e.2 == .parked) = true
    ∧ ((sClaim.claimants 0).any fun x => sClaim.precedes 0 x (sClaim.core 0).cand && !sClaim.worseCore 0 x) = true
    ∧ ((after (.forcedTack 0) sClaim).core 0).mode = .abandoning := by decide +kernel

theorem test_idle_strands : (sClaim.core 0).stalled = true ∧ 90000 + 8192 ≤ sClaim.time.now ∧ sClaim.claimants 0 ≠ []
    ∧ (sClaim.ctx? (ctxKey 1 0)).isSome = true ∧ ((after (.idleStrandsTimeout 0) sClaim).core 0).forced = true := by decide +kernel

/-- A promise whose hem point is 2,000, and a launch whose switch is decided. -/
def promise0 : Promise := { deadline := 3000, effective := 3000, hem := 2000, origin := 0, budget := 1000, reserve := 0, scaleI := 16 }
def switching : Slot := { running true .waiting with promise := some promise0, switchDecided := true }

/-- CT stands at 8,192. -/
def atCt (s : State) : State := { s with time := { s.time with ct := 8192, state := .locked } }

theorem test_hem_tack : let s := atCt (sT switching {})
    s.live = true ∧ switching.tack = false ∧ promise0.hem + 4096 ≤ s.time.ct ∧ s.coresOf 5 1 = []
      ∧ ((after (.hemForcedTack 5 1) s).slot? 5 1).map (·.tack) = some true := by decide +kernel

theorem test_hem_tack_forces : let s := atCt (sT switching (atWork .running))
    (atWork .running).serves 5 1 = true ∧ s.cores.get? 0 = some (atWork .running)
      ∧ ((after (.hemForcedTack 5 1) s).core 0).mode = .abandoning := by decide +kernel

/-- As `graph0`, with variant 1 as the fallback of variant 0. -/
def graphF : GraphImage :=
  { graph0 with variants := [{ variant0 with fallback := some 1 }, { variant0 with isDefault := false, fallbackRole := true }] }

/-- A late launch, with a fallback or without. -/
def late (g : GraphImage) : Slot := { running true .waiting with image := some g, promise := some promise0 }

theorem test_monitor_switches : let e := late graphF
    let s := atCt (sT e {})
    s.time.ct % 1024 < 2 ∧ e.slack promise0 < s.late e ∧ e.canSwitch = true ∧ e.failedPhase = none
      ∧ (after .monitorTick s).slots.map (·.switchDecided) = [true] := by decide +kernel

theorem test_monitor_overrun : let e := late graph0
    let s := atCt (sT e {})
    e.slack promise0 < s.late e ∧ e.canSwitch = false ∧ e.switchDecided = false ∧ s.breakCause e promise0 = none ∧ e.overrun = false
      ∧ (after .monitorTick s).slots.map (·.overrun) = [true] := by decide +kernel

theorem test_fallback : let e := { late graphF with switchDecided := true, tack := true }
    e.image = some graphF ∧ (e.var?.bind (·.fallback)) = some 1 ∧ (graphF.variants[1]?).isSome = true
      ∧ ((after (.fallbackSwitch 5 1) (sT e {})).slot? 5 1).map (fun x => (x.switched, x.variant)) = some (true, 1) := by decide +kernel

/-- A launch of context 2 of the commons, P63, waits to run; the commons may be going over to it. -/
def sCommons (switching : Option Nat) : State :=
  { sT { running true .waiting with partition := 63, context := 2 } {} with
    parts := [(63, { state := .active, kind := 2, quads := [0], ways := [(0, { first := 0, ways := 4 })] })]
    ctxs := [(ctxKey 63 2, { partition := 63, index := 2 })]
    commons := { switching := switching } }

theorem test_commons_switch : (sCommons none).commonsWants.length = 1 ∧ (sCommons none).commons.running ≠ some (ctxKey 63 2)
    ∧ (sCommons none).commonsReserved = false
    ∧ (after (.commonsSwitch 2) (sCommons none)).commons.switching = some (ctxKey 63 2) := by decide +kernel

theorem test_commons_done : (sCommons (some (ctxKey 63 2))).commonsBusy = false
    ∧ (after .commonsSwitchDone (sCommons (some (ctxKey 63 2)))).commons.running = some (ctxKey 63 2) := by decide +kernel

theorem test_launch_finish : let e := { running true .waiting with state := SlotState.ended }
    let s := sT e {}
    s.Working 5 1 e ∧ s.coresOf 5 1 = [] ∧ s.writesDone e = true ∧ e.stagings = [] ∧ e.qualityAddr = none
      ∧ ((after (.launchFinish 5 1) s).queue 5).retiredSeq = 1 := by decide +kernel

/-! ### Adders, bulk movers, memory ports and the line directory -/

/-- An addition of one FP32 to the first element of line 2, on slice 0 of cluster 0. -/
def red0 : Reduction :=
  { cluster := 0, slice := 0, partition := 1, address := 128, fmt := .fp32, op := .add, data := [0, 0, 0x80, 0x3F] }

/-- As `sS`, with reduction and line 2 of zeros. -/
def sRed : State :=
  { sS (slotOf 0 []) with
    adders := [red0]
    lines := [{ cluster := 0, way := 0, partition := 1, line := 2, words := [encodeWord 0, encodeWord 0] }] }

/-- 0 + 1.0 is 1.0, and the line is dirty. -/
theorem test_reduction : (sRed.adders.find? fun r => r.cluster == 0 && r.slice == 0) = some red0
    ∧ (sRed.line? red0.partition (red0.address / 64)).isSome = true
    ∧ (after (.reductionApply 0 0) sRed).lines.map (fun l => (l.dirty, (dataOf (l.words.getD 0 0)).toNat)) = [(true, 0x3F800000)] := by
  decide +kernel

/-- Cluster 0's bulk mover has a job of `n` granules. -/
def sMover (n : Nat) : State :=
  { up with clusters := [(0, { mover := [{ queue := 5, seq := 1, partition := 1, reshard := 0, granules := n }] })] }

theorem test_granule : ((after (.granuleCommit 0) (sMover 3)).cluster 0).mover.map (·.granules) = [2]
    ∧ ((after (.granuleCommit 0) (sMover 1)).cluster 0).mover = [] := by decide +kernel

/-- Version 2 of the folio waits for a copy of its page 0. -/
def copying : Folio :=
  { folio3 with slots := [{ version := 2, vstate := .staging, holderP := 1, pages := [(0, { addr := 0 })], copying := [0] }] }

theorem test_page_copied : let s := sF (folioOpen 0 0) copying false
    (copying.slot? 2).map (fun x => (x.holderP, x.copying)) = some (1, [0]) ∧ s.freePages 1 = [pageBytes, 2 * pageBytes, 3 * pageBytes]
      ∧ (s.cores.all fun c => c.2.mode != .running) = true
      ∧ ((after (.sharedPageCopyDone 3 2 0) s).folios.get? 3).map (fun f => f.slots.map fun x => (x.copying, x.pages))
        = some [([], [(0, { addr := pageBytes })])] := by decide +kernel

/-- A read of line 2 for strand 2 of core 0, and a write of it, on port 1 with tag 7. -/
def portRead : MemReq := { who := .gather 0 2, partition := 1, cluster := 0, address := 128, bytes := 64, place := .port 1 7 }
def portWrite : MemReq := { who := .writeBack, partition := 1, cluster := 0, address := 128, bytes := 64, write := true, place := .port 1 7 }
def sPort (r : MemReq) : State := { sT (running true (.running 0)) (atWork .running) with reqs := [(4, r)] }

theorem test_mem_data : (sPort portRead).reqAt 1 7 = some (4, portRead) ∧ [encodeWord 1, encodeWord 2].length = portRead.nWords
    ∧ ([encodeWord 1, encodeWord 2].all fun w => readWord w == .clean) = true
    ∧ ((after (.memData 1 7 [encodeWord 1, encodeWord 2]) (sPort portRead)).core 0).strands.get? 2 = some .ready := by decide +kernel

theorem test_mem_ack : (sPort portWrite).reqAt 1 7 = some (4, portWrite) ∧ (after (.memAck 1 7) (sPort portWrite)).reqs = [] := by
  decide +kernel

/-- P1 may use a quarter of port 1's near tier, and CT stands at 8,192: one frame of 7,936 ns at 500 bytes a ns (R71, R91). -/
def sShare : State :=
  { atCt sQ with parts := [(1, { state := .active, regs := [(regKey 1 true, { share := 16384, burst := 65535, tokens := 0 })] })] }

theorem test_tokens : sShare.time.state ≠ .unlocked ∧ 1 < sShare.nPorts ∧ sShare.accrued.getD 1 0 < sShare.time.ct ∧ sShare.reqs = []
    ∧ ((after (.regulatorTokenAccrual 1) sShare).regOf 1 1 true).tokens = 7936 * 500 / 4 := by decide +kernel

theorem test_back_inval : (sS (slotOf 0 [])).committing 2 = false ∧ (after (.backInval 2) (sS (slotOf 0 []))).lines = []
    ∧ (after (.backInval 2) (sS (slotOf 0 []))).out.head? = some (.biDone 2) := by decide +kernel

theorem test_snoop : (after (.snoop 2) { sRed with lines := sRed.lines.map fun (l : Line) => { l with dirty := true } }).out.head?
    = some (.snoopData 2 (some [0, 0])) := by decide +kernel

/-- A commit phase of core 0 writes the first line of the extent. -/
def sCommitting : State :=
  sT { running true (.committing 0) with bindings := [.extent 0] }
    { atWork .committing with staged := [{ binding := 0, offset := 0, hint := .normal, data := zeros 64 }] }

theorem test_directory_waits : sCommitting.live = true ∧ sCommitting.committing 0 = true
    ∧ (after (.backInval 0) sCommitting).dirWaits = [(0, false)] ∧ (after (.snoop 0) sCommitting).dirWaits = [(0, true)] := by
  decide +kernel

/-- Data byte 3 of a word with a wrong bit: symbol 7 (R371), found and corrected (R372). -/
theorem test_one_wrong_symbol : readWord (encodeWord 0x1234 ^^^ (1#288 <<< 24)) = .correctable 7
    ∧ correctWord (encodeWord 0x1234 ^^^ (1#288 <<< 24)) 7 = encodeWord 0x1234
    ∧ readWord (poisonWord 0x1234) = .poison := by decide +kernel

/-- The generator polynomial of R370, g = x^4 + 0x0F x^3 + 0x36 x^2 + 0x78 x + 0x40: the check symbols of the word whose
lowest data byte alone is 1 are its coefficients. -/
theorem test_check_symbols : checkSymbols 1 = (0x0F, 0x36, 0x78, 0x40) := by decide +kernel

/-! ### Translation, faults, windows and links -/

/-- A read that Spine makes for slot 1 of queue 5, a fill for it, and a read through a window. -/
def spineRead : MemReq :=
  { who := .spine 5 1, partition := 1, cluster := 0, address := 0x5000, guest := true, bytes := 128, place := .translating }
def fillRead : MemReq := { spineRead with who := .fill 5 1 }

/-- The Translation Request of page 5 for request 4. -/
def xlat5 : XlatReq := { partition := 1, context := 0, tagA := 9, page := 5, write := false, waiters := [4] }

/-- As `sS`, with a request and its Translation Request in slot 2 of die 0. -/
def sX (r : MemReq) (x : XlatReq) : State := { sS l1 with reqs := [(4, r)], xlats := [(2, x)] }

theorem test_translation_granted : let s := sX spineRead xlat5
    (s.live = true ∧ s.slotless 0 = [] ∧ (s.cores.all fun c => c.2.mode != .running) = true)
      ∧ ((after (.translationCompletion 0 2 (.granted 0x70000 4096 true false)) s).reqs.get? 4).map (·.place) = some .host
      ∧ (after (.translationCompletion 0 2 (.granted 0x70000 4096 true false)) s).out.head? = some (.guestRead 5 1 0x70000 128) := by
  decide +kernel

theorem test_translation_fault :
    ((after (.translationCompletion 0 2 .noPermission) (sX spineRead xlat5)).faults.map fun f => (f.page, f.waiters)) = [(5, [4])] := by
  decide +kernel

theorem test_translation_unsupported : l1.unresolved = none
    ∧ ((after (.translationCompletion 0 2 .unsupported) (sX fillRead xlat5)).slot? 5 1).map (·.unresolved) = some (some 1) := by
  decide +kernel

theorem test_translation_reissued :
    (after (.translationCompletion 0 2 .unsupported) (sX fillRead { xlat5 with reissue := true })).out.head?
      = some (.xlatRequest 2 9 0x5000 true) := by decide +kernel

theorem test_xlats_sorted : Tbl.Sorted (sX spineRead xlat5).xlats ∧ Tbl.Sorted (sX spineRead xlat5).reqs := by
  unfold Tbl.Sorted; decide +kernel

/-- A page-list read of page 0 of version 1 of folio 3. -/
def sPages : State :=
  { sF (folioOpen 0 0) folio3 false with
    xlats := [(2, { folio := true, partition := 1, context := 0, tagA := 3, version := 1, page := 0, write := false, waiters := [] })] }

theorem test_page_list_fill : ((sPages.folios.get? 3).bind fun f => f.slot? 1).isSome = true
    ∧ ((folio3.slot? 1).bind fun v => folioEntry 1 3 v 0).isSome = true ∧ sPages.atcSlot 0 1 = some 0 ∧ sPages.slotless 0 = []
    ∧ (after (.pageListFill 0 2) sPages).atc.map (fun e => (e.1, e.2.target)) = [(0, 0)] := by decide +kernel

/-- A fault on page 5 in the batch of context 0 of P1. -/
def fault5 : FaultRec :=
  { id := 1, die := 0, context := 0, partition := 1, page := 5, write := false, source := 0, queue := 5, guestTag := 0
    launchSeq := 1, firstNs := 0, waiters := [4] }

/-- As `sS`, with that fault, its request, and the context. -/
def sFault (f : FaultRec) (c : Context) : State :=
  { sS l1 with faults := [f], reqs := [(4, { fillRead with place := .faulted })], ctxs := [(ctxKey 1 0, c)] }

def hostCtx : Context := { partition := 1, index := 0, pasid := 9 }
/-- A FABRIC context with window 0 through FP1, and a fault ring of 16 entries. -/
def fabricCtx : Context :=
  { partition := 1, index := 0, fabric := true, ringLog2 := 4, windows := [(0, { endpoint := 7, remote := 3, length := 0x10000, wrights := 3, ports := 2 })] }

theorem test_batch_to_host : let s := sFault fault5 hostCtx
    s.batchOf 0 (ctxKey 1 0) = [fault5] ∧ 0 + 5000 ≤ s.time.now ∧ s.fault? 1 = some fault5 ∧ s.pri = true
      ∧ (s.part (ctxKey 1 0 / 64)).priOff = false ∧ s.pagesOut < s.pageAlloc
      ∧ (after (.faultBatchFlush 0 (ctxKey 1 0)) s).out.head? = some (.pageRequests 0 9 [0x5000]) := by decide +kernel

theorem test_batch_to_ring : let s := sFault fault5 fabricCtx
    fabricCtx.ringRoom = true ∧ fabricCtx.ringBroken = false
      ∧ ((after (.faultBatchFlush 0 (ctxKey 1 0)) s).ctx? (ctxKey 1 0)).map (fun d => (d.fseq, d.ringWrites)) = some (2, [1]) := by
  decide +kernel

theorem test_ring_accepted : let s := sFault { fault5 with place := .ring 1 } { fabricCtx with ringWrites := [1, 2] }
    ((after (.faultRingWriteAccepted (ctxKey 1 0)) s).faults.map (·.retryAt)) = [102048] := by decide +kernel

theorem test_ring_vector : let c := { fabricCtx with ringWrites := [1], faultVector := { mode := 1, entry := 9 } }
    let s := { sFault { fault5 with place := .ring 1 } c with msix := { enable := true, entries := [(9, { masked := false })] } }
    s.msix.funcMask = false ∧ (s.msix.entries.getD 9 {}).masked = false
      ∧ (after (.faultRingWriteAccepted (ctxKey 1 0)) s).out.head? = some (.msix 9) := by decide +kernel

theorem test_ring_fails : let s := sFault { fault5 with place := .ring 1 } { fabricCtx with ringWrites := [1], fseq := 2 }
    ((after (.faultRingWriteFail (ctxKey 1 0)) s).ctx? (ctxKey 1 0)).map (fun d => (d.ringBroken, d.fseq)) = some (true, 1) := by
  decide +kernel

/-- The fault has gone to the host in group 3. -/
def asked : FaultRec := { fault5 with place := .delivered 3 }

theorem test_prg_success : let s := sFault { asked with waiters := [] } hostCtx
    (s.faults.filter fun x => x.place == .delivered 3) = [{ asked with waiters := [] }] ∧ s.hostWaiting = []
      ∧ (after (.prgResponse 3 .success) s).faults = [] := by decide +kernel

theorem test_prg_invalid : let s := sFault asked hostCtx
    ((after (.prgResponse 3 .invalid) s).slot? 5 1).map (·.unresolved) = some (some 1) ∧ s.fault? 1 = some asked := by decide +kernel

theorem test_prg_failure : ((after (.prgResponse 3 .failure) (sFault asked hostCtx)).part 1).priOff = true := by decide +kernel

theorem test_pri_enable : let s := { sQ with parts := [(1, { state := .active, priOff := true })] }
    s.live = true ∧ s.hostWaiting = [] ∧ ((after (.priEnable 1) s).part 1).priOff = false := by decide +kernel

/-- The fault stands in the ring and is due for a retry; FP1 is up. -/
def sRetry : State :=
  { sFault { fault5 with place := .ring 1, retryAt := 99000 } fabricCtx with fports := [(1, { state := 1 })] }

theorem test_fault_retry : (sRetry.fault? 1).map (·.retryAt) = some 99000 ∧ 99000 ≤ sRetry.time.now ∧ sRetry.upPort 2 = some 1
    ∧ fabricCtx.windows.get? (fillRead.address / 2 ^ 60) = some { endpoint := 7, remote := 3, length := 0x10000, wrights := 3, ports := 2 }
    ∧ fillRead.address % 2 ^ 60 + max 1 fillRead.bytes ≤ 0x10000
    ∧ (after (.faultRetry 1) sRetry).out.head? = some (.fabricReq 4 7 3 0x5000 128 none 1) := by decide +kernel

theorem test_consumer_poll : let s := atCt sRetry
    (s.faults.any fun f => ctxKey f.partition f.context == ctxKey 1 0 && f.place != .batch) = true ∧ s.time.ct % 4096 < 2
      ∧ s.upPort (((fabricCtx.windows.get? 0).map (·.ports)).getD 1) = some 1
      ∧ (after (.consumerPoll (ctxKey 1 0)) s).out.head? = some (.consumerRead (ctxKey 1 0) 0) := by decide +kernel

theorem test_consumer_read : let s := { sRetry with faults := [] }
    s.live = true ∧ (s.faults.any fun f => ctxKey f.partition f.context == ctxKey 1 0) = false
      ∧ ((after (.consumerReadDone (ctxKey 1 0) 6) s).ctx? (ctxKey 1 0)).map (·.consumer) = some 6 := by decide +kernel

theorem test_unresolved_fault : let e := { l1 with unresolved := some 4 }
    (sS e).slot? 5 1 = some e ∧ e.admitted = true ∧ e.isLaunch = true ∧ e.stagings = []
      ∧ ((after (.unresolvedFault 5 1 4) (sS e)).slot? 5 1).map (fun x => (x.state, x.status, x.cause))
        = some (.ended, Status.translation, 4) := by decide +kernel

theorem test_invalidate : let s := { sX spineRead xlat5 with atc := [(0, { partition := 1, tagA := 9, first := 0x5000, pageLog2 := 12, run := 1, target := 0 })] }
    let t := after (.atsInvalidateRequest 6 (some 9) 0x5000 4096) s
    s.live = true ∧ meets (5 * 4096) 4096 0x5000 4096 = true ∧ named (some 9) 9 = true
      ∧ t.atc = [] ∧ t.xlats.get? 2 = some { xlat5 with reissue := true } ∧ t.invals.map (·.tag) = [6] := by decide +kernel

theorem test_invalidation_done : let s := { sQ with invals := [{ tag := 6, reqs := [], cores := [] }] }
    s.live = true ∧ (after (.invalidationCompletion 6) s).invals = []
      ∧ (after (.invalidationCompletion 6) s).out.head? = some (.invalDone 6) := by decide +kernel

/-- An inbound window on the first 4 KiB of the extent, for endpoint 7. -/
def sIn : State :=
  { sT (slotOf 0 []) {} with
    inbound := [(0, { ident := 11, partition := 1, folio := false, target := 0, length := 4096, read := true, write := true, endpoints := [7] })] }

theorem test_inbound_no_window : sIn.inboundCode 7 12 0 false 64 = (3, none) ∧ (sIn.inbound.any fun e => e.2.ident == 12) = false
    ∧ (after (.inboundRequest 7 12 0 false 64 []) sIn).out.head? = some (.inboundAnswer 7 3) := by decide +kernel

theorem test_inbound_read : (sIn.inboundCode 7 11 0 false 64).1 = 0 ∧ (sIn.inboundCode 7 11 0 false 64).2.isSome = true
    ∧ (after (.inboundRequest 7 11 0 false 64 []) sIn).out.head? = some (.inboundAnswer 7 0) := by decide +kernel

theorem test_inbound_write : (sIn.inboundCode 7 11 0 true 64).1 = 0
    ∧ sIn.mergeMissing { partition := 1, cluster := sIn.entryCluster 1, address := 0, data := zeros 64, endpoint := 7 } = []
    ∧ (after (.inboundRequest 7 11 0 true 64 (zeros 64)) sIn).out.head? = some (.inboundAnswer 7 0) := by decide +kernel

/-- A request on the fabric. -/
def onFabric (who : ReqFor) : MemReq := { spineRead with who := who, place := .fabric, port := 1 }
def sFab (who : ReqFor) : State := { sT l1 (atWork .running) with reqs := [(4, onFabric who)] }

theorem test_fabric_ok : ((after (.fabricResponse 4 (.ok [] true)) (sFab (.gather 0 2))).reqs.get? 4).map (fun r => (r.place, r.poison))
    = some (.ready, true) := by decide +kernel

theorem test_fabric_not_present : (after (.fabricResponse 4 .notPresent) (sFab (.fill 5 1))).faults.map (fun f => (f.page, f.waiters))
    = [(5, [4])] := by decide +kernel

theorem test_fabric_refused : ((after (.fabricResponse 4 .denied) (sFab (.fill 5 1))).slot? 5 1).map (·.unresolved) = some (some 3)
    ∧ ((after (.fabricResponse 4 .noWindow) (sFab (.fill 5 1))).slot? 5 1).map (·.unresolved) = some (some 4) := by decide +kernel

/-- FP1 has been up for 10 ms since the request left. -/
def sLate : State :=
  { sFab (.fill 5 1) with time := { up.time with now := 20000000 }, fports := [(1, { state := 1, upSince := some 10000000 })] }

theorem test_fabric_timeout : (onFabric (.fill 5 1)).upNs + 10000000 ≤ (sLate.fport 1).upTime sLate.time.now
    ∧ ((after (.fabricResponseTimeout 4) sLate).fport 1).timeouts = 1 := by decide +kernel

theorem test_host_write_error : ((sS l1).slot? 5 1) = some l1
    ∧ (((sS l1).queue 5).writes.head?.any fun w => w.isQualityOf 1) = false
    ∧ ((after (.hostWriteErrorAnswer 5 1) (sS l1)).slot? 5 1).map (fun x => (x.state, x.cause)) = some (.ended, 1) := by decide +kernel

theorem test_host_read_error :
    let s := { sFab (.gather 0 2) with reqs := [(4, { onFabric (.gather 0 2) with place := .host })] }
    ((after (.hostReadErrorAnswer 4) s).reqs.get? 4).map (·.poison) = some true := by decide +kernel

theorem test_link_held : let s := { up with fports := [(1, { state := 1, upSince := some 0 })] }
    (s.fport 1).state = 1 ∧ ((after (.linkHeld 1) s).fport 1).heldEvents = 1 := by decide +kernel

theorem test_link_up : let s := { up with fports := [(1, { state := 2, held := [.biDone 1, .biDone 2] })] }
    1 < s.nFports ∧ (s.fport 1).state ≠ 1 ∧ s.portless = [] ∧ (after (.linkUp 1) s).out = [.biDone 2, .biDone 1] := by decide +kernel

theorem test_link_unencrypted : 1 < up.nFports ∧ ((after (.linkUnencrypted 1) up).fport 1).state = 2 := by decide +kernel

theorem test_abort_notice : let s := { sS l1 with parts := [(1, { state := .active, jobGroup := 6, queueFirst := 0, queueCount := 16 })] }
    s.inGroup 6 = [1] ∧ (3 : Nat) ≠ s.fuses.endpoint
      ∧ ((s.errs.lastAborts.filter fun a => a.1 == 6).take 16).contains (6, 3, 0) = false
      ∧ ((after (.abortNoticeReceived 6 3 0) s).slot? 5 1).map (fun x => (x.state, x.status)) = some (.ended, Status.abortedPeer) := by
  decide +kernel

/-! ### Time -/

/-- CT stands at a frame boundary, and P1 has parameters, a layout change and a released reservation pending. -/
def sFrame (e : Slot) : State :=
  { atCt (sT e {}) with
    parts := [(1, { state := .active, queueFirst := 0, queueCount := 16, quads := [0, 1], pendLimit := some 5
                    pendLayout := some { quads := [0], ways := [] }
                    holds := [{ queue := 5, seq := 1, context := 0, cluster := 0, first := 0, last := 9, engine := 0, near := 0, cap := 0, reserve := false,
                                releasing := true }] })] }

theorem test_frame_boundary : let s := sFrame (slotOf 0 [])
    s.time.frameDue = true ∧ ((List.range s.nClusters).any fun c => (s.part 1).losesIn { quads := [0], ways := [] } c && s.placedIn 1 c) = false
      ∧ ((after .frameBoundary s).part 1).promiseLimit = 5 ∧ ((after .frameBoundary s).part 1).holds = []
      ∧ ((after .frameBoundary s).part 1).quads = [0] ∧ ((after .frameBoundary s).part 1).clearQuads = [1] := by decide +kernel

/-- A layout change waits while a launch is placed in the cluster that loses a quad (R288). -/
theorem test_layout_waits : ((after .frameBoundary (sFrame (running true .waiting))).part 1).quads = [0, 1] := by decide +kernel

/-- CT stands 8,000 ns into its frame, and the near tier has 64 MiB. -/
def sBack : State :=
  { sT (slotOf 0 []) { bin := 3 } with
    time := { up.time with ct := 8000, state := .locked }
    boot := { up.boot with scrubF := 4096, nearTierBytes := 2 ^ 26 } }

theorem test_background_slot : 7936 ≤ sBack.time.ct % 8192 ∧ sBack.bg.slotDone ≤ frameOf sBack.time.ct ∧ sBack.boot.scrubF ≠ 0
    ∧ sBack.nearBlocks ≠ 0 ∧ sBack.bg.frames % sBack.boot.scrubF = 0 ∧ (after (.backgroundSlot []) sBack).bg.nearBlock = 1
    ∧ (after (.backgroundSlot []) sBack).out.length = sBack.nPorts := by decide +kernel

theorem test_ageing : 0 < sBack.nCores ∧ (sBack.core 0).bin ≠ 0
    ∧ ((after (.backgroundSlot [(0, true)]) sBack).core 0).binPending = true := by decide +kernel

/-- Cluster 1 is that of port 2; its record queue is 257. -/
theorem test_scrub_corrected :
    ((after (.scrubResult 2 96 (.corrected 7)) sBack).errs.queue 257).records.map (fun r => (r.error, r.address, r.symbol))
      = [(1, 96, 7)] := by decide +kernel

theorem test_scrub_uncorrectable : sBack.errs.namesWord 96 = false ∧ sBack.folioAt 96 = none
    ∧ ((after (.scrubResult 2 96 .uncorrectable) sBack).errs.queue 257).records.map (·.error) = [2, 4] := by decide +kernel

/-- Folio 3 with one page at 0 and its mirror at 64 MiB. -/
def mirrored3 : Folio :=
  { folio3 with slots := [{ version := 1, vstate := .current, mirror := 2, pages := [(0, { addr := 0, mirror := some 67108864 })] }] }
def sMirror : State := { atCt (sF (folioOpen 0 0) mirrored3 false) with reqNo := 4 }

theorem test_scrub_mirror : (sMirror.folioAt 96).isSome = true ∧ sMirror.mirrorAt 96 = some 67108960
    ∧ ((after (.scrubResult 2 96 .uncorrectable) sMirror).reqs.get? 4).map (·.place) = some (.mirror 0) := by decide +kernel

/-- 10 ms of CT have passed, with 350 W at the soft cap's side. -/
def sMs : State := { sT (slotOf 0 []) {} with time := { up.time with ct := 200000000, state := .locked } }

theorem test_ms_boundary : sMs.time.msDone < sMs.time.ct / 1000000
    ∧ (after (.msBoundary 1200 []) { sMs with power := { sMs.power with softCap := 1150 } }).power.overSoft = true := by
  decide +kernel

/-- 7 J over 100 ms are 70 W. -/
theorem test_power_window : sMs.time.windowDone < sMs.time.ct / 100000000
    ∧ ((after (.powerWindowEnd [(1, 7)]) sMs).part 1).watts = 70 := by decide +kernel

/-- The time logic in a state, its last strobe 1,000 ns ago. -/
def sTime (st : TimeState) (good : Nat) : State :=
  { sT (slotOf 0 []) {} with
    time := { up.time with released := true, state := st, ct := 50000, now := 100000, lastStrobe := some 99000, goodRun := good } }

/-- The value 50,100 = 0xC3B4 has an even number of ones in both of its bytes. -/
theorem test_parity : parityOk 50100 0 = true ∧ parityOk 50100 1 = false ∧ parityOk 50432 1 = false ∧ parityOk 52000 3 = true := by
  decide +kernel

theorem test_strobe_parity : (after (.timeStrobe 50100 1) (sTime .locked 20)).time.rejected = 1 := by decide +kernel

theorem test_strobe_unlocked : let s := sTime .unlocked 3
    s.live = true ∧ s.time.overdue = false ∧ (s.time.lastStrobe.any fun l => s.time.now - l < 500) = false
      ∧ (after (.timeStrobe 50100 0) s).time.goodRun = 4 := by decide +kernel

theorem test_strobe_locks : (sTime .unlocked 15).boot.stage ≠ .time
    ∧ (after (.timeStrobe 50100 0) (sTime .unlocked 15)).time.state = .locked
    ∧ (after (.timeStrobe 50100 0) (sTime .unlocked 15)).time.ct = 50100 := by decide +kernel

theorem test_strobe_early : let s := { sTime .locked 20 with time := { (sTime .locked 20).time with lastStrobe := some 99600 } }
    (s.time.lastStrobe.any fun l => s.time.now - l < 500) = true ∧ s.time.overdue = false
      ∧ (after (.timeStrobe 50100 0) s).time.state = .holdover := by decide +kernel

theorem test_strobe_slews : ((sTime .locked 20).time.offset 50100).natAbs ≤ 1000
    ∧ (after (.timeStrobe 50100 0) (sTime .locked 20)).time.slew = 100 := by decide +kernel

theorem test_strobe_steps : 1000 < ((sTime .locked 20).time.offset 52000).natAbs
    ∧ (after (.timeStrobe 52000 3) (sTime .locked 20)).time.state = .stepPending
    ∧ (after (.timeStrobe 52000 3) (sTime .locked 20)).time.delta = 2000
    ∧ ((after (.timeStrobe 52000 3) (sTime .locked 20)).queue 5).stepF = true := by decide +kernel

theorem test_strobe_regains : ((sTime .holdover 15).time.offset 50100).natAbs ≤ 1000
    ∧ (after (.timeStrobe 50100 0) (sTime .holdover 15)).time.state = .locked := by decide +kernel

/-- As `sTime`, 2,000 ns after the last strobe. -/
def sOverdue (st : TimeState) : State := { sTime st 20 with time := { (sTime st 20).time with lastStrobe := some 98000 } }

theorem test_strobe_timeout : (sOverdue .locked).time.overdue = true ∧ (sOverdue .stepPending).time.overdue = true
    ∧ (after .strobeTimeout (sOverdue .locked)).time.state = .holdover
    ∧ (after .strobeTimeout (sOverdue .stepPending)).time.lostInStep = true := by decide +kernel

/-- A step of 9,000 ns was detected in frame 5, and CT has reached frame 6; a promise's deadline is 60,000. -/
def sStep (lost : Bool) : State :=
  { sT { l1 with promise := some { promise0 with deadline := 60000 } } {} with
    time := { up.time with released := true, state := .stepPending, ct := 49152, delta := 9000, stepFrame := 5, lostInStep := lost } }

theorem test_reanchor : let t := after .reanchor (sStep false)
    (sStep false).time.stepFrame < frameOf (sStep false).time.ct ∧ t.time.state = .locked ∧ t.time.ct = 58152
      ∧ ((t.slot? 5 1).bind (·.promise)).map (·.deadline) = some 69000
      ∧ (after .reanchor (sStep true)).time.state = .holdover := by decide +kernel

theorem test_slew_complete :
    (after .slewComplete { sTime .locked 20 with time := { (sTime .locked 20).time with slewing := true } }).time.slewing = false := by
  decide +kernel

/-! ### Errors, resets and revocations -/

/-- A line of cluster 0, clean or dirty. -/
def sLine (d : Bool) : State := { sRed with lines := sRed.lines.map fun (l : Line) => { l with dirty := d } }

theorem test_clean_line : (after (.wordUncorrectable (.cleanLine 0 2 1) 5) (sLine false)).lines = []
    ∧ ((after (.wordUncorrectable (.cleanLine 0 2 1) 5) (sLine false)).errs.queue 256).records.map (·.address) = [160] := by
  decide +kernel

theorem test_dirty_line : (after (.wordUncorrectable (.dirtyLine 0 2 1) 5) (sLine true)).lines.map (fun l => l.words.map isPoison)
    = [[false, true]] := by decide +kernel

/-- Core 0 at work, its tile a replay or not. -/
def sTile (again : Bool) : State :=
  sT { running true (.running 0) with tiles := [(0, { place := .running 0, replayed := again })] } (atWork .running)

theorem test_tile_replayed : (sTile false).abandonable 0 = true
    ∧ (((sTile false).slot? ((sTile false).core 0).queue ((sTile false).core 0).seq).any fun e =>
        (e.tile ((sTile false).core 0).tile).replayed) = false
    ∧ ((after (.wordUncorrectable (.tileState 0) 5) (sTile false)).core 0).replay = true := by decide +kernel

theorem test_tile_fails : (((sTile true).slot? ((sTile true).core 0).queue ((sTile true).core 0).seq).any fun e =>
        (e.tile ((sTile true).core 0).tile).replayed) = true
    ∧ ((after (.wordUncorrectable (.tileState 0) 5) (sTile true)).core 0).failed = true
    ∧ ((after (.wordUncorrectable (.liveInput 0) 5) (sTile false)).core 0).failed = true := by decide +kernel

theorem test_tier_word : let s := sTile false
    s.folioAt (100 / 32 * 32) = none
      ∧ ((after (.wordUncorrectable (.tier 0 100) 5) s).reqs.get? s.reqNo).map (fun r => (r.address, r.write)) = some (96, true) := by
  decide +kernel

theorem test_core_control : ((sTile false).cluster (0 / 16)).quarantined = false
    ∧ ((after (.wordUncorrectable (.coreControl 0) 5) (sTile false)).cluster 0).quarantined = true
    ∧ ((after (.wordUncorrectable (.clusterControl 0) 5) (sTile false)).cluster 0).quarantined = true := by decide +kernel

theorem test_queue_state : ((sTile false).queue 5).state = .active ∧ (sTile false).handling (.queue 5) = false
    ∧ (after (.wordUncorrectable (.queueState 5) 5) (sTile false)).errs.handlingQ = [5] := by decide +kernel

theorem test_partition_state : ((after (.wordUncorrectable (.partitionState 1) 5) (sTile false)).part 1).state = .resetting
    ∧ ((after (.wordUncorrectable (.partitionState 1) 5) (sTile false)).part 1).resetTrigger = 1 := by decide +kernel

theorem test_quarantine : ((after (.clusterQuarantine 0) (sTile false)).core 0).failed = true
    ∧ ((after (.clusterQuarantine 0) (sTile false)).core 0).mode = .abandoning := by decide +kernel

/-- Core 0 is handling an error: its tile is being abandoned for a replay. -/
def sHandling : State := sT (running true (.running 0)) { atWork .abandoning with replay := true }

theorem test_escalated_core : sHandling.handling (.core 0) = true ∧ ((after (.escalated (.core 0)) sHandling).cluster 0).quarantined = true
    ∧ (after (.escalated (.core 0)) sHandling).errs.escalations = 1 := by decide +kernel

/-- P1 is being reset: the fence stands, or it is drained, and its slots are gone. -/
def sReset (step : Nat) : State :=
  { sQ with
    slots := []
    parts := [(1, { state := .resetting, resetStep := step, queueFirst := 0, queueCount := 16, quads := [0], key := some 7 })]
    cores := [(0, { scratch := [(5, 1)] })] }

theorem test_escalated_partition : (sReset 1).live = true ∧ (sReset 1).errs.fatal = false
    ∧ (after (.escalated (.partition 1)) (sReset 1)).errs.fatal = true := by decide +kernel

theorem test_block_fatal : (after (.blockFatal 0) (sReset 1)).out.head? = some (.faultReport "BLOCK_FATAL" 0) := by decide +kernel

theorem test_poison_consumed : let s := sTile false
    (s.core 0).mode = .running ∧ (running true (.running 0)).stagings = []
      ∧ ((after (.poisonConsumed 0 .cache) s).slot? 5 1).map (·.state) = some .ended
      ∧ ((after (.poisonConsumed 0 .cache) s).core 0).mode = .abandoning := by decide +kernel

theorem test_tile_error : ((after (.tileError 0 .pointer) (sTile false)).core 0).failed = true := by decide +kernel

/-- A read for strand 2 of core 0 waits for the mirror of its word 1, word 3 of its page. -/
def sMirrorRead : State :=
  { sTile false with
    reqNo := 9
    reqs := [(4, { gather2 with hint := .stream, folio := some (3, 1, 0), place := .mirror 1
                                words := [encodeWord 1, encodeWord 2 ^^^ 0xFFFFFF] })] }

theorem test_mirror_served : (sMirrorRead.mirrorReq 0 3 0 3).map (fun x => (x.1, x.2.2)) = some (4, 1)
    ∧ hasData (encodeWord 2) = true ∧ readWord (encodeWord 2) = .clean ∧ firstBad [encodeWord 1, encodeWord 2] = none
    ∧ ((after (.mirrorServed 0 3 0 3 (encodeWord 2) (encodeWord 2)) sMirrorRead).reqs.get? 4).map (·.place) = some .ready := by
  decide +kernel

/-- Record queue 256 holds one record. -/
def sRecord : State := { up with errs := { up.errs with queues := [(256, { records := [{ error := 2, recordSeq := 1 }], lost := 6 })] } }

theorem test_err_pop : (sRecord.errs.queue 256).records = [{ error := 2, recordSeq := 1 }]
    ∧ ((after (.errPop 256 1) sRecord).errs.queue 256).records = [] ∧ (after (.errPop 256 1) sRecord).errs.log.map (·.error) = [2] := by
  decide +kernel

theorem test_err_qstat : readsHigh .high = true ∧ readsHigh .low = false
    ∧ ((after (.errQstatRead 256 .high) sRecord).errs.queue 256).lost = 0
    ∧ (after (.errQstatRead 256 .high) sRecord).out.head? = some (.icValue 6) := by decide +kernel

/-- A fifth record is lost, and one more corrected word of the same address is counted by the record before it. -/
theorem test_records : let r : ErrRecord := { error := 1, domain := 3, level := 1, address := 96 }
    let e : Errors := { queues := [(256, { records := [{}, {}, {}, r] })] }
    ((e.store 256 { r with address := 32 }).queue 256).lost = 1 ∧ ((e.store 256 r).queue 256).records.map (·.count) = [1, 1, 1, 2]
      ∧ ((up.errs.store 256 r).queue 256).records.length = 1 := by decide +kernel

theorem test_reset_start : ((sTile false).part 1).state = .active
    ∧ ((after (.partitionResetStart 1 .management) (sTile false)).part 1).state = .resetting
    ∧ ((after (.partitionResetStart 1 .management) (sTile false)).queue 5).state = .draining := by decide +kernel

theorem test_reset_drained : (sReset 1).drained 1 = true
    ∧ ((after (.partitionResetDrainDone 1) (sReset 1)).part 1).resetStep = 2 := by decide +kernel

theorem test_reset_end : (sReset 2).drained 1 = true ∧ ((sReset 2).part 1).key.isSome = true ∧ ((sReset 2).part 1).replyTo = []
    ∧ ((after (.partitionResetEnd 1) (sReset 2)).part 1).state = .active
    ∧ ((after (.partitionResetEnd 1) (sReset 2)).core 0).scratch = [] := by decide +kernel

theorem test_layout_cleared : let s := { sReset 0 with parts := [(1, { state := .active, clearQuads := [0] })] }
    ((after (.layoutClearingDone 1) s).part 1).clearQuads = [] ∧ ((after (.layoutClearingDone 1) s).core 0).scratch = [] := by
  decide +kernel

theorem test_destroyed : let s := { sReset 0 with parts := [(1, { state := .destroying, resetStep := 2, quads := [0] })], queues := [] }
    s.dismantled 1 = true ∧ ((after (.layoutClearingDone 1) s).part 1).state = .free := by decide +kernel

theorem test_parts_sorted : Tbl.Sorted (sReset 0).parts := by unfold Tbl.Sorted; decide +kernel

/-- Extent 4 in a state of its revocation, which takes P1's rights or every right. -/
def sRevoke (st : EState) (whole : Bool) : State :=
  { sReset 0 with
    slots := []
    extents := [(4, { base := 0, granules := 4, mcGroup := 0, keyPartition := 1, eflags := 0, rMask := 6, wMask := 2, pubMask := 0
                      grant := 99, state := st, losing := 2, whole := whole, fenceNs := 0 })]
    lines := sRed.lines, seqs := [(0, { seq77 with partition := 1, kvBase := 0, kvBytes := 64 })] }

theorem test_drain_bound : (sRevoke .fenced true).slots = [] ∧ 0 + 50000 ≤ (sRevoke .fenced true).time.now
    ∧ ((after (.revocationDrainBound 4) (sRevoke .fenced true)).extents.get? 4).map (·.state) = some .invalidating
    ∧ ((after (.revocationDrainBound 4) (sRevoke .fenced true)).seqs.get? 0).map (·.state) = some 4 := by decide +kernel

theorem test_invalidated : ((after (.revocationInvalidated 4) (sRevoke .invalidating true)).extents.get? 4).map (·.state) = some .zeroing
    ∧ (after (.revocationInvalidated 4) (sRevoke .invalidating true)).lines = []
    ∧ ((after (.revocationInvalidated 4) (sRevoke .invalidating false)).extents.get? 4).map (fun x => (x.state, x.rMask))
      = some (.granted, 4) := by decide +kernel

theorem test_zeroed : (after (.zeroingDone 4) (sRevoke .zeroing true)).extents = []
    ∧ (after (.zeroingDone 4) (sRevoke .zeroing true)).out.head? = some (.extentReleased 99) := by decide +kernel

theorem test_extents_sorted : Tbl.Sorted (sRevoke .zeroing true).extents := by unfold Tbl.Sorted; decide +kernel

/-! ### The mailbox -/

/-- A message of opcode `op` without a capability. -/
def msg (op p object : Nat) (attrs : List Attr := []) (queue : Nat := 0xFFFF) (context : Nat := 0xFF) : Message :=
  { opcode := op, notify := 0, token := 0, notifyVector := 0, capZero := true, cap := parseCap [], capBytes := []
    partition := p, context := context, queue := queue, object := object, attrs := attrs, data := [] }

/-- Attribute `id` with INDEX `i` and an 8-byte value. -/
def attr8 (id i v : Nat) : Attr := { id := id, index := i, value := toLe 8 v }

/-- `s` with channel 2 serving a message that passed its check. -/
def serving (s : State) (m : Message) : State :=
  { s with mail := { s.mail with chans := [(2, { state := .serving, serve := .allowed, opcode := m.opcode, message := some m
                                                 bobbin := some 1, pagesM1 := 15 })] } }

/-- What channel 2 replies after command `c` serves the message: the DETAIL and the body. -/
def replies (c : Instr) (s : State) (m : Message) : Nat × Bytes :=
  let t := after c (serving s m)
  (if (t.chan 2).serve = .replying then (t.chan 2).header.detail else 0xFF, (t.chan 2).body)

/-- Channel 2 as given. -/
def sChan (c : Channel) : State := { sQ with slots := [], mail := { up.mail with chans := [(2, c)] } }

theorem test_notice : up.groupOn 2 = true ∧ (up.chan 2).state = .idle ∧ up.boot.stage ≠ .failed
    ∧ ((after (.scMbNotice (.host false) 2 0x7010) up).chan 2).address = 0x7000
    ∧ ((after (.scMbNotice (.host false) 2 0x7010) up).chan 2).opcode = 0x10 := by decide +kernel

theorem test_notice_refused : (after (.scMbNotice (.host false) 2 0x7010) (sChan { state := .pending })).mail.refused = 1 := by
  decide +kernel

/-- PARTITION_RESET (class 1) is taken before TELEMETRY_READ (class 5). -/
theorem test_take : let s := { up with mail := { up.mail with chans :=
        [(2, { state := .pending, opcode := 0x60 }), (3, { state := .pending, opcode := 0x10, acceptNo := 1 })] } }
    s.boot.mailboxOn = true ∧ s.bobbinFree 0 = true ∧ s.ic.asleep = false ∧ (firstTaken (s.takeable 0)).map (·.1) = some 3
      ∧ ((after (.noticeTake 0) s).chan 3).serve = .reading := by decide +kernel

/-- The 144 bytes of a POWER_READ: VERSION 1, BYTES 144, no targets. -/
def powerRead : Bytes :=
  [0x62, 1, 0, 0] ++ toLe 4 144 ++ zeros 120 ++ [0xFF, 0xFF, 0xFF, 0xFF] ++ zeros 12

theorem test_message : let s := sChan { state := .serving, serve := .reading, opcode := 0x62 }
    opcodeKnown 0x62 = true ∧ (match parseMessage 0x62 0 powerRead with | .ok m => m.targetsInRange | .error _ => false) = true
      ∧ ((after (.messageReadDone 2 (.data (powerRead.set 24 1))) s).chan 2).serve = .read := by decide +kernel

theorem test_message_refused : let s := sChan { state := .serving, serve := .reading, opcode := 0x63 }
    opcodeKnown 0x63 = false ∧ ((after (.messageReadDone 2 (.data [])) s).chan 2).header.detail = Detail.opcode
      ∧ ((after (.messageReadDone 2 .failed) s).chan 2).header.detail = Detail.unreadable := by decide +kernel

theorem test_busy : let s := { sChan { state := .pending, opcode := 0x50 } with mail := { up.mail with
        level := 2, chans := [(2, { state := .pending, opcode := 0x50 })] } }
    opcodeClass 0x50 = 4 ∧ ((after (.busyAnswer 2) s).chan 2).busyRetry = some 0 := by decide +kernel

theorem test_reply_posted : let s := sChan { state := .serving, serve := .replying, body := [1, 2], serial := 5 }
    ((after (.replyPosted 2 true) s).chan 2).replyBytes = 66 ∧ ((after (.replyPosted 2 false) s).chan 2).replyLost = true
      ∧ ((after (.replyPosted 2 true) s).chan 2).replySerial = 5 := by decide +kernel

theorem test_ack : ((after (.scMbAck (.host false) 2 1) (sChan { state := .replied })).chan 2).state = .idle
    ∧ identOf (.host false) = (({ state := .replied } : Channel)).origin := by decide +kernel

theorem test_hold : let s := { sChan { state := .replied } with time := { up.time with now := 100000000 } }
    ((after (.replyHoldExpiry 2) s).chan 2).state = .idle := by decide +kernel

/-- A capability whose tag is wrong meets gate 1 (R305, R341): without a capability key none is right. -/
theorem test_capability : let s := { serving up (msg 0x62 0xFF 0) with mail := { up.mail with chans :=
        [(2, { state := .serving, serve := .read, message := some (msg 0x62 0xFF 0) })] } }
    s.gateOf (msg 0x62 0xFF 0) (s.chan 2).origin = 1 ∧ ((after (.capabilityCheck 2) s).chan 2).header.gate = 1 := by decide +kernel

theorem test_capability_expiry : let s := { sBack with sec := { up.sec with uses := [(3, { used := 1, notAfter := 7000 })] } }
    7000 < s.ctNow ∧ (after (.capabilityExpiry 3) s).sec.uses = [] := by decide +kernel

/-! ### Class 1 -/

theorem test_partition_reset : (serving (sTile false) (msg 0x10 1 0)).Serving 2 0x10 (msg 0x10 1 0)
    ∧ ((after (.partitionReset 2) (serving (sTile false) (msg 0x10 1 0))).part 1).replyTo = [2] := by decide +kernel

theorem test_partition_not_found : replies (.partitionReset 2) (sTile false) (msg 0x10 9 0) = (Detail.notFound, []) := by
  decide +kernel

/-- P1 with an idle queue 5 of context 0. -/
def sIdle : State :=
  { sQ with
    slots := [], parts := [(1, { state := .active, queueFirst := 0, queueCount := 16, quads := [0] })]
    ctxs := [(ctxKey 1 0, hostCtx)]
    queues := [(5, { q5 with attrs := { ringLog2 := 6, maxInflight := 4, dbRate := 32 } })] }

theorem test_queue_reset : let m := msg 0x11 1 0 [attr8 0x29 0 16] 5
    (sIdle.queue 5).state ≠ .draining ∧ (sIdle.slots.any fun e => e.queue == 5) = false
      ∧ m.refusal (inOrder ([sIdle.partMissing 1, sIdle.queueMissing 1 5, sIdle.partNotActive 1,
            ⟨(sIdle.queue 5).state == .draining && (sIdle.queue 5).drainKind == 3, Detail.state, none⟩]
          ++ sIdle.queueChecks 1 5 (m.queueAttrs ((sIdle.queue 5).newAttrs.getD (sIdle.queue 5).attrs)) m)) = none
      ∧ replies (.queueReset 2) sIdle m = (Detail.none, [3])
      ∧ ((after (.queueReset 2) (serving sIdle m)).queue 5).attrs.dbRate = 16 := by decide +kernel

theorem test_queue_stop : (sIdle.queue 5).state = .active ∧ (sIdle.queue 5).partition = 1
    ∧ ((after (.queueStop 2) (serving sIdle (msg 0x12 1 0 [] 5))).queue 5).state = .stopped := by decide +kernel

theorem test_queue_resume : let s := { sIdle with queues := [(5, { q5 with state := .stopped, mgmtStop := true })] }
    (s.part 1).mgmtStop = false ∧ ((after (.queueStopResume 2) (serving s (msg 0x12 1 1 [] 5))).queue 5).state = .active := by
  decide +kernel

theorem test_error_log : (replies (.errorLogRead 2) sRecord (msg 0x13 0xFF 0)).1 = Detail.none
    ∧ ((replies (.errorLogRead 2) sRecord (msg 0x13 0xFF 0)).2.take 4) = toLe 4 1 := by decide +kernel

/-- Folio 3's page at 0 has an entry for its word 5, and the version a readable source. -/
def sRepair : State :=
  { atCt (sF (folioOpen 0 0) { folio3 with slots := [{ version := 1, vstate := .current, sourceValid := true, quarantined := true
                                                       pages := [(0, { addr := 0 })] }] } false) with
    errs := { up.errs with quarantine := [{ folio := 3, page := 0, words := [5], whole := false }] } }

theorem test_folio_repair : let m := msg 0x14 0xFF (mkFolioHandle 3 1 0) [attr8 0x43 0 1]
    ((sRepair.namedFolio m.object).bind fun x => (x.2.resolve 1).map fun v => sRepair.repairs x.1 v) = some [(0, 5)]
      ∧ replies (.folioRepair 2 [encodeWord 9] [encodeWord 9]) sRepair m = (Detail.none, [1, 0, 0, 0])
      ∧ (after (.folioRepair 2 [encodeWord 9] [encodeWord 9]) (serving sRepair m)).errs.quarantine = [] := by decide +kernel

/-! ### Class 2 -/

theorem test_spdm_message : (serving sIdle (msg 0x20 0xFF 0)).Serving 2 0x20 (msg 0x20 0xFF 0) := by decide +kernel

theorem test_attest : let s := { sIdle with sec := { up.sec with aliasKey := some 7 } }
    s.signKey none = some 7 ∧ (serving s (msg 0x21 0xFF 0)).replyFits 2 4576 = true := by decide +kernel

theorem test_key_zeroise : ((after (.keyZeroise 2) (serving sIdle (msg 0x22 1 0))).part 1).keyGone = true
    ∧ ((after (.keyZeroise 2) (serving sIdle (msg 0x22 1 0))).part 1).state = .resetting := by decide +kernel

theorem test_slot_retire : sIdle.fuses.activeSlot = some 0
    ∧ (after (.slotRetireCommand 2) (serving sIdle (msg 0x23 0xFF 0))).sec.retiring = some 0 := by decide +kernel

theorem test_signer_revoke : (2 : Nat) ≠ sIdle.boot.signer
    ∧ (after (.signerRevoke 2) (serving sIdle (msg 0x24 0xFF 2))).fuses.signersRevoked = 4 := by decide +kernel

theorem test_rollback : let s := { sIdle with boot := { up.boot with fwSvn := 9 } }
    replies (.rollbackAdvance 2) s (msg 0x25 0xFF 7) = (Detail.none, [7])
      ∧ replies (.rollbackAdvance 2) s (msg 0x25 0xFF 10) = (Detail.range, []) := by decide +kernel

theorem test_fw_reboot : replies (.fwReboot 2) sIdle (msg 0x26 0xFF 0) = (Detail.none, [])
    ∧ (after (.replyPosted 2 true) { after (.fwReboot 2) (serving sIdle (msg 0x26 0xFF 0)) with pins := { up.pins with coolantOk := true } }).boot.stage
      = .rom := by decide +kernel

theorem test_requester : (msg 0x27 0xFF 0x80000005).identityBad = false
    ∧ replies (.requesterSet 2) sIdle (msg 0x27 0xFF 0x80000005) = (Detail.none, [2])
    ∧ (after (.requesterSetRemove 2) (serving sIdle (msg 0x27 0xFF 0x100000000))).sec.requesters = [] := by decide +kernel

theorem test_owner : replies (.ownerSet 2) sIdle (msg 0x28 0xFF 0 [{ id := 0x51, index := 0, value := toLe 64 9 }]) = (Detail.none, [0])
    ∧ (after (.ownerSet 2) (serving sIdle (msg 0x28 0xFF 0 [{ id := 0x51, index := 0, value := toLe 64 9 }]))).fuses.ownerBanks = [9] := by
  decide +kernel

/-! ### Class 3 -/

/-- P2 on quad 1 with two ways of cluster 0, and queues 32 to 47. -/
def create2 : Message :=
  msg 0x30 2 0 [attr8 1 0 0, attr8 2 0 2, attr8 3 0 0x200, attr8 4 0 (32 + 16 * 65536)]

theorem test_create : create2.refusal (inOrder (⟨kindBad 2 create2.kind, Detail.range, some (0x01, 0)⟩ ::
      (sIdle.layoutChecks 2 (create2.quadsOr []) (create2.waysOver []) create2 ++ [sIdle.rangeCheck 2 (create2.rangeOr (0, 0))]
        ++ sIdle.paramChecks 2 create2.kind create2 ++ sIdle.regulatorChecks 2 (create2.quadsOr []) create2
        ++ [⟨(sIdle.part 2).state != .free, Detail.state, none⟩]))) = none
    ∧ ((after (.partitionCreate 2) (serving sIdle create2)).part 2).quads = [1]
    ∧ ((after (.partitionCreate 2) (serving sIdle create2)).part 2).queueCount = 16 := by decide +kernel

/-- A quad that P1 holds is refused with RANGE (R286). -/
theorem test_create_taken : (replies (.partitionCreate 2) sIdle
    (msg 0x30 2 0 [attr8 1 0 0, attr8 2 0 1, attr8 3 0 0x200, attr8 4 0 (32 + 16 * 65536)])).1 = Detail.range := by decide +kernel

theorem test_destroy : ((after (.partitionDestroy 2) (serving sIdle (msg 0x31 1 0))).part 1).state = .destroying := by decide +kernel

theorem test_layout_change : let m := msg 0x32 1 0 [attr8 2 0 3, attr8 3 0 0x400]
    let l := m.newLayout (sIdle.part 1)
    m.relays = true ∧ ((sIdle.layoutChecks 1 l.quads l.ways m).all fun c => !c.bad) = true ∧ (sIdle.part 1).sharesOutside l.quads = false
      ∧ m.has 0x04 = false ∧ (sIdle.rangeCheck 1 (0, 16)).bad = false ∧ sIdle.removalBlocked 1 l = false ∧ sIdle.queueOutside 1 (0, 16) = false
      ∧ ((after (.layoutChange 2) (serving sIdle m)).part 1).pendLayout = some { quads := [0, 1], ways := [(0, { first := 0, ways := 4 })] } := by
  decide +kernel

theorem test_partition_set : let m := msg 0x33 1 0 [attr8 5 0 9, attr8 8 0 100]
    m.refusal (inOrder ([sIdle.partMissing 1, sIdle.partNotActive 1] ++ sIdle.paramChecks 1 (sIdle.part 1).kind m)) = none
      ∧ ((after (.partitionSet 2) (serving sIdle m)).part 1).pendLimit = some 9
      ∧ ((after (.partitionSet 2) (serving sIdle m)).part 1).seqLimit = 100 := by decide +kernel

/-- SHARE 256, CEILING 512 and BURST 16 on port 1's near tier. -/
theorem test_regulator_set : let m := msg 0x34 1 0 [attr8 0x0B 2 (256 + 512 * 65536 + 16 * 2 ^ 32)]
    m.refusal (inOrder ([sIdle.partMissing 1, sIdle.partNotActive 1] ++ sIdle.regulatorChecks 1 (sIdle.part 1).lastingQuads m)) = none
      ∧ (((after (.regulatorSet 2) (serving sIdle m)).part 1).regs.getD 2 {}).pendCeiling = some 512 := by decide +kernel

theorem test_context_create : let m := msg 0x35 1 0 [attr8 0x10 0 0, attr8 0x11 0 7, attr8 0x12 0 1] 0xFFFF 3
    m.refusal (inOrder (sIdle.contextChecks m)) = none
      ∧ ((after (.contextCreate 2) (serving sIdle m)).ctx? (ctxKey 1 3)).map (·.pasid) = some 7 := by decide +kernel

theorem test_context_delete : let s := { sIdle with queues := [] }
    ((s.queuesOf 1).any fun q => (s.queue q).attrs.context == 0) = false
      ∧ (after (.contextDelete 2) (serving s (msg 0x36 1 0 [] 0xFFFF 0))).ctxs = [] := by decide +kernel

theorem test_ctxs_sorted : Tbl.Sorted sIdle.ctxs ∧ Tbl.Sorted sIdle.inbound := by unfold Tbl.Sorted; decide +kernel

theorem test_context_set : let m := msg 0x37 1 0 [attr8 0x12 0 9] 0xFFFF 0
    m.refusal (inOrder ([sIdle.partMissing 1, sIdle.contextMissing m, sIdle.partNotActive 1,
        ⟨m.outside 0x12 0 65535 || ((sIdle.part 1).kind == 1 && m.numOr 0x12 1 != 1), Detail.range, some (0x12, 0)⟩]
      ++ sIdle.windowChecks ((sIdle.ctx? (ctxKey 1 0)).any (·.fabric)) m)) = none
      ∧ ((after (.contextSet 2) (serving sIdle m)).ctx? (ctxKey 1 0)).map (·.pendShare) = some (some 9) := by decide +kernel

theorem test_queue_create : let m := msg 0x38 1 0 [attr8 0x22 0 4096, attr8 0x23 0 6, attr8 0x28 0 4, attr8 0x29 0 8] 6
    m.refusal (inOrder ([sIdle.partMissing 1, sIdle.partNotActive 1,
        ⟨6 < (sIdle.part 1).queueFirst || (sIdle.part 1).queueFirst + (sIdle.part 1).queueCount ≤ 6, Detail.range, none⟩,
        ⟨(sIdle.queue 6).state != .disabled, Detail.state, none⟩] ++ sIdle.queueChecks 1 6 (m.queueAttrs {}) m)) = none
      ∧ ((after (.queueCreate 2) (serving sIdle m)).queue 6).state = .active
      ∧ ((after (.queueCreate 2) (serving sIdle m)).queue 6).attrs.ringBase = 4096 := by decide +kernel

theorem test_queue_delete : replies (.queueDelete 2) sIdle (msg 0x39 1 0 [] 5) = (Detail.none, [])
    ∧ ((after (.queueDelete 2) (serving sIdle (msg 0x39 1 0 [] 5))).queue 5).state = .disabled := by decide +kernel

/-- A pool window on 4 KiB of extent 4, for reads of endpoint 7. -/
def inValue : Bytes := toLe 4 11 ++ [1, 0, 0, 0] ++ zeros 8 ++ zeros 8 ++ toLe 8 4096 ++ toLe 4 7 ++ zeros 28

theorem test_inbound_window : let s := { sIdle with extents := (sRevoke .granted true).extents }
    let m := msg 0x3D 1 6 [{ id := 0x32, index := 0, value := inValue }]
    allZero inValue = false ∧ (inWindow 1 inValue).folio = false ∧ s.inbound.get? 6 = none
      ∧ ((s.inWindowChecks (inWindow 1 inValue) inValue).all fun c => !c.bad) = true
      ∧ ((after (.inboundWindowSet 2) (serving s m)).inbound.get? 6).map (fun w => (w.ident, w.length, w.read, w.write, w.endpoints))
        = some (11, 4096, true, false, [7]) := by decide +kernel

theorem test_power_cap : (after (.powerCapSet 2) (serving sIdle (msg 0x3E 0xFF 0 [attr8 0x52 0 400]))).power.pendCap = some 400
    ∧ (replies (.powerCapSet 2) sIdle (msg 0x3E 0xFF 0 [attr8 0x52 0 1151])).1 = Detail.range := by decide +kernel

theorem test_group_power : replies (.mbGroupPower 2) sIdle (msg 0x3F 0xFF 6) = (Detail.none, [7]) := by decide +kernel

/-! ### Extents -/

/-- Two granules from 64 MiB for P1, with key partition 1, R and W, and grant 77. -/
def grantValue : Bytes :=
  toLe 8 67108864 ++ toLe 4 2 ++ zeros 2 ++ [1, 0] ++ toLe 8 2 ++ toLe 8 2 ++ toLe 8 0 ++ toLe 8 77 ++ zeros 16
def grant2 : Message := msg 0x3A 0xFF 0 [{ id := 0x30, index := 0, value := grantValue }]

theorem test_grant : grant2.refusal (sIdle.grantChecks grant2) = none
    ∧ (after (.extentGrant 2) (serving sIdle grant2)).out.head? = some (.extentCheck 77 67108864 2) := by decide +kernel

/-- The grant waits for its check since 1,000 ns. -/
def sCheck : State := { sIdle with mail := { up.mail with chans :=
  [(2, { state := .serving, serve := .waiting, opcode := 0x3A, message := some grant2, checkAt := some 1000 })] } }

theorem test_grant_confirmed : sCheck.time.now ≤ 1000 + 1000000 ∧ sCheck.freeExtent = some 0
    ∧ ((after (.extentCheckAnswer 2 true 3) sCheck).extents.get? 0).map (fun x => (x.base, x.granules, x.mcGroup, x.grant))
      = some (67108864, 2, 3, 77)
    ∧ ((after (.extentCheckAnswer 2 false 3) sCheck).chan 2).header.detail = Detail.range := by decide +kernel

theorem test_grant_timeout : let s := { sCheck with time := { up.time with now := 2000000 } }
    ((after (.extentCheckTimeout 2) s).chan 2).header.detail = Detail.range := by decide +kernel

/-- Extent 4 granted, and P1 ACTIVE. -/
def sGranted : State := { sRevoke .granted true with parts := sIdle.parts }

theorem test_rights : let m := msg 0x3B 0xFF 4 [{ id := 0x31, index := 0, value := toLe 8 0 ++ toLe 8 0 ++ toLe 8 0 ++ zeros 8 }]
    let x := (sGranted.extents.get? 4).map fun x => x.withRights ((m.attr? 0x31 0).getD [])
    x.map (·.mixesRights) = some false ∧ ((after (.extentRights 2) (serving { sGranted with parts := sIdle.parts ++ [(2, { state := .active })] } m)).chan 2).header.detail
      = Detail.none := by decide +kernel

theorem test_revoke : ((after (.extentRevoke 2) (serving sGranted (msg 0x3C 0xFF 4))).extents.get? 4).map (fun x => (x.state, x.replyTo))
    = some (.fenced, [2]) := by decide +kernel

/-- KEY_PARTITION keeps its rights while P2 has one (R258). -/
theorem test_revoke_key : ((sGranted.extents.get? 4).map fun x => x.keepsKey (some 1)) = some true
    ∧ (replies (.extentRevoke 2) sGranted (msg 0x3C 1 4)).1 = Detail.state := by decide +kernel

theorem test_revoke_asked : ((sGranted.extents.filter fun e => e.2.grant == 99 && !e.2.keepsKey none).map (·.1)) = [4]
    ∧ ((after (.extentRevokeReq 99 none) sGranted).extents.get? 4).map (·.state) = some .fenced := by decide +kernel

theorem test_near_tier : let s := { up with boot := { up.boot with stage := .training } }
    s.boot.stage.code ≤ 4 ∧ (after (.nearTierReport 4096) s).boot.nearTierBytes = 4096 := by decide +kernel

/-! ### Classes 4 and 5 -/

theorem test_graph_register : let s := { sIdle with extents := [(0, { base := 0, granules := 4, keyPartition := 1, eflags := 2 })] }
    s.imageAddrBad 1 64 (imageBytesOf []) = false ∧ s.freeGraph = some 0
      ∧ (replies (.graphRegister 2 [] true) s (msg 0x50 1 0 [attr8 0x40 0 64])).1 = Detail.image := by decide +kernel

/-- Graph 0 of P1 with one version. -/
def sGraph : State :=
  { sIdle with
    extents := [(0, { base := 0, granules := 4, keyPartition := 1, eflags := 2 })]
    graphs := [(0, { owner := 1, registered := true, current := 1, versions := [{ number := 1, image := graph0, address := 64 }] })] }

theorem test_graph_patch : (sGraph.graphOf (mkGraphHandle 0 1 0)).map (fun x => (x.1, x.2.versions.length)) = some (0, 1)
    ∧ (replies (.graphPatch 2 [] true) sGraph (msg 0x51 0xFF (mkGraphHandle 0 1 0) [attr8 0x40 0 64])).1 = Detail.image := by
  decide +kernel

theorem test_graph_unregister : ((after (.graphUnregister 2) (serving sGraph (msg 0x52 0xFF (mkGraphHandle 0 1 0)))).graphs.get? 0).map
    (·.registered) = some false := by decide +kernel

/-- A folio of two pages that P1 and P2 may read. -/
def folioDef : Bytes := toLe 8 (2 * pageBytes) ++ toLe 8 6 ++ toLe 8 2 ++ zeros 8

theorem test_folio_register : let m := msg 0x53 1 0 [{ id := 0x41, index := 0, value := toLe 32 5 }, { id := 0x42, index := 0, value := folioDef }]
    lengthBad (le folioDef 0 8) = false ∧ sIdle.folioNamed (toLe 32 5) = none ∧ sIdle.freeFolio = some 0
      ∧ ((after (.folioRegister 2) (serving sIdle m)).folios.get? 0).map (fun f => (f.owner, f.length)) = some (1, 2 * pageBytes) := by
  decide +kernel

theorem test_folio_set : let m := msg 0x54 0xFF (mkFolioHandle 3 1 0) [{ id := 0x42, index := 0, value := folioDef }]
    (sRepair.namedFolio m.object).map (·.1) = some 3 ∧ (defReaders folioDef).getLsbD 1 = true ∧ (defPublishers folioDef).getLsbD 1 = true
      ∧ ((after (.folioSet 2) (serving sRepair m)).folios.get? 3).map (·.readers) = some 6 := by decide +kernel

theorem test_folio_lookup : let f := { folio3 with name := toLe 32 5, readers := 2 }
    let s := sF (folioOpen 0 0) f false
    s.folioNamed (toLe 32 5) = some (3, f) ∧ (s.part 1).state ≠ .free
      ∧ (replies (.folioLookup 2) s (msg 0x55 1 0 [{ id := 0x41, index := 0, value := toLe 32 5 }])).1 = Detail.none := by decide +kernel

theorem test_folio_unregister : ((after (.folioUnregister 2) (serving sRepair (msg 0x56 0xFF (mkFolioHandle 3 1 0)))).folios.get? 3).map
    (·.registered) = some false := by decide +kernel

/-- As `msg`, with a capability. -/
def gated (m : Message) : Message := { m with capZero := false }

theorem test_telemetry : (serving sIdle (gated (msg 0x60 0xFF 0))).replyFits 2 (sIdle.telemetryBody 0xFF true).length = true
    ∧ (replies (.telemetryRead 2) sIdle (gated (msg 0x60 0xFF 0))).1 = Detail.none := by decide +kernel

theorem test_telemetry_too_long : let s := { sIdle with mail := { up.mail with sample :=
        { records := (List.range 64).map fun p => (p, {}) } } }
    let t := { serving s (gated (msg 0x60 0xFF 0)) with mail := { s.mail with chans :=
        [(2, { state := .serving, serve := .allowed, message := some (gated (msg 0x60 0xFF 0)) })] } }
    t.replyFits 2 (t.telemetryBody 0xFF true).length = false ∧ ((after (.telemetryRead 2) t).chan 2).header.detail = Detail.limit := by
  decide +kernel

theorem test_snapshot_extent : let s := { sIdle with extents := [(0, { base := 0, granules := 4, eflags := 1 })] }
    (s.snapshotExtent (gated (msg 0x61 0xFF 0 [attr8 0x53 0 4096]))).isSome = true := by decide +kernel

theorem test_power_read : (serving sIdle (msg 0x62 0xFF 0)).replyFits 2 1312 = true
    ∧ (replies (.powerRead 2) sIdle (msg 0x62 0xFF 0)).2.length = 1312 := by decide +kernel

theorem test_sample : let s := { up with time := { up.time with now := 20000000 } }
    s.mail.sample.takenNs + s.sampleEvery ≤ s.time.now ∧ (after .firmwareTelemetrySample s).mail.sample.takenNs = 20000000 := by
  decide +kernel

/-! ### Alarms, conversations and device interfaces -/

/-- P1 holds quad 0, a memory key and an identity key. -/
def sKeys : State :=
  { sIdle with parts := [(1, { state := .active, queueFirst := 0, queueCount := 16, quads := [0], key := some 5, identity := some 6 })] }

theorem test_tamper : sKeys.boot.outOfReset = true ∧ sKeys.boot.stopped ≠ .classA
    ∧ (after (.scTamperN 200) sKeys).boot.stopped = .classA ∧ ((after (.scTamperN 200) sKeys).part 1).key = none
    ∧ (after (.scTamperN 199) sKeys).pins.glitches = 1 := by decide +kernel

theorem test_debug_unlock : sKeys.fuses.debugLocked = true ∧ (after .debugUnlockAttempt sKeys).boot.stopped = .classA
    ∧ (after .debugUnlockAttempt { sKeys with fuses := { sKeys.fuses with debugLocked := false } }).sec.debugEnabled = true := by
  decide +kernel

theorem test_domain_glitch : (after .thimbleDomainGlitch sKeys).out.head? = some (.faultReport "CLASS_A" 0) := by decide +kernel

theorem test_class_b : sKeys.struck false 0 = [1]
    ∧ (sKeys.sec.classBAt.filter fun t => sKeys.time.now ≤ t + 1000000000).length < 2
    ∧ ((after (.classBGlitch false 0) sKeys).part 1).key = none ∧ ((after (.classBGlitch false 0) sKeys).part 1).state = .resetting := by
  decide +kernel

/-- The third class B alarm in a second (R321). -/
theorem test_class_b_third : let s := { sKeys with sec := { sKeys.sec with classBAt := [90000, 80000] } }
    2 ≤ (s.sec.classBAt.filter fun t => s.time.now ≤ t + 1000000000).length
      ∧ (after (.classBGlitch false 0) s).boot.stopped = .classA := by decide +kernel

theorem test_retire_fuse : let s := { stopped with sec := { up.sec with retiring := some 0 } }
    s.live = false ∧ (after .retireFuseBlown s).fuses.retired = 1 := by decide +kernel

theorem test_retire_replied : let s := { sChan { state := .serving, serve := .waiting, opcode := 0x23 } with
        sec := { up.sec with retiring := some 0, retireReply := some 2 } }
    ((after .retireFuseBlown s).chan 2).body = [1] := by decide +kernel

theorem test_key_renewed : let s := { sReset 2 with parts := [(1, { state := .resetting, keyGone := true })] }
    (s.part 1).key = none ∧ ((after (.partitionKeyRenewed 1) s).part 1).keyCount = 1
      ∧ (after (.partitionKeyRenewed 1) s).sec.creationCount = 2 := by decide +kernel

theorem test_certificate_issued : (sKeys.part 1).identity.isSome = true
    ∧ ((after (.partitionCertificateIssued 1) sKeys).part 1).certIssued = true := by decide +kernel

/-- Conversation 7 as given. -/
def sTalk (x : Session) : State :=
  { sKeys with sec := { up.sec with sessions := [(7, x)], deviceKey := some 3, aliasKey := some 4 } }

def fresh7 : Session := { requester := 0 }
def negotiated7 : Session := { fresh7 with versioned := true, capable := true, negotiated := true }
def session7 : Session := { negotiated7 with exchanged := true, established := true }

theorem test_version : (sTalk fresh7).Talking 7 fresh7
    ∧ ((after (.getVersion 7) (sTalk fresh7)).sec.sessions.get? 7).map (·.versioned) = some true
    ∧ (after (.getVersion 7) (sTalk session7)).out.head? = some (.spdm 7 "ERROR" []) := by decide +kernel

theorem test_capabilities : ((after (.getCapabilities 7) (sTalk { fresh7 with versioned := true })).sec.sessions.get? 7).map (·.capable)
    = some true := by decide +kernel

theorem test_algorithms : let x := { fresh7 with versioned := true, capable := true }
    ((after (.negotiateAlgorithms 7 true) (sTalk x)).sec.sessions.get? 7).map (·.negotiated) = some true
      ∧ (after (.negotiateAlgorithms 7 false) (sTalk x)).out.head? = some (.spdm 7 "ERROR" []) := by decide +kernel

theorem test_certificates : ((sTalk negotiated7).chain none 0).isSome = true ∧ (sTalk negotiated7).chain none 1 = none
    ∧ ((sTalk negotiated7).slotKey none 0) = some 4
    ∧ (after (.getCertificate 7 1 0 64) (sTalk negotiated7)).out.head? = some (.spdm 7 "ERROR" []) := by decide +kernel

/-- Slot 1 holds the chain of a bound partition, and its key is the partition's (R317). -/
theorem test_slot_one : let s := { sTalk negotiated7 with parts := sKeys.parts.mapV fun _ u => { u with certIssued := true } }
    (s.chain (some 1) 1).isSome = true ∧ s.slotKey (some 1) 1 = some 6 := by decide +kernel

/-- Index 0 counts the nine blocks of an unbound conversation (R318). -/
theorem test_measurements : (after (.getMeasurements 7 0 0 false 0) (sTalk negotiated7)).out.head? = some (.spdm 7 "MEASUREMENTS" [9])
    ∧ ((sTalk negotiated7).measured none 0 6).isSome = true ∧ (sTalk negotiated7).measured none 0 10 = none := by decide +kernel

theorem test_chunks : ((after (.chunkSend 7 1 0 [1, 2] false) (sTalk negotiated7)).sec.sessions.get? 7).map (·.chunks) = some [1, 2]
    ∧ (after (.chunkGet 7 1 0) (sTalk { negotiated7 with large := [1, 2] })).out.head? = some (.spdm 7 "CHUNK_RESPONSE" [1, 2]) := by
  decide +kernel

theorem test_key_exchange : (sTalk negotiated7).sec.openSessions < 72
    ∧ ((after (.keyExchange 7 (.host false) (some 1) true) (sTalk negotiated7)).sec.sessions.get? 7).map (fun x => (x.bound, x.exchanged))
      = some (some 1, true) := by decide +kernel

theorem test_too_many_sessions : let s := { sTalk negotiated7 with sec := { up.sec with sessions :=
        (7, negotiated7) :: ((List.range 72).map fun n => (100 + n, session7)) } }
    72 ≤ s.sec.openSessions ∧ s.session 7 = negotiated7
      ∧ (after (.keyExchange 7 (.host false) none false) s).out.head? = some (.spdm 7 "ERROR" []) := by decide +kernel

theorem test_finish_claims : let x := { negotiated7 with exchanged := true, mutAuth := true }
    (sTalk x).fuses.ownerBanks = [] ∧ (after (.finish 7 true (some 9)) (sTalk x)).fuses.ownerBanks = [9]
      ∧ ((after (.finish 7 true none) { sTalk x with fuses := { up.fuses with ownerBanks := [9] } }).sec.sessions.get? 7).map (·.established)
        = some true := by decide +kernel

theorem test_session : (after (.heartbeat 7) (sTalk session7)).out.head? = some (.spdm 7 "HEARTBEAT_ACK" [])
    ∧ ((after (.keyUpdate 7) (sTalk session7)).sec.sessions.get? 7).map (·.keyUpdates) = some 1
    ∧ ((sTalk session7).parts.any fun e => e.2.tdiSession == some 7) = false
    ∧ (after (.endSession 7) (sTalk session7)).sec.sessions = [] := by decide +kernel

/-- P1's TDI in a state, locked in conversation 7. -/
def sTdi (d : Tdi) : State :=
  { sTalk session7 with parts :=
    [(1, { state := .active, queueFirst := 0, queueCount := 16, quads := [0], key := some 5, identity := some 6, certIssued := true, tdi := d
           tdiSession := if d = .unlocked then none else some 7, mgmtStop := d == .locked })] }

theorem test_session_loss : ((after (.spdmSessionLoss 7) (sTdi .run)).part 1).tdi = .error
    ∧ ((after (.spdmSessionLoss 7) (sTdi .run)).queue 5).state = .stopped := by decide +kernel

theorem test_tdisp : (sTdi .unlocked).TalkingTdi 7 1 session7
    ∧ ((after (.getTdispVersion 7 1) (sTdi .unlocked)).sec.sessions.get? 7).map (·.bound) = some (some 1)
    ∧ ((after (.getTdispCapabilities 7 1) (sTdi .unlocked)).sec.sessions.get? 7).map (·.bound) = some (some 1) := by decide +kernel

theorem test_lock : ((sTdi .unlocked).part 1).certIssued = true ∧ ((sTdi .unlocked).part 1).pendLayout = none
    ∧ ((after (.lockInterfaceRequest 7 1) (sTdi .unlocked)).part 1).tdi = .locked
    ∧ ((after (.lockInterfaceRequest 7 1) (sTdi .unlocked)).queue 5).state = .stopped
    ∧ (after (.lockInterfaceRequest 7 1) (sTdi .run)).out.head? = some (.spdm 7 "TDISP_ERROR" []) := by decide +kernel

theorem test_interface_state : (after (.getDeviceInterfaceState 7 1) (sTdi .run)).out.head? = some (.spdm 7 "DEVICE_INTERFACE_STATE" [2]) := by
  decide +kernel

theorem test_start_interface : ((sTdi .locked).part 1).tdiSession = some 7
    ∧ ((after (.startInterfaceRequest 7 1) (sTdi .locked)).part 1).tdi = .run := by decide +kernel

theorem test_stop_interface : ((after (.stopInterfaceRequest 7 1) (sTdi .run)).part 1).state = .resetting
    ∧ ((after (.stopInterfaceRequest 7 1) (sTdi .run)).part 1).stopWanted = true := by decide +kernel

theorem test_ide_keys : ((after (.ideKmKeyProg 7 1 0xABC) (sTdi .locked)).part 1).ideKey = some 0xABC := by decide +kernel

/-! ### Start-up -/

/-- A block in a boot stage, 300 ms after its reset. -/
def boot (b : Boot) : State := { State.reset with boot := { b with outOfReset := true }, time := { now := 300000000 } }

theorem test_reset_assert : (after (.scResetNAssert 100) up).boot.stage = .reset ∧ (after (.scResetNAssert 99) up).pins.glitches = 1 := by
  decide +kernel

theorem test_reset_deassert : (after (.scResetNDeassert 100 true false) State.reset).boot.stage = .rom
    ∧ State.reset.boot.stopped = .no ∧ (after (.scResetNDeassert 100 false false) State.reset).boot.stopped = .coolant := by decide +kernel

theorem test_rom : (boot { stage := .rom }).live = true ∧ (after (.romDone true) (boot { stage := .rom })).boot.stage = .keys
    ∧ (after (.romDone false) (boot { stage := .rom })).boot.reason = 3
    ∧ (after (.romDone true) { boot { stage := .rom } with fuses := { retired := 0xFFFF } }).boot.reason = 1 := by decide +kernel

theorem test_keys : (after (.keysDone true) (boot { stage := .keys })).boot.bootReadAt = some 300000000 := by decide +kernel

/-- An image's first 512 bytes, with IMAGE_BYTES 512, complete it. -/
theorem test_boot_data : let s := boot { stage := .image, bootReadAt := some 0 }
    imageWanted (zeros 8 ++ toLe 4 512 ++ zeros 500) = 512
      ∧ (after (.bootData (some (zeros 8 ++ toLe 4 512 ++ zeros 500))) s).boot.bootReadAt = none
      ∧ (after (.bootData none) s).boot.reason = 2 ∧ (after .bootReadTimeout s).boot.stage = .failed := by decide +kernel

theorem test_image_refused : (boot { stage := .image }).imageOk [] = false
    ∧ (after (.imageChecked []) (boot { stage := .image })).boot.stage = .failed := by decide +kernel

/-- Every memory port has reported. -/
def trained : State := boot { stage := .training, mpReady := 0xFFFFFFFF }
def bundles (good : Nat) : List BundleTest := [⟨0, 0, good⟩, ⟨1, 0, 1024⟩]

theorem test_ports : let s := boot { stage := .training, mpReady := 2 }
    2 < s.nPorts ∧ s.boot.mpFailed.getLsbD 2 = false ∧ s.boot.mpReady.getLsbD 2 = false
      ∧ (after (.memoryPortReady 2) s).boot.mpReady = 6 ∧ ((after (.memoryPortTimeout 2) s).cluster 1).quarantined = true := by
  decide +kernel

theorem test_training : trained.portsSettled = true ∧ trainedWidth 600 trained.bridge.widthReq = some 1
    ∧ (after (.trainingDone (bundles 600)) trained).boot.stage = .time ∧ (after (.trainingDone (bundles 600)) trained).bridge.width01 = 1
    ∧ (after (.trainingDone (bundles 255)) trained).boot.reason = 4 := by decide +kernel

/-- A base configuration has one die and no bridge. -/
def half : State := { trained with fuses := { full := false } }

theorem test_training_base : half.portsSettled = true ∧ half.fuses.full = false
    ∧ (after (.trainingDone []) half).time.released = true := by decide +kernel

theorem test_time_limit : (after .timeLimitExpiry (boot { stage := .time })).boot.stage = .ready := by decide +kernel

/-! ### Power, the bridge and read-back -/

theorem test_hard_cap : up.pins.hardCap = false ∧ (after (.scHardCapAssert 100) up).power.hardEvents = 1
    ∧ ((after (.scHardCapAssert 100) up).ic.src 7).level = true
    ∧ ((after (.scHardCapDeassert 100) (after (.scHardCapAssert 100) up)).ic.src 7).level = false := by decide +kernel

theorem test_thermal : up.time.ct % 1024 < 2 ∧ 3 < up.nClusters ∧ 1 < up.nDies
    ∧ ((after (.thermalSample [⟨false, 3, 840⟩]) up).cluster 3).throttled = true
    ∧ ((after (.thermalSample [⟨false, 3, 839⟩]) up).cluster 3).throttled = false
    ∧ (after (.thermalSample [⟨false, 3, 920⟩]) up).boot.stopped = .coolant
    ∧ (after (.thermalSample [⟨true, 1, 500⟩]) up).power.baseTemp = [(1, 500)] := by decide +kernel

theorem test_coolant : (after (.coolantStop 2000) up).boot.stopped = .coolant := by decide +kernel

theorem test_droop : (up.core 9).stretchAt ≠ some (up.time.ct / 1024) ∧ ((after (.droopDetect 9 true) up).core 9).stretchExcess = 1 := by
  decide +kernel

theorem test_glitch : 1999 < filterTime .coolantOk ∧ (after (.inputGlitch .coolantOk 1999) up).pins.glitches = 1 := by decide +kernel

/-- A trained bridge, 8,000 ns into a frame. -/
def sBridge (b : Bridge) : State :=
  { up with boot := { up.boot with bridgeTrained := true }, time := { up.time with ct := 8000, state := .locked }, bridge := b }

theorem test_replay : (sBridge {}).fuses.full = true ∧ (after (.bridgeFlitReplay 0 4) (sBridge {})).bridge.replays = 1
    ∧ (after (.bridgeFlitReplay 0 5) (sBridge {})).errs.fatal = true := by decide +kernel

theorem test_sixteenth_replay : let s := sBridge { replayAt01 := List.replicate 15 7000 }
    15 ≤ (s.bridge.replayAt01.filter fun t => s.time.ct ≤ t + 1000000).length
      ∧ (after (.bridgeFlitReplay 0 1) s).bridge.retraining01 = true := by decide +kernel

theorem test_retrain : (after (.bridgeRetrainStart 0) (sBridge {})).bridge.retraining01 = true
    ∧ trainedWidth 512 (sBridge { retraining01 := true }).bridge.width01 = some 1
    ∧ (after (.bridgeRetrainEnd ⟨0, 3, 512⟩) (sBridge { retraining01 := true })).bridge.width01 = 1 := by decide +kernel

/-- WIDTH_REQ 2, and 6 with RETRAIN (R455, R456). -/
theorem test_width_request : (sBridge {}).isMgmt (.host true) = true ∧ noMgmt.isMgmt (.host true) = false
    ∧ (after (.widthReq (.host true) 2) (sBridge {})).bridge.widthPending = true
    ∧ (after (.widthReq (.host true) 2) noMgmt).bad.lastKind = 2
    ∧ (after (.retrain (.host true) 6) (sBridge {})).bridge.retraining10 = true := by decide +kernel

theorem test_width_change : let s := sBridge { widthPending := true, widthReq := 2 }
    7936 ≤ s.time.ct % 8192 ∧ s.bridgePromised = false ∧ (after .bridgeWidthChange s).bridge.width01 = 2
      ∧ (after .bridgeWidthChange { s with parts := (sFrame (slotOf 0 [])).parts.mapV fun _ u => { u with quads := [0, 32] } }).bridge.width01
        = 1 := by decide +kernel

theorem test_width_promised : let s := { sBridge {} with parts := (sFrame (slotOf 0 [])).parts.mapV fun _ u => { u with quads := [0, 32] } }
    s.bridgePromised = true := by decide +kernel

theorem test_readback : (up.lane 3).state ≠ 1 ∧ ((after (.scRbIndex (.host true) 3 0x50001) up).lane 3).item = 5
    ∧ ((after (.scRbIndex (.host true) 3 0x50001) up).lane 3).cls = 1
    ∧ ((after (.captureDone (.host true) 3) (after (.scRbIndex (.host true) 3 0x50011) up)).lane 3).result = 1
    ∧ (after (.scRbIndex (.host true) 3 0) (after (.scRbIndex (.host true) 3 0x50001) up)).lane 3
      = (after (.scRbIndex (.host true) 3 0x50001) up).lane 3 := by decide +kernel

/-! ### Ill-formed commands, and words -/

theorem test_ill_formed_requesters : ([.registerWrite (.view true 64) .sc 0 8 0, .registerWrite (.fabric 4 0) .sc 0 8 0,
    .registerWrite (.fabric 0 131072) .sc 0 8 0, .registerWrite (.host true) .sc (2 ^ 28) 8 0, .badScAccess (.host true) false 0 65,
    .scBadAccessRead (.view true 64) .low, .scSignalsRead (.fabric 4 0) .low, .widthReq (.view true 64) 0, .retrain (.view true 64) 0,
    .scRbIndex (.host true) 16 0, .captureDone (.host true) 16, .scQcountsRead (.host true) 4096 .low, .scQdb (.host true) 4096 0,
    .scQctlStop (.host true) 4096, .scQctlResume (.view true 64) 0, .scMbNotice (.host true) 64 0, .scMbAck (.host true) 64 0,
    .keyExchange 7 (.fabric 4 0) none true, .keyExchange 7 (.host true) (some 64) true] : List Instr).all (fun i => !i.wf) = true := by
  decide +kernel

theorem test_ill_formed_slots : ([.nop 4096 1, .launch 0 0, .chainRun 0 (2 ^ 64), .slotFetch 4096, .doorbellTokenAccrual 4096,
    .slotArrival 4096 .failed, .externalConstantsReadDone 0 0 .failed, .phaseStart 0 1 64, .seqEntryFreed 16384, .unresolvedFault 0 1 65536,
    .queueWriteAccepted 4096, .queueAreaAccessFail 4096 .fetch, .queueGuilty 4096 true] : List Instr).all (fun i => !i.wf) = true := by
  decide +kernel

theorem test_ill_formed_tiles : ([.baste 256, .tileStart 256 [], .tileStart 0 [⟨64, 0, 0, 64, .normal⟩],
    .tileStart 0 [⟨0, 1024, 0, 64, .normal⟩], .tileStart 0 [⟨0, 0, 0, 48, .normal⟩], .gatherReturn 0 1 [⟨0, 0, 32, 64, .normal⟩],
    .gatherReturn 256 1 [], .tileCommitStart 256 [], .reductionApply 16 0, .reductionApply 0 8, .granuleCommit 16,
    .sharedPageCopyDone 16384 1 0, .memData 32 0 [], .memData 0 4096 [], .memAck 32 0, .backInval (2 ^ 46), .snoop (2 ^ 46),
    .poisonConsumed 256 .tier, .tileError 256 .pointer, .droopDetect 256 true, .commonsSwitch 64] : List Instr).all (fun i => !i.wf) = true := by
  decide +kernel

theorem test_ill_formed_translation : ([.translationCompletion 2 0 .noPermission, .translationCompletion 0 256 .noPermission, .pageListFill 2 0,
    .faultBatchFlush 2 0, .faultBatchFlush 0 4096, .faultRingWriteFail 4096, .consumerPoll 4096, .consumerReadDone 0 (2 ^ 64),
    .prgResponse 512 .success, .atsInvalidateRequest 32 none 0 4096, .atsInvalidateRequest 0 (some (2 ^ 20)) 0 4096,
    .invalidationCompletion 32, .inboundRequest (2 ^ 17) 0 0 false 64 [], .inboundRequest 0 1024 0 false 64 [],
    .inboundRequest 0 0 0 false 4097 [], .linkHeld 4, .linkUp 4, .linkUnencrypted 4, .abortNoticeReceived 65536 0 0,
    .abortNoticeReceived 0 (2 ^ 17) 0] : List Instr).all (fun i => !i.wf) = true := by decide +kernel

theorem test_ill_formed_background : ([.backgroundSlot [(256, true)], .scrubResult 32 0 .clean, .scrubResult 0 (2 ^ 52) .clean, .msBoundary 65536 [],
    .msBoundary 0 [(16, 0)], .msBoundary 0 [(0, 65536)], .powerWindowEnd [(64, 0)], .thermalSample [⟨true, 2, 0⟩],
    .thermalSample [⟨false, 16, 0⟩], .imageChecked [(256, 0)], .memoryPortReady 32, .memoryPortTimeout 32, .trainingDone [⟨2, 0, 0⟩],
    .bridgeFlitReplay 2 0, .bridgeRetrainStart 2, .bridgeRetrainEnd ⟨2, 0, 0⟩, .regulatorTokenAccrual 32, .bootData (some (zeros 65537))]
      : List Instr).all (fun i => !i.wf) = true := by decide +kernel

theorem test_ill_formed_errors : ([.wordUncorrectable (.cleanLine 16 0 0) 0, .wordUncorrectable (.cleanLine 0 0 2) 0,
    .wordUncorrectable (.dirtyLine 16 0 0) 0, .wordUncorrectable (.tileState 256) 0, .wordUncorrectable (.liveInput 256) 0,
    .wordUncorrectable (.tier 0 (2 ^ 52)) 0, .wordUncorrectable (.coreControl 256) 0, .wordUncorrectable (.clusterControl 16) 0,
    .wordUncorrectable (.queueState 4096) 0, .wordUncorrectable (.admittedCopy 4096) 0, .wordUncorrectable (.partitionState 64) 0,
    .wordUncorrectable (.dieState 2) 0, .clusterQuarantine 16, .escalated (.core 256), .escalated (.cluster 16), .escalated (.queue 4096),
    .escalated (.partition 64), .escalated (.die 2), .mirrorServed 16 0 0 0 0 0, .mirrorServed 0 16384 0 0 0 0, .mirrorServed 0 0 0 2048 0 0,
    .mirrorCopyDone 16384 1, .errPop 275 1, .errQstatRead 275 .low, .partitionResetStart 64 .management, .blockFatal 2,
    .revocationDrainBound 4096, .zeroingDone 4096] : List Instr).all (fun i => !i.wf) = true := by decide +kernel

theorem test_ill_formed_management : ([.noticeTake 4, .messageReadDone 64 .failed, .capabilityCheck 64, .partitionCreate 64, .extentRevokeReq 0 (some 64),
    .icAck 4, .icEoi 4 0, .stormWindowExpiry 1024, .msixUnmask (some 2048), .partitionKeyRenewed 64, .layoutClearingDone 64, .getVersion 320,
    .getCertificate 0 8 0 0, .challenge 320 0 0, .lockInterfaceRequest 0 64, .ideKmKeyProg 320 0 0] : List Instr).all (fun i => !i.wf) = true := by
  decide +kernel

/-- Read data of more than 4 MiB. -/
theorem test_ill_formed_data (n : Nat) (h : 2 ^ 22 < n) : (Instr.slotArrival 0 (.data (zeros n))).wf = false := by
  have e : (zeros n).length = n := List.length_replicate
  simp only [Instr.wf, ReadData.wf, e, Bool.and_eq_false_iff, decide_eq_false_iff_not]
  omega

/-- Commands at the edges of their ranges. -/
theorem test_well_formed : ([.registerWrite (.fabric 3 131071) .sc (2 ^ 28 - 1) 64 0, .launch 4095 (2 ^ 64 - 1), .tileStart 255 [⟨63, 1023, 256, 256, .normal⟩],
    .memData 31 4095 [], .inboundRequest 131071 1023 0 true 4096 [], .errPop 274 1, .mirrorServed 15 16383 0 2047 0 0, .noticeTake 3,
    .getCertificate 319 7 0 0] : List Instr).all Instr.wf = true := by decide +kernel

/-- The table gives no row bits, so no word spells a command. -/
theorem test_words : decodeTableWord 32 0x13 = none ∧ State.reset.withFetchWord 32 0x13 = State.reset := by decide +kernel

end Sys2Proof.Tests
end

section
/-!
The small operand formats (R35, R37). E2M1 and S2 are sign-magnitude formats: two codes that differ in the sign bit alone
have opposite values, whose single-precision codes differ in the sign bit alone. So the table of either format is that of
its magnitudes, followed by the same with the sign bit.
-/
namespace Sys2Proof.Machine

open Sys2Proof

/-- The codes `c` and `n + c` of a format have the same magnitude, the first with plus and the second with minus. -/
def OppositeCodes (f : Fmt) (n c : Nat) : Prop :=
  ∃ m e, decodeElem f c = .fin false m e ∧ decodeElem f (n + c) = .fin true m e

theorem decodeFinite_signBit (eb fb bias : Nat) {c : Nat} (h : c < 2 ^ (fb + eb)) :
    ∃ m e, decodeFinite eb fb bias c = .fin false m e
      ∧ decodeFinite eb fb bias (2 ^ (fb + eb) + c) = .fin true m e := by
  have hfrac : bitsAt (2 ^ (fb + eb) + c) 0 fb = bitsAt c 0 fb := by simp [bitsAt, pow_add]
  have hexp : bitsAt (2 ^ (fb + eb) + c) fb eb = bitsAt c fb eb := by simp [bitsAt, pow_add, Nat.mul_add_div]
  have hplus : bitAt c (fb + eb) = false := by simp [bitAt, bitsAt, Nat.div_eq_of_lt h]
  have hminus : bitAt (2 ^ (fb + eb) + c) (fb + eb) = true := by simp [bitAt, bitsAt, Nat.div_eq_of_lt h]
  simp only [decodeFinite, hfrac, hexp, hplus, hminus]
  split
  · exact ⟨_, _, rfl, rfl⟩
  · exact ⟨_, _, rfl, rfl⟩

/-- R35: the sign of an E2M1 code is bit 3. -/
theorem oppositeCodes_mxfp4 {c : Nat} (h : c < 8) : OppositeCodes .mxfp4 8 c := by
  have hc : c % 16 = c := by omega
  have hn : (8 + c) % 16 = 8 + c := by omega
  simp only [OppositeCodes, decodeElem, hc, hn]
  exact decodeFinite_signBit 2 1 1 h

/-- R37: the sign of an S2 code is bit 1. -/
theorem oppositeCodes_s2 {c : Nat} (h : c < 2) : OppositeCodes .s2 2 c := by
  have hmag : bitAt (2 + c) 0 = bitAt c 0 := by simp [bitAt, bitsAt]
  have hplus : bitAt c 1 = false := by simp [bitAt, bitsAt, Nat.div_eq_of_lt h]
  have hminus : bitAt (2 + c) 1 = true := by simp [bitAt, bitsAt, Nat.div_eq_of_lt h]
  exact ⟨if bitAt c 0 then 3 else 1, -1, by simp only [decodeElem, hplus], by simp only [decodeElem, hmag, hminus]⟩

theorem round32_fin_true (m : Nat) (e : Int) :
    round32 (.fin true m e) = 0x80000000#32 + round32 (.fin false m e) := by
  simp [round32, signBit, BitVec.ofNat_add]

theorem map_round32_of_oppositeCodes {f : Fmt} {n : Nat} (h : ∀ c < n, OppositeCodes f n c) :
    (List.range (n + n)).map (fun c => round32 (decodeElem f c))
      = (List.range n).map (fun c => round32 (decodeElem f c))
        ++ ((List.range n).map fun c => round32 (decodeElem f c)).map (0x80000000#32 + ·) := by
  rw [List.range_add, List.map_append, List.map_map, List.map_map]
  congr 1
  refine List.map_congr_left fun c hc => ?_
  obtain ⟨m, e, hplus, hminus⟩ := h c (List.mem_range.mp hc)
  simp only [Function.comp_apply, hplus, hminus, round32_fin_true]

theorem mxfp4_magnitudes : (List.range 8).map (fun c => round32 (decodeElem .mxfp4 c))
    = [0, 0x3F000000, 0x3F800000, 0x3FC00000, 0x40000000, 0x40400000, 0x40800000, 0x40C00000] := by decide

theorem s2_magnitudes :
    (List.range 2).map (fun c => round32 (decodeElem .s2 c)) = [0x3F000000, 0x3FC00000] := by decide

/-- Settles O12: the magnitudes of each table by evaluation, its second half by the sign bit. -/
theorem smallFormatsFollowTheirTables : Obligations.SmallFormatsFollowTheirTables := by
  unfold Obligations.SmallFormatsFollowTheirTables
  constructor
  · rw [map_round32_of_oppositeCodes (n := 8) fun _ => oppositeCodes_mxfp4, mxfp4_magnitudes]
    rfl
  · rw [map_round32_of_oppositeCodes (n := 2) fun _ => oppositeCodes_s2, s2_magnitudes]
    rfl

end Sys2Proof.Machine
end

section
/-!
The state of the interrupt controller (R353 to R356): what its sources and cores hold after a change of one source, of one
core, or after a fire, and what a candidate is.
-/
namespace Sys2Proof.Machine

open Sys2Proof

/-! ### One core, one source -/

/-- The controller with the interface of core `k` replaced. -/
def Ic.setCore (c : Ic) (k : Nat) (i : IcCore) : Ic := { c with cores := c.cores.put k i }

@[simp] theorem Ic.core_setCore_same (c : Ic) (k : Nat) (i : IcCore) : (c.setCore k i).core k = i :=
  tbl_getD_put_same _ _ _ _

theorem Ic.core_setCore_ne (c : Ic) {k j : Nat} (i : IcCore) (h : j ≠ k) : (c.setCore k i).core j = c.core j :=
  tbl_getD_put_ne _ _ _ h

@[simp] theorem Ic.src_setCore (c : Ic) (k n : Nat) (i : IcCore) : (c.setCore k i).src n = c.src n := rfl

@[simp] theorem Ic.core_setSrc (c : Ic) (n k : Nat) (r : Src) : (c.setSrc n r).core k = c.core k := by
  unfold Ic.setSrc
  split <;> rfl

@[simp] theorem Ic.asleep_setSrc (c : Ic) (n : Nat) (r : Src) : (c.setSrc n r).asleep = c.asleep := by
  unfold Ic.setSrc
  split <;> rfl

@[simp] theorem Ic.src_setSrc_same (c : Ic) (n : Nat) (r : Src) : (c.setSrc n r).src n = r := by
  cases h : c.asleep <;> simp [Ic.src, Ic.setSrc, h]

theorem Ic.src_setSrc_ne (c : Ic) {n m : Nat} (r : Src) (h : m ≠ n) : (c.setSrc n r).src m = c.src m := by
  cases hs : c.asleep <;> simp [Ic.src, Ic.setSrc, hs, tbl_getD_put_ne _ _ _ h]

/-! ### Fires (R354, R361) -/

theorem Src.fire_state (r : Src) (now : Nat) : (r.fire now).1.state = r.state.fired := by
  unfold Src.fire
  split_ifs <;> rfl

theorem Src.fire_level (r : Src) (now : Nat) : (r.fire now).1.level = r.level := by
  unfold Src.fire
  split_ifs <;> rfl

/-- R361: a counted fire with no window open opens one, and is its first. -/
theorem Src.fire_of_window_closed {r : Src} {now : Nat} (he : r.enable = true) (hw : r.windowOpen now = false) :
    (r.fire now).1.window = some now ∧ (r.fire now).1.fires = 1 := by
  simp [Src.fire, he, hw]

/-- R362: a fire during sleep is recorded and not counted. -/
theorem Ic.src_fire_asleep {c : Ic} (h : c.asleep = true) (n now : Nat) : (c.fire n now).src n = (c.src n).fireQuiet := by
  simp only [Ic.fire, h, if_true]
  exact Ic.src_setSrc_same c n (c.src n).fireQuiet

theorem Ic.src_fire_awake {c : Ic} (h : c.asleep = false) {n : Nat} (hn : n ≠ 0) (now : Nat) :
    (c.fire n now).src n = ((c.src n).fire now).1 := by
  simp only [Ic.fire, h, Bool.false_eq_true, if_false, beq_iff_eq, hn]
  split
  · rw [Ic.src_setSrc_ne _ _ hn]
    exact Ic.src_setSrc_same c n _
  · exact Ic.src_setSrc_same c n _

theorem Ic.src_fire_state (c : Ic) {n : Nat} (hn : n ≠ 0) (now : Nat) :
    ((c.fire n now).src n).state = (c.src n).state.fired := by
  cases h : c.asleep with
  | true => rw [Ic.src_fire_asleep h]; rfl
  | false => rw [Ic.src_fire_awake h hn, Src.fire_state]

theorem Ic.src_fire_level (c : Ic) {n : Nat} (hn : n ≠ 0) (now : Nat) : ((c.fire n now).src n).level = (c.src n).level := by
  cases h : c.asleep with
  | true => rw [Ic.src_fire_asleep h]; rfl
  | false => rw [Ic.src_fire_awake h hn, Src.fire_level]

/-- A fire reaches its own source, and source 0 where a storm is masked (R361). -/
theorem Ic.src_fire_ne (c : Ic) {n m : Nat} (h0 : m ≠ 0) (hm : m ≠ n) (now : Nat) : (c.fire n now).src m = c.src m := by
  unfold Ic.fire
  split_ifs
  · exact Ic.src_setSrc_ne c _ hm
  · exact Ic.src_setSrc_ne c _ hm
  · dsimp only
    split
    · rw [Ic.src_setSrc_ne _ _ h0]
      exact Ic.src_setSrc_ne c _ hm
    · exact Ic.src_setSrc_ne c _ hm

@[simp] theorem Ic.core_fire (c : Ic) (n now k : Nat) : (c.fire n now).core k = c.core k := by
  unfold Ic.fire
  split_ifs
  · exact Ic.core_setSrc c n k _
  · exact Ic.core_setSrc c n k _
  · dsimp only
    split
    · rw [Ic.core_setSrc]
      exact Ic.core_setSrc c n k _
    · exact Ic.core_setSrc c n k _

/-! ### The candidate of a core (R356) -/

theorem betterOf_eq_some {o : Option (Nat × Nat)} {b x : Nat × Nat} (h : betterOf o b = some x) : x = b ∨ o = some x := by
  unfold betterOf at h
  split at h
  · exact .inl (Option.some.inj h).symm
  · split at h
    · exact .inl (Option.some.inj h).symm
    · exact .inr h

theorem foldl_betterOf_mem {l : List (Nat × Nat)} {o : Option (Nat × Nat)} {x : Nat × Nat}
    (h : l.foldl betterOf o = some x) : x ∈ l ∨ o = some x := by
  induction l generalizing o with
  | nil => exact .inr h
  | cons b l ih =>
    rcases ih h with hl | hb
    · exact .inl (List.mem_cons_of_mem b hl)
    · exact (betterOf_eq_some hb).imp_left fun e => List.mem_cons.2 (.inl e)

/-- The candidate of a core is one of the sources that may be delivered to it, at that source's priority. -/
theorem Ic.candidate_deliverable {c : Ic} {k n p : Nat} (h : c.candidate k = some (n, p)) :
    ∃ r, (n, r) ∈ c.srcs ∧ r.deliverable r.enable k (c.core k) = true ∧ r.priority = p := by
  unfold Ic.candidate at h
  split at h
  · cases h
  · obtain hmem | hnone := foldl_betterOf_mem h
    · obtain ⟨⟨m, r⟩, hr, e⟩ := List.mem_map.1 hmem
      obtain ⟨hin, hdel⟩ := List.mem_filter.1 hr
      cases e
      exact ⟨r, hin, hdel, rfl⟩
    · cases hnone

theorem Src.priority_lt_running {r : Src} {en : Bool} {k : Nat} {i : IcCore} (h : r.deliverable en k i = true) :
    r.priority < i.running := by
  simp only [Src.deliverable, Bool.and_eq_true, decide_eq_true_eq] at h
  obtain ⟨⟨-, hrunning⟩, -⟩ := h
  exact hrunning

/-- R357: only a strictly higher priority pre-empts. -/
theorem Ic.candidate_lt_running {c : Ic} {k n p : Nat} (h : c.candidate k = some (n, p)) : p < (c.core k).running := by
  obtain ⟨r, -, hdel, rfl⟩ := Ic.candidate_deliverable h
  exact Src.priority_lt_running hdel

/-- The controller once core `k` no longer remembers a source disabled while it was the candidate (R360). -/
def Ic.forget (c : Ic) (k : Nat) : Ic := c.setCore k { c.core k with lingering := none }

@[simp] theorem Ic.core_forget_same (c : Ic) (k : Nat) : (c.forget k).core k = { c.core k with lingering := none } :=
  Ic.core_setCore_same _ _ _

@[simp] theorem Ic.stack_forget (c : Ic) (k : Nat) : ((c.forget k).core k).stack = (c.core k).stack := by
  rw [Ic.core_forget_same]

theorem Ic.core_forget_ne (c : Ic) {k j : Nat} (h : j ≠ k) : (c.forget k).core j = c.core j := Ic.core_setCore_ne _ _ h

@[simp] theorem Ic.candidate_forget (c : Ic) (k : Nat) : (c.forget k).candidate k = c.candidate k := by
  unfold Ic.candidate
  rw [Ic.core_forget_same]
  rfl

/-! ### Nested interrupts (R356, R357) -/

theorem IcCore.Nested.running_le {i : IcCore} (h : i.Nested) : i.running ≤ 16 := by
  obtain ⟨stack, primask, lingering⟩ := i
  cases stack with
  | nil => exact Nat.le_refl 16
  | cons e rest => exact (h.2 e List.mem_cons_self).le

theorem IcCore.Nested.running_le_mem {i : IcCore} (h : i.Nested) {x : Nat × Nat} (hx : x ∈ i.stack) : i.running ≤ x.2 := by
  obtain ⟨stack, primask, lingering⟩ := i
  cases stack with
  | nil => cases hx
  | cons e rest =>
    rcases List.mem_cons.1 hx with rfl | hx
    · exact Nat.le_refl _
    · exact (List.rel_of_pairwise_cons h.1 hx).le

theorem IcCore.Nested.push {i : IcCore} (h : i.Nested) (n : Nat) {p : Nat} (hp : p < i.running) (l : Option (Nat × Nat)) :
    ({ i with stack := (n, p) :: i.stack, lingering := l } : IcCore).Nested := by
  refine ⟨List.pairwise_cons.2 ⟨fun x hx => hp.trans_le (h.running_le_mem hx), h.1⟩, fun x hx => ?_⟩
  rcases List.mem_cons.1 hx with rfl | hx
  · exact hp.trans_le h.running_le
  · exact h.2 x hx

/-- There are only 16 priorities, and a nested stack holds each at most once. -/
theorem IcCore.Nested.length_le {i : IcCore} (h : i.Nested) : i.stack.length ≤ 16 := by
  have hnodup : (i.stack.map (·.2)).Nodup := List.pairwise_map.2 (h.1.imp Nat.ne_of_lt)
  have hsub : i.stack.map (·.2) ⊆ List.range 16 := by
    intro q hq
    obtain ⟨x, hx, rfl⟩ := List.mem_map.1 hq
    exact List.mem_range.2 (h.2 x hx)
  simpa using (hnodup.subperm hsub).length_le

end Sys2Proof.Machine
end

section
/-!
A read of IC_ACK (R357): what it returns is settled first, the candidate or the source that R360 lets it return instead, and the
answer then follows from that alone.
-/
namespace Sys2Proof.Machine

open Sys2Proof

/-! ### Acknowledging one source -/

@[simp] theorem Ic.core_acknowledge_same (c : Ic) (k n p : Nat) :
    (c.acknowledge k n p).core k = { c.core k with stack := (n, p) :: (c.core k).stack, lingering := none } :=
  tbl_getD_put_same _ _ _ _

theorem Ic.core_acknowledge_ne (c : Ic) {k j : Nat} (n p : Nat) (h : j ≠ k) : (c.acknowledge k n p).core j = c.core j :=
  (tbl_getD_put_ne _ _ _ h).trans (Ic.core_setSrc c n j _)

@[simp] theorem Ic.src_acknowledge_same (c : Ic) (k n p : Nat) :
    (c.acknowledge k n p).src n = { c.src n with state := .active } :=
  Ic.src_setSrc_same c n _

theorem Ic.src_acknowledge_ne (c : Ic) (k : Nat) {n m : Nat} (p : Nat) (h : m ≠ n) : (c.acknowledge k n p).src m = c.src m :=
  Ic.src_setSrc_ne c _ h

theorem Ic.nested_acknowledge {c : Ic} {k n p : Nat} (hc : c.candidate k = some (n, p)) (h : (c.core k).Nested) :
    ((c.acknowledge k n p).core k).Nested := by
  rw [Ic.core_acknowledge_same]
  exact h.push n (Ic.candidate_lt_running hc) none

/-! ### The answer of a read -/

/-- The answer of a read of IC_ACK of core `k` that returns `e`. -/
def ackAnswer (s : State) (k : Nat) : Option (Nat × Nat) → State
  | some (n, p) => { s with ic := s.ic.acknowledge k n p }.emit (.icValue (BitVec.ofNat 64 n))
  | none => s.emit (.icValue 0xFFFF)

/-- Where no disabled source lingers, the read returns the candidate. -/
theorem ackEffect_of_lingers_none {s : State} {k : Nat} (h : s.ic.lingers k s.time.now = none) :
    ackEffect s k = ackAnswer { s with ic := s.ic.forget k } k (s.ic.candidate k) := by
  rw [← Ic.candidate_forget]
  simp only [ackEffect, h]
  rfl

/-- Where a disabled source lingers, a free value decides between it and the candidate (R360). -/
theorem ackEffect_of_lingers_some {s : State} {k : Nat} {e : Nat × Nat} (h : s.ic.lingers k s.time.now = some e) :
    ∃ r, (r = some e ∨ r = s.ic.candidate k) ∧ ackEffect s k = ackAnswer { s with ic := s.ic.forget k }.draw k r := by
  by_cases hd : Config.freeBits 1 s.free % 2 == 1
  · refine ⟨some e, .inl rfl, ?_⟩
    simp only [ackEffect, h, hd, if_true]
    rfl
  · refine ⟨s.ic.candidate k, .inr rfl, ?_⟩
    rw [← Ic.candidate_forget]
    simp only [ackEffect, h, hd]
    rfl

theorem exec_icAck {s : State} (h : s.live = true) (k : Nat) : exec (.icAck k) s = .next (ackEffect s k) :=
  congrArg Host.Outcome.next (State.whenLive_live h _)

theorem ackAnswer_some_ic (s : State) (k n p : Nat) : (ackAnswer s k (some (n, p))).ic = s.ic.acknowledge k n p := rfl

/-- Whatever the read returns goes on top of the stack. -/
theorem ackAnswer_forget_stack (s : State) (k n p : Nat) :
    ((ackAnswer { s with ic := s.ic.forget k } k (some (n, p))).ic.core k).stack = (n, p) :: (s.ic.core k).stack := by
  rw [ackAnswer_some_ic, Ic.core_acknowledge_same]
  exact congrArg ((n, p) :: ·) (Ic.stack_forget s.ic k)

/-! ### What a read leaves unchanged -/

theorem setIc_frame (s : State) (c : Ic) : OnlyChanges [.ic] s { s with ic := c } := by
  intro p hp
  cases p with
  | ic => exact absurd List.mem_cons_self hp
  | _ => rfl

theorem emit_frame (s : State) (o : Out) : OnlyChanges [.out] s (s.emit o) := by
  intro p hp
  cases p with
  | out => exact absurd List.mem_cons_self hp
  | _ => rfl

theorem draw_frame (s : State) : OnlyChanges [.free] s s.draw := by
  intro p hp
  cases p with
  | free => exact absurd List.mem_cons_self hp
  | _ => rfl

theorem ackAnswer_frame (s : State) (k : Nat) (e : Option (Nat × Nat)) : OnlyChanges [.ic, .out] s (ackAnswer s k e) := by
  cases e with
  | none => exact (emit_frame s _).mono (by simp)
  | some e => exact ((setIc_frame s _).mono (by simp)).trans ((emit_frame _ _).mono (by simp))

theorem ackAnswer_forget_frame (s : State) (k : Nat) (e : Option (Nat × Nat)) :
    OnlyChanges [.ic, .out] s (ackAnswer { s with ic := s.ic.forget k } k e) :=
  ((setIc_frame s _).mono (by simp)).trans (ackAnswer_frame _ k e)

theorem ackAnswer_draw_frame (s : State) (k : Nat) (e : Option (Nat × Nat)) :
    OnlyChanges [.ic, .out, .free] s (ackAnswer { s with ic := s.ic.forget k }.draw k e) :=
  ((setIc_frame s _).mono (by simp)).trans
    (((draw_frame _).mono (by simp)).trans ((ackAnswer_frame _ k e).mono (by simp)))

/-- Settles O9: by what the read returns; a candidate is below the running priority, so a nested stack stays nested. -/
theorem acknowledgesTakeTheCandidate : Obligations.AcknowledgesTakeTheCandidate := by
  unfold Obligations.AcknowledgesTakeTheCandidate
  refine ⟨?candidate, ?noCandidate, ?lingering, fun c k n p => Ic.candidate_lt_running, ?nested⟩
  case candidate =>
    intro s k n p hlive hl hc
    refine completes_of (exec_icAck hlive k) ?_
    rw [ackEffect_of_lingers_none hl, hc]
    refine ⟨ackAnswer_forget_frame s k _, rfl, ?_, ackAnswer_forget_stack s k n p, ?_, fun j hj => ?_, fun m hm => ?_⟩
    · rw [ackAnswer_some_ic, Ic.src_acknowledge_same]
    · rw [ackAnswer_some_ic, Ic.core_acknowledge_same]
      rfl
    · exact (Ic.core_acknowledge_ne _ n p hj).trans (Ic.core_forget_ne _ hj)
    · exact Ic.src_acknowledge_ne _ k p hm
  case noCandidate =>
    intro s k hlive hl hc
    refine completes_of (exec_icAck hlive k) ?_
    rw [ackEffect_of_lingers_none hl, hc]
    exact ⟨ackAnswer_forget_frame s k none, rfl, rfl, Ic.core_forget_same _ k, fun j hj => Ic.core_forget_ne _ hj⟩
  case lingering =>
    intro s k n p hlive hl
    obtain ⟨r, hr, heq⟩ := ackEffect_of_lingers_some hl
    refine completes_of (exec_icAck hlive k) ?_
    rw [heq]
    refine ⟨ackAnswer_draw_frame s k r, ?_⟩
    obtain rfl | rfl := hr
    · exact .inl ⟨rfl, ackAnswer_forget_stack s k n p⟩
    · cases s.ic.candidate k with
      | some e => exact .inr (.inl ⟨e.1, e.2, rfl, rfl, ackAnswer_forget_stack s k e.1 e.2⟩)
      | none => exact .inr (.inr ⟨rfl, rfl, Ic.stack_forget s.ic k⟩)
  case nested =>
    intro c k n p hc hn
    have hnested := Ic.nested_acknowledge hc hn
    exact ⟨hnested, hnested.length_le⟩

end Sys2Proof.Machine
end

section
/-!
A write of IC_EOI (R358): the interrupt on top of the stack ends, an edge source by its state alone, a level source by a new
sample of its input, which is a fire when the input is still high.
-/
namespace Sys2Proof.Machine

open Sys2Proof

/-- The controller with the top of core `k`'s stack popped. -/
def Ic.pop (c : Ic) (k : Nat) : Ic := c.setCore k { c.core k with stack := (c.core k).stack.tail }

theorem Ic.stack_pop {c : Ic} {k : Nat} {e : Nat × Nat} {rest : List (Nat × Nat)} (h : (c.core k).stack = e :: rest) :
    ((c.pop k).core k).stack = rest := by
  rw [Ic.pop, Ic.core_setCore_same, h]
  rfl

theorem Ic.core_pop_ne (c : Ic) {k j : Nat} (h : j ≠ k) : (c.pop k).core j = c.core j := Ic.core_setCore_ne _ _ h

@[simp] theorem Ic.src_pop (c : Ic) (k n : Nat) : (c.pop k).src n = c.src n := rfl

/-- The end of the interrupt of a source, once it is off its core's stack. -/
def Ic.endInterrupt (c : Ic) (n now : Nat) : Ic :=
  if isLevelSource n then
    if (c.src n).level then (c.setSrc n { c.src n with state := .inactive }).fire n now
    else c.setSrc n { c.src n with state := .inactive }
  else c.setSrc n { c.src n with state := (c.src n).state.ended }

theorem Ic.eoi_of_top {c : Ic} {k n p : Nat} {rest : List (Nat × Nat)} (h : (c.core k).stack = (n, p) :: rest) (now : Nat) :
    c.eoi k n now = (c.pop k).endInterrupt n now := by
  simp only [Ic.eoi, Ic.pop, h, beq_self_eq_true, if_true]
  rfl

theorem Ic.eoi_of_not_top {c : Ic} {k n : Nat} (h : (c.core k).stack.head?.map (·.1) ≠ some n) (now : Nat) :
    c.eoi k n now = { c with badEoi := min (c.badEoi + 1) 0xFFFF } := by
  unfold Ic.eoi
  split
  next m q rest hs =>
    have hne : m ≠ n := by simpa [hs] using h
    rw [if_neg (by simpa using hne)]
    rfl
  next => rfl

theorem exec_icEoi {s : State} (h : s.live = true) (k : Nat) (v : BitVec 32) :
    exec (.icEoi k v) s = .next { s with ic := s.ic.eoi k (dbSource v) s.time.now } :=
  congrArg Host.Outcome.next (State.whenLive_live h _)

theorem completes_icEoi_of_top {s : State} {k p : Nat} {v : BitVec 32} {rest : List (Nat × Nat)} {P : State → Prop}
    (hlive : s.live = true) (htop : (s.ic.core k).stack = (dbSource v, p) :: rest)
    (hP : P { s with ic := (s.ic.pop k).endInterrupt (dbSource v) s.time.now }) : Completes (.icEoi k v) s P := by
  refine completes_of (exec_icEoi hlive k v) ?_
  rwa [Ic.eoi_of_top htop]

/-! ### What the end of an interrupt does -/

@[simp] theorem Ic.core_endInterrupt (c : Ic) (n now k : Nat) : (c.endInterrupt n now).core k = c.core k := by
  unfold Ic.endInterrupt
  split_ifs <;> simp

theorem Ic.endInterrupt_edge {n : Nat} (h : isLevelSource n = false) (c : Ic) (now : Nat) :
    c.endInterrupt n now = c.setSrc n { c.src n with state := (c.src n).state.ended } := by
  simp [Ic.endInterrupt, h]

theorem Ic.endInterrupt_high {c : Ic} {n : Nat} (h : isLevelSource n = true) (hl : (c.src n).level = true) (now : Nat) :
    c.endInterrupt n now = (c.setSrc n { c.src n with state := .inactive }).fire n now := by
  simp [Ic.endInterrupt, h, hl]

theorem Ic.endInterrupt_low {c : Ic} {n : Nat} (h : isLevelSource n = true) (hl : (c.src n).level = false) (now : Nat) :
    c.endInterrupt n now = c.setSrc n { c.src n with state := .inactive } := by
  simp [Ic.endInterrupt, h, hl]

/-- Source 0, which a storm fires, is an edge source (R352). -/
theorem isLevelSource_ne_zero {n : Nat} (h : isLevelSource n = true) : n ≠ 0 := by
  rintro rfl
  exact absurd h (by decide)

theorem Ic.src_endInterrupt_level_state {n : Nat} (h : isLevelSource n = true) (c : Ic) (now : Nat) :
    ((c.endInterrupt n now).src n).state = if (c.src n).level then .pending else .inactive := by
  cases hl : (c.src n).level with
  | true =>
    rw [Ic.endInterrupt_high h hl, Ic.src_fire_state _ (isLevelSource_ne_zero h), Ic.src_setSrc_same]
    rfl
  | false =>
    rw [Ic.endInterrupt_low h hl, Ic.src_setSrc_same]
    rfl

theorem Ic.src_endInterrupt_level_level {n : Nat} (h : isLevelSource n = true) (c : Ic) (now : Nat) :
    ((c.endInterrupt n now).src n).level = (c.src n).level := by
  cases hl : (c.src n).level with
  | true => rw [Ic.endInterrupt_high h hl, Ic.src_fire_level _ (isLevelSource_ne_zero h), Ic.src_setSrc_same, hl]
  | false => rw [Ic.endInterrupt_low h hl, Ic.src_setSrc_same, hl]

theorem Ic.src_endInterrupt_level_ne {n m : Nat} (h : isLevelSource n = true) (h0 : m ≠ 0) (hm : m ≠ n) (c : Ic) (now : Nat) :
    (c.endInterrupt n now).src m = c.src m := by
  cases hl : (c.src n).level with
  | true => rw [Ic.endInterrupt_high h hl, Ic.src_fire_ne _ h0 hm, Ic.src_setSrc_ne _ _ hm]
  | false => rw [Ic.endInterrupt_low h hl, Ic.src_setSrc_ne _ _ hm]

/-- R358, R361: a re-sample that finds the level high is a fire, counted as one. -/
theorem Ic.src_endInterrupt_opens_window {c : Ic} {n now : Nat} (h : isLevelSource n = true) (hl : (c.src n).level = true)
    (ha : c.asleep = false) (he : (c.src n).enable = true) (hw : (c.src n).windowOpen now = false) :
    ((c.endInterrupt n now).src n).window = some now ∧ ((c.endInterrupt n now).src n).fires = 1 := by
  rw [Ic.endInterrupt_high h hl, Ic.src_fire_awake (by simpa using ha) (isLevelSource_ne_zero h), Ic.src_setSrc_same]
  exact Src.fire_of_window_closed he hw

/-- Settles O10: a number on top of the stack is popped and its interrupt ended; any other is counted. -/
theorem interruptsEndAtTheEoi : Obligations.InterruptsEndAtTheEoi := by
  unfold Obligations.InterruptsEndAtTheEoi
  refine ⟨?edge, ?level, ?counted, ?notTop⟩
  case edge =>
    intro s k v p rest hlive htop hedge
    refine completes_icEoi_of_top hlive htop ⟨setIc_frame s _, ?_⟩
    simp only [Ic.endInterrupt_edge hedge, Ic.core_setSrc, Ic.src_setSrc_same, Ic.src_pop]
    refine ⟨Ic.stack_pop htop, fun h => ?_, fun h => ?_, fun j hj => Ic.core_pop_ne _ hj,
      fun m hm => Ic.src_setSrc_ne _ _ hm⟩
    · rw [h, SrcState.ended]
    · rw [h, SrcState.ended]
  case level =>
    intro s k v p rest hlive htop hlevel
    refine completes_icEoi_of_top hlive htop ⟨setIc_frame s _, ?_⟩
    simp only [Ic.core_endInterrupt]
    exact ⟨Ic.stack_pop htop, Ic.src_endInterrupt_level_state hlevel _ _, Ic.src_endInterrupt_level_level hlevel _ _,
      fun j hj => Ic.core_pop_ne _ hj, fun m h0 hm => Ic.src_endInterrupt_level_ne hlevel h0 hm _ _⟩
  case counted =>
    rintro s k v p rest now hlive htop hlevel hhigh rfl hawake henable hwindow
    exact completes_icEoi_of_top hlive htop
      (Ic.src_endInterrupt_opens_window (c := s.ic.pop k) hlevel hhigh hawake henable hwindow)
  case notTop =>
    intro s k v hlive hbad
    refine completes_of (exec_icEoi hlive k v) ?_
    rw [Ic.eoi_of_not_top hbad]

end Sys2Proof.Machine
end

section
/-!
The layout of a code word (R371): an encoded word is CHECK above its data, and CHECK is the four check symbols, c_0 lowest. So
every symbol of an encoded word is a byte of one of the two fields.
-/
namespace Sys2Proof.Machine

open Sys2Proof

/-! ### The symbols of any word -/

theorem symbolAt_check (w : BitVec 288) {k : Nat} (h : k < 4) : symbolAt w k = w.extractLsb' (256 + 8 * k) 8 := if_pos h

theorem symbolAt_data (w : BitVec 288) (i : Nat) : symbolAt w (4 + i) = w.extractLsb' (8 * i) 8 := by
  rw [symbolAt, if_neg (by omega), Nat.add_sub_cancel_left]

theorem wordBytes_getElem? (w : BitVec 288) {i : Nat} (h : i < 32) :
    (wordBytes w)[i]? = some (w.extractLsb' (8 * i) 8) := by
  rw [wordBytes, List.getElem?_map, List.getElem?_range h, Option.map_some]

/-! ### The two fields of an encoded word -/

/-- The CHECK field of the code word of `d`. -/
def checkField (d : BitVec 256) : BitVec 32 :=
  (checkSymbols d).1 ++ (checkSymbols d).2.1 ++ (checkSymbols d).2.2.1 ++ (checkSymbols d).2.2.2

theorem encodeWord_eq_append (d : BitVec 256) : encodeWord d = (checkField d ++ d).cast (by decide) := rfl

@[simp] theorem dataOf_encodeWord (d : BitVec 256) : dataOf (encodeWord d) = d := by
  rw [dataOf, encodeWord_eq_append, BitVec.extractLsb'_cast, BitVec.extractLsb'_append_eq_right]

theorem symbolAt_encodeWord_check (d : BitVec 256) {k : Nat} (h : k < 4) :
    symbolAt (encodeWord d) k = (checkField d).extractLsb' (8 * k) 8 := by
  rw [symbolAt_check _ h, encodeWord_eq_append, BitVec.extractLsb'_cast, BitVec.extractLsb'_append_eq_of_le (by omega),
    Nat.add_sub_cancel_left]

/-- The bytes of CHECK, lowest first: each symbol is reached past the ones appended below it. -/
theorem checkSymbols_eq_extract_checkField (d : BitVec 256) :
    (checkSymbols d).2.2.2 = (checkField d).extractLsb' 0 8 ∧ (checkSymbols d).2.2.1 = (checkField d).extractLsb' 8 8
      ∧ (checkSymbols d).2.1 = (checkField d).extractLsb' 16 8 ∧ (checkSymbols d).1 = (checkField d).extractLsb' 24 8 := by
  unfold checkField
  refine ⟨?c0, ?c1, ?c2, ?c3⟩
  case c0 => rw [BitVec.extractLsb'_append_eq_right]
  case c1 => rw [BitVec.extractLsb'_append_eq_of_le (by decide), BitVec.extractLsb'_append_eq_right]
  case c2 =>
    rw [BitVec.extractLsb'_append_eq_of_le (by decide), BitVec.extractLsb'_append_eq_of_le (by decide),
      BitVec.extractLsb'_append_eq_right]
  case c3 =>
    rw [BitVec.extractLsb'_append_eq_of_le (by decide), BitVec.extractLsb'_append_eq_of_le (by decide),
      BitVec.extractLsb'_append_eq_left]

/-- Settles O13: the places in any word by the definition of a symbol, those of an encoded word by its two fields. -/
theorem codeWordsAreLaidOutAsTheTable : Obligations.CodeWordsAreLaidOutAsTheTable := by
  unfold Obligations.CodeWordsAreLaidOutAsTheTable
  refine ⟨dataOf_encodeWord, fun w i hi => ⟨wordBytes_getElem? w hi, symbolAt_data w i⟩, fun w k => symbolAt_check w,
    fun d => ?checks⟩
  case checks =>
    simp only [symbolAt_encodeWord_check d, Nat.reduceLT, Nat.reduceMul]
    exact checkSymbols_eq_extract_checkField d

end Sys2Proof.Machine
end

section
/-!
A link without encryption (R448): whether its port was up or not, the port becomes HELD and its source is asserted, and the
report then clears ENCRYPTED.
-/
namespace Sys2Proof.Machine

open Sys2Proof

/-! ### One fabric port -/

theorem State.fport_modFport_ne (s : State) {n m : Nat} (f : FPort → FPort) (h : m ≠ n) :
    (s.modFport n f).fport m = s.fport m :=
  tbl_getD_put_ne _ _ _ h

@[simp] theorem State.fport_icLevel (s : State) (k n : Nat) (b : Bool) : (s.icLevel k b).fport n = s.fport n := rfl

theorem modFport_frame (s : State) (n : Nat) (f : FPort → FPort) : OnlyChanges [.fports] s (s.modFport n f) := by
  intro p hp
  cases p with
  | fports => exact absurd List.mem_cons_self hp
  | _ => rfl

/-- R459: bit 2 of SC_FPORTn is ENCRYPTED. -/
theorem State.fportWord_encrypted {s : State} {n : Nat} (hn : n < s.nFports) (h : (s.fport n).state < 4) :
    s.fportWord n / 4 % 2 = (s.fport n).encrypted.toNat := by
  cases he : (s.fport n).encrypted with
  | false =>
    simp only [State.fportWord, hn, he, bit, Bool.false_eq_true, if_true, if_false, Bool.toNat_false]
    omega
  | true =>
    simp only [State.fportWord, hn, he, bit, if_true, Bool.toNat_true]
    omega

/-! ### An asserted level source -/

/-- R354: an asserting message leaves the level of its source high, whether it fires or repeats. -/
theorem Ic.src_setLevel_true_level (c : Ic) {n : Nat} (hn : n ≠ 0) (now : Nat) :
    ((c.setLevel n true now).src n).level = true := by
  cases h : (c.src n).level with
  | true => simp [Ic.setLevel, h]
  | false =>
    have hfire : c.setLevel n true now = (c.setSrc n { c.src n with level := true }).fire n now := by simp [Ic.setLevel, h]
    rw [hfire, Ic.src_fire_level _ hn, Ic.src_setSrc_same]

/-! ### A port treated as HELD -/

/-- The port is HELD from now on: an entry into HELD where its link was up, and else a change of its state alone. -/
def State.treatAsHeld (s : State) (n : Nat) : State :=
  if (s.fport n).state == 1 then s.holdLink n else (s.modFport n fun f => { f with state := 2 }).icLevel (416 + n) true

/-- Up or not, the port becomes HELD and its source is asserted. -/
theorem State.treatAsHeld_eq (s : State) (n : Nat) :
    ∃ g : FPort → FPort, (∀ f, (g f).state = 2) ∧ s.treatAsHeld n = (s.modFport n g).icLevel (416 + n) true := by
  unfold State.treatAsHeld
  split
  · exact ⟨_, fun _ => rfl, rfl⟩
  · exact ⟨_, fun _ => rfl, rfl⟩

theorem exec_linkUnencrypted {s : State} {n : Nat} (h : s.live = true) (hn : n < s.nFports) :
    exec (.linkUnencrypted n) s = .next ((s.treatAsHeld n).modFport n fun f => { f with encrypted := false }) := by
  have hguard : exec (.linkUnencrypted n) s = .next (s.whenLive fun s => s.when (n < s.nFports) fun s =>
      (s.treatAsHeld n).modFport n fun f => { f with encrypted := false }) := rfl
  rw [hguard, State.whenLive_live h, decide_eq_true hn, State.when_true]

/-- Settles O11: both branches make the port HELD and assert its source; the last change clears ENCRYPTED and keeps the rest. -/
theorem unencryptedLinksAreHeld : Obligations.UnencryptedLinksAreHeld := by
  unfold Obligations.UnencryptedLinksAreHeld
  intro s n hlive hn
  refine completes_of (exec_linkUnencrypted hlive hn) ?_
  obtain ⟨g, hg, heq⟩ := s.treatAsHeld_eq n
  rw [heq]
  have hport : (((s.modFport n g).icLevel (416 + n) true).modFport n fun f => { f with encrypted := false }).fport n
      = { g (s.fport n) with encrypted := false } := by simp
  refine ⟨?frame, ?state, ?encrypted, ?word, ?source, fun m hm => ?other⟩
  case frame =>
    exact ((modFport_frame s n g).mono (by simp)).trans
      (((setIc_frame _ _).mono (by simp)).trans ((modFport_frame _ n _).mono (by simp)))
  case state => rw [hport, hg]
  case encrypted => rw [hport]
  case word =>
    refine (State.fportWord_encrypted ?_ ?_).trans ?_
    · exact hn
    · rw [hport, hg]
      decide
    · rw [hport, Bool.toNat_false]
  case source => exact Ic.src_setLevel_true_level _ (by omega) _
  case other => rw [State.fport_modFport_ne _ _ hm, State.fport_icLevel, State.fport_modFport_ne _ _ hm]

end Sys2Proof.Machine
end

section
/-!
What a command keeps (tier 3): every command answers a next state, and that state keeps what outlives every command, the
canonical forms, and the bounds of the error stores. A proof names the operations that the command is made of, each of which
keeps them (Laws/); commands that set the state themselves bring a lemma for what they set.
-/
namespace Sys2Proof.Machine

open Sys2Proof

/-- The outcome is a next state that satisfies `P`. -/
def Answers (P : State → Prop) : Host.Outcome State Fault Refusal → Prop
  | .next t => P t
  | _ => False

theorem Answers.mono {P Q : State → Prop} {o : Host.Outcome State Fault Refusal} (h : Answers P o) (k : ∀ t, P t → Q t) :
    Answers Q o := by
  cases o with
  | next t => exact k t h
  | _ => exact h

theorem Answers.exists_next {P : State → Prop} {o : Host.Outcome State Fault Refusal} (h : Answers P o) :
    ∃ t, o = .next t ∧ P t := by
  cases o with
  | next t => exact ⟨t, rfl, h⟩
  | _ => exact h.elim

section
variable {r₀ s : State}

/-! ### Commands that set tables, fuses or error stores themselves -/

/-- A change of the error stores that leaves the bounded ones as they are. -/
theorem keeps_setErrs_of_stores {e : Errors} (hk : Keeps r₀ s) (hq : e.queues = s.errs.queues)
    (hl : e.log = s.errs.log) (hn : e.quarantine = s.errs.quarantine) : Keeps r₀ { s with errs := e } :=
  { hk with errs := fun b => ⟨hq ▸ (hk.errs b).queues, hl ▸ (hk.errs b).log, hn ▸ (hk.errs b).quarantine,
      hn ▸ (hk.errs b).words⟩ }

theorem execQueueGuilty_keeps (q : Nat) (admittedCopy : Bool) (hk : Keeps r₀ s) :
    Answers (Keeps r₀) (execQueueGuilty q admittedCopy s) := by
  refine State.whenLive_keeps _ _ hk fun s hs => State.when_keeps _ _ _ hs fun s hs => ?_
  refine keeps_foldl _ _ (State.setQState_keeps _ _ _ (State.modQueue_keeps _ _ _ ?stores)) fun s e hs => ?slot
  case stores => exact keeps_setErrs_of_stores hs rfl rfl rfl
  case slot =>
    split
    · exact State.endSlot_keeps _ _ _ _ hs
    · exact State.refuseSlot_keeps _ _ _ _ _ _ hs

theorem execAbortNoticeReceived_keeps (group origin serial : Nat) (hk : Keeps r₀ s) :
    Answers (Keeps r₀) (execAbortNoticeReceived group origin serial s) :=
  State.whenLive_keeps _ _ hk fun _ hs => State.when_keeps _ _ _ hs fun _ hs =>
    State.track_keeps _ (keeps_foldl _ _ (keeps_setErrs_of_stores hs rfl rfl rfl) fun _ _ hs => State.abortPart_keeps _ _ hs)

theorem execErrQstatRead_keeps (queue : Nat) (half : Half) (hk : Keeps r₀ s) :
    Answers (Keeps r₀) (execErrQstatRead queue half s) := by
  refine State.whenLive_keeps _ _ hk fun s hs => ?_
  dsimp only
  split
  · refine keeps_set_errs (State.emit_keeps _ _ hs) (kErrs_setQueues hs.errs ?_)
    exact kErrQueues_put _ (kErrs_queues hs.errs) fun b => errors_queue_le (hs.errs b) queue
  · exact State.emit_keeps _ _ hs

theorem State.addDraft_keeps {t : State} {e : Slot} {i v : Nat} {f : Folio} {base : Option VSlot}
    (h : s.addDraft e i f base = some (t, v)) (hk : Keeps r₀ s) : Keeps r₀ t := by
  unfold State.addDraft at h
  dsimp only at h
  split at h
  · cases h
  · cases h
    exact State.modCtx_keeps _ _ _ (keeps_set_folios hk (kTbl_put _ _ hk.folios))

theorem execFolioOpenDraft_keeps (q seq : Nat) (resultMapped : Bool) (hk : Keeps r₀ s) :
    Answers (Keeps r₀) (execFolioOpenDraft q seq resultMapped s) := by
  refine State.whenLive_keeps _ _ hk fun s hs => State.onFolio_keeps _ _ _ _ _ _ _ hs fun e i f s hs => ?_
  repeat' with_reducible first
    | assumption | apply State.finishFolio_keeps | apply State.finishSlot_keeps | split
  next h => exact State.addDraft_keeps h hs

/-- The scratchpads of some cores are cleared. -/
theorem commonsCleared_keeps (p : Nat → Bool) (commons : Commons) (hk : Keeps r₀ s) :
    Keeps r₀ { s with
      cores := s.cores.mapV fun k c => if p k then { c with scratch := [], lastContext := none } else c
      commons := commons } := by
  refine keeps_set_cores hk (kTbl_mapV _ hk.cores) (kCores_mapV hk.pads fun k c hc => ?_)
  split
  · exact kPad_nil
  · exact hc

theorem execCommonsSwitchDone_keeps (hk : Keeps r₀ s) : Answers (Keeps r₀) (execCommonsSwitchDone s) := by
  refine State.whenLive_keeps _ _ hk fun s hs => ?_
  dsimp only
  split
  · exact hs
  · refine State.when_keeps _ _ _ hs fun s hs => State.track_keeps _ (State.modPart_keeps _ _ _ ?_)
    refine commonsCleared_keeps _ _ (State.dropLines_keeps _ _ _ (keeps_set (State.account_keeps _ _ _ hs)))

/-- What a boundary of time changes in the tables and the clock. -/
theorem keeps_set_boundary {time : Time} {power : Power} {parts : Tbl Partition} {queues : Tbl Queue} {ctxs : Tbl Context}
    {accrued : Tbl Nat} (hk : Keeps r₀ s) (ht : time.now = s.time.now) (hp : KTbl r₀ parts) (hq : KTbl r₀ queues)
    (hc : KTbl r₀ ctxs) (ha : KTbl r₀ accrued) :
    Keeps r₀ { s with
      time := time, power := power, parts := parts, queues := queues, ctxs := ctxs, accrued := accrued } :=
  { hk with now := Nat.le_trans hk.now (Nat.le_of_eq ht.symm), parts := hp, queues := hq, ctxs := hc, accrued := ha }

theorem execRegulatorTokenAccrual_keeps (port : Nat) (hk : Keeps r₀ s) :
    Answers (Keeps r₀) (execRegulatorTokenAccrual port s) := by
  refine State.whenLive_keeps _ _ hk fun s hs => State.when_keeps _ _ _ hs fun s hs => State.pumpPort_keeps _ _ ?_
  refine keeps_set_boundary hs ?clock (kTbl_mapV _ hs.parts) hs.queues hs.ctxs (kTbl_put _ _ hs.accrued)
  rfl

theorem execMsBoundary_keeps (blockWatts : Nat) (clusterWatts : List (Nat × Nat)) (hk : Keeps r₀ s) :
    Answers (Keeps r₀) (execMsBoundary blockWatts clusterWatts s) := by
  refine State.whenLive_keeps _ _ hk fun s hs => State.when_keeps _ _ _ hs fun s hs => ?_
  have hw := State.chargeWaits_keeps s hs
  refine keeps_set_boundary hw ?clock (kTbl_mapV _ hw.parts) (kTbl_mapV _ hw.queues) (kTbl_mapV _ hw.ctxs) hw.accrued
  rfl

theorem execPowerWindowEnd_keeps (joules : List (Nat × Nat)) (hk : Keeps r₀ s) :
    Answers (Keeps r₀) (execPowerWindowEnd joules s) := by
  refine State.whenLive_keeps _ _ hk fun s hs => State.when_keeps _ _ _ hs fun s hs => ?_
  refine keeps_set_boundary hs ?clock (kTbl_mapV _ hs.parts) hs.queues hs.ctxs hs.accrued
  rfl

/-- R316: the first bank is written into an empty row. -/
theorem keeps_firstBank (b : Bool) (d : BitVec 384) (hk : Keeps r₀ s) :
    Keeps r₀ (if b && s.fuses.ownerBanks.isEmpty then { s with fuses := { s.fuses with ownerBanks := [d] } } else s) := by
  split
  next h =>
    have hempty : s.fuses.ownerBanks = [] := List.isEmpty_iff.1 (Bool.and_eq_true_iff.1 h).2
    have hbank := blown_bank d hk.fuses
    rw [hempty] at hbank
    exact keeps_set_fuses hk hbank
  next => exact hk

theorem execFinish_keeps (session : Nat) (ok : Bool) (rootDigest : Option (BitVec 384)) (hk : Keeps r₀ s) :
    Answers (Keeps r₀) (execFinish session ok rootDigest s) := by
  refine State.inOrderOf_keeps _ _ _ _ hk fun x s hs => ?_
  dsimp only
  split
  · exact State.spdmError_keeps _ _ (State.loseSession_keeps _ _ hs)
  · refine State.respondFree_keeps _ _ _ ?_
    split
    · exact keeps_firstBank _ _ (State.setSession_keeps _ _ _ hs)
    · exact State.setSession_keeps _ _ _ hs

theorem execErrPop_keeps (queue : Nat) (v : BitVec 32) (hk : Keeps r₀ s) : Answers (Keeps r₀) (execErrPop queue v s) :=
  State.whenLive_keeps _ _ hk fun _ hs => State.when_keeps _ _ _ hs fun _ hs =>
    State.popError_keeps _ _ (keeps_set_errs hs (Errors.toLog_kErrs _ _ hs.errs))

/-! ### QueueCmds -/

theorem execScQdb_keeps (r : Requester) (q : Nat) (v : BitVec 32) (hk : Keeps r₀ s) :
    Answers (Keeps r₀) (execScQdb r q v s) := by
  unfold execScQdb
  show Keeps r₀ _
  repeat' with_reducible first
    | assumption | apply State.modQueue_keeps | apply State.onQueuePage_keeps | intro _

theorem execDoorbellTokenAccrual_keeps (q : Nat) (hk : Keeps r₀ s) :
    Answers (Keeps r₀) (execDoorbellTokenAccrual q s) := by
  unfold execDoorbellTokenAccrual
  show Keeps r₀ _
  repeat' with_reducible first
    | assumption | apply State.modQueue_keeps | apply State.when_keeps | apply State.whenLive_keeps | intro _

theorem execScQcountsRead_keeps (r : Requester) (q : Nat) (half : Half) (hk : Keeps r₀ s) :
    Answers (Keeps r₀) (execScQcountsRead r q half s) := by
  unfold execScQcountsRead
  show Keeps r₀ _
  repeat' with_reducible first
    | assumption | apply State.access_keeps | apply State.badRead_keeps | apply State.emit_keeps
    | apply State.modQueue_keeps | split | intro _

theorem execQueueWriteAccepted_keeps (q : Nat) (hk : Keeps r₀ s) : Answers (Keeps r₀) (execQueueWriteAccepted q s) := by
  unfold execQueueWriteAccepted
  show Keeps r₀ _
  repeat' with_reducible first
    | assumption | apply State.endResume_keeps | apply State.issueHead_keeps | apply State.modQueue_keeps
    | apply State.when_keeps | apply State.whenLive_keeps | intro _

theorem execInterruptLost_keeps (q : Nat) (hk : Keeps r₀ s) : Answers (Keeps r₀) (execInterruptLost q s) := by
  unfold execInterruptLost
  show Keeps r₀ _
  repeat' with_reducible first
    | assumption | apply State.issueHead_keeps | apply State.modQueue_keeps | apply State.when_keeps
    | apply State.whenLive_keeps | intro _

theorem execQueueAreaAccessFail_keeps (q : Nat) (area : QueueArea) (hk : Keeps r₀ s) :
    Answers (Keeps r₀) (execQueueAreaAccessFail q area s) := by
  unfold execQueueAreaAccessFail
  show Keeps r₀ _
  repeat' with_reducible first
    | assumption | apply State.issueHead_keeps | apply State.modQueue_keeps | apply State.noteBlocked_keeps
    | apply State.setQState_keeps | apply State.when_keeps | apply State.whenLive_keeps | split | apply keeps_set
    | intro _

theorem execScQctlStop_keeps (r : Requester) (q : Nat) (hk : Keeps r₀ s) :
    Answers (Keeps r₀) (execScQctlStop r q s) := by
  unfold execScQctlStop
  show Keeps r₀ _
  repeat' with_reducible first
    | assumption | apply State.modQueue_keeps | apply State.onQueuePage_keeps | apply State.setQState_keeps
    | apply State.when_keeps | intro _

theorem execScQctlResume_keeps (r : Requester) (q : Nat) (hk : Keeps r₀ s) :
    Answers (Keeps r₀) (execScQctlResume r q s) := by
  unfold execScQctlResume
  show Keeps r₀ _
  repeat' with_reducible first
    | assumption | apply State.modQueue_keeps | apply State.onQueuePage_keeps | apply State.setQState_keeps
    | apply State.startResume_keeps | apply State.when_keeps | split | apply keeps_set | intro _

/-! ### SlotCmds -/

theorem execSlotFetch_keeps (q : Nat) (hk : Keeps r₀ s) : Answers (Keeps r₀) (execSlotFetch q s) := by
  unfold execSlotFetch
  show Keeps r₀ _
  repeat' with_reducible first
    | assumption | apply State.modQueue_keeps | apply State.viaPath_keeps | apply State.when_keeps
    | apply State.whenLive_keeps | intro _

theorem execSlotArrival_keeps (q : Nat) (d : ReadData) (hk : Keeps r₀ s) :
    Answers (Keeps r₀) (execSlotArrival q d s) := by
  unfold execSlotArrival
  show Keeps r₀ _
  repeat' with_reducible first
    | assumption | apply State.checkArrival_keeps | apply State.modQueue_keeps | apply State.refuseUnfetched_keeps
    | apply State.when_keeps | apply State.whenLive_keeps | split | apply keeps_set | intro _

theorem execExternalConstantsReadDone_keeps (q seq : Nat) (d : ReadData) (hk : Keeps r₀ s) :
    Answers (Keeps r₀) (execExternalConstantsReadDone q seq d s) := by
  unfold execExternalConstantsReadDone
  show Keeps r₀ _
  repeat' with_reducible first
    | assumption | apply State.checkLaunch_keeps | apply State.endRead_keeps | apply State.modSlot_keeps
    | apply State.onSlot_keeps | apply State.refuseSlot_keeps | apply State.whenLive_keeps | split | intro _

theorem execOverrideTableReadDone_keeps (q seq : Nat) (d : ReadData) (hk : Keeps r₀ s) :
    Answers (Keeps r₀) (execOverrideTableReadDone q seq d s) := by
  unfold execOverrideTableReadDone
  show Keeps r₀ _
  repeat' with_reducible first
    | assumption | apply State.checkLaunch_keeps | apply State.endRead_keeps | apply State.modSlot_keeps
    | apply State.onSlot_keeps | apply State.refuseSlot_keeps | apply State.whenLive_keeps | split | intro _

theorem execNop_keeps (q seq : Nat) (hk : Keeps r₀ s) : Answers (Keeps r₀) (execNop q seq s) := by
  unfold execNop
  show Keeps r₀ _
  repeat' with_reducible first
    | assumption | apply State.finishOk_keeps | apply State.onSlot_keeps | apply State.whenLive_keeps | intro _

theorem execLaunch_keeps (q seq : Nat) (hk : Keeps r₀ s) : Answers (Keeps r₀) (execLaunch q seq s) := by
  unfold execLaunch
  show Keeps r₀ _
  repeat' with_reducible first
    | assumption | apply State.onSlot_keeps | apply State.startLaunch_keeps | apply State.whenLive_keeps | intro _

theorem execChainStore_keeps (q seq : Nat) (d : ReadData) (hk : Keeps r₀ s) :
    Answers (Keeps r₀) (execChainStore q seq d s) := by
  unfold execChainStore
  show Keeps r₀ _
  repeat' with_reducible first
    | assumption | apply State.admitSlot_keeps | apply State.endRead_keeps | apply State.finishOk_keeps
    | apply State.modCtx_keeps | apply State.onSlot_keeps | apply State.refuseArgs_keeps | apply State.whenLive_keeps
    | split | intro _

theorem execChainRun_keeps (q seq : Nat) (hk : Keeps r₀ s) : Answers (Keeps r₀) (execChainRun q seq s) := by
  unfold execChainRun
  show Keeps r₀ _
  repeat' with_reducible first
    | assumption | apply State.onSlot_keeps | apply State.startLaunch_keeps | apply State.whenLive_keeps | intro _

theorem execAdviseNormal_keeps (q seq : Nat) (hk : Keeps r₀ s) : Answers (Keeps r₀) (execAdviseNormal q seq s) := by
  unfold execAdviseNormal
  show Keeps r₀ _
  repeat' with_reducible first
    | assumption | apply State.adviseOut_keeps | apply State.whenLive_keeps | intro _

theorem execAdviseHot_keeps (q seq : Nat) (hk : Keeps r₀ s) : Answers (Keeps r₀) (execAdviseHot q seq s) := by
  unfold execAdviseHot
  show Keeps r₀ _
  repeat' with_reducible first
    | assumption | apply State.adviseOut_keeps | apply State.whenLive_keeps | intro _

theorem execAdviseCold_keeps (q seq : Nat) (hk : Keeps r₀ s) : Answers (Keeps r₀) (execAdviseCold q seq s) := by
  unfold execAdviseCold
  show Keeps r₀ _
  repeat' with_reducible first
    | assumption | apply State.adviseOut_keeps | apply State.whenLive_keeps | intro _

theorem execAdviseWillNeed_keeps (q seq : Nat) (hk : Keeps r₀ s) : Answers (Keeps r₀) (execAdviseWillNeed q seq s) := by
  unfold execAdviseWillNeed
  show Keeps r₀ _
  repeat' with_reducible first
    | assumption | apply State.adviseOut_keeps | apply State.whenLive_keeps | intro _

theorem execAdviseDontNeed_keeps (q seq : Nat) (hk : Keeps r₀ s) : Answers (Keeps r₀) (execAdviseDontNeed q seq s) := by
  unfold execAdviseDontNeed
  show Keeps r₀ _
  repeat' with_reducible first
    | assumption | apply State.dropLines_keeps | apply State.finishOk_keeps | apply State.onSlot_keeps
    | apply State.whenLive_keeps | intro _

theorem execAdviseReleaseKeep_keeps (q seq : Nat) (hk : Keeps r₀ s) :
    Answers (Keeps r₀) (execAdviseReleaseKeep q seq s) := by
  unfold execAdviseReleaseKeep
  show Keeps r₀ _
  repeat' with_reducible first
    | assumption | apply State.finishOk_keeps | apply State.onSlot_keeps | apply State.whenLive_keeps
    | apply keeps_set | intro _

theorem execPrefetchNearTier_keeps (q seq : Nat) (hk : Keeps r₀ s) :
    Answers (Keeps r₀) (execPrefetchNearTier q seq s) := by
  unfold execPrefetchNearTier
  show Keeps r₀ _
  repeat' with_reducible first
    | assumption | apply State.onSlot_keeps | apply State.sendAdvice_keeps | apply State.whenLive_keeps | intro _

theorem execPrefetchClusterCache_keeps (q seq : Nat) (hk : Keeps r₀ s) :
    Answers (Keeps r₀) (execPrefetchClusterCache q seq s) := by
  unfold execPrefetchClusterCache
  show Keeps r₀ _
  repeat' with_reducible first
    | assumption | apply State.fillRange_keeps | apply State.onSlot_keeps | apply State.settleAdvice_keeps
    | apply State.whenLive_keeps | intro _

theorem execPrefetchBoth_keeps (q seq : Nat) (hk : Keeps r₀ s) : Answers (Keeps r₀) (execPrefetchBoth q seq s) := by
  unfold execPrefetchBoth
  show Keeps r₀ _
  repeat' with_reducible first
    | assumption | apply State.fillRange_keeps | apply State.onSlot_keeps | apply State.sendAdvice_keeps
    | apply State.whenLive_keeps | intro _

theorem execAdviceAck_keeps (q seq : Nat) (hk : Keeps r₀ s) : Answers (Keeps r₀) (execAdviceAck q seq s) := by
  unfold execAdviceAck
  show Keeps r₀ _
  repeat' with_reducible first
    | assumption | apply State.modSlot_keeps | apply State.onSlot_keeps | apply State.settleAdvice_keeps
    | apply State.whenLive_keeps | intro _

theorem execFenceQueue_keeps (q seq : Nat) (hk : Keeps r₀ s) : Answers (Keeps r₀) (execFenceQueue q seq s) := by
  unfold execFenceQueue
  show Keeps r₀ _
  repeat' with_reducible first
    | assumption | apply State.startFence_keeps | apply State.whenLive_keeps | intro _

theorem execFenceContext_keeps (q seq : Nat) (hk : Keeps r₀ s) : Answers (Keeps r₀) (execFenceContext q seq s) := by
  unfold execFenceContext
  show Keeps r₀ _
  repeat' with_reducible first
    | assumption | apply State.startFence_keeps | apply State.whenLive_keeps | intro _

theorem execFenceFinish_keeps (q seq : Nat) (hk : Keeps r₀ s) : Answers (Keeps r₀) (execFenceFinish q seq s) := by
  unfold execFenceFinish
  show Keeps r₀ _
  repeat' with_reducible first
    | assumption | apply State.finishOk_keeps | apply State.onSlot_keeps | apply State.whenLive_keeps | intro _

theorem execSeqAdmit_keeps (q seq : Nat) (hk : Keeps r₀ s) : Answers (Keeps r₀) (execSeqAdmit q seq s) := by
  unfold execSeqAdmit
  show Keeps r₀ _
  repeat' with_reducible first
    | assumption | apply State.admitSlot_keeps | apply State.finishOk_keeps | apply State.onSlot_keeps
    | apply State.refuseArgs_keeps | apply State.refuseSlot_keeps | apply State.whenLive_keeps | split
    | apply keeps_set | apply keeps_set_seqs | apply Keeps.seqs | apply kTbl_put | intro _

theorem execSeqRetireOne_keeps (q seq : Nat) (hk : Keeps r₀ s) : Answers (Keeps r₀) (execSeqRetireOne q seq s) := by
  unfold execSeqRetireOne
  show Keeps r₀ _
  repeat' with_reducible first
    | assumption | apply State.seqRetire_keeps | apply State.whenLive_keeps | intro _

theorem execSeqRetireGroup_keeps (q seq : Nat) (hk : Keeps r₀ s) : Answers (Keeps r₀) (execSeqRetireGroup q seq s) := by
  unfold execSeqRetireGroup
  show Keeps r₀ _
  repeat' with_reducible first
    | assumption | apply State.seqRetire_keeps | apply State.whenLive_keeps | intro _

theorem execSeqRetireContext_keeps (q seq : Nat) (hk : Keeps r₀ s) :
    Answers (Keeps r₀) (execSeqRetireContext q seq s) := by
  unfold execSeqRetireContext
  show Keeps r₀ _
  repeat' with_reducible first
    | assumption | apply State.seqRetire_keeps | apply State.whenLive_keeps | intro _

theorem execSeqEntryFreed_keeps (entry : Nat) (hk : Keeps r₀ s) : Answers (Keeps r₀) (execSeqEntryFreed entry s) := by
  unfold execSeqEntryFreed
  show Keeps r₀ _
  repeat' with_reducible first
    | assumption | apply State.finishOk_keeps | apply State.onSlot_keeps | apply State.when_keeps
    | apply State.whenLive_keeps | apply keeps_foldl | apply keeps_set_seqs | apply Keeps.seqs | apply kTbl_del
    | intro _

/-! ### FolioCmds -/

theorem execFolioOpenRead_keeps (q seq : Nat) (resultMapped : Bool) (hk : Keeps r₀ s) :
    Answers (Keeps r₀) (execFolioOpenRead q seq resultMapped s) := by
  unfold execFolioOpenRead
  show Keeps r₀ _
  dsimp only
  repeat' with_reducible first
    | assumption | apply State.addOpen_keeps | apply State.finishFolio_keeps | apply State.finishSlot_keeps
    | apply State.onFolio_keeps | apply State.whenLive_keeps | split | intro _

theorem execFolioClose_keeps (q seq : Nat) (resultMapped : Bool) (hk : Keeps r₀ s) :
    Answers (Keeps r₀) (execFolioClose q seq resultMapped s) := by
  unfold execFolioClose
  show Keeps r₀ _
  repeat' with_reducible first
    | assumption | apply State.closeHolds_keeps | apply State.closeOpens_keeps | apply State.discardDraft_keeps
    | apply State.finishFolio_keeps | apply State.onFolio_keeps | apply State.whenLive_keeps | split | intro _

theorem execPageListReadDone_keeps (q seq : Nat) (d : ReadData) (hk : Keeps r₀ s) :
    Answers (Keeps r₀) (execPageListReadDone q seq d s) := by
  unfold execPageListReadDone
  show Keeps r₀ _
  repeat' with_reducible first
    | assumption | apply State.admitSlot_keeps | apply State.endRead_keeps | apply State.modSlot_keeps
    | apply State.onSlot_keeps | apply State.refuseArgs_keeps | apply State.whenLive_keeps | split | apply keeps_set
    | intro _

theorem execFolioPublish_keeps (q seq : Nat) (resultMapped : Bool) (hk : Keeps r₀ s) :
    Answers (Keeps r₀) (execFolioPublish q seq resultMapped s) := by
  unfold execFolioPublish
  show Keeps r₀ _
  dsimp only
  repeat' with_reducible first
    | assumption | apply State.draftToOpen_keeps | apply State.finishFolio_keeps | apply State.finishSlot_keeps
    | apply State.onFolio_keeps | apply State.publish_keeps | apply State.publishList_keeps
    | apply State.whenLive_keeps | split | intro _

theorem execMirrorCopyDone_keeps (folio version : Nat) (hk : Keeps r₀ s) :
    Answers (Keeps r₀) (execMirrorCopyDone folio version s) := by
  unfold execMirrorCopyDone
  show Keeps r₀ _
  repeat' with_reducible first
    | assumption | apply State.dropFolioAtc_keeps | apply State.giveMirrors_keeps | apply State.icFire_keeps
    | apply State.modFolio_keeps | apply State.when_keeps | apply State.whenLive_keeps | split | apply keeps_set
    | intro _

/-! ### TileCmds -/

theorem execPhaseStart_keeps (q seq phase : Nat) (hk : Keeps r₀ s) :
    Answers (Keeps r₀) (execPhaseStart q seq phase s) := by
  unfold execPhaseStart
  show Keeps r₀ _
  repeat' with_reducible first
    | assumption | apply State.buildWork_keeps | apply State.modSlot_keeps | apply State.onSlot_keeps
    | apply State.settleLaunch_keeps | apply State.startReshards_keeps | apply State.track_keeps
    | apply State.when_keeps | apply State.whenLive_keeps | split | apply keeps_set | intro _

theorem execTileStart_keeps (core : Nat) (gathers : List Gather) (hk : Keeps r₀ s) :
    Answers (Keeps r₀) (execTileStart core gathers s) := by
  unfold execTileStart
  show Keeps r₀ _
  repeat' with_reducible first
    | assumption | apply State.startTile_keeps | apply State.when_keeps | apply State.whenLive_keeps | split | intro _

theorem execBaste_keeps (core : Nat) (hk : Keeps r₀ s) : Answers (Keeps r₀) (execBaste core s) := by
  unfold execBaste
  show Keeps r₀ _
  repeat' with_reducible first
    | assumption | apply State.modCore_keeps | apply State.when_keeps | apply State.whenLive_keeps | intro _

theorem execContextSwitchDone_keeps (core : Nat) (hk : Keeps r₀ s) :
    Answers (Keeps r₀) (execContextSwitchDone core s) := by
  unfold execContextSwitchDone
  show Keeps r₀ _
  repeat' with_reducible first
    | assumption | apply State.kick_keeps | apply State.modCore_keeps | apply State.when_keeps
    | apply State.whenLive_keeps | split | apply keeps_set | intro _

theorem execGatherReturn_keeps (core request : Nat) (more : List Gather) (hk : Keeps r₀ s) :
    Answers (Keeps r₀) (execGatherReturn core request more s) := by
  unfold execGatherReturn
  show Keeps r₀ _
  repeat' with_reducible first
    | assumption | apply State.dropReq_keeps | apply State.issueGathers_keeps | apply State.modCore_keeps
    | apply State.noteStall_keeps | apply State.when_keeps | apply State.whenLive_keeps | split | apply keeps_set
    | intro _

theorem execTileCommitStart_keeps (core : Nat) (work : List TileOp) (hk : Keeps r₀ s) :
    Answers (Keeps r₀) (execTileCommitStart core work s) := by
  unfold execTileCommitStart
  show Keeps r₀ _
  repeat' with_reducible first
    | assumption | apply State.fillStaged_keeps | apply State.modCore_keeps | apply State.modSlot_keeps
    | apply State.pinTargets_keeps | apply State.runOps_keeps | apply State.when_keeps | apply State.whenLive_keeps
    | split | apply keeps_set | intro _

theorem execForcedTack_keeps (core : Nat) (hk : Keeps r₀ s) : Answers (Keeps r₀) (execForcedTack core s) := by
  unfold execForcedTack
  show Keeps r₀ _
  repeat' with_reducible first
    | assumption | apply State.forceCounted_keeps | apply State.when_keeps | apply State.whenLive_keeps | intro _

theorem execIdleStrandsTimeout_keeps (core : Nat) (hk : Keeps r₀ s) :
    Answers (Keeps r₀) (execIdleStrandsTimeout core s) := by
  unfold execIdleStrandsTimeout
  show Keeps r₀ _
  repeat' with_reducible first
    | assumption | apply State.forceCounted_keeps | apply State.when_keeps | apply State.whenLive_keeps | intro _

theorem execAbandonDone_keeps (core : Nat) (hk : Keeps r₀ s) : Answers (Keeps r₀) (execAbandonDone core s) := by
  unfold execAbandonDone
  show Keeps r₀ _
  repeat' with_reducible first
    | assumption | apply State.chargeTile_keeps | apply State.dropTileReqs_keeps | apply State.endTile_keeps
    | apply State.modSlot_keeps | apply State.returnTile_keeps | apply State.settleLaunch_keeps
    | apply State.track_keeps | apply State.unpinAll_keeps | apply State.when_keeps | apply State.whenLive_keeps
    | intro _

theorem execMonitorTick_keeps (hk : Keeps r₀ s) : Answers (Keeps r₀) (execMonitorTick s) := by
  unfold execMonitorTick
  show Keeps r₀ _
  repeat' with_reducible first
    | assumption | apply State.monitorOne_keeps | apply State.when_keeps | apply State.whenLive_keeps
    | apply keeps_foldl | intro _

theorem execHemForcedTack_keeps (q seq : Nat) (hk : Keeps r₀ s) : Answers (Keeps r₀) (execHemForcedTack q seq s) := by
  unfold execHemForcedTack
  show Keeps r₀ _
  repeat' with_reducible first
    | assumption | apply State.forceLaunch_keeps | apply State.modSlot_keeps | apply State.onSlot_keeps
    | apply State.whenLive_keeps | split | apply keeps_set | intro _

theorem execFallbackSwitch_keeps (q seq : Nat) (hk : Keeps r₀ s) : Answers (Keeps r₀) (execFallbackSwitch q seq s) := by
  unfold execFallbackSwitch
  show Keeps r₀ _
  repeat' with_reducible first
    | assumption | apply State.forceLaunch_keeps | apply State.modPart_keeps | apply State.modSlot_keeps
    | apply State.onSlot_keeps | apply State.settleLaunch_keeps | apply State.track_keeps | apply State.whenLive_keeps
    | split | apply keeps_set | intro _

theorem execCommonsSwitch_keeps (ctx : Nat) (hk : Keeps r₀ s) : Answers (Keeps r₀) (execCommonsSwitch ctx s) := by
  unfold execCommonsSwitch
  show Keeps r₀ _
  repeat' with_reducible first
    | assumption | apply State.forceCounted_keeps | apply State.when_keeps | apply State.whenLive_keeps
    | apply keeps_foldl | apply keeps_set | intro _

/-! ### MemCmds -/

theorem execMemData_keeps (port tag : Nat) (words : List (BitVec 288)) (hk : Keeps r₀ s) :
    Answers (Keeps r₀) (execMemData port tag words s) := by
  unfold execMemData
  show Keeps r₀ _
  dsimp only
  repeat' with_reducible first
    | assumption | apply State.arriveWords_keeps | apply State.goOnRead_keeps | apply State.pumpPort_keeps
    | apply State.when_keeps | apply State.whenLive_keeps | split | apply keeps_set | intro _

theorem execMemAck_keeps (port tag : Nat) (hk : Keeps r₀ s) : Answers (Keeps r₀) (execMemAck port tag s) := by
  unfold execMemAck
  show Keeps r₀ _
  repeat' with_reducible first
    | assumption | apply State.dropReq_keeps | apply State.pumpPort_keeps | apply State.when_keeps
    | apply State.whenLive_keeps | split | intro _

theorem execMirrorServed_keeps (cluster folio page word : Nat) (mirror back : BitVec 288) (hk : Keeps r₀ s) :
    Answers (Keeps r₀) (execMirrorServed cluster folio page word mirror back s) := by
  unfold execMirrorServed
  show Keeps r₀ _
  repeat' with_reducible first
    | assumption | apply State.emit_keeps | apply State.goOnRead_keeps | apply State.logError_keeps
    | apply State.storePoison_keeps | apply State.whenLive_keeps | apply State.writeBack_keeps | split
    | apply keeps_set | intro _

theorem execBackInval_keeps (line : Nat) (hk : Keeps r₀ s) : Answers (Keeps r₀) (execBackInval line s) := by
  unfold execBackInval
  show Keeps r₀ _
  repeat' with_reducible first
    | assumption | apply State.answerInval_keeps | apply State.whenLive_keeps | split | apply keeps_set | intro _

theorem execSnoop_keeps (line : Nat) (hk : Keeps r₀ s) : Answers (Keeps r₀) (execSnoop line s) := by
  unfold execSnoop
  show Keeps r₀ _
  repeat' with_reducible first
    | assumption | apply State.answerSnoop_keeps | apply State.whenLive_keeps | split | apply keeps_set | intro _

/-! ### CommitCmds -/

theorem execCommitPhaseEnd_keeps (core : Nat) (hk : Keeps r₀ s) : Answers (Keeps r₀) (execCommitPhaseEnd core s) := by
  unfold execCommitPhaseEnd
  show Keeps r₀ _
  repeat' with_reducible first
    | assumption | apply State.answerWaits_keeps | apply State.chargeTile_keeps | apply State.countTile_keeps
    | apply State.endTile_keeps | apply State.failAfterCommit_keeps | apply State.fillStaged_keeps
    | apply State.makeVisible_keeps | apply State.modSlot_keeps | apply State.monitorOne_keeps
    | apply State.settleLaunch_keeps | apply State.track_keeps | apply State.unpinAll_keeps
    | apply State.warmFor_keeps | apply State.when_keeps | apply State.whenLive_keeps | apply State.writeQuality_keeps
    | split | apply keeps_set | intro _

theorem execReductionApply_keeps (cluster slice : Nat) (hk : Keeps r₀ s) :
    Answers (Keeps r₀) (execReductionApply cluster slice s) := by
  unfold execReductionApply
  show Keeps r₀ _
  repeat' with_reducible first
    | assumption | apply State.addReq_keeps | apply State.issuePool_keeps | apply State.logError_keeps
    | apply State.modLine_keeps | apply State.shareDirty_keeps | apply State.when_keeps | apply State.whenLive_keeps
    | split | apply keeps_set | intro _

theorem execGranuleCommit_keeps (cluster : Nat) (hk : Keeps r₀ s) :
    Answers (Keeps r₀) (execGranuleCommit cluster s) := by
  unfold execGranuleCommit
  show Keeps r₀ _
  repeat' with_reducible first
    | assumption | apply State.modCluster_keeps | apply State.modSlot_keeps | apply State.settleLaunch_keeps
    | apply State.track_keeps | apply State.whenLive_keeps | split | apply keeps_set | intro _

theorem execSharedPageCopyDone_keeps (folio version page : Nat) (hk : Keeps r₀ s) :
    Answers (Keeps r₀) (execSharedPageCopyDone folio version page s) := by
  unfold execSharedPageCopyDone
  show Keeps r₀ _
  repeat' with_reducible first
    | assumption | apply State.atcDrop_keeps | apply State.kickAll_keeps | apply State.modFolio_keeps
    | apply State.modSlot_keeps | apply State.when_keeps | apply State.whenLive_keeps | split | apply keeps_set
    | intro _

theorem execLaunchFinish_keeps (q seq : Nat) (hk : Keeps r₀ s) : Answers (Keeps r₀) (execLaunchFinish q seq s) := by
  unfold execLaunchFinish
  show Keeps r₀ _
  dsimp only
  repeat' with_reducible first
    | assumption | apply State.finishSlot_keeps | apply State.onSlot_keeps | apply State.publishOutputs_keeps
    | apply State.track_keeps | apply State.whenLive_keeps | apply State.writeQuality_keeps | split | intro _

/-! ### XlatCmds -/

theorem execTranslationCompletion_keeps (die slot : Nat) (a : XlatAnswer) (hk : Keeps r₀ s) :
    Answers (Keeps r₀) (execTranslationCompletion die slot a s) := by
  unfold execTranslationCompletion
  show Keeps r₀ _
  repeat' with_reducible first
    | assumption | apply State.atcFill_keeps | apply State.countUnresolved_keeps | apply State.dropFault_keeps
    | apply State.emit_keeps | apply State.freeXlat_keeps | apply State.kickAll_keeps | apply State.rebatch_keeps
    | apply State.recordFault_keeps | apply State.serveWaiter_keeps | apply State.unresolveReq_keeps
    | apply State.whenLive_keeps | apply keeps_foldl | split | apply keeps_set | apply keeps_set_xlats
    | apply Keeps.xlats | apply kTbl_put | intro _

theorem execPageListFill_keeps (die slot : Nat) (hk : Keeps r₀ s) :
    Answers (Keeps r₀) (execPageListFill die slot s) := by
  unfold execPageListFill
  show Keeps r₀ _
  repeat' with_reducible first
    | assumption | apply State.atcFill_keeps | apply State.kickAll_keeps | apply State.restart_keeps
    | apply State.setReq_keeps | apply State.strandNow_keeps | apply State.when_keeps | apply State.whenLive_keeps
    | apply keeps_foldl | split | apply keeps_set | apply keeps_set_xlats | apply Keeps.xlats | apply kTbl_del
    | intro _

theorem execFaultBatchFlush_keeps (die ctx : Nat) (hk : Keeps r₀ s) :
    Answers (Keeps r₀) (execFaultBatchFlush die ctx s) := by
  unfold execFaultBatchFlush
  show Keeps r₀ _
  repeat' with_reducible first
    | assumption | apply State.deliverFaults_keeps | apply State.noteOverflow_keeps | apply State.when_keeps
    | apply State.whenLive_keeps | intro _

theorem execPrgResponse_keeps (group : Nat) (c : PrgCode) (hk : Keeps r₀ s) :
    Answers (Keeps r₀) (execPrgResponse group c s) := by
  unfold execPrgResponse
  show Keeps r₀ _
  repeat' with_reducible first
    | assumption | apply State.drainHost_keeps | apply State.faultUnresolved_keeps | apply State.kickAll_keeps
    | apply State.modPart_keeps | apply State.retryHost_keeps | apply State.when_keeps | apply State.whenLive_keeps
    | apply keeps_foldl | split | intro _

theorem execPriEnable_keeps (p : Nat) (hk : Keeps r₀ s) : Answers (Keeps r₀) (execPriEnable p s) := by
  unfold execPriEnable
  show Keeps r₀ _
  repeat' with_reducible first
    | assumption | apply State.drainHost_keeps | apply State.modPart_keeps | apply State.when_keeps
    | apply State.whenLive_keeps | intro _

theorem execFaultRingWriteAccepted_keeps (ctx : Nat) (hk : Keeps r₀ s) :
    Answers (Keeps r₀) (execFaultRingWriteAccepted ctx s) := by
  unfold execFaultRingWriteAccepted
  show Keeps r₀ _
  repeat' with_reducible first
    | assumption | apply State.modCtx_keeps | apply State.sendFaultVector_keeps | apply State.whenLive_keeps | split
    | apply keeps_set | intro _

theorem execFaultRingWriteFail_keeps (ctx : Nat) (hk : Keeps r₀ s) :
    Answers (Keeps r₀) (execFaultRingWriteFail ctx s) := by
  unfold execFaultRingWriteFail
  show Keeps r₀ _
  repeat' with_reducible first
    | assumption | apply State.bufferFault_keeps | apply State.modCtx_keeps | apply State.whenLive_keeps
    | apply keeps_foldl | split | apply keeps_set | intro _

theorem execFaultRetry_keeps (fault : Nat) (hk : Keeps r₀ s) : Answers (Keeps r₀) (execFaultRetry fault s) := by
  unfold execFaultRetry
  show Keeps r₀ _
  repeat' with_reducible first
    | assumption | apply State.modFault_keeps | apply State.retryFabric_keeps | apply State.when_keeps
    | apply State.whenLive_keeps | split | apply keeps_set | intro _

theorem execConsumerPoll_keeps (ctx : Nat) (hk : Keeps r₀ s) : Answers (Keeps r₀) (execConsumerPoll ctx s) := by
  unfold execConsumerPoll
  show Keeps r₀ _
  repeat' with_reducible first
    | assumption | apply State.viaPort_keeps | apply State.when_keeps | apply State.whenLive_keeps | split | intro _

theorem execConsumerReadDone_keeps (ctx count : Nat) (hk : Keeps r₀ s) :
    Answers (Keeps r₀) (execConsumerReadDone ctx count s) := by
  unfold execConsumerReadDone
  show Keeps r₀ _
  repeat' with_reducible first
    | assumption | apply State.drainFaults_keeps | apply State.kickAll_keeps | apply State.modCtx_keeps
    | apply State.retryFabric_keeps | apply State.when_keeps | apply State.whenLive_keeps | apply keeps_foldl | split
    | apply keeps_set | intro _

theorem execUnresolvedFault_keeps (q seq cause : Nat) (hk : Keeps r₀ s) :
    Answers (Keeps r₀) (execUnresolvedFault q seq cause s) := by
  unfold execUnresolvedFault
  show Keeps r₀ _
  repeat' with_reducible first
    | assumption | apply State.endSlot_keeps | apply State.onSlot_keeps | apply State.whenLive_keeps | intro _

theorem execAtsInvalidateRequest_keeps (tag : Nat) (pasid : Option Nat) (base length : Nat) (hk : Keeps r₀ s) :
    Answers (Keeps r₀) (execAtsInvalidateRequest tag pasid base length s) := by
  unfold execAtsInvalidateRequest
  show Keeps r₀ _
  repeat' with_reducible first
    | assumption | apply State.atcDrop_keeps | apply State.whenLive_keeps | apply keeps_set_xlats | apply Keeps.xlats
    | apply kTbl_mapV | intro _

theorem execInvalidationCompletion_keeps (tag : Nat) (hk : Keeps r₀ s) :
    Answers (Keeps r₀) (execInvalidationCompletion tag s) := by
  unfold execInvalidationCompletion
  show Keeps r₀ _
  repeat' with_reducible first
    | assumption | apply State.emit_keeps | apply State.when_keeps | apply State.whenLive_keeps | split
    | apply keeps_set | intro _

theorem execInboundRequest_keeps (endpoint window offset : Nat) (write : Bool) (len : Nat) (data : Bytes) (hk : Keeps r₀ s) :
    Answers (Keeps r₀) (execInboundRequest endpoint window offset write len data s) := by
  unfold execInboundRequest
  show Keeps r₀ _
  repeat' with_reducible first
    | assumption | apply State.applyMerge_keeps | apply State.emit_keeps | apply State.fillMerge_keeps
    | apply State.whenLive_keeps | split | apply keeps_set | intro _

theorem execFabricResponse_keeps (request : Nat) (c : FabricCode) (hk : Keeps r₀ s) :
    Answers (Keeps r₀) (execFabricResponse request c s) := by
  unfold execFabricResponse
  show Keeps r₀ _
  repeat' with_reducible first
    | assumption | apply State.answerReq_keeps | apply State.leaveFault_keeps | apply State.recordFault_keeps
    | apply State.unresolve_keeps | apply State.when_keeps | apply State.whenLive_keeps | split | intro _

theorem execFabricResponseTimeout_keeps (request : Nat) (hk : Keeps r₀ s) :
    Answers (Keeps r₀) (execFabricResponseTimeout request s) := by
  unfold execFabricResponseTimeout
  show Keeps r₀ _
  repeat' with_reducible first
    | assumption | apply State.leaveFault_keeps | apply State.modFport_keeps | apply State.unresolve_keeps
    | apply State.when_keeps | apply State.whenLive_keeps | split | apply keeps_set | intro _

theorem execHostWriteErrorAnswer_keeps (q seq : Nat) (hk : Keeps r₀ s) :
    Answers (Keeps r₀) (execHostWriteErrorAnswer q seq s) := by
  unfold execHostWriteErrorAnswer
  show Keeps r₀ _
  repeat' with_reducible first
    | assumption | apply State.endSlot_keeps | apply State.issueHead_keeps | apply State.modQueue_keeps
    | apply State.onSlot_keeps | apply State.whenLive_keeps | split | intro _

theorem execHostReadErrorAnswer_keeps (request : Nat) (hk : Keeps r₀ s) :
    Answers (Keeps r₀) (execHostReadErrorAnswer request s) := by
  unfold execHostReadErrorAnswer
  show Keeps r₀ _
  repeat' with_reducible first
    | assumption | apply State.answerReq_keeps | apply State.logError_keeps | apply State.when_keeps
    | apply State.whenLive_keeps | split | apply keeps_set | intro _

theorem execLinkHeld_keeps (port : Nat) (hk : Keeps r₀ s) : Answers (Keeps r₀) (execLinkHeld port s) := by
  unfold execLinkHeld
  show Keeps r₀ _
  repeat' with_reducible first
    | assumption | apply State.holdLink_keeps | apply State.when_keeps | apply State.whenLive_keeps | intro _

theorem execLinkUp_keeps (port : Nat) (hk : Keeps r₀ s) : Answers (Keeps r₀) (execLinkUp port s) := by
  unfold execLinkUp
  show Keeps r₀ _
  repeat' with_reducible first
    | assumption | apply State.emit_keeps | apply State.icLevel_keeps | apply State.kickAll_keeps
    | apply State.modFport_keeps | apply State.restart_keeps | apply State.when_keeps | apply State.whenLive_keeps
    | apply keeps_foldl | intro _

theorem execLinkUnencrypted_keeps (port : Nat) (hk : Keeps r₀ s) : Answers (Keeps r₀) (execLinkUnencrypted port s) := by
  unfold execLinkUnencrypted
  show Keeps r₀ _
  repeat' with_reducible first
    | assumption | apply State.holdLink_keeps | apply State.icLevel_keeps | apply State.modFport_keeps
    | apply State.when_keeps | apply State.whenLive_keeps | split | intro _

/-! ### AlarmCmds -/

theorem execScTamperN_keeps (held : Nat) (hk : Keeps r₀ s) : Answers (Keeps r₀) (execScTamperN held s) := by
  unfold execScTamperN
  show Keeps r₀ _
  repeat' with_reducible first
    | assumption | apply State.classA_keeps | apply State.glitch_keeps | apply State.whenOn_keeps | split
    | apply keeps_set | intro _

theorem execDebugUnlockAttempt_keeps (hk : Keeps r₀ s) : Answers (Keeps r₀) (execDebugUnlockAttempt s) := by
  unfold execDebugUnlockAttempt
  show Keeps r₀ _
  repeat' with_reducible first
    | assumption | apply State.classA_keeps | apply State.whenOn_keeps | split | apply keeps_set | intro _

theorem execThimbleDomainGlitch_keeps (hk : Keeps r₀ s) : Answers (Keeps r₀) (execThimbleDomainGlitch s) := by
  unfold execThimbleDomainGlitch
  show Keeps r₀ _
  repeat' with_reducible first
    | assumption | apply State.classA_keeps | apply State.whenOn_keeps

theorem execClassBGlitch_keeps (die : Bool) (unit : Nat) (hk : Keeps r₀ s) :
    Answers (Keeps r₀) (execClassBGlitch die unit s) := by
  unfold execClassBGlitch
  show Keeps r₀ _
  repeat' with_reducible first
    | assumption | apply State.classA_keeps | apply State.strike_keeps | apply State.whenLive_keeps
    | apply keeps_foldl | split | apply keeps_set | intro _

theorem execRetireFuseBlown_keeps (hk : Keeps r₀ s) : Answers (Keeps r₀) (execRetireFuseBlown s) := by
  unfold execRetireFuseBlown
  show Keeps r₀ _
  dsimp only
  repeat' with_reducible first
    | assumption | apply State.accept_keeps | apply keeps_foldl | split | apply keeps_set_fuses | apply blown_retire
    | apply Keeps.fuses | intro _

theorem execPartitionKeyRenewed_keeps (p : Nat) (hk : Keeps r₀ s) :
    Answers (Keeps r₀) (execPartitionKeyRenewed p s) := by
  unfold execPartitionKeyRenewed
  show Keeps r₀ _
  repeat' with_reducible first
    | assumption | apply State.modPart_keeps | apply State.newInstance_keeps | apply State.when_keeps
    | apply State.whenLive_keeps | intro _

theorem execPartitionCertificateIssued_keeps (p : Nat) (hk : Keeps r₀ s) :
    Answers (Keeps r₀) (execPartitionCertificateIssued p s) := by
  unfold execPartitionCertificateIssued
  show Keeps r₀ _
  repeat' with_reducible first
    | assumption | apply State.modPart_keeps | apply State.when_keeps | apply State.whenLive_keeps | intro _

/-! ### TimeCmds -/

theorem execTimeStrobe_keeps (v : BitVec 64) (parity : BitVec 8) (hk : Keeps r₀ s) :
    Answers (Keeps r₀) (execTimeStrobe v parity s) := by
  unfold execTimeStrobe
  show Keeps r₀ _
  dsimp only
  repeat' with_reducible first
    | assumption | apply State.acceptStrobe_keeps | apply State.expireStrobe_keeps | apply State.loseStrobe_keeps
    | apply State.rejectStrobe_keeps | apply State.when_keeps | apply State.whenLive_keeps | split | intro _

theorem execStrobeTimeout_keeps (hk : Keeps r₀ s) : Answers (Keeps r₀) (execStrobeTimeout s) := by
  unfold execStrobeTimeout
  show Keeps r₀ _
  repeat' with_reducible first
    | assumption | apply State.expireStrobe_keeps | apply State.when_keeps | apply State.whenLive_keeps | intro _

theorem execSlewComplete_keeps (hk : Keeps r₀ s) : Answers (Keeps r₀) (execSlewComplete s) := by
  unfold execSlewComplete
  show Keeps r₀ _
  dsimp only
  repeat' with_reducible first
    | assumption | apply State.when_keeps | apply State.whenLive_keeps | apply keeps_set_time | simp only [kTime_mk]
    | apply keeps_now_le | intro _

theorem execFrameBoundary_keeps (hk : Keeps r₀ s) : Answers (Keeps r₀) (execFrameBoundary s) := by
  unfold execFrameBoundary
  show Keeps r₀ _
  dsimp only
  repeat' with_reducible first
    | assumption | apply State.frameEffects_keeps | apply State.when_keeps | apply State.whenLive_keeps
    | apply keeps_set_time | simp only [kTime_mk] | apply keeps_now_le | intro _

theorem execReanchor_keeps (hk : Keeps r₀ s) : Answers (Keeps r₀) (execReanchor s) := by
  unfold execReanchor
  show Keeps r₀ _
  repeat' with_reducible first
    | assumption | apply State.anchor_keeps | apply State.when_keeps | apply State.whenLive_keeps | intro _

theorem execBackgroundSlot_keeps (ageing : List (Nat × Bool)) (hk : Keeps r₀ s) :
    Answers (Keeps r₀) (execBackgroundSlot ageing s) := by
  unfold execBackgroundSlot
  show Keeps r₀ _
  repeat' with_reducible first
    | assumption | apply State.ageing_keeps | apply State.calibrate_keeps | apply State.scrubNear_keeps
    | apply State.scrubSram_keeps | apply State.when_keeps | apply State.whenLive_keeps | apply keeps_foldl
    | apply keeps_set | intro _

theorem execScrubResult_keeps (port addr : Nat) (found : ScrubFind) (hk : Keeps r₀ s) :
    Answers (Keeps r₀) (execScrubResult port addr found s) := by
  unfold execScrubResult
  show Keeps r₀ _
  repeat' with_reducible first
    | assumption | apply State.logError_keeps | apply State.quarantineAt_keeps | apply State.scrubBad_keeps
    | apply State.scrubMirror_keeps | apply State.when_keeps | apply State.whenLive_keeps | split | apply keeps_set
    | intro _

/-! ### ErrorCmds -/

theorem execEscalated_keeps (d : Domain) (hk : Keeps r₀ s) : Answers (Keeps r₀) (execEscalated d s) := by
  unfold execEscalated
  show Keeps r₀ _
  repeat' with_reducible first
    | assumption | apply State.escalate_keeps | apply State.when_keeps | apply State.whenLive_keeps | intro _

theorem execClusterQuarantine_keeps (cluster : Nat) (hk : Keeps r₀ s) :
    Answers (Keeps r₀) (execClusterQuarantine cluster s) := by
  unfold execClusterQuarantine
  show Keeps r₀ _
  repeat' with_reducible first
    | assumption | apply State.clusterError_keeps | apply State.when_keeps | apply State.whenLive_keeps | intro _

theorem execBlockFatal_keeps (die : Nat) (hk : Keeps r₀ s) : Answers (Keeps r₀) (execBlockFatal die s) := by
  unfold execBlockFatal
  show Keeps r₀ _
  repeat' with_reducible first
    | assumption | apply State.dieError_keeps | apply State.when_keeps | apply State.whenLive_keeps | intro _

theorem execWordUncorrectable_keeps (place : WordPlace) (syndrome : BitVec 32) (hk : Keeps r₀ s) :
    Answers (Keeps r₀) (execWordUncorrectable place syndrome s) := by
  unfold execWordUncorrectable
  show Keeps r₀ _
  repeat' with_reducible first
    | assumption | apply State.clusterError_keeps | apply State.dieError_keeps | apply State.escalate_keeps
    | apply State.failTile_keeps | apply State.lineError_keeps | apply State.logError_keeps
    | apply State.partError_keeps | apply State.queueError_keeps | apply State.tierError_keeps
    | apply State.tileStateError_keeps | apply State.when_keeps | apply State.whenLive_keeps | split | intro _

theorem execPoisonConsumed_keeps (core : Nat) (from_ : PoisonFrom) (hk : Keeps r₀ s) :
    Answers (Keeps r₀) (execPoisonConsumed core from_ s) := by
  unfold execPoisonConsumed
  show Keeps r₀ _
  repeat' with_reducible first
    | assumption | apply State.endSlot_keeps | apply State.logError_keeps | apply State.track_keeps
    | apply State.when_keeps | apply State.whenLive_keeps | split | intro _

theorem execTileError_keeps (core : Nat) (e : TileErr) (hk : Keeps r₀ s) :
    Answers (Keeps r₀) (execTileError core e s) := by
  unfold execTileError
  show Keeps r₀ _
  repeat' with_reducible first
    | assumption | apply State.failTile_keeps | apply State.when_keeps | apply State.whenLive_keeps | intro _

/-! ### ExtentCmds -/

theorem execExtentGrant_keeps (ch : Nat) (hk : Keeps r₀ s) : Answers (Keeps r₀) (execExtentGrant ch s) := by
  unfold execExtentGrant
  show Keeps r₀ _
  repeat' with_reducible first
    | assumption | apply State.emit_keeps | apply State.modChan_keeps | apply State.park_keeps
    | apply State.serveChecked_keeps | apply State.whenLive_keeps | intro _

theorem execExtentCheckAnswer_keeps (ch : Nat) (ok : Bool) (mcGroup : Nat) (hk : Keeps r₀ s) :
    Answers (Keeps r₀) (execExtentCheckAnswer ch ok mcGroup s) := by
  unfold execExtentCheckAnswer
  show Keeps r₀ _
  repeat' with_reducible first
    | assumption | apply State.accept_keeps | apply State.onCheck_keeps | apply State.refuse_keeps
    | apply State.refuseAttr_keeps | apply State.whenLive_keeps | split | apply keeps_set_extents
    | apply Keeps.extents | apply kTbl_put | intro _

theorem execExtentCheckTimeout_keeps (ch : Nat) (hk : Keeps r₀ s) :
    Answers (Keeps r₀) (execExtentCheckTimeout ch s) := by
  unfold execExtentCheckTimeout
  show Keeps r₀ _
  repeat' with_reducible first
    | assumption | apply State.onCheck_keeps | apply State.refuse_keeps | apply State.when_keeps
    | apply State.whenLive_keeps | intro _

theorem execExtentRights_keeps (ch : Nat) (hk : Keeps r₀ s) : Answers (Keeps r₀) (execExtentRights ch s) := by
  unfold execExtentRights
  show Keeps r₀ _
  repeat' with_reducible first
    | assumption | apply State.accept_keeps | apply State.modExtent_keeps | apply State.serveChecked_keeps
    | apply State.whenLive_keeps | intro _

theorem execExtentRevoke_keeps (ch : Nat) (hk : Keeps r₀ s) : Answers (Keeps r₀) (execExtentRevoke ch s) := by
  unfold execExtentRevoke
  show Keeps r₀ _
  repeat' with_reducible first
    | assumption | apply State.askRevoke_keeps | apply State.serveChecked_keeps | apply State.whenLive_keeps | intro _

theorem execExtentRevokeReq_keeps (grant : Nat) (partition : Option Nat) (hk : Keeps r₀ s) :
    Answers (Keeps r₀) (execExtentRevokeReq grant partition s) := by
  unfold execExtentRevokeReq
  show Keeps r₀ _
  repeat' with_reducible first
    | assumption | apply State.askRevoke_keeps | apply State.whenLive_keeps | apply keeps_foldl | intro _

theorem execNearTierReport_keeps (size : Nat) (hk : Keeps r₀ s) : Answers (Keeps r₀) (execNearTierReport size s) := by
  unfold execNearTierReport
  show Keeps r₀ _
  repeat' with_reducible first
    | assumption | apply State.when_keeps | apply State.whenLive_keeps | apply keeps_set | intro _

/-! ### PowerCmds -/

theorem execInputGlitch_keeps (pin : Pin) (width : Nat) (hk : Keeps r₀ s) :
    Answers (Keeps r₀) (execInputGlitch pin width s) := by
  unfold execInputGlitch
  show Keeps r₀ _
  repeat' with_reducible first
    | assumption | apply State.glitch_keeps | apply State.when_keeps | apply State.whenLive_keeps | intro _

theorem execScHardCapAssert_keeps (held : Nat) (hk : Keeps r₀ s) : Answers (Keeps r₀) (execScHardCapAssert held s) := by
  unfold execScHardCapAssert
  show Keeps r₀ _
  repeat' with_reducible first
    | assumption | apply State.hardCapLevel_keeps | apply State.whenLive_keeps | intro _

theorem execScHardCapDeassert_keeps (held : Nat) (hk : Keeps r₀ s) :
    Answers (Keeps r₀) (execScHardCapDeassert held s) := by
  unfold execScHardCapDeassert
  show Keeps r₀ _
  repeat' with_reducible first
    | assumption | apply State.hardCapLevel_keeps | apply State.whenLive_keeps | intro _

theorem execCoolantStop_keeps (held : Nat) (hk : Keeps r₀ s) : Answers (Keeps r₀) (execCoolantStop held s) := by
  unfold execCoolantStop
  show Keeps r₀ _
  repeat' with_reducible first
    | assumption | apply State.coolantStop_keeps | apply State.glitch_keeps | apply State.whenLive_keeps | split
    | apply keeps_set | intro _

theorem execThermalSample_keeps (readings : List ThermalReading) (hk : Keeps r₀ s) :
    Answers (Keeps r₀) (execThermalSample readings s) := by
  unfold execThermalSample
  show Keeps r₀ _
  repeat' with_reducible first
    | assumption | apply State.coolantStop_keeps | apply State.readSensor_keeps | apply State.when_keeps
    | apply State.whenLive_keeps | apply keeps_foldl | split | intro _

theorem execDroopDetect_keeps (core : Nat) (excess : Bool) (hk : Keeps r₀ s) :
    Answers (Keeps r₀) (execDroopDetect core excess s) := by
  unfold execDroopDetect
  show Keeps r₀ _
  repeat' with_reducible first
    | assumption | apply State.modCore_keeps | apply State.when_keeps | apply State.whenLive_keeps | intro _

/-! ### BootCmds -/

theorem execScResetNAssert_keeps (held : Nat) (hk : Keeps r₀ s) : Answers (Keeps r₀) (execScResetNAssert held s) := by
  unfold execScResetNAssert
  show Keeps r₀ _
  repeat' with_reducible first
    | assumption | apply State.glitch_keeps | apply State.wholeReset_keeps | split

theorem execScResetNDeassert_keeps (held : Nat) (coolantOk hardCap : Bool) (hk : Keeps r₀ s) :
    Answers (Keeps r₀) (execScResetNDeassert held coolantOk hardCap s) := by
  unfold execScResetNDeassert
  show Keeps r₀ _
  repeat' with_reducible first
    | assumption | apply State.comeUp_keeps | split

theorem execRomDone_keeps (selfTestOk : Bool) (hk : Keeps r₀ s) : Answers (Keeps r₀) (execRomDone selfTestOk s) := by
  unfold execRomDone
  show Keeps r₀ _
  repeat' with_reducible first
    | assumption | apply State.enterStage_keeps | apply State.failBoot_keeps | apply State.inStage_keeps | split
    | intro _

theorem execKeysDone_keeps (ok : Bool) (hk : Keeps r₀ s) : Answers (Keeps r₀) (execKeysDone ok s) := by
  unfold execKeysDone
  show Keeps r₀ _
  repeat' with_reducible first
    | assumption | apply State.deriveBootKeys_keeps | apply State.enterStage_keeps | apply State.failBoot_keeps
    | apply State.inStage_keeps | apply State.readBoot_keeps | split | intro _

theorem execBootData_keeps (data : Option Bytes) (hk : Keeps r₀ s) : Answers (Keeps r₀) (execBootData data s) := by
  unfold execBootData
  show Keeps r₀ _
  repeat' with_reducible first
    | assumption | apply State.inStage_keeps | apply State.readBoot_keeps | apply State.refuseImage_keeps
    | apply State.when_keeps | split | apply keeps_set | intro _

theorem execBootReadTimeout_keeps (hk : Keeps r₀ s) : Answers (Keeps r₀) (execBootReadTimeout s) := by
  unfold execBootReadTimeout
  show Keeps r₀ _
  repeat' with_reducible first
    | assumption | apply State.inStage_keeps | apply State.refuseImage_keeps | apply State.when_keeps | intro _

theorem execImageChecked_keeps (ageing : List (Nat × Nat)) (hk : Keeps r₀ s) :
    Answers (Keeps r₀) (execImageChecked ageing s) := by
  unfold execImageChecked
  show Keeps r₀ _
  repeat' with_reducible first
    | assumption | apply State.enterStage_keeps | apply State.inStage_keeps | apply State.loadBins_keeps
    | apply State.refuseImage_keeps | apply State.takeImage_keeps | apply State.when_keeps | split | intro _

theorem execMemoryPortReady_keeps (port : Nat) (hk : Keeps r₀ s) : Answers (Keeps r₀) (execMemoryPortReady port s) := by
  unfold execMemoryPortReady
  show Keeps r₀ _
  repeat' with_reducible first
    | assumption | apply State.inStage_keeps | apply State.when_keeps | apply keeps_set | intro _

theorem execMemoryPortTimeout_keeps (port : Nat) (hk : Keeps r₀ s) :
    Answers (Keeps r₀) (execMemoryPortTimeout port s) := by
  unfold execMemoryPortTimeout
  show Keeps r₀ _
  repeat' with_reducible first
    | assumption | apply State.clusterError_keeps | apply State.emit_keeps | apply State.failBoot_keeps
    | apply State.inStage_keeps | apply State.when_keeps | split | apply keeps_set | intro _

theorem execTrainingDone_keeps (tests : List BundleTest) (hk : Keeps r₀ s) :
    Answers (Keeps r₀) (execTrainingDone tests s) := by
  unfold execTrainingDone
  show Keeps r₀ _
  repeat' with_reducible first
    | assumption | apply State.enterTime_keeps | apply State.failBoot_keeps | apply State.inStage_keeps
    | apply State.when_keeps | split | apply keeps_set | intro _

theorem execTimeLimitExpiry_keeps (hk : Keeps r₀ s) : Answers (Keeps r₀) (execTimeLimitExpiry s) := by
  unfold execTimeLimitExpiry
  show Keeps r₀ _
  repeat' with_reducible first
    | assumption | apply State.becomeReady_keeps | apply State.inStage_keeps | apply State.when_keeps | intro _

/-! ### IcCmds -/

theorem execIcDoorbellFire_keeps (v : BitVec 32) (hk : Keeps r₀ s) : Answers (Keeps r₀) (execIcDoorbellFire v s) := by
  unfold execIcDoorbellFire
  show Keeps r₀ _
  repeat' with_reducible first
    | assumption | apply State.icFire_keeps | apply State.icLevel_keeps | apply State.when_keeps
    | apply State.whenLive_keeps | split | intro _

theorem execIcDoorbellDeassert_keeps (v : BitVec 32) (hk : Keeps r₀ s) :
    Answers (Keeps r₀) (execIcDoorbellDeassert v s) := by
  unfold execIcDoorbellDeassert
  show Keeps r₀ _
  repeat' with_reducible first
    | assumption | apply State.icLevel_keeps | apply State.when_keeps | apply State.whenLive_keeps | intro _

theorem execIcAck_keeps (core : Nat) (hk : Keeps r₀ s) : Answers (Keeps r₀) (execIcAck core s) := by
  unfold execIcAck
  show Keeps r₀ _
  repeat' with_reducible first
    | assumption | apply ackEffect_keeps | apply State.whenLive_keeps | intro _

theorem execIcEoi_keeps (core : Nat) (v : BitVec 32) (hk : Keeps r₀ s) : Answers (Keeps r₀) (execIcEoi core v s) := by
  unfold execIcEoi
  show Keeps r₀ _
  repeat' with_reducible first
    | assumption | apply State.whenLive_keeps | apply keeps_set | intro _

theorem execIcSetPending_keeps (v : BitVec 32) (hk : Keeps r₀ s) : Answers (Keeps r₀) (execIcSetPending v s) := by
  unfold execIcSetPending
  show Keeps r₀ _
  repeat' with_reducible first
    | assumption | apply State.whenLive_keeps | apply keeps_set | intro _

theorem execIcClearPending_keeps (v : BitVec 32) (hk : Keeps r₀ s) : Answers (Keeps r₀) (execIcClearPending v s) := by
  unfold execIcClearPending
  show Keeps r₀ _
  repeat' with_reducible first
    | assumption | apply State.whenLive_keeps | apply keeps_set | intro _

theorem execStormWindowExpiry_keeps (source : Nat) (hk : Keeps r₀ s) :
    Answers (Keeps r₀) (execStormWindowExpiry source s) := by
  unfold execStormWindowExpiry
  show Keeps r₀ _
  repeat' with_reducible first
    | assumption | apply State.when_keeps | apply State.whenLive_keeps | split | apply keeps_set | intro _

theorem execSleepReq_keeps (hk : Keeps r₀ s) : Answers (Keeps r₀) (execSleepReq s) := by
  unfold execSleepReq
  show Keeps r₀ _
  repeat' with_reducible first
    | assumption | apply State.when_keeps | apply State.whenLive_keeps | apply keeps_set | intro _

theorem execIcWake_keeps (pin : Bool) (hk : Keeps r₀ s) : Answers (Keeps r₀) (execIcWake pin s) := by
  unfold execIcWake
  show Keeps r₀ _
  repeat' with_reducible first
    | assumption | apply State.when_keeps | apply State.whenLive_keeps | apply keeps_set | intro _

theorem execIcStatusRead_keeps (half : Half) (hk : Keeps r₀ s) : Answers (Keeps r₀) (execIcStatusRead half s) := by
  unfold execIcStatusRead
  show Keeps r₀ _
  repeat' with_reducible first
    | assumption | apply State.emit_keeps | apply State.when_keeps | apply State.whenLive_keeps | apply keeps_set
    | intro _

theorem execMsixUnmask_keeps (entry : Option Nat) (hk : Keeps r₀ s) : Answers (Keeps r₀) (execMsixUnmask entry s) := by
  unfold execMsixUnmask
  show Keeps r₀ _
  repeat' with_reducible first
    | assumption | apply State.flushMsix_keeps | apply State.whenLive_keeps | split | apply keeps_set | intro _

/-! ### MailCmds -/

theorem execScMbNotice_keeps (r : Requester) (ch : Nat) (v : BitVec 64) (hk : Keeps r₀ s) :
    Answers (Keeps r₀) (execScMbNotice r ch v s) := by
  unfold execScMbNotice
  show Keeps r₀ _
  repeat' with_reducible first
    | assumption | apply State.emit_keeps | apply State.modChan_keeps | apply State.onChannel_keeps
    | apply State.settleMail_keeps | split | apply keeps_set | intro _

theorem execNoticeTake_keeps (bobbin : Nat) (hk : Keeps r₀ s) : Answers (Keeps r₀) (execNoticeTake bobbin s) := by
  unfold execNoticeTake
  show Keeps r₀ _
  repeat' with_reducible first
    | assumption | apply State.modChan_keeps | apply State.readMessage_keeps | apply State.settleMail_keeps
    | apply State.whenLive_keeps | split | apply keeps_set | intro _

theorem execBusyAnswer_keeps (ch : Nat) (hk : Keeps r₀ s) : Answers (Keeps r₀) (execBusyAnswer ch s) := by
  unfold execBusyAnswer
  show Keeps r₀ _
  repeat' with_reducible first
    | assumption | apply State.modChan_keeps | apply State.readMessage_keeps | apply State.settleMail_keeps
    | apply State.when_keeps | apply State.whenLive_keeps | apply keeps_foldl | split | apply keeps_set | intro _

theorem execMessageReadDone_keeps (ch : Nat) (d : ReadData) (hk : Keeps r₀ s) :
    Answers (Keeps r₀) (execMessageReadDone ch d s) := by
  unfold execMessageReadDone
  show Keeps r₀ _
  repeat' with_reducible first
    | assumption | apply State.answerBusy_keeps | apply State.refuse_keeps | apply State.takeMessage_keeps
    | apply State.when_keeps | apply State.whenLive_keeps | split | intro _

theorem execCapabilityCheck_keeps (ch : Nat) (hk : Keeps r₀ s) : Answers (Keeps r₀) (execCapabilityCheck ch s) := by
  unfold execCapabilityCheck
  show Keeps r₀ _
  repeat' with_reducible first
    | assumption | apply State.icFire_keeps | apply State.modChan_keeps | apply State.refuse_keeps
    | apply State.whenLive_keeps | split | apply keeps_set | intro _

theorem execCapabilityExpiry_keeps (capId : Nat) (hk : Keeps r₀ s) :
    Answers (Keeps r₀) (execCapabilityExpiry capId s) := by
  unfold execCapabilityExpiry
  show Keeps r₀ _
  repeat' with_reducible first
    | assumption | apply State.when_keeps | apply State.whenLive_keeps | apply keeps_set | intro _

theorem execReplyPosted_keeps (ch : Nat) (accepted : Bool) (hk : Keeps r₀ s) :
    Answers (Keeps r₀) (execReplyPosted ch accepted s) := by
  unfold execReplyPosted
  show Keeps r₀ _
  repeat' with_reducible first
    | assumption | apply State.modChan_keeps | apply State.notify_keeps | apply State.reboot_keeps
    | apply State.settleMail_keeps | apply State.when_keeps | apply State.whenLive_keeps | split | intro _

theorem execScMbAck_keeps (r : Requester) (ch : Nat) (v : BitVec 32) (hk : Keeps r₀ s) :
    Answers (Keeps r₀) (execScMbAck r ch v s) := by
  unfold execScMbAck
  show Keeps r₀ _
  repeat' with_reducible first
    | assumption | apply State.modChan_keeps | apply State.onChannel_keeps | apply State.when_keeps | intro _

theorem execReplyHoldExpiry_keeps (ch : Nat) (hk : Keeps r₀ s) : Answers (Keeps r₀) (execReplyHoldExpiry ch s) := by
  unfold execReplyHoldExpiry
  show Keeps r₀ _
  repeat' with_reducible first
    | assumption | apply State.modChan_keeps | apply State.when_keeps | apply State.whenLive_keeps | intro _

/-! ### Registers -/

theorem execBadScAccess_keeps (r : Requester) (write : Bool) (offset size : Nat) (hk : Keeps r₀ s) :
    Answers (Keeps r₀) (execBadScAccess r write offset size s) := by
  unfold execBadScAccess
  show Keeps r₀ _
  dsimp only
  repeat' with_reducible first
    | assumption | apply State.access_keeps | apply State.emit_keeps | apply State.turnAway_keeps
    | apply State.when_keeps | split | intro _

theorem execScBadAccessRead_keeps (r : Requester) (half : Half) (hk : Keeps r₀ s) :
    Answers (Keeps r₀) (execScBadAccessRead r half s) := by
  unfold execScBadAccessRead
  show Keeps r₀ _
  repeat' with_reducible first
    | assumption | apply State.access_keeps | apply State.badRead_keeps | apply State.emit_keeps | split
    | apply keeps_set | intro _

theorem execScSignalsRead_keeps (r : Requester) (half : Half) (hk : Keeps r₀ s) :
    Answers (Keeps r₀) (execScSignalsRead r half s) := by
  unfold execScSignalsRead
  show Keeps r₀ _
  repeat' with_reducible first
    | assumption | apply State.access_keeps | apply State.badRead_keeps | apply State.emit_keeps | split
    | apply keeps_set | intro _

theorem execRegisterWrite_keeps (r : Requester) (sp : Space) (offset size : Nat) (v : BitVec 64) (hk : Keeps r₀ s) :
    Answers (Keeps r₀) (execRegisterWrite r sp offset size v s) := by
  unfold execRegisterWrite
  show Keeps r₀ _
  repeat' with_reducible first
    | assumption | apply State.scWrite_keeps | apply State.whenLive_keeps | apply State.writeBar2_keeps
    | apply State.writeBobbin_keeps | apply State.writeConfig_keeps | split | intro _

/-! ### BridgeCmds -/

theorem execBridgeFlitReplay_keeps (bundle again : Nat) (hk : Keeps r₀ s) :
    Answers (Keeps r₀) (execBridgeFlitReplay bundle again s) := by
  unfold execBridgeFlitReplay
  show Keeps r₀ _
  repeat' with_reducible first
    | assumption | apply State.dieError_keeps | apply State.onBridge_keeps | split | apply keeps_set | intro _

theorem execBridgeRetrainStart_keeps (bundle : Nat) (hk : Keeps r₀ s) :
    Answers (Keeps r₀) (execBridgeRetrainStart bundle s) := by
  unfold execBridgeRetrainStart
  show Keeps r₀ _
  repeat' with_reducible first
    | assumption | apply State.onBridge_keeps | apply keeps_set | intro _

theorem execBridgeRetrainEnd_keeps (t : BundleTest) (hk : Keeps r₀ s) :
    Answers (Keeps r₀) (execBridgeRetrainEnd t s) := by
  unfold execBridgeRetrainEnd
  show Keeps r₀ _
  repeat' with_reducible first
    | assumption | apply State.dieError_keeps | apply State.icFire_keeps | apply State.onBridge_keeps
    | apply State.when_keeps | split | apply keeps_set | intro _

theorem execWidthReq_keeps (r : Requester) (v : BitVec 64) (hk : Keeps r₀ s) :
    Answers (Keeps r₀) (execWidthReq r v s) := by
  unfold execWidthReq
  show Keeps r₀ _
  repeat' with_reducible first
    | assumption | apply State.writeBridgeCtl_keeps

theorem execRetrain_keeps (r : Requester) (v : BitVec 64) (hk : Keeps r₀ s) :
    Answers (Keeps r₀) (execRetrain r v s) := by
  unfold execRetrain
  show Keeps r₀ _
  repeat' with_reducible first
    | assumption | apply State.writeBridgeCtl_keeps | split

theorem execBridgeWidthChange_keeps (hk : Keeps r₀ s) : Answers (Keeps r₀) (execBridgeWidthChange s) := by
  unfold execBridgeWidthChange
  show Keeps r₀ _
  repeat' with_reducible first
    | assumption | apply State.icFire_keeps | apply State.onBridge_keeps | apply State.when_keeps | split
    | apply keeps_set | intro _

/-! ### Class1Cmds -/

theorem execPartitionReset_keeps (ch : Nat) (hk : Keeps r₀ s) : Answers (Keeps r₀) (execPartitionReset ch s) := by
  unfold execPartitionReset
  show Keeps r₀ _
  repeat' with_reducible first
    | assumption | apply State.modPart_keeps | apply State.park_keeps | apply State.serveChecked_keeps
    | apply State.startReset_keeps | apply State.whenLive_keeps | intro _

theorem execQueueReset_keeps (ch : Nat) (hk : Keeps r₀ s) : Answers (Keeps r₀) (execQueueReset ch s) := by
  unfold execQueueReset
  show Keeps r₀ _
  repeat' with_reducible first
    | assumption | apply State.drainQueue_keeps | apply State.modQueue_keeps | apply State.park_keeps
    | apply State.serveChecked_keeps | apply State.track_keeps | apply State.whenLive_keeps | split | apply keeps_set
    | intro _

theorem execQueueStop_keeps (ch : Nat) (hk : Keeps r₀ s) : Answers (Keeps r₀) (execQueueStop ch s) := by
  unfold execQueueStop
  show Keeps r₀ _
  repeat' with_reducible first
    | assumption | apply State.accept_keeps | apply State.mgmtStopQueue_keeps | apply State.serveChecked_keeps
    | apply State.when_keeps | apply State.whenLive_keeps | intro _

theorem execQueueStopResume_keeps (ch : Nat) (hk : Keeps r₀ s) : Answers (Keeps r₀) (execQueueStopResume ch s) := by
  unfold execQueueStopResume
  show Keeps r₀ _
  repeat' with_reducible first
    | assumption | apply State.accept_keeps | apply State.mgmtResumeQueue_keeps | apply State.serveChecked_keeps
    | apply State.when_keeps | apply State.whenLive_keeps | intro _

theorem execErrorLogRead_keeps (ch : Nat) (hk : Keeps r₀ s) : Answers (Keeps r₀) (execErrorLogRead ch s) := by
  unfold execErrorLogRead
  show Keeps r₀ _
  repeat' with_reducible first
    | assumption | apply State.accept_keeps | apply State.drainErrors_keeps | apply State.serveChecked_keeps
    | apply State.whenLive_keeps | intro _

theorem execFolioRepair_keeps (ch : Nat) (source readBack : List (BitVec 288)) (hk : Keeps r₀ s) :
    Answers (Keeps r₀) (execFolioRepair ch source readBack s) := by
  unfold execFolioRepair
  show Keeps r₀ _
  repeat' with_reducible first
    | assumption | apply State.accept_keeps | apply State.endRepair_keeps | apply State.serveChecked_keeps
    | apply State.whenLive_keeps | apply State.writeBack_keeps | apply keeps_foldl | split | intro _

/-! ### Class2Cmds -/

theorem execSpdmMessage_keeps (ch : Nat) (hk : Keeps r₀ s) : Answers (Keeps r₀) (execSpdmMessage ch s) := by
  unfold execSpdmMessage
  show Keeps r₀ _
  repeat' with_reducible first
    | assumption | apply State.accept_keeps | apply State.draw_keeps | apply State.serveChecked_keeps
    | apply State.setSession_keeps | apply State.whenLive_keeps | split | apply keeps_set | intro _

theorem execAttest_keeps (ch : Nat) (hk : Keeps r₀ s) : Answers (Keeps r₀) (execAttest ch s) := by
  unfold execAttest
  show Keeps r₀ _
  repeat' with_reducible first
    | assumption | apply State.accept_keeps | apply State.serveChecked_keeps | apply State.tooLong_keeps
    | apply State.whenLive_keeps | split | intro _

theorem execKeyZeroise_keeps (ch : Nat) (hk : Keeps r₀ s) : Answers (Keeps r₀) (execKeyZeroise ch s) := by
  unfold execKeyZeroise
  show Keeps r₀ _
  repeat' with_reducible first
    | assumption | apply State.modPart_keeps | apply State.park_keeps | apply State.serveChecked_keeps
    | apply State.strike_keeps | apply State.whenLive_keeps | intro _

theorem execSlotRetireCommand_keeps (ch : Nat) (hk : Keeps r₀ s) : Answers (Keeps r₀) (execSlotRetireCommand ch s) := by
  unfold execSlotRetireCommand
  show Keeps r₀ _
  repeat' with_reducible first
    | assumption | apply State.park_keeps | apply State.serveChecked_keeps | apply State.whenLive_keeps
    | apply keeps_set | intro _

theorem execSignerRevoke_keeps (ch : Nat) (hk : Keeps r₀ s) : Answers (Keeps r₀) (execSignerRevoke ch s) := by
  unfold execSignerRevoke
  show Keeps r₀ _
  dsimp only
  repeat' with_reducible first
    | assumption | apply State.accept_keeps | apply State.serveChecked_keeps | apply State.whenLive_keeps
    | apply keeps_set_fuses | apply blown_revoke | apply Keeps.fuses | intro _

theorem execRollbackAdvance_keeps (ch : Nat) (hk : Keeps r₀ s) : Answers (Keeps r₀) (execRollbackAdvance ch s) := by
  unfold execRollbackAdvance
  show Keeps r₀ _
  dsimp only
  repeat' with_reducible first
    | assumption | apply State.accept_keeps | apply State.serveChecked_keeps | apply State.whenLive_keeps
    | apply keeps_set_fuses | apply blown_rollback | apply Keeps.fuses | intro _

theorem execFwReboot_keeps (ch : Nat) (hk : Keeps r₀ s) : Answers (Keeps r₀) (execFwReboot ch s) := by
  unfold execFwReboot
  show Keeps r₀ _
  repeat' with_reducible first
    | assumption | apply State.accept_keeps | apply State.serveChecked_keeps | apply State.whenLive_keeps | intro _

theorem execRequesterSet_keeps (ch : Nat) (hk : Keeps r₀ s) : Answers (Keeps r₀) (execRequesterSet ch s) := by
  unfold execRequesterSet
  show Keeps r₀ _
  repeat' with_reducible first
    | assumption | apply State.accept_keeps | apply State.serveChecked_keeps | apply State.when_keeps
    | apply State.whenLive_keeps | split | apply keeps_set | intro _

theorem execRequesterSetRemove_keeps (ch : Nat) (hk : Keeps r₀ s) :
    Answers (Keeps r₀) (execRequesterSetRemove ch s) := by
  unfold execRequesterSetRemove
  show Keeps r₀ _
  repeat' with_reducible first
    | assumption | apply State.accept_keeps | apply State.serveChecked_keeps | apply State.when_keeps
    | apply State.whenLive_keeps | apply keeps_set | intro _

theorem execOwnerSet_keeps (ch : Nat) (hk : Keeps r₀ s) : Answers (Keeps r₀) (execOwnerSet ch s) := by
  unfold execOwnerSet
  show Keeps r₀ _
  dsimp only
  repeat' with_reducible first
    | assumption | apply State.accept_keeps | apply State.serveChecked_keeps | apply State.whenLive_keeps
    | apply keeps_set_fuses | apply blown_bank | apply Keeps.fuses | intro _

/-! ### CtxCmds -/

theorem execContextCreate_keeps (ch : Nat) (hk : Keeps r₀ s) : Answers (Keeps r₀) (execContextCreate ch s) := by
  unfold execContextCreate
  show Keeps r₀ _
  repeat' with_reducible first
    | assumption | apply State.accept_keeps | apply State.serveChecked_keeps | apply State.whenLive_keeps
    | apply keeps_set_ctxs | apply Keeps.ctxs | apply kTbl_put | intro _

theorem execContextDelete_keeps (ch : Nat) (hk : Keeps r₀ s) : Answers (Keeps r₀) (execContextDelete ch s) := by
  unfold execContextDelete
  show Keeps r₀ _
  repeat' with_reducible first
    | assumption | apply State.accept_keeps | apply State.deleteContext_keeps | apply State.serveChecked_keeps
    | apply State.whenLive_keeps | intro _

theorem execContextSet_keeps (ch : Nat) (hk : Keeps r₀ s) : Answers (Keeps r₀) (execContextSet ch s) := by
  unfold execContextSet
  show Keeps r₀ _
  repeat' with_reducible first
    | assumption | apply State.accept_keeps | apply State.modCtx_keeps | apply State.serveChecked_keeps
    | apply State.whenLive_keeps | intro _

theorem execQueueCreate_keeps (ch : Nat) (hk : Keeps r₀ s) : Answers (Keeps r₀) (execQueueCreate ch s) := by
  unfold execQueueCreate
  show Keeps r₀ _
  repeat' with_reducible first
    | assumption | apply State.accept_keeps | apply State.modQueue_keeps | apply State.pushWrite_keeps
    | apply State.serveChecked_keeps | apply State.whenLive_keeps | apply State.writeWord_keeps | intro _

theorem execQueueDelete_keeps (ch : Nat) (hk : Keeps r₀ s) : Answers (Keeps r₀) (execQueueDelete ch s) := by
  unfold execQueueDelete
  show Keeps r₀ _
  repeat' with_reducible first
    | assumption | apply State.drainQueue_keeps | apply State.modQueue_keeps | apply State.park_keeps
    | apply State.serveChecked_keeps | apply State.track_keeps | apply State.whenLive_keeps | split | apply keeps_set
    | intro _

theorem execInboundWindowSet_keeps (ch : Nat) (hk : Keeps r₀ s) : Answers (Keeps r₀) (execInboundWindowSet ch s) := by
  unfold execInboundWindowSet
  show Keeps r₀ _
  repeat' with_reducible first
    | assumption | apply State.accept_keeps | apply State.dropWindows_keeps | apply State.modFolio_keeps
    | apply State.serveChecked_keeps | apply State.whenLive_keeps | split | apply keeps_set | apply keeps_set_inbound
    | apply Keeps.inbound | apply kTbl_put | intro _

theorem execPowerCapSet_keeps (ch : Nat) (hk : Keeps r₀ s) : Answers (Keeps r₀) (execPowerCapSet ch s) := by
  unfold execPowerCapSet
  show Keeps r₀ _
  repeat' with_reducible first
    | assumption | apply State.accept_keeps | apply State.serveChecked_keeps | apply State.whenLive_keeps
    | apply keeps_set | intro _

theorem execMbGroupPower_keeps (ch : Nat) (hk : Keeps r₀ s) : Answers (Keeps r₀) (execMbGroupPower ch s) := by
  unfold execMbGroupPower
  show Keeps r₀ _
  repeat' with_reducible first
    | assumption | apply State.accept_keeps | apply State.serveChecked_keeps | apply State.whenLive_keeps
    | apply keeps_set | intro _

/-! ### PartCmds -/

theorem execPartitionCreate_keeps (ch : Nat) (hk : Keeps r₀ s) : Answers (Keeps r₀) (execPartitionCreate ch s) := by
  unfold execPartitionCreate
  show Keeps r₀ _
  repeat' with_reducible first
    | assumption | apply State.accept_keeps | apply State.newInstance_keeps | apply State.serveChecked_keeps
    | apply State.whenLive_keeps | apply keeps_set_parts | apply Keeps.parts | apply kTbl_put | intro _

theorem execPartitionDestroy_keeps (ch : Nat) (hk : Keeps r₀ s) : Answers (Keeps r₀) (execPartitionDestroy ch s) := by
  unfold execPartitionDestroy
  show Keeps r₀ _
  repeat' with_reducible first
    | assumption | apply State.serveChecked_keeps | apply State.startDestroy_keeps | apply State.whenLive_keeps
    | intro _

theorem execLayoutChange_keeps (ch : Nat) (hk : Keeps r₀ s) : Answers (Keeps r₀) (execLayoutChange ch s) := by
  unfold execLayoutChange
  show Keeps r₀ _
  repeat' with_reducible first
    | assumption | apply State.accept_keeps | apply State.modPart_keeps | apply State.serveChecked_keeps
    | apply State.whenLive_keeps | split | intro _

theorem execPartitionSet_keeps (ch : Nat) (hk : Keeps r₀ s) : Answers (Keeps r₀) (execPartitionSet ch s) := by
  unfold execPartitionSet
  show Keeps r₀ _
  repeat' with_reducible first
    | assumption | apply State.accept_keeps | apply State.modPart_keeps | apply State.serveChecked_keeps
    | apply State.whenLive_keeps | intro _

theorem execRegulatorSet_keeps (ch : Nat) (hk : Keeps r₀ s) : Answers (Keeps r₀) (execRegulatorSet ch s) := by
  unfold execRegulatorSet
  show Keeps r₀ _
  repeat' with_reducible first
    | assumption | apply State.accept_keeps | apply State.modPart_keeps | apply State.serveChecked_keeps
    | apply State.whenLive_keeps | intro _

/-! ### Readback -/

theorem execScRbIndex_keeps (r : Requester) (lane : Nat) (v : BitVec 64) (hk : Keeps r₀ s) :
    Answers (Keeps r₀) (execScRbIndex r lane v s) := by
  unfold execScRbIndex
  show Keeps r₀ _
  repeat' with_reducible first
    | assumption | apply State.access_keeps | apply State.badAccess_keeps | apply State.modLane_keeps
    | apply State.when_keeps | split | intro _

theorem execCaptureDone_keeps (r : Requester) (lane : Nat) (hk : Keeps r₀ s) :
    Answers (Keeps r₀) (execCaptureDone r lane s) := by
  unfold execCaptureDone
  show Keeps r₀ _
  repeat' with_reducible first
    | assumption | apply State.draw_keeps | apply State.modLane_keeps | apply State.whenLive_keeps | split
    | apply keeps_set | intro _

/-! ### RegisterCmds -/

theorem execGraphRegister_keeps (ch : Nat) (image : Bytes) (clean : Bool) (hk : Keeps r₀ s) :
    Answers (Keeps r₀) (execGraphRegister ch image clean s) := by
  unfold execGraphRegister
  show Keeps r₀ _
  repeat' with_reducible first
    | assumption | apply State.accept_keeps | apply State.serveChecked_keeps | apply State.whenLive_keeps
    | apply State.withImage_keeps | split | apply keeps_set | apply keeps_set_graphs | apply Keeps.graphs
    | apply kTbl_put | intro _

theorem execGraphPatch_keeps (ch : Nat) (image : Bytes) (clean : Bool) (hk : Keeps r₀ s) :
    Answers (Keeps r₀) (execGraphPatch ch image clean s) := by
  unfold execGraphPatch
  show Keeps r₀ _
  repeat' with_reducible first
    | assumption | apply State.accept_keeps | apply State.modGraph_keeps | apply State.serveChecked_keeps
    | apply State.whenLive_keeps | apply State.withImage_keeps | split | intro _

theorem execGraphUnregister_keeps (ch : Nat) (hk : Keeps r₀ s) : Answers (Keeps r₀) (execGraphUnregister ch s) := by
  unfold execGraphUnregister
  show Keeps r₀ _
  repeat' with_reducible first
    | assumption | apply State.accept_keeps | apply State.modGraph_keeps | apply State.serveChecked_keeps
    | apply State.whenLive_keeps | split | apply keeps_set | intro _

theorem execFolioRegister_keeps (ch : Nat) (hk : Keeps r₀ s) : Answers (Keeps r₀) (execFolioRegister ch s) := by
  unfold execFolioRegister
  show Keeps r₀ _
  repeat' with_reducible first
    | assumption | apply State.accept_keeps | apply State.serveChecked_keeps | apply State.whenLive_keeps | split
    | apply keeps_set | apply keeps_set_folios | apply Keeps.folios | apply kTbl_put | intro _

theorem execFolioSet_keeps (ch : Nat) (hk : Keeps r₀ s) : Answers (Keeps r₀) (execFolioSet ch s) := by
  unfold execFolioSet
  show Keeps r₀ _
  repeat' with_reducible first
    | assumption | apply State.accept_keeps | apply State.dropPublishers_keeps | apply State.dropReaders_keeps
    | apply State.modFolio_keeps | apply State.serveChecked_keeps | apply State.whenLive_keeps | split
    | apply keeps_set | intro _

theorem execFolioLookup_keeps (ch : Nat) (hk : Keeps r₀ s) : Answers (Keeps r₀) (execFolioLookup ch s) := by
  unfold execFolioLookup
  show Keeps r₀ _
  repeat' with_reducible first
    | assumption | apply State.accept_keeps | apply State.serveChecked_keeps | apply State.whenLive_keeps | split
    | intro _

theorem execFolioUnregister_keeps (ch : Nat) (hk : Keeps r₀ s) : Answers (Keeps r₀) (execFolioUnregister ch s) := by
  unfold execFolioUnregister
  show Keeps r₀ _
  repeat' with_reducible first
    | assumption | apply State.accept_keeps | apply State.modFolio_keeps | apply State.serveChecked_keeps
    | apply State.sweepFolio_keeps | apply State.whenLive_keeps | split | apply keeps_set | intro _

/-! ### ResetCmds -/

theorem execPartitionResetStart_keeps (p : Nat) (t : ResetTrigger) (hk : Keeps r₀ s) :
    Answers (Keeps r₀) (execPartitionResetStart p t s) := by
  unfold execPartitionResetStart
  show Keeps r₀ _
  repeat' with_reducible first
    | assumption | apply State.startReset_keeps | apply State.whenLive_keeps | intro _

theorem execPartitionResetDrainDone_keeps (p : Nat) (hk : Keeps r₀ s) :
    Answers (Keeps r₀) (execPartitionResetDrainDone p s) := by
  unfold execPartitionResetDrainDone
  show Keeps r₀ _
  repeat' with_reducible first
    | assumption | apply State.dismantle_keeps | apply State.dropTranslations_keeps | apply State.flushPart_keeps
    | apply State.modPart_keeps | apply State.when_keeps | apply State.whenLive_keeps | apply State.writeDump_keeps
    | split | apply keeps_set | intro _

theorem execPartitionResetEnd_keeps (p : Nat) (hk : Keeps r₀ s) : Answers (Keeps r₀) (execPartitionResetEnd p s) := by
  unfold execPartitionResetEnd
  show Keeps r₀ _
  repeat' with_reducible first
    | assumption | apply State.endReset_keeps | apply State.track_keeps | apply State.when_keeps
    | apply State.whenLive_keeps | intro _

theorem execLayoutClearingDone_keeps (p : Nat) (hk : Keeps r₀ s) : Answers (Keeps r₀) (execLayoutClearingDone p s) := by
  unfold execLayoutClearingDone
  show Keeps r₀ _
  dsimp only
  repeat' with_reducible first
    | assumption | apply State.endClearing_keeps | apply State.endDestroy_keeps | apply State.when_keeps
    | apply State.whenLive_keeps | split | intro _

theorem execRevocationDrainBound_keeps (extent : Nat) (hk : Keeps r₀ s) :
    Answers (Keeps r₀) (execRevocationDrainBound extent s) := by
  unfold execRevocationDrainBound
  show Keeps r₀ _
  repeat' with_reducible first
    | assumption | apply State.endWhere_keeps | apply State.modExtent_keeps | apply State.revokeSeqs_keeps
    | apply State.settleFences_keeps | apply State.track_keeps | apply State.when_keeps | apply State.whenLive_keeps
    | split | apply keeps_set | intro _

theorem execRevocationInvalidated_keeps (extent : Nat) (hk : Keeps r₀ s) :
    Answers (Keeps r₀) (execRevocationInvalidated extent s) := by
  unfold execRevocationInvalidated
  show Keeps r₀ _
  repeat' with_reducible first
    | assumption | apply State.invalidated_keeps | apply State.when_keeps | apply State.whenLive_keeps | intro _

theorem execZeroingDone_keeps (extent : Nat) (hk : Keeps r₀ s) : Answers (Keeps r₀) (execZeroingDone extent s) := by
  unfold execZeroingDone
  show Keeps r₀ _
  repeat' with_reducible first
    | assumption | apply State.emit_keeps | apply State.when_keeps | apply State.whenLive_keeps | split
    | apply keeps_set | apply keeps_set_extents | apply Keeps.extents | apply kTbl_del | intro _

/-! ### SpdmCmds -/

theorem execGetVersion_keeps (session : Nat) (hk : Keeps r₀ s) : Answers (Keeps r₀) (execGetVersion session s) := by
  unfold execGetVersion
  show Keeps r₀ _
  repeat' with_reducible first
    | assumption | apply State.inOrderOf_keeps | apply State.respondFree_keeps | apply State.setSession_keeps
    | intro _

theorem execGetCapabilities_keeps (session : Nat) (hk : Keeps r₀ s) :
    Answers (Keeps r₀) (execGetCapabilities session s) := by
  unfold execGetCapabilities
  show Keeps r₀ _
  repeat' with_reducible first
    | assumption | apply State.inOrderOf_keeps | apply State.respondFree_keeps | apply State.setSession_keeps
    | intro _

theorem execNegotiateAlgorithms_keeps (session : Nat) (common : Bool) (hk : Keeps r₀ s) :
    Answers (Keeps r₀) (execNegotiateAlgorithms session common s) := by
  unfold execNegotiateAlgorithms
  show Keeps r₀ _
  repeat' with_reducible first
    | assumption | apply State.inOrderOf_keeps | apply State.respondFree_keeps | apply State.setSession_keeps
    | intro _

theorem execGetDigests_keeps (session : Nat) (hk : Keeps r₀ s) : Answers (Keeps r₀) (execGetDigests session s) := by
  unfold execGetDigests
  show Keeps r₀ _
  repeat' with_reducible first
    | assumption | apply State.inOrderOf_keeps | apply State.respond_keeps | intro _

theorem execGetCertificate_keeps (session slot offset length : Nat) (hk : Keeps r₀ s) :
    Answers (Keeps r₀) (execGetCertificate session slot offset length s) := by
  unfold execGetCertificate
  show Keeps r₀ _
  repeat' with_reducible first
    | assumption | apply State.inOrderOf_keeps | apply State.respond_keeps | apply State.spdmError_keeps | split
    | intro _

theorem execChallenge_keeps (session slot : Nat) (nonce : BitVec 256) (hk : Keeps r₀ s) :
    Answers (Keeps r₀) (execChallenge session slot nonce s) := by
  unfold execChallenge
  show Keeps r₀ _
  repeat' with_reducible first
    | assumption | apply State.inOrderOf_keeps | apply State.respond_keeps | apply State.spdmError_keeps | split
    | intro _

theorem execGetMeasurements_keeps (session index slot : Nat) (sign : Bool) (nonce : BitVec 256) (hk : Keeps r₀ s) :
    Answers (Keeps r₀) (execGetMeasurements session index slot sign nonce s) := by
  unfold execGetMeasurements
  show Keeps r₀ _
  repeat' with_reducible first
    | assumption | apply State.inOrderOf_keeps | apply State.respond_keeps | apply State.spdmError_keeps | split
    | intro _

theorem execKeyExchange_keeps (session : Nat) (requester : Requester) (bound : Option Nat) (mutAuth : Bool) (hk : Keeps r₀ s) :
    Answers (Keeps r₀) (execKeyExchange session requester bound mutAuth s) := by
  unfold execKeyExchange
  show Keeps r₀ _
  repeat' with_reducible first
    | assumption | apply State.inOrderOf_keeps | apply State.respondFree_keeps | apply State.setSession_keeps
    | intro _

theorem execHeartbeat_keeps (session : Nat) (hk : Keeps r₀ s) : Answers (Keeps r₀) (execHeartbeat session s) := by
  unfold execHeartbeat
  show Keeps r₀ _
  repeat' with_reducible first
    | assumption | apply State.inOrderOf_keeps | apply State.respond_keeps | intro _

theorem execKeyUpdate_keeps (session : Nat) (hk : Keeps r₀ s) : Answers (Keeps r₀) (execKeyUpdate session s) := by
  unfold execKeyUpdate
  show Keeps r₀ _
  repeat' with_reducible first
    | assumption | apply State.inOrderOf_keeps | apply State.respond_keeps | apply State.setSession_keeps | intro _

theorem execEndSession_keeps (session : Nat) (hk : Keeps r₀ s) : Answers (Keeps r₀) (execEndSession session s) := by
  unfold execEndSession
  show Keeps r₀ _
  repeat' with_reducible first
    | assumption | apply State.inOrderOf_keeps | apply State.loseSession_keeps | apply State.respond_keeps | intro _

theorem execSpdmSessionLoss_keeps (session : Nat) (hk : Keeps r₀ s) :
    Answers (Keeps r₀) (execSpdmSessionLoss session s) := by
  unfold execSpdmSessionLoss
  show Keeps r₀ _
  repeat' with_reducible first
    | assumption | apply State.loseSession_keeps | apply State.when_keeps | apply State.whenLive_keeps | intro _

theorem execChunkSend_keeps (session _handle index : Nat) (chunk : Bytes) (last : Bool) (hk : Keeps r₀ s) :
    Answers (Keeps r₀) (execChunkSend session _handle index chunk last s) := by
  unfold execChunkSend
  show Keeps r₀ _
  repeat' with_reducible first
    | assumption | apply State.inOrderOf_keeps | apply State.respondFree_keeps | apply State.setSession_keeps | split
    | intro _

theorem execChunkGet_keeps (session _handle index : Nat) (hk : Keeps r₀ s) :
    Answers (Keeps r₀) (execChunkGet session _handle index s) := by
  unfold execChunkGet
  show Keeps r₀ _
  repeat' with_reducible first
    | assumption | apply State.inOrderOf_keeps | apply State.respond_keeps | apply State.setSession_keeps | intro _

theorem execGetTdispVersion_keeps (session p : Nat) (hk : Keeps r₀ s) :
    Answers (Keeps r₀) (execGetTdispVersion session p s) := by
  unfold execGetTdispVersion
  show Keeps r₀ _
  repeat' with_reducible first
    | assumption | apply State.onTdi_keeps | apply State.respondFree_keeps | intro _

theorem execGetTdispCapabilities_keeps (session p : Nat) (hk : Keeps r₀ s) :
    Answers (Keeps r₀) (execGetTdispCapabilities session p s) := by
  unfold execGetTdispCapabilities
  show Keeps r₀ _
  repeat' with_reducible first
    | assumption | apply State.onTdi_keeps | apply State.respondFree_keeps | intro _

theorem execLockInterfaceRequest_keeps (session p : Nat) (hk : Keeps r₀ s) :
    Answers (Keeps r₀) (execLockInterfaceRequest session p s) := by
  unfold execLockInterfaceRequest
  show Keeps r₀ _
  repeat' with_reducible first
    | assumption | apply State.modPart_keeps | apply State.onTdi_keeps | apply State.respondFree_keeps
    | apply State.stopPartition_keeps | apply State.tdispError_keeps | split | apply keeps_set | intro _

theorem execGetDeviceInterfaceReport_keeps (session p : Nat) (hk : Keeps r₀ s) :
    Answers (Keeps r₀) (execGetDeviceInterfaceReport session p s) := by
  unfold execGetDeviceInterfaceReport
  show Keeps r₀ _
  repeat' with_reducible first
    | assumption | apply State.onTdi_keeps | apply State.respond_keeps | intro _

theorem execGetDeviceInterfaceState_keeps (session p : Nat) (hk : Keeps r₀ s) :
    Answers (Keeps r₀) (execGetDeviceInterfaceState session p s) := by
  unfold execGetDeviceInterfaceState
  show Keeps r₀ _
  repeat' with_reducible first
    | assumption | apply State.onTdi_keeps | apply State.respond_keeps | intro _

theorem execStartInterfaceRequest_keeps (session p : Nat) (hk : Keeps r₀ s) :
    Answers (Keeps r₀) (execStartInterfaceRequest session p s) := by
  unfold execStartInterfaceRequest
  show Keeps r₀ _
  repeat' with_reducible first
    | assumption | apply State.modPart_keeps | apply State.onTdi_keeps | apply State.respondFree_keeps
    | apply State.resumePartition_keeps | apply State.tdispError_keeps | split | intro _

theorem execStopInterfaceRequest_keeps (session p : Nat) (hk : Keeps r₀ s) :
    Answers (Keeps r₀) (execStopInterfaceRequest session p s) := by
  unfold execStopInterfaceRequest
  show Keeps r₀ _
  repeat' with_reducible first
    | assumption | apply State.modPart_keeps | apply State.onTdi_keeps | apply State.respondFree_keeps
    | apply State.resumePartition_keeps | apply State.startReset_keeps | split | intro _

theorem execIdeKmKeyProg_keeps (session p keyBits : Nat) (hk : Keeps r₀ s) :
    Answers (Keeps r₀) (execIdeKmKeyProg session p keyBits s) := by
  unfold execIdeKmKeyProg
  show Keeps r₀ _
  repeat' with_reducible first
    | assumption | apply State.modPart_keeps | apply State.onTdi_keeps | apply State.respondFree_keeps | intro _

/-! ### Telemetry -/

theorem execFirmwareTelemetrySample_keeps (hk : Keeps r₀ s) : Answers (Keeps r₀) (execFirmwareTelemetrySample s) := by
  unfold execFirmwareTelemetrySample
  show Keeps r₀ _
  repeat' with_reducible first
    | assumption | apply State.emit_keeps | apply State.when_keeps | apply State.whenLive_keeps | apply keeps_set
    | intro _

theorem execTelemetryRead_keeps (ch : Nat) (hk : Keeps r₀ s) : Answers (Keeps r₀) (execTelemetryRead ch s) := by
  unfold execTelemetryRead
  show Keeps r₀ _
  dsimp only
  repeat' with_reducible first
    | assumption | apply State.accept_keeps | apply State.serveChecked_keeps | apply State.tooLong_keeps
    | apply State.whenLive_keeps | split | intro _

theorem execSnapshot_keeps (ch : Nat) (hk : Keeps r₀ s) : Answers (Keeps r₀) (execSnapshot ch s) := by
  unfold execSnapshot
  show Keeps r₀ _
  repeat' with_reducible first
    | assumption | apply State.accept_keeps | apply State.draw_keeps | apply State.emit_keeps
    | apply State.serveChecked_keeps | apply State.whenLive_keeps | split | apply keeps_set | intro _

theorem execPowerRead_keeps (ch : Nat) (hk : Keeps r₀ s) : Answers (Keeps r₀) (execPowerRead ch s) := by
  unfold execPowerRead
  show Keeps r₀ _
  repeat' with_reducible first
    | assumption | apply State.accept_keeps | apply State.serveChecked_keeps | apply State.tooLong_keeps
    | apply State.whenLive_keeps | split | intro _

end

/-! ### Every command, every step -/

theorem exec_keeps (i : Instr) {r₀ s : State} (hk : Keeps r₀ s) : Answers (Keeps r₀) (exec i s) :=
  match i with
  | .registerWrite r sp offset size v => execRegisterWrite_keeps r sp offset size v hk
  | .badScAccess r write offset size => execBadScAccess_keeps r write offset size hk
  | .scBadAccessRead r half => execScBadAccessRead_keeps r half hk
  | .scQcountsRead r q half => execScQcountsRead_keeps r q half hk
  | .scQdb r q v => execScQdb_keeps r q v hk
  | .doorbellTokenAccrual q => execDoorbellTokenAccrual_keeps q hk
  | .slotFetch q => execSlotFetch_keeps q hk
  | .slotArrival q d => execSlotArrival_keeps q d hk
  | .externalConstantsReadDone q seq d => execExternalConstantsReadDone_keeps q seq d hk
  | .overrideTableReadDone q seq d => execOverrideTableReadDone_keeps q seq d hk
  | .nop q seq => execNop_keeps q seq hk
  | .launch q seq => execLaunch_keeps q seq hk
  | .chainStore q seq d => execChainStore_keeps q seq d hk
  | .chainRun q seq => execChainRun_keeps q seq hk
  | .adviseNormal q seq => execAdviseNormal_keeps q seq hk
  | .adviseHot q seq => execAdviseHot_keeps q seq hk
  | .adviseCold q seq => execAdviseCold_keeps q seq hk
  | .adviseWillNeed q seq => execAdviseWillNeed_keeps q seq hk
  | .adviseDontNeed q seq => execAdviseDontNeed_keeps q seq hk
  | .adviseReleaseKeep q seq => execAdviseReleaseKeep_keeps q seq hk
  | .prefetchNearTier q seq => execPrefetchNearTier_keeps q seq hk
  | .prefetchClusterCache q seq => execPrefetchClusterCache_keeps q seq hk
  | .prefetchBoth q seq => execPrefetchBoth_keeps q seq hk
  | .adviceAck q seq => execAdviceAck_keeps q seq hk
  | .fenceQueue q seq => execFenceQueue_keeps q seq hk
  | .fenceContext q seq => execFenceContext_keeps q seq hk
  | .fenceFinish q seq => execFenceFinish_keeps q seq hk
  | .seqAdmit q seq => execSeqAdmit_keeps q seq hk
  | .seqRetireOne q seq => execSeqRetireOne_keeps q seq hk
  | .seqRetireGroup q seq => execSeqRetireGroup_keeps q seq hk
  | .seqRetireContext q seq => execSeqRetireContext_keeps q seq hk
  | .seqEntryFreed entry => execSeqEntryFreed_keeps entry hk
  | .folioOpenRead q seq resultMapped => execFolioOpenRead_keeps q seq resultMapped hk
  | .folioOpenDraft q seq resultMapped => execFolioOpenDraft_keeps q seq resultMapped hk
  | .folioClose q seq resultMapped => execFolioClose_keeps q seq resultMapped hk
  | .folioPublish q seq resultMapped => execFolioPublish_keeps q seq resultMapped hk
  | .pageListReadDone q seq d => execPageListReadDone_keeps q seq d hk
  | .phaseStart q seq phase => execPhaseStart_keeps q seq phase hk
  | .baste core => execBaste_keeps core hk
  | .tileStart core gathers => execTileStart_keeps core gathers hk
  | .contextSwitchDone core => execContextSwitchDone_keeps core hk
  | .tileCommitStart core work => execTileCommitStart_keeps core work hk
  | .commitPhaseEnd core => execCommitPhaseEnd_keeps core hk
  | .gatherReturn core request more => execGatherReturn_keeps core request more hk
  | .reductionApply cluster slice => execReductionApply_keeps cluster slice hk
  | .granuleCommit cluster => execGranuleCommit_keeps cluster hk
  | .sharedPageCopyDone folio version page => execSharedPageCopyDone_keeps folio version page hk
  | .memData port tag words => execMemData_keeps port tag words hk
  | .memAck port tag => execMemAck_keeps port tag hk
  | .backInval line => execBackInval_keeps line hk
  | .snoop line => execSnoop_keeps line hk
  | .launchFinish q seq => execLaunchFinish_keeps q seq hk
  | .queueWriteAccepted q => execQueueWriteAccepted_keeps q hk
  | .queueAreaAccessFail q area => execQueueAreaAccessFail_keeps q area hk
  | .interruptLost q => execInterruptLost_keeps q hk
  | .scQctlStop r q => execScQctlStop_keeps r q hk
  | .scQctlResume r q => execScQctlResume_keeps r q hk
  | .queueGuilty q admittedCopy => execQueueGuilty_keeps q admittedCopy hk
  | .monitorTick => execMonitorTick_keeps hk
  | .fallbackSwitch q seq => execFallbackSwitch_keeps q seq hk
  | .hemForcedTack q seq => execHemForcedTack_keeps q seq hk
  | .forcedTack core => execForcedTack_keeps core hk
  | .idleStrandsTimeout core => execIdleStrandsTimeout_keeps core hk
  | .abandonDone core => execAbandonDone_keeps core hk
  | .commonsSwitch ctx => execCommonsSwitch_keeps ctx hk
  | .commonsSwitchDone => execCommonsSwitchDone_keeps hk
  | .translationCompletion die slot a => execTranslationCompletion_keeps die slot a hk
  | .pageListFill die slot => execPageListFill_keeps die slot hk
  | .faultBatchFlush die ctx => execFaultBatchFlush_keeps die ctx hk
  | .faultRingWriteFail ctx => execFaultRingWriteFail_keeps ctx hk
  | .prgResponse group c => execPrgResponse_keeps group c hk
  | .faultRetry fault => execFaultRetry_keeps fault hk
  | .consumerPoll ctx => execConsumerPoll_keeps ctx hk
  | .consumerReadDone ctx count => execConsumerReadDone_keeps ctx count hk
  | .unresolvedFault q seq cause => execUnresolvedFault_keeps q seq cause hk
  | .atsInvalidateRequest tag pasid base length => execAtsInvalidateRequest_keeps tag pasid base length hk
  | .invalidationCompletion tag => execInvalidationCompletion_keeps tag hk
  | .inboundRequest endpoint window offset write len data => execInboundRequest_keeps endpoint window offset write len data hk
  | .fabricResponse request c => execFabricResponse_keeps request c hk
  | .fabricResponseTimeout request => execFabricResponseTimeout_keeps request hk
  | .hostWriteErrorAnswer q seq => execHostWriteErrorAnswer_keeps q seq hk
  | .hostReadErrorAnswer request => execHostReadErrorAnswer_keeps request hk
  | .linkHeld port => execLinkHeld_keeps port hk
  | .linkUp port => execLinkUp_keeps port hk
  | .linkUnencrypted port => execLinkUnencrypted_keeps port hk
  | .abortNoticeReceived group origin serial => execAbortNoticeReceived_keeps group origin serial hk
  | .frameBoundary => execFrameBoundary_keeps hk
  | .backgroundSlot ageing => execBackgroundSlot_keeps ageing hk
  | .scrubResult port addr found => execScrubResult_keeps port addr found hk
  | .msBoundary blockWatts clusterWatts => execMsBoundary_keeps blockWatts clusterWatts hk
  | .powerWindowEnd joules => execPowerWindowEnd_keeps joules hk
  | .timeStrobe v parity => execTimeStrobe_keeps v parity hk
  | .strobeTimeout => execStrobeTimeout_keeps hk
  | .reanchor => execReanchor_keeps hk
  | .wordUncorrectable place syndrome => execWordUncorrectable_keeps place syndrome hk
  | .poisonConsumed core from_ => execPoisonConsumed_keeps core from_ hk
  | .tileError core e => execTileError_keeps core e hk
  | .clusterQuarantine cluster => execClusterQuarantine_keeps cluster hk
  | .escalated d => execEscalated_keeps d hk
  | .mirrorServed cluster folio page word mirror back => execMirrorServed_keeps cluster folio page word mirror back hk
  | .mirrorCopyDone folio version => execMirrorCopyDone_keeps folio version hk
  | .errPop queue v => execErrPop_keeps queue v hk
  | .errQstatRead queue half => execErrQstatRead_keeps queue half hk
  | .partitionResetStart p t => execPartitionResetStart_keeps p t hk
  | .partitionResetDrainDone p => execPartitionResetDrainDone_keeps p hk
  | .partitionResetEnd p => execPartitionResetEnd_keeps p hk
  | .blockFatal die => execBlockFatal_keeps die hk
  | .revocationDrainBound extent => execRevocationDrainBound_keeps extent hk
  | .revocationInvalidated extent => execRevocationInvalidated_keeps extent hk
  | .zeroingDone extent => execZeroingDone_keeps extent hk
  | .scMbNotice r ch v => execScMbNotice_keeps r ch v hk
  | .noticeTake bobbin => execNoticeTake_keeps bobbin hk
  | .messageReadDone ch d => execMessageReadDone_keeps ch d hk
  | .capabilityCheck ch => execCapabilityCheck_keeps ch hk
  | .busyAnswer ch => execBusyAnswer_keeps ch hk
  | .replyPosted ch accepted => execReplyPosted_keeps ch accepted hk
  | .scMbAck r ch v => execScMbAck_keeps r ch v hk
  | .replyHoldExpiry ch => execReplyHoldExpiry_keeps ch hk
  | .capabilityExpiry capId => execCapabilityExpiry_keeps capId hk
  | .partitionReset ch => execPartitionReset_keeps ch hk
  | .queueReset ch => execQueueReset_keeps ch hk
  | .queueStop ch => execQueueStop_keeps ch hk
  | .queueStopResume ch => execQueueStopResume_keeps ch hk
  | .errorLogRead ch => execErrorLogRead_keeps ch hk
  | .folioRepair ch source readBack => execFolioRepair_keeps ch source readBack hk
  | .spdmMessage ch => execSpdmMessage_keeps ch hk
  | .attest ch => execAttest_keeps ch hk
  | .keyZeroise ch => execKeyZeroise_keeps ch hk
  | .signerRevoke ch => execSignerRevoke_keeps ch hk
  | .rollbackAdvance ch => execRollbackAdvance_keeps ch hk
  | .fwReboot ch => execFwReboot_keeps ch hk
  | .requesterSet ch => execRequesterSet_keeps ch hk
  | .requesterSetRemove ch => execRequesterSetRemove_keeps ch hk
  | .ownerSet ch => execOwnerSet_keeps ch hk
  | .partitionCreate ch => execPartitionCreate_keeps ch hk
  | .partitionDestroy ch => execPartitionDestroy_keeps ch hk
  | .layoutChange ch => execLayoutChange_keeps ch hk
  | .partitionSet ch => execPartitionSet_keeps ch hk
  | .regulatorSet ch => execRegulatorSet_keeps ch hk
  | .contextCreate ch => execContextCreate_keeps ch hk
  | .contextDelete ch => execContextDelete_keeps ch hk
  | .contextSet ch => execContextSet_keeps ch hk
  | .queueCreate ch => execQueueCreate_keeps ch hk
  | .queueDelete ch => execQueueDelete_keeps ch hk
  | .extentGrant ch => execExtentGrant_keeps ch hk
  | .extentRights ch => execExtentRights_keeps ch hk
  | .extentRevoke ch => execExtentRevoke_keeps ch hk
  | .inboundWindowSet ch => execInboundWindowSet_keeps ch hk
  | .powerCapSet ch => execPowerCapSet_keeps ch hk
  | .mbGroupPower ch => execMbGroupPower_keeps ch hk
  | .graphRegister ch image clean => execGraphRegister_keeps ch image clean hk
  | .graphPatch ch image clean => execGraphPatch_keeps ch image clean hk
  | .graphUnregister ch => execGraphUnregister_keeps ch hk
  | .folioRegister ch => execFolioRegister_keeps ch hk
  | .folioSet ch => execFolioSet_keeps ch hk
  | .folioLookup ch => execFolioLookup_keeps ch hk
  | .folioUnregister ch => execFolioUnregister_keeps ch hk
  | .telemetryRead ch => execTelemetryRead_keeps ch hk
  | .snapshot ch => execSnapshot_keeps ch hk
  | .powerRead ch => execPowerRead_keeps ch hk
  | .firmwareTelemetrySample => execFirmwareTelemetrySample_keeps hk
  | .extentCheckAnswer ch ok mcGroup => execExtentCheckAnswer_keeps ch ok mcGroup hk
  | .extentCheckTimeout ch => execExtentCheckTimeout_keeps ch hk
  | .extentRevokeReq grant partition => execExtentRevokeReq_keeps grant partition hk
  | .nearTierReport size => execNearTierReport_keeps size hk
  | .bootData data => execBootData_keeps data hk
  | .icDoorbellFire v => execIcDoorbellFire_keeps v hk
  | .icDoorbellDeassert v => execIcDoorbellDeassert_keeps v hk
  | .icAck core => execIcAck_keeps core hk
  | .icEoi core v => execIcEoi_keeps core v hk
  | .icSetPending v => execIcSetPending_keeps v hk
  | .icClearPending v => execIcClearPending_keeps v hk
  | .stormWindowExpiry source => execStormWindowExpiry_keeps source hk
  | .sleepReq => execSleepReq_keeps hk
  | .icWake pin => execIcWake_keeps pin hk
  | .msixUnmask entry => execMsixUnmask_keeps entry hk
  | .scTamperN held => execScTamperN_keeps held hk
  | .debugUnlockAttempt => execDebugUnlockAttempt_keeps hk
  | .classBGlitch die unit => execClassBGlitch_keeps die unit hk
  | .retireFuseBlown => execRetireFuseBlown_keeps hk
  | .partitionKeyRenewed p => execPartitionKeyRenewed_keeps p hk
  | .getVersion session => execGetVersion_keeps session hk
  | .getCapabilities session => execGetCapabilities_keeps session hk
  | .negotiateAlgorithms session common => execNegotiateAlgorithms_keeps session common hk
  | .getDigests session => execGetDigests_keeps session hk
  | .getCertificate session slot offset length => execGetCertificate_keeps session slot offset length hk
  | .challenge session slot nonce => execChallenge_keeps session slot nonce hk
  | .getMeasurements session index slot signed nonce => execGetMeasurements_keeps session index slot signed nonce hk
  | .keyExchange session requester bound mutAuth => execKeyExchange_keeps session requester bound mutAuth hk
  | .finish session ok rootDigest => execFinish_keeps session ok rootDigest hk
  | .heartbeat session => execHeartbeat_keeps session hk
  | .keyUpdate session => execKeyUpdate_keeps session hk
  | .endSession session => execEndSession_keeps session hk
  | .chunkSend session handle index chunk last => execChunkSend_keeps session handle index chunk last hk
  | .chunkGet session handle index => execChunkGet_keeps session handle index hk
  | .spdmSessionLoss session => execSpdmSessionLoss_keeps session hk
  | .getTdispVersion session p => execGetTdispVersion_keeps session p hk
  | .getTdispCapabilities session p => execGetTdispCapabilities_keeps session p hk
  | .lockInterfaceRequest session p => execLockInterfaceRequest_keeps session p hk
  | .getDeviceInterfaceReport session p => execGetDeviceInterfaceReport_keeps session p hk
  | .getDeviceInterfaceState session p => execGetDeviceInterfaceState_keeps session p hk
  | .startInterfaceRequest session p => execStartInterfaceRequest_keeps session p hk
  | .stopInterfaceRequest session p => execStopInterfaceRequest_keeps session p hk
  | .ideKmKeyProg session p keyBits => execIdeKmKeyProg_keeps session p keyBits hk
  | .scHardCapAssert held => execScHardCapAssert_keeps held hk
  | .scHardCapDeassert held => execScHardCapDeassert_keeps held hk
  | .thermalSample readings => execThermalSample_keeps readings hk
  | .coolantStop held => execCoolantStop_keeps held hk
  | .droopDetect core excess => execDroopDetect_keeps core excess hk
  | .scResetNAssert held => execScResetNAssert_keeps held hk
  | .scResetNDeassert held coolantOk hardCap => execScResetNDeassert_keeps held coolantOk hardCap hk
  | .romDone selfTestOk => execRomDone_keeps selfTestOk hk
  | .keysDone ok => execKeysDone_keeps ok hk
  | .imageChecked ageing => execImageChecked_keeps ageing hk
  | .memoryPortReady port => execMemoryPortReady_keeps port hk
  | .memoryPortTimeout port => execMemoryPortTimeout_keeps port hk
  | .trainingDone tests => execTrainingDone_keeps tests hk
  | .timeLimitExpiry => execTimeLimitExpiry_keeps hk
  | .bridgeFlitReplay bundle again => execBridgeFlitReplay_keeps bundle again hk
  | .bridgeRetrainStart bundle => execBridgeRetrainStart_keeps bundle hk
  | .bridgeRetrainEnd t => execBridgeRetrainEnd_keeps t hk
  | .widthReq r v => execWidthReq_keeps r v hk
  | .retrain r v => execRetrain_keeps r v hk
  | .bridgeWidthChange => execBridgeWidthChange_keeps hk
  | .scSignalsRead r half => execScSignalsRead_keeps r half hk
  | .scRbIndex r lane v => execScRbIndex_keeps r lane v hk
  | .captureDone r lane => execCaptureDone_keeps r lane hk
  | .slotRetireCommand ch => execSlotRetireCommand_keeps ch hk
  | .icStatusRead half => execIcStatusRead_keeps half hk
  | .bootReadTimeout => execBootReadTimeout_keeps hk
  | .thimbleDomainGlitch => execThimbleDomainGlitch_keeps hk
  | .partitionCertificateIssued p => execPartitionCertificateIssued_keeps p hk
  | .inputGlitch pin width => execInputGlitch_keeps pin width hk
  | .slewComplete => execSlewComplete_keeps hk
  | .faultRingWriteAccepted ctx => execFaultRingWriteAccepted_keeps ctx hk
  | .priEnable p => execPriEnable_keeps p hk
  | .regulatorTokenAccrual port => execRegulatorTokenAccrual_keeps port hk
  | .layoutClearingDone p => execLayoutClearingDone_keeps p hk

/-- A step keeps what the state behind the command at its front has. -/
theorem step_keeps (s : State) : Answers (Keeps { s with pending := s.pending.tail }) (step s) := by
  cases h : s.pending with
  | nil =>
    have hs : { s with pending := [] } = s := by rw [← h]
    simp only [step, h, List.tail_nil, hs]
    exact State.tick_keeps s (.refl s)
  | cons c cs =>
    simp only [step, h, List.tail_cons]
    exact exec_keeps c (.refl _)

theorem keeps_of_step {s t : State} (h : step s = .next t) : Keeps { s with pending := s.pending.tail } t := by
  have hs := step_keeps s
  rwa [h] at hs

/-- Settles O4: what every command keeps, and the clock of an idle step. -/
theorem stepKeepsWhatOutlivesIt : Obligations.StepKeepsWhatOutlivesIt :=
  fun _ _ h => (keeps_of_step h).outlives

/-- Settles O5: the tables and scratchpads of the state behind the front command are those of the state itself. -/
theorem stepKeepsTheCanonicalForms : Obligations.StepKeepsTheCanonicalForms :=
  ⟨fun _ _ hc h => (keeps_of_step h).canonical { hc with }, fun _ _ hw h => (keeps_of_step h).scratchWf hw⟩

/-- Settles O6: every command keeps the bounds of the error stores. -/
theorem stepKeepsTheErrorStoresBounded : Obligations.StepKeepsTheErrorStoresBounded :=
  fun _ _ hb h => (keeps_of_step h).bounded hb

end Sys2Proof.Machine
end

section
/-!
Steps (tier 1): what a step of the block is, that it always answers, what it is on a stopped block, and where it starts.
-/
namespace Sys2Proof.Machine

open Sys2Proof

theorem step_of_pending {s : State} {c : Instr} {cs : List Instr} (h : s.pending = c :: cs) :
    step s = exec c { s with pending := cs } := by rw [step, h]

theorem step_of_idle {s : State} (h : s.pending = []) : step s = .next s.tick := by rw [step, h]

/-- Settles O1: by the definition of a step. -/
theorem aStepRunsTheFrontCommand : Obligations.AStepRunsTheFrontCommand := fun _ _ _ => step_of_pending

/-- Whatever the state of the time logic, a tick is one nanosecond of local time. -/
theorem Time.now_tick (t : Time) : t.tick.now = t.now + 1 := by
  dsimp only [Time.tick]
  split_ifs <;> rfl

theorem tick_frame (s : State) : OnlyChanges [.time] s s.tick := by
  intro p hp
  cases p with
  | time => exact absurd List.mem_cons_self hp
  | _ => rfl

/-- Settles O2: every command answers (`step_keeps`), and an idle step is a tick. -/
theorem stepsAlwaysAnswer : Obligations.StepsAlwaysAnswer := by
  refine ⟨fun s => ?answers, fun s h => ⟨s.tick, step_of_idle h, s.time.now_tick, tick_frame s⟩⟩
  obtain ⟨t, ht, -⟩ := (step_keeps s).exists_next
  exact ⟨t, ht⟩

/-- Settles O3: every command outside `actsWhenStopped` runs under `State.whenLive`. -/
theorem aStoppedBlockDoesNothing : Obligations.AStoppedBlockDoesNothing := by
  intro c s hdead hacts
  cases c with
  | registerWrite | badScAccess | scBadAccessRead | scQcountsRead | scQdb | scQctlStop | scQctlResume | scMbNotice | scMbAck
  | scSignalsRead | scRbIndex | widthReq | retrain | scTamperN | debugUnlockAttempt | thimbleDomainGlitch | retireFuseBlown
  | scResetNAssert | scResetNDeassert => exact absurd hacts (by simp [actsWhenStopped])
  | _ => exact congrArg Host.Outcome.next (State.whenLive_dead hdead _)

theorem State.canonical_reset : State.reset.Canonical :=
  ⟨.nil, .nil, .nil, .nil, .nil, .nil, .nil, .nil, .nil, .nil, .nil, .nil, .nil, .nil, .nil, .nil⟩

theorem State.scratchWf_reset : State.reset.ScratchWf := fun _ hx => absurd hx List.not_mem_nil

theorem State.bounded_reset : State.reset.errs.Bounded where
  queues _ hx := absurd hx List.not_mem_nil
  log := Nat.zero_le _
  quarantine := Nat.zero_le _
  words _ hx := absurd hx List.not_mem_nil

theorem State.stacksNested_reset : State.reset.ic.StacksNested :=
  ⟨fun _ hx => absurd hx List.not_mem_nil, fun _ hx => absurd hx List.not_mem_nil⟩

/-- Settles O8: every table, store and stack of the state after reset is empty. -/
theorem theResetStateMeetsTheInvariants : Obligations.TheResetStateMeetsTheInvariants :=
  ⟨State.canonical_reset, State.scratchWf_reset, State.bounded_reset, State.stacksNested_reset, rfl⟩

end Sys2Proof.Machine
end

section
/-!
What an operation touches: the parts of the state that it may change, and the interrupts under way, which stay nested. The laws
chain: what a composition touches lies in what its operations touch.
-/
namespace Sys2Proof.Machine

open Sys2Proof

-- The laws' default arguments are evaluated one after the other: elaborated in parallel, they would wait for each other.
set_option Elab.async false

/-- `t` comes from `s` by changes to the listed parts alone, and the stacks of the interrupt controller nest in `t` if they do
in `s`. -/
structure Touches (ps : List Part) (s t : State) : Prop where
  frame : OnlyChanges ps s t
  nested : s.ic.StacksNested → t.ic.StacksNested

namespace Touches

variable {ps qs : List Part} {r s t : State}

theorem refl (ps : List Part) (s : State) : Touches ps s s := ⟨.refl ps s, id⟩

theorem mono (h : Touches ps s t) (hs : ps ⊆ qs) : Touches qs s t := ⟨h.frame.mono hs, h.nested⟩

theorem trans (h : Touches ps r s) (k : Touches ps s t) : Touches ps r t := ⟨h.frame.trans k.frame, k.nested ∘ h.nested⟩

/-- An operation after others, where the composition may touch all that it touches. -/
theorem followedBy (h : Touches ps r s) (k : Touches qs s t) (hs : qs ⊆ ps := by decide) : Touches ps r t := h.trans (k.mono hs)

theorem after (k : Touches qs s t) (h : Touches ps r s) (hs : qs ⊆ ps := by decide) : Touches ps r t := h.followedBy k hs

/-- What leaves the interrupt controller alone leaves its stacks alone. -/
theorem of_frame (h : OnlyChanges ps s t) (hi : Part.ic ∉ ps := by decide) : Touches ps s t := by
  have hic : t.ic = s.ic := h .ic hi
  exact ⟨h, fun hn => hic.symm ▸ hn⟩

/-- A fold touches what each of its steps touches. -/
theorem foldl {α : Type} {f : State → α → State} {l : List α} (h : Touches ps r s) (hf : ∀ s x, Touches ps s (f s x)) :
    Touches ps r (l.foldl f s) := by
  induction l generalizing s with
  | nil => exact h
  | cons x l ih => exact ih (h.trans (hf s x))

theorem ite {c : Prop} [Decidable c] {t u : State} (ht : Touches ps r t) (hu : Touches ps r u) :
    Touches ps r (if c then t else u) := by
  split <;> assumption

/-- A change of fields other than the queue of waiting commands and the interrupt controller. -/
theorem set {free out fuses boot time pins bad sec mail msix errs power bg lanes fports bridge commons parts ctxs queues slots
    admitted graphs seqs extents folios atc xlats faults faultNo groupNo pri pageAlloc invals inbound reqs reqNo cores clusters
    lines accrued dirWaits adders merges} (h : Touches ps r s)
    (hf : OnlyChanges ps s (State.mk s.pending free out fuses boot time pins bad sec mail s.ic msix errs power bg lanes fports
      bridge commons parts ctxs queues slots admitted graphs seqs extents folios atc xlats faults faultNo groupNo pri pageAlloc
      invals inbound reqs reqNo cores clusters lines accrued dirWaits adders merges)) :
    Touches ps r (State.mk s.pending free out fuses boot time pins bad sec mail s.ic msix errs power bg lanes fports bridge
      commons parts ctxs queues slots admitted graphs seqs extents folios atc xlats faults faultNo groupNo pri pageAlloc invals
      inbound reqs reqNo cores clusters lines accrued dirWaits adders merges) :=
  h.trans ⟨hf, id⟩

end Touches

/-! ### The parts that a kind of operation touches -/

/-- Every part of the state. -/
abbrev Part.all : List Part :=
  [.pending, .free, .out, .fuses, .boot, .time, .pins, .bad, .sec, .mail, .ic, .msix, .errs, .power, .bg, .lanes,
  .fports, .bridge, .commons, .parts, .ctxs, .queues, .slots, .admitted, .graphs, .seqs, .extents, .folios,
  .atc, .xlats, .faults, .faultNo, .groupNo, .pri, .pageAlloc, .invals, .inbound, .reqs, .reqNo, .cores,
  .clusters, .lines, .accrued, .dirWaits, .adders, .merges]

/-- The parts that the end of a slot may touch. -/
abbrev slotParts : List Part :=
  [.out, .mail, .msix, .errs, .fports, .parts, .queues, .slots, .graphs, .folios, .atc, .reqs]

/-- The parts that an access to memory may touch. -/
abbrev accessParts : List Part :=
  [.free, .out, .fports, .parts, .ctxs, .slots, .atc, .xlats, .reqs, .reqNo, .cores, .lines]

/-- The parts that the end of a launch under way may touch. -/
abbrev endParts : List Part :=
  [.out, .mail, .msix, .errs, .fports, .parts, .ctxs, .queues, .slots, .graphs, .folios, .atc, .reqs, .cores,
  .clusters]

/-- The parts that the checks of a slot, with the reads that they wait for, may touch. -/
abbrev checkParts : List Part :=
  [.free, .out, .mail, .msix, .errs, .fports, .parts, .ctxs, .queues, .slots, .admitted, .graphs, .folios, .atc,
  .xlats, .reqs, .reqNo, .cores, .lines]

/-- The parts that a partition reset may touch. -/
abbrev resetParts : List Part :=
  [.out, .mail, .ic, .msix, .errs, .fports, .commons, .parts, .ctxs, .queues, .slots, .graphs, .folios, .atc,
  .reqs, .cores, .clusters]

/-- The parts that an escalated error may touch. -/
abbrev escalationParts : List Part :=
  [.free, .out, .mail, .ic, .msix, .errs, .fports, .commons, .parts, .ctxs, .queues, .slots, .graphs, .folios,
  .atc, .reqs, .reqNo, .cores, .clusters, .lines]

/-! ### The stacks of the interrupt controller -/

/-- The stacks of `d` are those of `c`. -/
def Ic.SameStacks (c d : Ic) : Prop := d.cores = c.cores ∧ d.keptCores = c.keptCores

theorem Ic.SameStacks.trans {c d e : Ic} (h : c.SameStacks d) (k : d.SameStacks e) : c.SameStacks e :=
  ⟨k.1.trans h.1, k.2.trans h.2⟩

theorem Ic.SameStacks.nested {c d : Ic} (h : c.SameStacks d) (hn : c.StacksNested) : d.StacksNested := by
  rw [Ic.StacksNested, h.1, h.2]
  exact hn

theorem Ic.sameStacks_setSrc (c : Ic) (n : Nat) (r : Src) : c.SameStacks (c.setSrc n r) := by
  unfold Ic.setSrc
  split <;> exact ⟨rfl, rfl⟩

theorem Ic.sameStacks_fire (c : Ic) (n now : Nat) : c.SameStacks (c.fire n now) := by
  unfold Ic.fire
  split
  · exact (Ic.sameStacks_setSrc ..).trans ⟨rfl, rfl⟩
  · split
    · exact Ic.sameStacks_setSrc ..
    · dsimp only
      split
      · exact ((Ic.sameStacks_setSrc ..).trans (e := { (c.setSrc n _) with .. }) ⟨rfl, rfl⟩).trans (Ic.sameStacks_setSrc ..)
      · exact Ic.sameStacks_setSrc ..

theorem Ic.sameStacks_setLevel (c : Ic) (n : Nat) (b : Bool) (now : Nat) : c.SameStacks (c.setLevel n b now) := by
  unfold Ic.setLevel
  dsimp only
  split
  · split
    · exact ⟨rfl, rfl⟩
    · exact (Ic.sameStacks_setSrc ..).trans (Ic.sameStacks_fire ..)
  · exact Ic.sameStacks_setSrc ..

theorem IcCore.Nested.of_stack_eq {i j : IcCore} (h : i.Nested) (hs : j.stack = i.stack) : j.Nested := by
  rw [IcCore.Nested, hs]
  exact h

theorem IcCore.nested_default : ({} : IcCore).Nested := ⟨.nil, fun _ hx => absurd hx List.not_mem_nil⟩

theorem icCore_nested_getD {t : Tbl IcCore} (h : ∀ x ∈ t, x.2.Nested) (k : Nat) : (t.getD k {}).Nested := by
  unfold Tbl.getD
  cases g : Tbl.get? t k with
  | none => exact IcCore.nested_default
  | some i => exact h _ (tbl_mem_get g)

theorem icCore_nested_put {t : Tbl IcCore} (h : ∀ x ∈ t, x.2.Nested) (k : Nat) {i : IcCore} (hi : i.Nested) :
    ∀ x ∈ t.put k i, x.2.Nested := fun x hx => by
  rcases tbl_mem_put hx with rfl | hx
  · exact hi
  · exact h x hx

namespace Ic.StacksNested

variable {c : Ic} (h : c.StacksNested)
include h

theorem core (k : Nat) : (c.core k).Nested := icCore_nested_getD h.1 k

theorem setCore (k : Nat) {i : IcCore} (hi : i.Nested) : (c.setCore k i).StacksNested := ⟨icCore_nested_put h.1 k hi, h.2⟩

theorem setSrc (n : Nat) (r : Src) : (c.setSrc n r).StacksNested := (Ic.sameStacks_setSrc c n r).nested h

/-- R357: a source above the running priority goes on top of the stack. -/
theorem acknowledge {k p : Nat} (n : Nat) (hp : p < (c.core k).running) : (c.acknowledge k n p).StacksNested :=
  (h.setSrc n _).setCore k ((h.core k).push n hp none)

theorem forget (k : Nat) : (c.forget k).StacksNested := h.setCore k ((h.core k).of_stack_eq rfl)

theorem writePrimask (k v : Nat) : (c.writePrimask k v).StacksNested := by
  unfold Ic.writePrimask
  split
  · exact ⟨h.1, icCore_nested_put h.2 k ((icCore_nested_getD h.2 k).of_stack_eq rfl)⟩
  · exact h.setCore k ((h.core k).of_stack_eq rfl)

theorem writeSrc (n w now : Nat) : (c.writeSrc n w now).StacksNested := by
  unfold Ic.writeSrc
  refine Ic.StacksNested.setSrc ?_ n _
  split
  · exact h.setCore _ ((h.core _).of_stack_eq rfl)
  · exact h

/-- R358: the end of an interrupt takes it off its stack. -/
theorem pop (k : Nat) : (c.pop k).StacksNested := by
  refine h.setCore k ⟨(h.core k).1.sublist (List.tail_sublist _), fun x hx => (h.core k).2 x (List.mem_of_mem_tail hx)⟩

theorem endInterrupt (n now : Nat) : (c.endInterrupt n now).StacksNested := by
  unfold Ic.endInterrupt
  split
  · split
    · exact (Ic.sameStacks_fire ..).nested (h.setSrc ..)
    · exact h.setSrc ..
  · exact h.setSrc ..

theorem eoi (k n now : Nat) : (c.eoi k n now).StacksNested := by
  by_cases htop : (c.core k).stack.head?.map (·.1) = some n
  · obtain ⟨⟨m, p⟩, hhead, rfl⟩ := Option.map_eq_some_iff.1 htop
    obtain ⟨rest, hs⟩ := List.head?_eq_some_iff.1 hhead
    rw [Ic.eoi_of_top hs]
    exact (h.pop k).endInterrupt ..
  · rw [Ic.eoi_of_not_top htop]
    exact h

end Ic.StacksNested

/-- R357, R360: whatever a read of IC_ACK returns has a priority above the running one. -/
theorem Ic.lt_running_of_lingers {c : Ic} {k now n p : Nat} (h : c.lingers k now = some (n, p)) : p < (c.core k).running := by
  unfold Ic.lingers at h
  split at h
  · split at h
    next hd =>
      cases h
      rw [Bool.and_eq_true] at hd
      exact Src.priority_lt_running hd.2
    next => cases h
  · cases h

/-- A change of the interrupt controller under which its stacks stay nested. -/
theorem Touches.setIc {ps : List Part} {r s : State} {c : Ic} (h : Touches ps r s)
    (hc : s.ic.StacksNested → c.StacksNested) (hp : Part.ic ∈ ps := by decide) : Touches ps r { s with ic := c } :=
  h.trans ⟨(setIc_frame s c).mono (by simpa using hp), hc⟩

end Sys2Proof.Machine
end

section
/-!
What each shared operation touches, in the order of the model's files.
-/
namespace Sys2Proof.Machine

open Sys2Proof

-- The laws' default arguments are evaluated one after the other: elaborated in parallel, they would wait for each other.
set_option Elab.async false

/-! ### Tables -/

theorem folios_frame (s : State) (t : Tbl Folio) : OnlyChanges [.folios] s { s with folios := t } := by
  intro p hp
  cases p with
  | folios => exact absurd List.mem_cons_self hp
  | _ => rfl

theorem errs_frame (s : State) (e : Errors) : OnlyChanges [.errs] s { s with errs := e } := by
  intro p hp
  cases p with
  | errs => exact absurd List.mem_cons_self hp
  | _ => rfl

/-- Whatever a read of IC_ACK returns, its stacks stay nested. -/
theorem ackAnswer_nested {s : State} {k : Nat} {e : Option (Nat × Nat)} (hn : s.ic.StacksNested)
    (he : ∀ n p, e = some (n, p) → p < (s.ic.core k).running) : (ackAnswer s k e).ic.StacksNested := by
  cases e with
  | none => exact hn
  | some e => exact hn.acknowledge e.1 (he e.1 e.2 rfl)

theorem running_forget (c : Ic) (k : Nat) : ((c.forget k).core k).running = (c.core k).running := by
  rw [Ic.core_forget_same]
  rfl

/-! ### Ops -/

theorem State.modQueue_touches (s : State) (q : Nat) (f : Queue → Queue) :
    Touches [.queues] s (State.modQueue s q f) := by
  unfold State.modQueue
  repeat' with_reducible first
    | apply Touches.refl | apply Touches.set
  all_goals
    intro p hp
    cases p with
    | queues => exact absurd (by decide) hp
    | _ => rfl

theorem State.modPart_touches (s : State) (p : Nat) (f : Partition → Partition) :
    Touches [.parts] s (State.modPart s p f) := by
  unfold State.modPart
  repeat' with_reducible first
    | apply Touches.refl | apply Touches.set
  all_goals
    intro p hp
    cases p with
    | parts => exact absurd (by decide) hp
    | _ => rfl

theorem State.modCtx_touches (s : State) (k : Nat) (f : Context → Context) :
    Touches [.ctxs] s (State.modCtx s k f) := by
  unfold State.modCtx
  repeat' with_reducible first
    | apply Touches.refl | split | apply Touches.set
  all_goals
    intro p hp
    cases p with
    | ctxs => exact absurd (by decide) hp
    | _ => rfl

theorem State.modChan_touches (s : State) (ch : Nat) (f : Channel → Channel) :
    Touches [.mail] s (State.modChan s ch f) := by
  unfold State.modChan
  repeat' with_reducible first
    | apply Touches.refl | apply Touches.set
  all_goals
    intro p hp
    cases p with
    | mail => exact absurd (by decide) hp
    | _ => rfl

theorem State.modCore_touches (s : State) (k : Nat) (f : Core → Core) :
    Touches [.cores] s (State.modCore s k f) := by
  unfold State.modCore
  repeat' with_reducible first
    | apply Touches.refl | apply Touches.set
  all_goals
    intro p hp
    cases p with
    | cores => exact absurd (by decide) hp
    | _ => rfl

theorem State.modCluster_touches (s : State) (c : Nat) (f : Cluster → Cluster) :
    Touches [.clusters] s (State.modCluster s c f) := by
  unfold State.modCluster
  repeat' with_reducible first
    | apply Touches.refl | apply Touches.set
  all_goals
    intro p hp
    cases p with
    | clusters => exact absurd (by decide) hp
    | _ => rfl

theorem State.modFport_touches (s : State) (n : Nat) (f : FPort → FPort) :
    Touches [.fports] s (State.modFport s n f) := by
  unfold State.modFport
  repeat' with_reducible first
    | apply Touches.refl | apply Touches.set
  all_goals
    intro p hp
    cases p with
    | fports => exact absurd (by decide) hp
    | _ => rfl

theorem State.modLane_touches (s : State) (l : Nat) (f : Lane → Lane) :
    Touches [.lanes] s (State.modLane s l f) := by
  unfold State.modLane
  repeat' with_reducible first
    | apply Touches.refl | apply Touches.set
  all_goals
    intro p hp
    cases p with
    | lanes => exact absurd (by decide) hp
    | _ => rfl

theorem State.modExtent_touches (s : State) (e : Nat) (f : Extent → Extent) :
    Touches [.extents] s (State.modExtent s e f) := by
  unfold State.modExtent
  repeat' with_reducible first
    | apply Touches.refl | split | apply Touches.set
  all_goals
    intro p hp
    cases p with
    | extents => exact absurd (by decide) hp
    | _ => rfl

theorem State.modFolio_touches (s : State) (i : Nat) (f : Folio → Folio) :
    Touches [.folios] s (State.modFolio s i f) := by
  unfold State.modFolio
  repeat' with_reducible first
    | apply Touches.refl | split | apply Touches.set
  all_goals
    intro p hp
    cases p with
    | folios => exact absurd (by decide) hp
    | _ => rfl

theorem State.modGraph_touches (s : State) (i : Nat) (f : Graph → Graph) :
    Touches [.graphs] s (State.modGraph s i f) := by
  unfold State.modGraph
  repeat' with_reducible first
    | apply Touches.refl | split | apply Touches.set
  all_goals
    intro p hp
    cases p with
    | graphs => exact absurd (by decide) hp
    | _ => rfl

theorem State.modSlot_touches (s : State) (q seq : Nat) (f : Slot → Slot) :
    Touches [.slots] s (State.modSlot s q seq f) := by
  unfold State.modSlot
  repeat' with_reducible first
    | apply Touches.refl | apply Touches.set
  all_goals
    intro p hp
    cases p with
    | slots => exact absurd (by decide) hp
    | _ => rfl

theorem State.dropSlot_touches (s : State) (q seq : Nat) :
    Touches [.slots] s (State.dropSlot s q seq) := by
  unfold State.dropSlot
  repeat' with_reducible first
    | apply Touches.refl | apply Touches.set
  all_goals
    intro p hp
    cases p with
    | slots => exact absurd (by decide) hp
    | _ => rfl

theorem State.emit_touches (s : State) (o : Out) :
    Touches [.out] s (State.emit s o) := by
  unfold State.emit
  repeat' with_reducible first
    | apply Touches.refl | apply Touches.set
  all_goals
    intro p hp
    cases p with
    | out => exact absurd (by decide) hp
    | _ => rfl

theorem State.draw_touches (s : State) :
    Touches [.free] s (State.draw s) := by
  unfold State.draw
  repeat' with_reducible first
    | apply Touches.refl | apply Touches.set
  all_goals
    intro p hp
    cases p with
    | free => exact absurd (by decide) hp
    | _ => rfl

theorem State.whenLive_touches {ps : List Part} {r s : State} {f : State → State} (h : Touches ps r s)
    (hf : ∀ s, Touches ps s (f s)) : Touches ps r (s.whenLive f) := .ite (h.trans (hf s)) h

theorem State.when_touches {ps : List Part} {r s : State} {b : Bool} {f : State → State} (h : Touches ps r s)
    (hf : ∀ s, Touches ps s (f s)) : Touches ps r (s.when b f) := .ite (h.trans (hf s)) h

theorem State.access_touches {ps : List Part} {r s : State} {x : Requester} {f : State → State} (h : Touches ps r s)
    (hf : ∀ s, Touches ps s (f s)) (hp : [.out] ⊆ ps := by decide) : Touches ps r (s.access x f) :=
  .ite (.ite (h.trans (hf s)) h) (h.followedBy (State.emit_touches ..) hp)

theorem State.icFire_touches (s : State) (n : Nat) : Touches [.ic] s (s.icFire n) :=
  .setIc (.refl ..) (Ic.sameStacks_fire ..).nested

theorem State.icLevel_touches (s : State) (n : Nat) (b : Bool) : Touches [.ic] s (s.icLevel n b) :=
  .setIc (.refl ..) (Ic.sameStacks_setLevel ..).nested

theorem State.logError_touches (s : State) (i : Nat) (r : ErrRecord) :
    Touches [.ic, .errs] s (State.logError s i r) := by
  unfold State.logError
  dsimp only
  repeat' with_reducible first
    | apply Touches.refl | refine (State.icLevel_touches ..).after ?_ | apply Touches.set
  all_goals
    intro p hp
    cases p with
    | errs => exact absurd (by decide) hp
    | _ => rfl

theorem State.popError_touches (s : State) (i : Nat) :
    Touches [.ic, .errs] s (State.popError s i) := by
  unfold State.popError
  dsimp only
  repeat' with_reducible first
    | apply Touches.refl | refine (State.icLevel_touches ..).after ?_ | split | apply Touches.set
  all_goals
    intro p hp
    cases p with
    | errs => exact absurd (by decide) hp
    | _ => rfl

theorem State.badAccess_touches (s : State) (kind offset : Nat) :
    Touches [.bad] s (State.badAccess s kind offset) := by
  unfold State.badAccess
  repeat' with_reducible first
    | apply Touches.refl | apply Touches.set
  all_goals
    intro p hp
    cases p with
    | bad => exact absurd (by decide) hp
    | _ => rfl

theorem State.badRead_touches (s : State) (r : Requester) (kind offset : Nat) :
    Touches [.out, .bad] s (State.badRead s r kind offset) :=
  (State.emit_touches ..).after ((State.badAccess_touches ..).mono (by decide))

theorem State.viaPort_touches (s : State) (n : Nat) (o : Out) :
    Touches [.out, .fports] s (State.viaPort s n o) :=
  .ite ((State.emit_touches ..).mono (by decide)) ((State.modFport_touches ..).mono (by decide))

theorem State.viaPath_touches (s : State) (path : Nat) (o : Out) :
    Touches [.out, .fports] s (State.viaPath s path o) :=
  .ite ((State.emit_touches ..).mono (by decide)) (State.viaPort_touches ..)

theorem State.sendVector_touches (s : State) (path part : Nat) (v : GuestVector) :
    Touches [.out, .msix, .fports] s (s.sendVector path part v).1 :=
  .of_frame ((sendVector_frame s path part v).mono (by decide))

theorem State.issueWrites_touches (n : Nat) (s : State) (q : Nat) :
    Touches [.out, .msix, .fports, .queues] s (State.issueWrites n s q) :=
  .of_frame ((issueWrites_frame n s q).mono (by decide))

theorem State.issueHead_touches (s : State) (q : Nat) :
    Touches [.out, .msix, .fports, .queues] s (State.issueHead s q) :=
  State.issueWrites_touches ..

theorem State.pushWrite_touches (s : State) (q : Nat) (w : GuestWrite) :
    Touches [.out, .msix, .fports, .queues] s (State.pushWrite s q w) :=
  .ite ((State.issueHead_touches ..).after ((State.modQueue_touches ..).mono (by decide))) ((State.modQueue_touches
    ..).mono (by decide))

theorem State.pushRecord_touches (s : State) (q : Nat) (w : GuestWrite) :
    Touches [.out, .msix, .fports, .queues] s (State.pushRecord s q w) :=
  .ite (.refl ..) (.ite ((State.modQueue_touches ..).mono (by decide)) (State.pushWrite_touches ..))

theorem State.writeWord_touches (s : State) (q : Nat) (broken : Bool) :
    Touches [.out, .msix, .fports, .queues] s (State.writeWord s q broken) :=
  .ite (.refl ..) ((State.modQueue_touches ..).after (.ite ((State.pushWrite_touches ..).after (State.pushWrite_touches
    ..)) (State.pushWrite_touches ..)))

theorem State.setQState_touches (s : State) (q : Nat) (st : QState) :
    Touches [.out, .msix, .fports, .queues] s (State.setQState s q st) :=
  (State.pushWrite_touches ..).after ((State.writeWord_touches ..).after ((State.modQueue_touches ..).mono (by decide)))

/-! ### BootOps -/

theorem State.enterStage_touches (s : State) (st : Stage) (reason : Nat) :
    Touches [.out, .boot] s (State.enterStage s st reason) := by
  unfold State.enterStage
  dsimp only
  repeat' with_reducible first
    | apply Touches.refl | refine (State.emit_touches ..).after ?_ | apply Touches.set
  all_goals
    intro p hp
    cases p with
    | boot => exact absurd (by decide) hp
    | _ => rfl

theorem State.failBoot_touches (s : State) (reason : Nat) :
    Touches [.out, .boot] s (State.failBoot s reason) :=
  State.enterStage_touches ..

theorem State.becomeReady_touches (s : State) (expired : Bool) :
    Touches [.out, .boot] s (State.becomeReady s expired) := by
  unfold State.becomeReady
  repeat' with_reducible first
    | apply Touches.refl | refine (State.enterStage_touches ..).after ?_ | apply Touches.set
  all_goals
    intro p hp
    cases p with
    | boot => exact absurd (by decide) hp
    | _ => rfl

theorem State.wholeReset_touches (s : State) : Touches Part.all s s.wholeReset :=
  ⟨fun p hp => absurd (by cases p <;> simp) hp, fun _ => State.stacksNested_reset⟩

theorem State.coolantStop_touches (s : State) :
    Touches [.boot] s (State.coolantStop s) := by
  unfold State.coolantStop
  repeat' with_reducible first
    | apply Touches.refl | split | apply Touches.set
  all_goals
    intro p hp
    cases p with
    | boot => exact absurd (by decide) hp
    | _ => rfl

theorem State.comeUp_touches (s : State) (coolantOk hardCap : Bool) :
    Touches [.out, .boot, .pins, .ic, .power] s (State.comeUp s coolantOk hardCap) := by
  unfold State.comeUp
  dsimp only
  repeat' with_reducible first
    | apply Touches.refl | refine (State.coolantStop_touches ..).after ?_ | refine (State.enterStage_touches ..).after ?_
    | refine (State.icLevel_touches ..).after ?_ | split | apply Touches.set
  all_goals
    intro p hp
    cases p with
    | boot | pins | power => exact absurd (by decide) hp
    | _ => rfl

theorem State.reboot_touches (s : State) :
    Touches Part.all s (State.reboot s) :=
  (State.comeUp_touches ..).after (State.wholeReset_touches ..)

/-! ### MailOps -/

theorem State.replyWith_touches (s : State) (ch detail : Nat) (body : Bytes) (attrIndex needed retryAfter : Nat) :
    Touches [.out, .mail, .fports] s (State.replyWith s ch detail body attrIndex needed retryAfter) :=
  (State.viaPath_touches ..).after ((State.modChan_touches ..).mono (by decide))

theorem State.refuse_touches (s : State) (ch detail : Nat) :
    Touches [.out, .mail, .fports] s (State.refuse s ch detail) :=
  State.replyWith_touches ..

theorem State.refuseAttr_touches (s : State) (ch detail index : Nat) :
    Touches [.out, .mail, .fports] s (State.refuseAttr s ch detail index) :=
  State.replyWith_touches ..

theorem State.accept_touches (s : State) (ch : Nat) (body : Bytes) :
    Touches [.out, .mail, .fports] s (State.accept s ch body) :=
  State.replyWith_touches ..

theorem State.tooLong_touches (s : State) (ch n : Nat) :
    Touches [.out, .mail, .fports] s (State.tooLong s ch n) :=
  State.replyWith_touches ..

theorem State.park_touches (s : State) (ch : Nat) :
    Touches [.mail] s (State.park s ch) :=
  State.modChan_touches ..

theorem State.acceptAll_touches (s : State) (chs : List Nat) (body : Bytes) :
    Touches [.out, .mail, .fports] s (State.acceptAll s chs body) :=
  .foldl (.refl ..) fun _ _ => State.accept_touches ..

/-! ### KeyOps -/

theorem State.newInstance_touches (s : State) (p : Nat) :
    Touches [.sec, .parts] s (State.newInstance s p) := by
  unfold State.newInstance
  dsimp only
  repeat' with_reducible first
    | apply Touches.refl | refine (State.modPart_touches ..).after ?_ | apply Touches.set
  all_goals
    intro p hp
    cases p with
    | sec => exact absurd (by decide) hp
    | _ => rfl

theorem State.zeroise_touches (s : State) (p : Nat) :
    Touches [.sec, .parts] s (State.zeroise s p) := by
  unfold State.zeroise
  dsimp only
  repeat' with_reducible first
    | apply Touches.refl | refine (State.modPart_touches ..).after ?_ | apply Touches.set
  all_goals
    intro p hp
    cases p with
    | sec => exact absurd (by decide) hp
    | _ => rfl

theorem State.classA_touches (s : State) :
    Touches [.out, .boot, .sec, .parts] s (State.classA s) := by
  unfold State.classA
  dsimp only
  repeat' with_reducible first
    | apply Touches.refl | refine (State.emit_touches ..).after ?_ | split | apply Touches.set
  all_goals
    intro p hp
    cases p with
    | boot | sec | parts => exact absurd (by decide) hp
    | _ => rfl

/-! ### Pool -/

theorem State.dropFolioAtc_touches (s : State) (i v : Nat) :
    Touches [.atc] s (State.dropFolioAtc s i v) := by
  unfold State.dropFolioAtc
  repeat' with_reducible first
    | apply Touches.refl | apply Touches.set
  all_goals
    intro p hp
    cases p with
    | atc => exact absurd (by decide) hp
    | _ => rfl

theorem State.sweepQuarantine_touches (s : State) :
    Touches [.errs] s (State.sweepQuarantine s) := by
  unfold State.sweepQuarantine
  dsimp only
  repeat' with_reducible first
    | apply Touches.refl | apply Touches.set
  all_goals
    intro p hp
    cases p with
    | errs => exact absurd (by decide) hp
    | _ => rfl

theorem State.sweepFolio_touches (s : State) (i : Nat) :
    Touches [.errs, .folios, .atc] s (State.sweepFolio s i) := by
  unfold State.sweepFolio
  dsimp only
  repeat' with_reducible first
    | apply Touches.refl | refine (State.dropFolioAtc_touches ..).after ?_
    | refine (State.sweepQuarantine_touches ..).after ?_ | apply Touches.foldl | split | apply Touches.set | intro _
  all_goals
    intro p hp
    cases p with
    | folios => exact absurd (by decide) hp
    | _ => rfl

theorem State.discardVersion_touches (s : State) (i v : Nat) :
    Touches [.errs, .ctxs, .folios, .atc] s (State.discardVersion s i v) := by
  unfold State.discardVersion
  dsimp only
  repeat' with_reducible first
    | apply Touches.refl | refine (State.dropFolioAtc_touches ..).after ?_ | refine (State.modFolio_touches ..).after ?_
    | refine (State.sweepFolio_touches ..).after ?_ | apply Touches.set
  all_goals
    intro p hp
    cases p with
    | ctxs => exact absurd (by decide) hp
    | _ => rfl

theorem State.discardDraft_touches (s : State) (i v : Nat) :
    Touches [.errs, .ctxs, .folios, .atc] s (State.discardDraft s i v) := by
  unfold State.discardDraft
  dsimp only
  repeat' with_reducible first
    | apply Touches.refl | refine (State.discardVersion_touches ..).after ?_ | refine (State.modFolio_touches ..).after ?_
    | split | apply Touches.set
  all_goals
    intro p hp
    cases p with
    | ctxs => exact absurd (by decide) hp
    | _ => rfl

theorem State.closeOpens_touches (s : State) (k i v n : Nat) :
    Touches [.errs, .ctxs, .folios, .atc] s (State.closeOpens s k i v n) :=
  (State.sweepFolio_touches ..).after ((State.modFolio_touches ..).after ((State.modCtx_touches ..).mono (by decide)))

theorem State.closeHolds_touches (s : State) (k : Nat) (t : FolioHold → Bool) :
    Touches [.errs, .ctxs, .folios, .atc] s (State.closeHolds s k t) := by
  unfold State.closeHolds
  repeat' with_reducible first
    | apply Touches.refl | refine (State.closeOpens_touches ..).after ?_ | refine (State.discardDraft_touches ..).after ?_
    | apply Touches.foldl | split | intro _

theorem State.unbindFolio_touches (s : State) (i v : Nat) :
    Touches [.errs, .folios, .atc] s (State.unbindFolio s i v) :=
  (State.sweepFolio_touches ..).after ((State.modFolio_touches ..).mono (by decide))

theorem State.bindFolio_touches (s : State) (i v : Nat) :
    Touches [.folios] s (State.bindFolio s i v) :=
  State.modFolio_touches ..

theorem State.bindGraph_touches (s : State) (i n : Nat) :
    Touches [.graphs] s (State.bindGraph s i n) :=
  State.modGraph_touches ..

theorem State.unbindGraph_touches (s : State) (i n : Nat) :
    Touches [.graphs] s (State.unbindGraph s i n) :=
  State.modGraph_touches ..

/-! ### Memory -/

theorem State.addReq_touches (s : State) (r : MemReq) :
    Touches [.reqs, .reqNo] s (State.addReq s r) := by
  unfold State.addReq
  repeat' with_reducible first
    | apply Touches.refl | apply Touches.set
  all_goals
    intro p hp
    cases p with
    | reqs | reqNo => exact absurd (by decide) hp
    | _ => rfl

theorem State.setReq_touches (s : State) (id : Nat) (r : MemReq) :
    Touches [.reqs] s (State.setReq s id r) := by
  unfold State.setReq
  repeat' with_reducible first
    | apply Touches.refl | apply Touches.set
  all_goals
    intro p hp
    cases p with
    | reqs => exact absurd (by decide) hp
    | _ => rfl

theorem State.dropReq_touches (s : State) (id : Nat) :
    Touches [.reqs] s (State.dropReq s id) := by
  unfold State.dropReq
  repeat' with_reducible first
    | apply Touches.refl | apply Touches.set
  all_goals
    intro p hp
    cases p with
    | reqs => exact absurd (by decide) hp
    | _ => rfl

theorem State.charge_touches {s t : State} {r : MemReq} (h : s.charge r = some t) : Touches [.parts] s t := by
  unfold State.charge at h
  dsimp only at h
  repeat' split at h
  all_goals cases h
  · exact .refl ..
  all_goals exact State.modPart_touches ..

theorem State.sendReq_touches (s : State) (id : Nat) (r : MemReq) (tag : Nat) :
    Touches [.out, .reqs] s (State.sendReq s id r tag) :=
  .ite ((State.emit_touches ..).after ((State.emit_touches ..).after ((State.setReq_touches ..).mono (by decide))))
    ((State.emit_touches ..).after ((State.setReq_touches ..).mono (by decide)))

theorem State.tryIssue_touches (s : State) (id : Nat) :
    Touches [.out, .parts, .reqs] s (State.tryIssue s id) := by
  unfold State.tryIssue
  repeat' with_reducible first
    | apply Touches.refl | refine (State.sendReq_touches ..).after ?_ | split | refine (State.charge_touches ‹_›).after ?_

theorem State.pumpPort_touches (s : State) (port : Nat) :
    Touches [.out, .parts, .reqs] s (State.pumpPort s port) :=
  .foldl (.refl ..) fun _ _ => State.tryIssue_touches ..

theorem State.issuePool_touches (s : State) (id : Nat) (r : MemReq) :
    Touches [.free, .out, .parts, .reqs] s (State.issuePool s id r) :=
  (State.tryIssue_touches ..).after ((State.draw_touches ..).after ((State.setReq_touches ..).mono (by decide)))

theorem State.writeBack_touches (s : State) (p cluster addr bytes : Nat) (words : List (BitVec 288)) :
    Touches [.free, .out, .parts, .reqs, .reqNo] s (State.writeBack s p cluster addr bytes words) :=
  (State.issuePool_touches ..).after ((State.addReq_touches ..).mono (by decide))

theorem State.modLine_touches (s : State) (p line : Nat) (f : Line → Line) :
    Touches [.lines] s (State.modLine s p line f) := by
  unfold State.modLine
  repeat' with_reducible first
    | apply Touches.refl | apply Touches.set
  all_goals
    intro p hp
    cases p with
    | lines => exact absurd (by decide) hp
    | _ => rfl

theorem State.flushLine_touches (s : State) (l : Line) :
    Touches [.free, .out, .parts, .reqs, .reqNo] s (State.flushLine s l) :=
  .ite (State.writeBack_touches ..) (.refl ..)

theorem State.dropLines_touches (s : State) (flush : Bool) (t : Line → Bool) :
    Touches [.free, .out, .parts, .reqs, .reqNo, .lines] s (State.dropLines s flush t) := by
  unfold State.dropLines
  dsimp only
  repeat' with_reducible first
    | apply Touches.refl | refine (State.flushLine_touches ..).after ?_ | apply Touches.foldl | split | apply Touches.set
    | intro _
  all_goals
    intro p hp
    cases p with
    | lines => exact absurd (by decide) hp
    | _ => rfl

theorem State.takeWay_touches {s t : State} {p c set way : Nat} (h : s.takeWay p c set = some (t, way)) :
    Touches [.free, .out, .parts, .reqs, .reqNo, .lines] s t := by
  unfold State.takeWay at h
  dsimp only at h
  repeat' split at h
  all_goals cases h
  · exact .refl ..
  · exact (Touches.refl _ s).followedBy (State.flushLine_touches ..) |>.followedBy (State.dropLines_touches ..)

theorem State.keepLine_touches (s : State) (p line : Nat) :
    Touches [.lines] s (State.keepLine s p line) := by
  unfold State.keepLine
  dsimp only
  repeat' with_reducible first
    | apply Touches.refl | refine (State.modLine_touches ..).after ?_ | split

theorem State.hintLine_touches (s : State) (p line : Nat) (h : Hint) :
    Touches [.lines] s (State.hintLine s p line h) := by
  unfold State.hintLine
  dsimp only
  repeat' with_reducible first
    | apply Touches.refl | refine (State.keepLine_touches ..).after ?_ | refine (State.modLine_touches ..).after ?_
    | split

theorem State.allocLine_touches (s : State) (p c line : Nat) (words : List (BitVec 288)) (dirty keep : Bool) (h : Hint) :
    Touches [.free, .out, .parts, .reqs, .reqNo, .lines] s (State.allocLine s p c line words dirty keep h) := by
  unfold State.allocLine
  dsimp only
  repeat' with_reducible first
    | apply Touches.refl | refine (State.hintLine_touches ..).after ?_ | refine (State.keepLine_touches ..).after ?_
    | refine (State.writeBack_touches ..).after ?_ | split | refine (State.takeWay_touches ‹_›).after ?_
    | apply Touches.set
  all_goals
    intro p hp
    cases p with
    | lines => exact absurd (by decide) hp
    | _ => rfl

theorem State.countLines_touches (s : State) (p hits misses : Nat) :
    Touches [.parts] s (State.countLines s p hits misses) :=
  State.modPart_touches ..

theorem State.shareDirty_touches (s : State) (p c line : Nat) :
    Touches [.free, .out, .parts, .reqs, .reqNo, .lines] s (State.shareDirty s p c line) := by
  unfold State.shareDirty
  repeat' with_reducible first
    | apply Touches.refl | refine (State.allocLine_touches ..).after ?_ | split

theorem State.readPool_touches (s : State) (id : Nat) (r : MemReq) :
    Touches [.free, .out, .parts, .reqs, .reqNo, .lines] s (State.readPool s id r) :=
  .ite ((State.setReq_touches ..).after (.foldl ((State.countLines_touches ..).after (.foldl (.refl ..) fun _ _ =>
    State.shareDirty_touches ..)) fun _ _ => (State.hintLine_touches ..).mono (by decide))) ((State.issuePool_touches
    ..).after ((State.countLines_touches ..).after (.foldl (.refl ..) fun _ _ => State.shareDirty_touches ..)))

theorem State.quarantineAt_touches (s : State) (addr : Nat) :
    Touches [.errs, .folios] s (State.quarantineAt s addr) := by
  unfold State.quarantineAt
  dsimp only
  repeat' with_reducible first
    | apply Touches.refl | refine (State.modFolio_touches ..).after ?_ | split | apply Touches.set
  all_goals
    intro p hp
    cases p with
    | errs => exact absurd (by decide) hp
    | _ => rfl

theorem State.storePoison_touches (s : State) (p c addr : Nat) (raw : BitVec 288) (syn : BitVec 32) :
    Touches [.free, .out, .ic, .errs, .parts, .folios, .reqs, .reqNo] s (State.storePoison s p c addr raw syn) :=
  (State.quarantineAt_touches ..).after ((State.writeBack_touches ..).after ((State.logError_touches ..).after
    ((State.logError_touches ..).mono (by decide))))

/-! ### Lines -/

theorem State.commitLine_touches (s : State) (p c line : Nat) (words : List (BitVec 288)) (h : Hint) :
    Touches [.free, .out, .parts, .reqs, .reqNo, .lines] s (State.commitLine s p c line words h) := by
  unfold State.commitLine
  dsimp only
  repeat' with_reducible first
    | apply Touches.refl | refine (State.allocLine_touches ..).after ?_ | refine (State.hintLine_touches ..).after ?_
    | refine (State.writeBack_touches ..).after ?_ | split | apply Touches.set
  all_goals
    intro p hp
    cases p with
    | lines => exact absurd (by decide) hp
    | _ => rfl

theorem State.commitStaged_touches (s : State) (p c : Nat) (ps : List (Nat × Nat × Bytes × Hint)) (line : Nat) :
    Touches [.free, .out, .ic, .errs, .parts, .reqs, .reqNo, .lines] s (State.commitStaged s p c ps line) :=
  (State.commitLine_touches ..).after (.ite ((State.logError_touches ..).mono (by decide)) (.refl ..))

theorem State.applyMerge_touches (s : State) (m : Merge) :
    Touches [.free, .out, .ic, .errs, .parts, .reqs, .reqNo, .lines] s (State.applyMerge s m) :=
  (State.emit_touches ..).after (.foldl (.refl ..) fun _ _ => State.commitStaged_touches ..)

theorem State.fillMerge_touches (s : State) (m : Merge) :
    Touches [.free, .out, .parts, .reqs, .reqNo, .lines] s (State.fillMerge s m) :=
  .foldl (.refl ..) fun _ _ => .ite (State.shareDirty_touches ..) ((State.issuePool_touches ..).after
    ((State.addReq_touches ..).after (State.shareDirty_touches ..)))

theorem State.applyMerges_touches (s : State) :
    Touches [.free, .out, .ic, .errs, .parts, .reqs, .reqNo, .lines, .merges] s (State.applyMerges s) := by
  unfold State.applyMerges
  dsimp only
  repeat' with_reducible first
    | apply Touches.refl | refine (State.applyMerge_touches ..).after ?_ | apply Touches.foldl | apply Touches.set
    | intro _
  all_goals
    intro p hp
    cases p with
    | merges => exact absurd (by decide) hp
    | _ => rfl

/-! ### QueueOps -/

theorem State.newEpoch_touches (s : State) (q : Nat) :
    Touches [.out, .msix, .errs, .fports, .queues] s (State.newEpoch s q) := by
  unfold State.newEpoch
  dsimp only
  repeat' with_reducible first
    | apply Touches.refl | refine (State.modQueue_touches ..).after ?_ | refine (State.pushWrite_touches ..).after ?_
    | refine (State.writeWord_touches ..).after ?_ | apply Touches.set
  all_goals
    intro p hp
    cases p with
    | errs => exact absurd (by decide) hp
    | _ => rfl

theorem State.deleteQueue_touches (s : State) (q : Nat) :
    Touches [.out, .msix, .fports, .queues] s (State.deleteQueue s q) :=
  (State.pushWrite_touches ..).after ((State.modQueue_touches ..).mono (by decide))

theorem State.settleQueue_touches (s : State) (q : Nat) :
    Touches [.out, .mail, .msix, .errs, .fports, .queues] s (State.settleQueue s q) :=
  .ite (.refl ..) (.ite ((State.acceptAll_touches ..).after ((State.newEpoch_touches ..).mono (by decide))) (.ite
    ((State.acceptAll_touches ..).after ((State.deleteQueue_touches ..).mono (by decide))) (.refl ..)))

theorem State.mgmtStopQueue_touches (s : State) (q : Nat) :
    Touches [.out, .msix, .fports, .queues] s (State.mgmtStopQueue s q) :=
  .ite (.refl ..) (.ite ((State.setQState_touches ..).after ((State.modQueue_touches ..).mono (by decide)))
    ((State.modQueue_touches ..).mono (by decide)))

theorem State.mgmtResumeQueue_touches (s : State) (q : Nat) :
    Touches [.out, .msix, .fports, .queues] s (State.mgmtResumeQueue s q) :=
  .ite ((State.setQState_touches ..).after ((State.modQueue_touches ..).after ((State.modQueue_touches ..).mono (by
    decide)))) ((State.modQueue_touches ..).mono (by decide))

theorem State.stopPartition_touches (s : State) (p : Nat) :
    Touches [.out, .msix, .fports, .parts, .queues] s (State.stopPartition s p) :=
  .foldl ((State.modPart_touches ..).mono (by decide)) fun _ _ => (State.mgmtStopQueue_touches ..).mono (by decide)

theorem State.resumePartition_touches (s : State) (p : Nat) :
    Touches [.out, .msix, .fports, .parts, .queues] s (State.resumePartition s p) :=
  .foldl ((State.modPart_touches ..).mono (by decide)) fun _ _ => (State.mgmtResumeQueue_touches ..).mono (by decide)

/-! ### Launch -/

theorem State.unbind_touches (s : State) (e : Slot) :
    Touches [.errs, .graphs, .folios, .atc] s (State.unbind s e) := by
  unfold State.unbind
  dsimp only
  repeat' with_reducible first
    | apply Touches.refl | refine (State.unbindFolio_touches ..).after ?_ | refine (State.unbindGraph_touches ..).after ?_
    | apply Touches.foldl | split | intro _

theorem State.retireOne_touches (s : State) (e : Slot) :
    Touches [.errs, .parts, .queues, .slots, .graphs, .folios, .atc] s (State.retireOne s e) :=
  (State.dropSlot_touches ..).after ((State.unbind_touches ..).after ((State.modPart_touches ..).after
    ((State.modQueue_touches ..).mono (by decide))))

theorem State.retireLoop_touches (n : Nat) (s : State) (q : Nat) :
    Touches [.errs, .parts, .queues, .slots, .graphs, .folios, .atc] s (State.retireLoop n s q) := by
  induction n generalizing s with
  | zero => exact .refl ..
  | succ n ih =>
    unfold State.retireLoop
    split
    · exact .ite ((State.retireOne_touches ..).trans (ih _)) (.refl ..)
    · exact .refl ..

theorem State.retireReady_touches (s : State) (q : Nat) :
    Touches [.out, .mail, .msix, .errs, .fports, .parts, .queues, .slots, .graphs, .folios, .atc] s (State.retireReady s q) :=
  (State.settleQueue_touches ..).after (.ite ((State.retireLoop_touches ..).mono (by decide)) ((State.writeWord_touches
    ..).after ((State.retireLoop_touches ..).mono (by decide))))

theorem State.finishSlot_touches (s : State) (q seq status cause : Nat) (earliest : Nat) :
    Touches slotParts s (State.finishSlot s q seq status cause earliest) := by
  unfold State.finishSlot
  dsimp only
  repeat' with_reducible first
    | apply Touches.refl | refine (State.modPart_touches ..).after ?_ | refine (State.modSlot_touches ..).after ?_
    | refine (State.pushRecord_touches ..).after ?_ | refine (State.retireReady_touches ..).after ?_ | split
    | apply Touches.set
  all_goals
    intro p hp
    cases p with
    | reqs => exact absurd (by decide) hp
    | _ => rfl

theorem State.refuseSlot_touches (s : State) (q seq status cause : Nat) (earliest : Nat) :
    Touches slotParts s (State.refuseSlot s q seq status cause earliest) :=
  (State.finishSlot_touches ..).after ((State.modQueue_touches ..).mono (by decide))

theorem State.forceLaunch_touches (s : State) (q seq : Nat) :
    Touches [.cores, .clusters] s (State.forceLaunch s q seq) := by
  unfold State.forceLaunch
  repeat' with_reducible first
    | apply Touches.refl | apply Touches.set
  all_goals
    intro p hp
    cases p with
    | cores | clusters => exact absurd (by decide) hp
    | _ => rfl

theorem State.discardStagings_touches (s : State) (e : Slot) :
    Touches [.errs, .ctxs, .folios, .atc] s (State.discardStagings s e) :=
  .foldl (.refl ..) fun _ _ => State.discardVersion_touches ..

theorem State.endSlot_touches (s : State) (q seq : Nat) (w : EndWhy) :
    Touches endParts s (State.endSlot s q seq w) := by
  unfold State.endSlot
  dsimp only
  repeat' with_reducible first
    | apply Touches.refl | refine (State.discardStagings_touches ..).after ?_
    | refine (State.finishSlot_touches ..).after ?_ | refine (State.forceLaunch_touches ..).after ?_
    | refine (State.modSlot_touches ..).after ?_ | refine (State.refuseSlot_touches ..).after ?_ | split

theorem State.drainQueue_touches (s : State) (q kind : Nat) (a : Option QueueAttrs) (w : EndWhy) :
    Touches endParts s (State.drainQueue s q kind a w) :=
  (State.settleQueue_touches ..).after (.foldl ((State.setQState_touches ..).after ((State.modQueue_touches ..).mono (by
    decide))) fun _ _ => State.endSlot_touches ..)

theorem State.endWhere_touches (s : State) (t : Slot → Bool) (w : EndWhy) :
    Touches endParts s (State.endWhere s t w) :=
  .foldl (.refl ..) fun _ _ => State.endSlot_touches ..

/-! ### QueueCmds -/

theorem State.onQueuePage_touches {ps : List Part} {r s : State} {x : Requester} {q reg : Nat} {f : State → State}
    (h : Touches ps r s) (hf : ∀ s, Touches ps s (f s)) (hp : [.out, .bad] ⊆ ps := by decide) :
    Touches ps r (s.onQueuePage x q reg f) :=
  State.access_touches h (fun s => .ite (hf s) ((Touches.refl ps s).followedBy (State.badAccess_touches ..) fun _ hx => hp (by simp_all)))
    fun _ hx => hp (by simp_all)

theorem State.refuseUnfetched_touches (s : State) (q seq status cause : Nat) :
    Touches slotParts s (State.refuseUnfetched s q seq status cause) := by
  unfold State.refuseUnfetched
  dsimp only
  repeat' with_reducible first
    | apply Touches.refl | refine (State.refuseSlot_touches ..).after ?_ | apply Touches.set
  all_goals
    intro p hp
    cases p with
    | slots => exact absurd (by decide) hp
    | _ => rfl

theorem State.refuseBlocked_touches (n : Nat) (s : State) (q : Nat) :
    Touches slotParts s
      (State.refuseBlocked n s q) := by
  induction n generalizing s with
  | zero => exact .refl ..
  | succ n ih =>
    refine .trans ?_ (ih _)
    exact .followedBy (.followedBy (.refl ..) (State.modQueue_touches ..)) (State.refuseUnfetched_touches ..)

theorem State.startResume_touches (s : State) (q : Nat) :
    Touches [.out, .msix, .fports, .queues] s (State.startResume s q) :=
  .ite ((State.pushWrite_touches ..).after ((State.pushWrite_touches ..).after (.foldl ((State.modQueue_touches ..).mono
    (by decide)) fun _ _ => State.pushWrite_touches ..))) ((State.pushWrite_touches ..).after (.foldl
    ((State.modQueue_touches ..).mono (by decide)) fun _ _ => State.pushWrite_touches ..))

theorem State.endResume_touches (s : State) (q : Nat) :
    Touches slotParts s (State.endResume s q) := by
  unfold State.endResume
  dsimp only
  repeat' with_reducible first
    | apply Touches.refl | refine (State.modQueue_touches ..).after ?_ | refine (State.pushWrite_touches ..).after ?_
    | refine (State.refuseBlocked_touches ..).after ?_ | refine (State.writeWord_touches ..).after ?_ | split

theorem State.noteBlocked_touches (s : State) (q : Nat) :
    Touches [.ic, .parts] s (State.noteBlocked s q) := by
  unfold State.noteBlocked
  dsimp only
  repeat' with_reducible first
    | apply Touches.refl | refine (State.icFire_touches ..).after ?_ | refine (State.modPart_touches ..).after ?_

/-! ### Translate -/

theorem State.atcFill_touches (s : State) (die : Nat) (a : Atc) :
    Touches [.atc] s (State.atcFill s die a) := by
  unfold State.atcFill
  repeat' with_reducible first
    | apply Touches.refl | split | apply Touches.set
  all_goals
    intro p hp
    cases p with
    | atc => exact absurd (by decide) hp
    | _ => rfl

theorem State.atcDrop_touches (s : State) (t : Atc → Bool) :
    Touches [.atc, .cores] s (State.atcDrop s t) := by
  unfold State.atcDrop
  dsimp only
  repeat' with_reducible first
    | apply Touches.refl | apply Touches.set
  all_goals
    intro p hp
    cases p with
    | atc | cores => exact absurd (by decide) hp
    | _ => rfl

theorem State.pin_touches (s : State) (core k : Nat) :
    Touches [.atc, .cores] s (State.pin s core k) := by
  unfold State.pin
  repeat' with_reducible first
    | apply Touches.refl | refine (State.modCore_touches ..).after ?_ | split | apply Touches.set
  all_goals
    intro p hp
    cases p with
    | atc => exact absurd (by decide) hp
    | _ => rfl

theorem State.unpinAll_touches (s : State) (core : Nat) :
    Touches [.atc, .cores] s (State.unpinAll s core) := by
  unfold State.unpinAll
  dsimp only
  repeat' with_reducible first
    | apply Touches.refl | refine (State.modCore_touches ..).after ?_ | apply Touches.foldl | split | apply Touches.set
    | intro _
  all_goals
    intro p hp
    cases p with
    | atc => exact absurd (by decide) hp
    | _ => rfl

theorem State.strandOf_touches (s : State) (r : MemReq) (st : Strand) :
    Touches [.cores] s (State.strandOf s r st) := by
  unfold State.strandOf
  repeat' with_reducible first
    | apply Touches.refl | refine (State.modCore_touches ..).after ?_ | split

theorem State.noteStall_touches (s : State) (k : Nat) :
    Touches [.cores] s (State.noteStall s k) :=
  State.modCore_touches ..

theorem State.strandNow_touches (s : State) (r : MemReq) (st : Strand) :
    Touches [.cores] s (State.strandNow s r st) := by
  unfold State.strandNow
  repeat' with_reducible first
    | apply Touches.refl | refine (State.noteStall_touches ..).after ?_ | refine (State.strandOf_touches ..).after ?_
    | split

theorem State.countUnresolved_touches (s : State) (p x : Nat) :
    Touches [.ctxs] s (State.countUnresolved s p x) :=
  State.modCtx_touches ..

theorem State.unresolveReq_touches (s : State) (id cause : Nat) :
    Touches [.slots, .reqs] s (State.unresolveReq s id cause) := by
  unfold State.unresolveReq
  dsimp only
  repeat' with_reducible first
    | apply Touches.refl | refine (State.dropReq_touches ..).after ?_ | refine (State.modSlot_touches ..).after ?_
    | refine (State.setReq_touches ..).after ?_ | split

theorem State.unresolve_touches (s : State) (id cause : Nat) :
    Touches [.ctxs, .slots, .reqs] s (State.unresolve s id cause) := by
  unfold State.unresolve
  repeat' with_reducible first
    | apply Touches.refl | refine (State.countUnresolved_touches ..).after ?_
    | refine (State.unresolveReq_touches ..).after ?_ | split

theorem State.modFault_touches (s : State) (id : Nat) (f : FaultRec → FaultRec) :
    Touches [.faults] s (State.modFault s id f) := by
  unfold State.modFault
  repeat' with_reducible first
    | apply Touches.refl | apply Touches.set
  all_goals
    intro p hp
    cases p with
    | faults => exact absurd (by decide) hp
    | _ => rfl

theorem State.recordFault_touches (s : State) (id page : Nat) :
    Touches [.ctxs, .faults, .faultNo, .reqs, .cores] s (State.recordFault s id page) := by
  unfold State.recordFault
  dsimp only
  repeat' with_reducible first
    | apply Touches.refl | refine (State.modCtx_touches ..).after ?_ | refine (State.modFault_touches ..).after ?_
    | refine (State.setReq_touches ..).after ?_ | refine (State.strandNow_touches ..).after ?_ | split | apply Touches.set
  all_goals
    intro p hp
    cases p with
    | faults | faultNo => exact absurd (by decide) hp
    | _ => rfl

theorem State.noteOverflow_touches (s : State) (p x : Nat) :
    Touches [.ctxs] s (State.noteOverflow s p x) :=
  State.modCtx_touches ..

theorem State.bufferFault_touches (s : State) (id : Nat) :
    Touches [.ctxs, .faults] s (State.bufferFault s id) := by
  unfold State.bufferFault
  dsimp only
  repeat' with_reducible first
    | apply Touches.refl | refine (State.modFault_touches ..).after ?_ | refine (State.noteOverflow_touches ..).after ?_
    | split

theorem State.ringWrite_touches (s : State) (id : Nat) :
    Touches [.out, .fports, .ctxs, .faults] s (State.ringWrite s id) := by
  unfold State.ringWrite
  dsimp only
  repeat' with_reducible first
    | apply Touches.refl | refine (State.modCtx_touches ..).after ?_ | refine (State.modFault_touches ..).after ?_
    | refine (State.viaPort_touches ..).after ?_ | split

theorem State.faultUnresolved_touches (s : State) (id cause : Nat) :
    Touches [.ctxs, .slots, .faults, .reqs] s (State.faultUnresolved s id cause) := by
  unfold State.faultUnresolved
  dsimp only
  repeat' with_reducible first
    | apply Touches.refl | refine (State.countUnresolved_touches ..).after ?_
    | refine (State.noteOverflow_touches ..).after ?_ | refine (State.unresolveReq_touches ..).after ?_
    | apply Touches.foldl | split | apply Touches.set | intro _
  all_goals
    intro p hp
    cases p with
    | faults => exact absurd (by decide) hp
    | _ => rfl

theorem State.pageRequest_touches (s : State) (ids : List Nat) (pasid : Nat) :
    Touches [.out, .ctxs, .faults, .groupNo] s (State.pageRequest s ids pasid) := by
  unfold State.pageRequest
  dsimp only
  repeat' with_reducible first
    | apply Touches.refl | refine (State.bufferFault_touches ..).after ?_ | refine (State.emit_touches ..).after ?_
    | refine (State.modFault_touches ..).after ?_ | apply Touches.foldl | split | apply Touches.set | intro _
  all_goals
    intro p hp
    cases p with
    | groupNo => exact absurd (by decide) hp
    | _ => rfl

theorem State.deliverFaults_touches (s : State) (p x : Nat) (ids : List Nat) :
    Touches [.out, .fports, .ctxs, .slots, .faults, .groupNo, .reqs] s (State.deliverFaults s p x ids) := by
  unfold State.deliverFaults
  repeat' with_reducible first
    | apply Touches.refl | refine (State.bufferFault_touches ..).after ?_
    | refine (State.faultUnresolved_touches ..).after ?_ | refine (State.pageRequest_touches ..).after ?_
    | refine (State.ringWrite_touches ..).after ?_ | apply Touches.foldl | split | intro _

theorem State.drainFaults_touches (s : State) (p x : Nat) :
    Touches [.out, .fports, .ctxs, .slots, .faults, .groupNo, .reqs] s (State.drainFaults s p x) :=
  .ite (.refl ..) ((State.noteOverflow_touches ..).after (State.deliverFaults_touches ..))

theorem State.askHost_touches (s : State) (id : Nat) (r : MemReq) (c : Context) :
    Touches [.out, .xlats, .reqs, .cores] s (State.askHost s id r c) := by
  unfold State.askHost
  dsimp only
  repeat' with_reducible first
    | apply Touches.refl | refine (State.emit_touches ..).after ?_ | refine (State.setReq_touches ..).after ?_
    | refine (State.strandNow_touches ..).after ?_ | split | apply Touches.set
  all_goals
    intro p hp
    cases p with
    | xlats => exact absurd (by decide) hp
    | _ => rfl

theorem State.commitStreamNow_touches (s : State) (core : Nat) :
    Touches [.cores] s (State.commitStreamNow s core) :=
  .ite (.refl ..) ((State.noteStall_touches ..).after (State.modCore_touches ..))

theorem State.hostAccess_touches (s : State) (id : Nat) (r : MemReq) (k : Nat) (a : Atc) :
    Touches [.out, .atc, .reqs, .cores] s (State.hostAccess s id r k a) := by
  unfold State.hostAccess
  dsimp only
  repeat' with_reducible first
    | apply Touches.refl | refine (State.commitStreamNow_touches ..).after ?_ | refine (State.dropReq_touches ..).after ?_
    | refine (State.emit_touches ..).after ?_ | refine (State.pin_touches ..).after ?_
    | refine (State.setReq_touches ..).after ?_ | refine (State.strandNow_touches ..).after ?_ | split | apply Touches.set
  all_goals
    intro p hp
    cases p with
    | atc => exact absurd (by decide) hp
    | _ => rfl

theorem State.windowAccess_touches (s : State) (id : Nat) (r : MemReq) (c : Context) :
    Touches [.out, .fports, .ctxs, .slots, .reqs, .cores] s (State.windowAccess s id r c) := by
  unfold State.windowAccess
  dsimp only
  repeat' with_reducible first
    | apply Touches.refl | refine (State.commitStreamNow_touches ..).after ?_ | refine (State.dropReq_touches ..).after ?_
    | refine (State.setReq_touches ..).after ?_ | refine (State.strandNow_touches ..).after ?_
    | refine (State.unresolve_touches ..).after ?_ | refine (State.viaPort_touches ..).after ?_ | split

theorem State.startGuest_touches (s : State) (id : Nat) :
    Touches [.out, .fports, .ctxs, .slots, .atc, .xlats, .reqs, .cores] s (State.startGuest s id) := by
  unfold State.startGuest
  repeat' with_reducible first
    | apply Touches.refl | refine (State.askHost_touches ..).after ?_ | refine (State.hostAccess_touches ..).after ?_
    | refine (State.unresolve_touches ..).after ?_ | refine (State.windowAccess_touches ..).after ?_ | split

theorem State.askPageList_touches (s : State) (id : Nat) (r : MemReq) (i v page : Nat) :
    Touches [.xlats, .reqs, .cores] s (State.askPageList s id r i v page) := by
  unfold State.askPageList
  dsimp only
  repeat' with_reducible first
    | apply Touches.refl | refine (State.setReq_touches ..).after ?_ | refine (State.strandNow_touches ..).after ?_
    | split | apply Touches.set
  all_goals
    intro p hp
    cases p with
    | xlats => exact absurd (by decide) hp
    | _ => rfl

theorem State.startPool_touches (s : State) (id : Nat) (r : MemReq) :
    Touches [.free, .out, .parts, .reqs, .reqNo, .cores, .lines] s (State.startPool s id r) := by
  unfold State.startPool
  dsimp only
  repeat' with_reducible first
    | apply Touches.refl | refine (State.readPool_touches ..).after ?_ | refine (State.strandNow_touches ..).after ?_
    | split

theorem State.startFolio_touches (s : State) (id : Nat) :
    Touches [.free, .out, .parts, .atc, .xlats, .reqs, .reqNo, .cores, .lines] s (State.startFolio s id) := by
  unfold State.startFolio
  repeat' with_reducible first
    | apply Touches.refl | refine (State.askPageList_touches ..).after ?_
    | refine (State.commitStreamNow_touches ..).after ?_ | refine (State.dropReq_touches ..).after ?_
    | refine (State.pin_touches ..).after ?_ | refine (State.startPool_touches ..).after ?_ | split

theorem State.startReq_touches (s : State) (r : MemReq) :
    Touches accessParts s (State.startReq s r) :=
  .ite ((State.startGuest_touches ..).after ((State.addReq_touches ..).mono (by decide))) (.ite
    ((State.startFolio_touches ..).after ((State.addReq_touches ..).mono (by decide))) ((State.startPool_touches
    ..).after ((State.addReq_touches ..).mono (by decide))))

theorem State.restart_touches (s : State) (ids : List Nat) :
    Touches accessParts s (State.restart s ids) := by
  unfold State.restart
  repeat' with_reducible first
    | apply Touches.refl | refine (State.startFolio_touches ..).after ?_ | refine (State.startGuest_touches ..).after ?_
    | apply Touches.foldl | split | intro _

theorem State.freeXlat_touches (s : State) (k : Nat) (waiters : List Nat) :
    Touches accessParts s (State.freeXlat s k waiters) := by
  unfold State.freeXlat
  dsimp only
  repeat' with_reducible first
    | apply Touches.refl | refine (State.restart_touches ..).after ?_ | apply Touches.set
  all_goals
    intro p hp
    cases p with
    | xlats => exact absurd (by decide) hp
    | _ => rfl

/-! ### SlotChecks -/

theorem State.resolveBinding_touches {s t : State} {e : Slot} {os : List Override} {i : Nat} {b : Binding} {x : Reloc}
    (h : s.resolveBinding e os i b = .ok (t, x)) : Touches [.folios] s t := by
  unfold State.resolveBinding at h
  dsimp only at h
  repeat' split at h
  all_goals try cases h
  all_goals try exact .refl ..
  · unfold State.resolveRead at h
    dsimp only at h
    repeat' split at h
    all_goals cases h
    all_goals exact .refl ..
  · unfold State.resolveOutput at h
    dsimp only at h
    repeat' split at h
    all_goals cases h
    all_goals first
      | exact .refl ..
      | exact .of_frame (folios_frame _ _)

theorem State.resolveAll_touches (s : State) (e : Slot) (os : List Override) (bs : List (Nat × Binding)) (rs : List Reloc) :
    Touches [.folios] s (s.resolveAll e os bs rs).1 := by
  induction bs generalizing s rs with
  | nil => exact .refl ..
  | cons x l ih =>
    obtain ⟨i, b⟩ := x
    unfold State.resolveAll
    split
    next h => exact (State.resolveBinding_touches h).trans (ih _ _)
    next => exact .refl ..

theorem State.admitSlot_touches (s : State) (q seq : Nat) :
    Touches [.queues, .slots, .admitted] s (State.admitSlot s q seq) := by
  unfold State.admitSlot
  dsimp only
  repeat' with_reducible first
    | apply Touches.refl | refine (State.modQueue_touches ..).after ?_ | refine (State.modSlot_touches ..).after ?_
    | apply Touches.set
  all_goals
    intro p hp
    cases p with
    | admitted => exact absurd (by decide) hp
    | _ => rfl

theorem State.refuseLaunch_touches (s : State) (e : Slot) (rs : List Reloc) (x : Refused) (earliest : Nat) :
    Touches [.out, .mail, .msix, .errs, .fports, .parts, .ctxs, .queues, .slots, .graphs, .folios, .atc, .reqs] s
      (State.refuseLaunch s e rs x earliest) :=
  (State.refuseSlot_touches ..).after ((State.discardStagings_touches ..).mono (by decide))

theorem State.bindAll_touches (s : State) (graph version : Nat) (rs : List Reloc) :
    Touches [.graphs, .folios] s (State.bindAll s graph version rs) := by
  unfold State.bindAll
  repeat' with_reducible first
    | apply Touches.refl | refine (State.bindFolio_touches ..).after ?_ | refine (State.bindGraph_touches ..).after ?_
    | apply Touches.foldl | split | intro _

theorem State.enterLaunch_touches (s : State) (e : Slot) (graph : Nat) (gv : GraphVersion) (rs : List Reloc) (pr : Option
  Promise) (cp cf : List Nat) (holds : List Hold) :
    Touches [.out, .msix, .fports, .parts, .queues, .slots, .admitted, .graphs, .folios] s (State.enterLaunch s e graph gv rs
      pr cp cf holds) := by
  unfold State.enterLaunch
  dsimp only
  repeat' with_reducible first
    | apply Touches.refl | refine (State.admitSlot_touches ..).after ?_ | refine (State.bindAll_touches ..).after ?_
    | refine (State.modPart_touches ..).after ?_ | refine (State.modSlot_touches ..).after ?_
    | refine (State.pushRecord_touches ..).after ?_ | split

theorem State.admitLaunch_touches (s : State) (e : Slot) (graph : Nat) (gv : GraphVersion) (v : Variant) (rs : List Reloc) :
    Touches [.out, .mail, .msix, .errs, .fports, .parts, .ctxs, .queues, .slots, .admitted, .graphs, .folios, .atc, .reqs] s
      (State.admitLaunch s e graph gv v rs) := by
  unfold State.admitLaunch
  dsimp only
  repeat' with_reducible first
    | apply Touches.refl | refine (State.enterLaunch_touches ..).after ?_ | refine (State.modPart_touches ..).after ?_
    | refine (State.refuseLaunch_touches ..).after ?_ | split

theorem State.readGuest_touches (s : State) (e : Slot) (addr n : Nat) :
    Touches accessParts s (State.readGuest s e addr n) :=
  .foldl (.refl ..) fun _ _ => State.startReq_touches ..

theorem State.endRead_touches (s : State) (e : Slot) :
    Touches [.slots, .reqs] s (State.endRead s e) := by
  unfold State.endRead
  repeat' with_reducible first
    | apply Touches.refl | refine (State.modSlot_touches ..).after ?_ | apply Touches.set
  all_goals
    intro p hp
    cases p with
    | reqs => exact absurd (by decide) hp
    | _ => rfl

theorem State.bindLaunch_touches (s : State) (e : Slot) (graph : Nat) (gv : GraphVersion) (v : Variant) :
    Touches [.out, .mail, .msix, .errs, .fports, .parts, .ctxs, .queues, .slots, .admitted, .graphs, .folios, .atc, .reqs] s
      (s.bindLaunch e graph gv v) := by
  unfold State.bindLaunch
  split
  · exact .followedBy (.refl ..) (State.refuseSlot_touches ..)
  next os _ =>
    have hv := State.resolveAll_touches s e os ((List.range gv.image.bindings.length).zip gv.image.bindings) []
    split
    next h =>
      rw [h] at hv
      exact .followedBy (hv.mono (by decide)) (State.admitLaunch_touches ..)
    next h =>
      rw [h] at hv
      exact .followedBy (hv.mono (by decide)) (State.refuseLaunch_touches ..)

theorem State.checkLaunch_touches (s : State) (q seq : Nat) :
    Touches checkParts s (State.checkLaunch s q seq) := by
  unfold State.checkLaunch
  dsimp only
  repeat' with_reducible first
    | apply Touches.refl | refine (State.bindLaunch_touches ..).after ?_ | refine (State.modSlot_touches ..).after ?_
    | refine (State.readGuest_touches ..).after ?_ | refine (State.refuseSlot_touches ..).after ?_ | split

/-! ### SlotCmds -/

theorem State.onSlot_touches {ps : List Part} {r s : State} {q seq : Nat} {t : Slot → Bool} {f : Slot → State → State}
    (h : Touches ps r s) (hf : ∀ e s, Touches ps s (f e s)) : Touches ps r (s.onSlot q seq t f) := by
  unfold State.onSlot
  split
  · exact State.when_touches h (hf _)
  · exact h

theorem State.finishOk_touches (s : State) (e : Slot) :
    Touches slotParts s (State.finishOk s e) :=
  State.finishSlot_touches ..

theorem State.refuseArgs_touches (s : State) (e : Slot) :
    Touches slotParts s (State.refuseArgs s e) :=
  State.refuseSlot_touches ..

theorem State.checkOpcode_touches (s : State) (e : Slot) :
    Touches checkParts s (State.checkOpcode s e) := by
  unfold State.checkOpcode
  dsimp only
  repeat' with_reducible first
    | apply Touches.refl | refine (State.admitSlot_touches ..).after ?_ | refine (State.checkLaunch_touches ..).after ?_
    | refine (State.modSlot_touches ..).after ?_ | refine (State.readGuest_touches ..).after ?_
    | refine (State.refuseArgs_touches ..).after ?_ | split

theorem State.checkArrival_touches (s : State) (q : Nat) (b : Bytes) :
    Touches checkParts s (State.checkArrival s q b) := by
  unfold State.checkArrival
  dsimp only
  repeat' with_reducible first
    | apply Touches.refl | refine (State.checkOpcode_touches ..).after ?_ | refine (State.refuseArgs_touches ..).after ?_
    | refine (State.refuseSlot_touches ..).after ?_ | split | apply Touches.set
  all_goals
    intro p hp
    cases p with
    | slots => exact absurd (by decide) hp
    | _ => rfl

theorem State.startLaunch_touches (s : State) (e : Slot) :
    Touches [.slots] s (State.startLaunch s e) :=
  State.modSlot_touches ..

theorem State.sendAdvice_touches (s : State) (e : Slot) (kind whenCt : Nat) :
    Touches [.out, .slots] s (State.sendAdvice s e kind whenCt) :=
  (State.emit_touches ..).after ((State.modSlot_touches ..).mono (by decide))

theorem State.adviseOut_touches (s : State) (q seq value : Nat) :
    Touches [.out, .slots] s (State.adviseOut s q seq value) := by
  unfold State.adviseOut
  repeat' with_reducible first
    | apply Touches.refl | refine (State.sendAdvice_touches ..).after ?_ | split | apply State.onSlot_touches | intro _

theorem State.fillLine_touches (s : State) (e : Slot) (keep : Bool) (cluster line : Nat) :
    Touches [.free, .out, .parts, .slots, .reqs, .reqNo, .lines] s (State.fillLine s e keep cluster line) :=
  .ite (.ite ((State.keepLine_touches ..).mono (by decide)) (.refl ..)) ((State.issuePool_touches ..).after
    ((State.addReq_touches ..).after ((State.modSlot_touches ..).mono (by decide))))

theorem State.fillRange_touches (s : State) (e : Slot) :
    Touches [.free, .out, .parts, .slots, .reqs, .reqNo, .lines] s (State.fillRange s e) := by
  unfold State.fillRange
  dsimp only
  repeat' with_reducible first
    | apply Touches.refl | refine (State.fillLine_touches ..).after ?_ | refine (State.modSlot_touches ..).after ?_
    | apply Touches.foldl | split | intro _

theorem State.settleAdvice_touches (s : State) (q seq : Nat) :
    Touches slotParts s (State.settleAdvice s q seq) :=
  State.onSlot_touches (.refl ..) fun _ _ => State.finishOk_touches ..

theorem State.startFence_touches (s : State) (q seq scope : Nat) :
    Touches slotParts s (State.startFence s q seq scope) :=
  State.onSlot_touches (.refl ..) fun _ _ => State.when_touches ((State.modSlot_touches ..).mono (by decide)) fun _ =>
    State.finishOk_touches ..

theorem State.seqRetire_touches (s : State) (q seq mode : Nat) (t : Bytes → SeqEntry → Bool) :
    Touches [.out, .mail, .msix, .errs, .fports, .parts, .queues, .slots, .admitted, .graphs, .seqs, .folios, .atc, .reqs] s
      (State.seqRetire s q seq mode t) := by
  unfold State.seqRetire
  dsimp only
  repeat' with_reducible first
    | apply Touches.refl | refine (State.admitSlot_touches ..).after ?_ | refine (State.finishOk_touches ..).after ?_
    | refine (State.modSlot_touches ..).after ?_ | apply State.onSlot_touches | apply State.when_touches
    | apply Touches.set | intro _
  all_goals
    intro p hp
    cases p with
    | seqs => exact absurd (by decide) hp
    | _ => rfl

/-! ### FolioCmds -/

theorem State.finishFolio_touches (s : State) (e : Slot) (i v status : Nat) :
    Touches slotParts s (State.finishFolio s e i v status) :=
  (State.finishSlot_touches ..).after (.ite (.refl ..) ((State.pushWrite_touches ..).mono (by decide)))

theorem State.onFolio_touches {ps : List Part} {r s : State} {q seq op : Nat} {mapped : Bool} {t : Bytes → Bool}
    {f : Slot → Nat → Folio → State → State} (h : Touches ps r s) (hf : ∀ e i x s, Touches ps s (f e i x s))
    (hp : slotParts ⊆ ps := by decide) :
    Touches ps r (s.onFolio q seq op mapped t f) := by
  refine State.onSlot_touches h fun e s => ?_
  split
  · exact (Touches.refl ps s).followedBy (State.finishSlot_touches ..) hp
  · exact .ite ((Touches.refl ps s).followedBy (State.finishSlot_touches ..) hp) (hf ..)

theorem State.addOpen_touches (s : State) (e : Slot) (i v : Nat) :
    Touches [.ctxs, .folios] s (State.addOpen s e i v) :=
  (State.modCtx_touches ..).after ((State.modFolio_touches ..).mono (by decide))

theorem State.addDraft_touches {s t : State} {e : Slot} {i v : Nat} {f : Folio} {base : Option VSlot}
    (h : s.addDraft e i f base = some (t, v)) : Touches [.ctxs, .folios] s t := by
  unfold State.addDraft at h
  dsimp only at h
  split at h
  · cases h
  · cases h
    refine .followedBy (Touches.set (.refl ..) ?_) (State.modCtx_touches ..)
    exact (folios_frame _ _).mono (by simp)

theorem State.startMirror_touches (s : State) (i v : Nat) :
    Touches [.ic, .folios] s (State.startMirror s i v) := by
  unfold State.startMirror
  dsimp only
  repeat' with_reducible first
    | apply Touches.refl | refine (State.icFire_touches ..).after ?_ | refine (State.modFolio_touches ..).after ?_ | split

theorem State.publish_touches (s : State) (i v base source : Nat) :
    Touches [.ic, .errs, .folios, .atc] s (State.publish s i v base source) :=
  (State.sweepFolio_touches ..).after ((State.startMirror_touches ..).after ((State.modFolio_touches ..).mono (by
    decide)))

theorem State.draftToOpen_touches (s : State) (e : Slot) (i v : Nat) :
    Touches [.ctxs, .folios] s (State.draftToOpen s e i v) :=
  (State.addOpen_touches ..).after ((State.modCtx_touches ..).mono (by decide))

theorem State.publishList_touches (s : State) (e : Slot) (i : Nat) (f : Folio) (pages : List Nat) :
    Touches [.out, .mail, .ic, .msix, .errs, .fports, .parts, .queues, .slots, .graphs, .folios, .atc, .reqs] s
      (State.publishList s e i f pages) := by
  unfold State.publishList
  dsimp only
  repeat' with_reducible first
    | apply Touches.refl | refine (State.finishFolio_touches ..).after ?_ | refine (State.finishSlot_touches ..).after ?_
    | refine (State.publish_touches ..).after ?_ | split | apply Touches.set
  all_goals
    intro p hp
    cases p with
    | folios => exact absurd (by decide) hp
    | _ => rfl

theorem State.giveMirrors_touches (s : State) (i v owner : Nat) (ks : List Nat) :
    Touches [.folios] s (s.giveMirrors i v owner ks) := by
  induction ks generalizing s with
  | nil => exact .refl ..
  | cons k l ih =>
    unfold State.giveMirrors
    dsimp only
    split
    · exact .refl ..
    · split
      · exact ih _
      · exact (State.modFolio_touches ..).trans (ih _)

/-! ### RevokeOps -/

theorem State.raiseFence_touches (s : State) (k : Nat) (p : Option Nat) (reply : List Nat) :
    Touches [.out, .mail, .msix, .errs, .fports, .parts, .ctxs, .queues, .slots, .graphs, .extents, .folios, .atc, .reqs,
      .cores, .clusters] s (State.raiseFence s k p reply) := by
  unfold State.raiseFence
  dsimp only
  repeat' with_reducible first
    | apply Touches.refl | refine (State.discardDraft_touches ..).after ?_ | refine (State.endWhere_touches ..).after ?_
    | apply Touches.foldl | split | apply Touches.set | intro _
  all_goals
    intro p hp
    cases p with
    | graphs | extents | folios => exact absurd (by decide) hp
    | _ => rfl

theorem State.askRevoke_touches (s : State) (k : Nat) (p : Option Nat) (ch : Option Nat) :
    Touches [.out, .mail, .msix, .errs, .fports, .parts, .ctxs, .queues, .slots, .graphs, .extents, .folios, .atc, .reqs,
      .cores, .clusters] s (State.askRevoke s k p ch) := by
  unfold State.askRevoke
  dsimp only
  repeat' with_reducible first
    | apply Touches.refl | refine (State.acceptAll_touches ..).after ?_ | refine (State.modExtent_touches ..).after ?_
    | refine (State.park_touches ..).after ?_ | refine (State.raiseFence_touches ..).after ?_ | apply Touches.foldl
    | split | intro _

theorem State.settleFences_touches (s : State) :
    Touches [.extents] s (State.settleFences s) := by
  unfold State.settleFences
  repeat' with_reducible first
    | apply Touches.refl | apply Touches.set
  all_goals
    intro p hp
    cases p with
    | extents => exact absurd (by decide) hp
    | _ => rfl

theorem State.nextRevocation_touches (s : State) (k : Nat) :
    Touches [.out, .mail, .msix, .errs, .fports, .parts, .ctxs, .queues, .slots, .graphs, .extents, .folios, .atc, .reqs,
      .cores, .clusters] s (State.nextRevocation s k) := by
  unfold State.nextRevocation
  repeat' with_reducible first
    | apply Touches.refl | refine (State.askRevoke_touches ..).after ?_ | refine (State.modExtent_touches ..).after ?_
    | apply Touches.foldl | split | intro _

theorem State.dropExtentLines_touches (s : State) (x : Extent) :
    Touches [.free, .out, .parts, .reqs, .reqNo, .lines] s (State.dropExtentLines s x) :=
  State.dropLines_touches ..

theorem State.invalidated_touches (s : State) (k : Nat) :
    Touches [.free, .out, .mail, .msix, .errs, .fports, .parts, .ctxs, .queues, .slots, .graphs, .extents, .folios, .atc,
      .reqs, .reqNo, .cores, .clusters, .lines] s (State.invalidated s k) := by
  unfold State.invalidated
  dsimp only
  repeat' with_reducible first
    | apply Touches.refl | refine (State.acceptAll_touches ..).after ?_ | refine (State.atcDrop_touches ..).after ?_
    | refine (State.dropExtentLines_touches ..).after ?_ | refine (State.emit_touches ..).after ?_
    | refine (State.modExtent_touches ..).after ?_ | refine (State.nextRevocation_touches ..).after ?_ | split

/-! ### Sched -/

theorem State.modShares_touches (s : State) (p c : Nat) (f : Shares → Shares) :
    Touches [.commons, .clusters] s (State.modShares s p c f) := by
  unfold State.modShares
  repeat' with_reducible first
    | apply Touches.refl | refine (State.modCluster_touches ..).after ?_ | split | apply Touches.set
  all_goals
    intro p hp
    cases p with
    | commons => exact absurd (by decide) hp
    | _ => rfl

theorem State.account_touches (s : State) (key : Nat) (f : Account → Account) :
    Touches [.ctxs] s (State.account s key f) :=
  State.modCtx_touches ..

theorem State.followWait_touches (s : State) (e : Slot) :
    Touches [.ctxs, .slots] s (State.followWait s e) := by
  unfold State.followWait
  repeat' with_reducible first
    | apply Touches.refl | refine (State.account_touches ..).after ?_ | refine (State.modSlot_touches ..).after ?_ | split

theorem State.track_touches (s : State) :
    Touches [.commons, .ctxs, .slots, .clusters] s (State.track s) :=
  .foldl (.foldl (.refl ..) fun _ _ => .foldl (.refl ..) fun _ _ => (State.modShares_touches ..).mono (by decide)) fun _
    _ => (State.followWait_touches ..).mono (by decide)

theorem State.chargeTile_touches (s : State) (k : Nat) (discarded : Bool) :
    Touches [.commons, .ctxs, .clusters] s (State.chargeTile s k discarded) := by
  unfold State.chargeTile
  dsimp only
  repeat' with_reducible first
    | apply Touches.refl | refine (State.account_touches ..).after ?_ | refine (State.modShares_touches ..).after ?_
    | split

theorem State.endTile_touches (s : State) (k : Nat) :
    Touches [.bg, .extents, .cores] s (State.endTile s k) := by
  unfold State.endTile
  dsimp only
  repeat' with_reducible first
    | apply Touches.refl | refine (State.modCore_touches ..).after ?_ | refine (State.settleFences_touches ..).after ?_
    | split | apply Touches.set
  all_goals
    intro p hp
    cases p with
    | bg => exact absurd (by decide) hp
    | _ => rfl

theorem State.settleLaunch_touches (s : State) (q seq : Nat) :
    Touches [.slots] s (State.settleLaunch s q seq) := by
  unfold State.settleLaunch
  dsimp only
  repeat' with_reducible first
    | apply Touches.refl | refine (State.modSlot_touches ..).after ?_ | split

theorem State.monitorOne_touches (s : State) (q seq : Nat) :
    Touches [.out, .mail, .ic, .msix, .errs, .fports, .parts, .ctxs, .queues, .slots, .graphs, .folios, .atc, .reqs, .cores,
      .clusters] s (State.monitorOne s q seq) := by
  unfold State.monitorOne
  dsimp only
  repeat' with_reducible first
    | apply Touches.refl | refine (State.endSlot_touches ..).after ?_ | refine (State.icFire_touches ..).after ?_
    | refine (State.modPart_touches ..).after ?_ | refine (State.modSlot_touches ..).after ?_ | split

/-! ### TileWork -/

theorem State.runOps_touches (s : State) (k : Nat) (m : PhaseMap) (rerun : Bool) (work : List TileOp) :
    Touches [.free, .cores] s (State.runOps s k m rerun work) := by
  unfold State.runOps
  repeat' with_reducible first
    | apply Touches.refl | refine (State.modCore_touches ..).after ?_ | apply Touches.foldl | apply Touches.set | intro _
  all_goals
    intro p hp
    cases p with
    | free => exact absurd (by decide) hp
    | _ => rfl

/-! ### TileCmds -/

theorem State.buildWork_touches (s : State) (e : Slot) (m : PhaseMap) :
    Touches [.seqs] s (State.buildWork s e m).1 := by
  unfold State.buildWork
  dsimp only
  repeat' with_reducible first
    | apply Touches.refl | apply Touches.set
  all_goals
    intro p hp
    cases p with
    | seqs => exact absurd (by decide) hp
    | _ => rfl

theorem State.startReshards_touches (s : State) (e : Slot) (k : Nat) (m : PhaseMap) :
    Touches [.slots, .clusters] s (State.startReshards s e k m) :=
  (State.modSlot_touches ..).after (.foldl (.refl ..) fun _ _ => (State.modCluster_touches ..).mono (by decide))

theorem State.issueGathers_touches (s : State) (k : Nat) (gs : List Gather) :
    Touches accessParts s (State.issueGathers s k gs) := by
  unfold State.issueGathers
  repeat' with_reducible first
    | apply Touches.refl | refine (State.startReq_touches ..).after ?_ | apply Touches.foldl | split | intro _

theorem State.startCopies_touches (s : State) (e : Slot) (t : Nat) :
    Touches [.folios] s (State.startCopies s e t) :=
  .foldl (.refl ..) fun _ _ => .ite (.refl ..) (State.modFolio_touches ..)

theorem State.pinTargets_touches (s : State) (k : Nat) :
    Touches accessParts s (State.pinTargets s k) := by
  unfold State.pinTargets
  repeat' with_reducible first
    | apply Touches.refl | refine (State.startReq_touches ..).after ?_ | apply Touches.foldl | split | intro _

theorem State.kick_touches (s : State) (k : Nat) :
    Touches accessParts s (State.kick s k) := by
  unfold State.kick
  dsimp only
  repeat' with_reducible first
    | apply Touches.refl | refine (State.issueGathers_touches ..).after ?_ | refine (State.modCore_touches ..).after ?_
    | refine (State.pinTargets_touches ..).after ?_ | split

theorem State.kickAll_touches (s : State) :
    Touches accessParts s (State.kickAll s) :=
  .foldl (.refl ..) fun _ _ => State.kick_touches ..

theorem State.saveLive_touches (s : State) (cs : List Cand) :
    Touches [.slots] s (State.saveLive s cs) :=
  .foldl (.refl ..) fun _ _ => State.modSlot_touches ..

theorem State.startTile_touches (s : State) (k : Nat) (e : Slot) (t : Nat) (gathers : List Gather) :
    Touches [.free, .out, .fports, .commons, .parts, .ctxs, .slots, .folios, .atc, .xlats, .reqs, .reqNo, .cores, .clusters,
      .lines] s (State.startTile s k e t gathers) := by
  unfold State.startTile
  dsimp only
  repeat' with_reducible first
    | apply Touches.refl | refine (State.account_touches ..).after ?_ | refine (State.kick_touches ..).after ?_
    | refine (State.modCore_touches ..).after ?_ | refine (State.modShares_touches ..).after ?_
    | refine (State.modSlot_touches ..).after ?_ | refine (State.pinTargets_touches ..).after ?_
    | refine (State.saveLive_touches ..).after ?_ | refine (State.startCopies_touches ..).after ?_
    | refine (State.track_touches ..).after ?_ | split

theorem State.fillStaged_touches (s : State) (k : Nat) :
    Touches [.free, .out, .parts, .reqs, .reqNo, .lines] s (State.fillStaged s k) :=
  .foldl (.refl ..) fun _ _ => .ite (State.shareDirty_touches ..) ((State.issuePool_touches ..).after
    ((State.addReq_touches ..).after (State.shareDirty_touches ..)))

theorem State.forceCounted_touches (s : State) (k : Nat) :
    Touches [.ctxs, .cores] s (State.forceCounted s k) := by
  unfold State.forceCounted
  dsimp only
  repeat' with_reducible first
    | apply Touches.refl | refine (State.account_touches ..).after ?_ | refine (State.modCore_touches ..).after ?_ | split

theorem State.dropTileReqs_touches (s : State) (k : Nat) :
    Touches [.reqs] s (State.dropTileReqs s k) := by
  unfold State.dropTileReqs
  dsimp only
  repeat' with_reducible first
    | apply Touches.refl | apply Touches.set
  all_goals
    intro p hp
    cases p with
    | reqs => exact absurd (by decide) hp
    | _ => rfl

theorem State.returnTile_touches (s : State) (k : Nat) :
    Touches [.slots] s (State.returnTile s k) :=
  .ite ((State.modSlot_touches ..).after (State.modSlot_touches ..)) (State.modSlot_touches ..)

/-! ### MemCmds -/

theorem State.logCorrected_touches (s : State) (r : MemReq) (addr symbol : Nat) (w : BitVec 288) :
    Touches [.ic, .errs] s (State.logCorrected s r addr symbol w) :=
  State.logError_touches ..

theorem State.arriveWord_touches (s : State) (r : MemReq) (addr : Nat) (w : BitVec 288) :
    Touches [.free, .out, .ic, .errs, .parts, .folios, .reqs, .reqNo] s (State.arriveWord s r addr w).1 := by
  unfold State.arriveWord
  repeat' with_reducible first
    | apply Touches.refl | refine (State.logCorrected_touches ..).after ?_
    | refine (State.storePoison_touches ..).after ?_ | split

theorem State.arriveWords_touches (s : State) (r : MemReq) (a : Nat) (ws : List (BitVec 288)) :
    Touches [.free, .out, .ic, .errs, .parts, .folios, .reqs, .reqNo] s (s.arriveWords r a ws).1 := by
  induction ws generalizing s a with
  | nil => exact .refl ..
  | cons w l ih => exact (State.arriveWord_touches s r a w).trans (ih _ _)

theorem State.allocWords_touches (s : State) (r : MemReq) (line : Nat) (ws : List (BitVec 288)) :
    Touches [.free, .out, .parts, .reqs, .reqNo, .lines] s (s.allocWords r line ws) := by
  match ws with
  | [] => exact .refl ..
  | [_] => exact .refl ..
  | w0 :: w1 :: l =>
    unfold State.allocWords
    refine .trans ?_ (State.allocWords_touches _ _ _ l)
    split
    · exact .refl ..
    · exact State.allocLine_touches ..

theorem State.finishRead_touches (s : State) (id : Nat) (r : MemReq) (words : List (BitVec 288)) :
    Touches [.free, .out, .mail, .ic, .msix, .errs, .fports, .parts, .queues, .slots, .graphs, .folios, .atc, .reqs, .reqNo,
      .cores, .lines, .merges] s (State.finishRead s id r words) := by
  unfold State.finishRead
  dsimp only
  repeat' with_reducible first
    | apply Touches.refl | refine (State.allocWords_touches ..).after ?_ | refine (State.applyMerges_touches ..).after ?_
    | refine (State.commitStreamNow_touches ..).after ?_ | refine (State.dropReq_touches ..).after ?_
    | refine (State.logError_touches ..).after ?_ | refine (State.modSlot_touches ..).after ?_
    | refine (State.setReq_touches ..).after ?_ | refine (State.settleAdvice_touches ..).after ?_
    | refine (State.strandNow_touches ..).after ?_ | split

theorem State.goOnRead_touches (s : State) (id : Nat) (r : MemReq) (words : List (BitVec 288)) :
    Touches [.free, .out, .mail, .ic, .msix, .errs, .fports, .parts, .queues, .slots, .graphs, .folios, .atc, .reqs, .reqNo,
      .cores, .lines, .merges] s (State.goOnRead s id r words) := by
  unfold State.goOnRead
  repeat' with_reducible first
    | apply Touches.refl | refine (State.finishRead_touches ..).after ?_ | refine (State.setReq_touches ..).after ?_
    | split

theorem State.answerInval_touches (s : State) (line : Nat) :
    Touches [.out, .lines] s (State.answerInval s line) := by
  unfold State.answerInval
  repeat' with_reducible first
    | apply Touches.refl | refine (State.emit_touches ..).after ?_ | apply Touches.set
  all_goals
    intro p hp
    cases p with
    | lines => exact absurd (by decide) hp
    | _ => rfl

theorem State.answerSnoop_touches (s : State) (line : Nat) :
    Touches [.out] s (State.answerSnoop s line) :=
  State.emit_touches ..

theorem State.answerWaits_touches (s : State) :
    Touches [.out, .lines, .dirWaits] s (State.answerWaits s) := by
  unfold State.answerWaits
  dsimp only
  repeat' with_reducible first
    | apply Touches.refl | refine (State.answerInval_touches ..).after ?_ | refine (State.answerSnoop_touches ..).after ?_
    | apply Touches.foldl | split | apply Touches.set | intro _
  all_goals
    intro p hp
    cases p with
    | dirWaits => exact absurd (by decide) hp
    | _ => rfl

/-! ### CommitCmds -/

theorem State.applyUses_touches (s : State) (p : Nat) (lines : List Nat) :
    Touches [.free, .out, .parts, .reqs, .reqNo, .lines] s (State.applyUses s p lines) := by
  unfold State.applyUses
  repeat' with_reducible first
    | apply Touches.refl | refine (State.dropLines_touches ..).after ?_ | refine (State.modLine_touches ..).after ?_
    | apply Touches.foldl | split | intro _

theorem State.guestWrite_touches (s : State) (k : Nat) (e : Slot) (addr : Nat) (data : Bytes) :
    Touches accessParts s (State.guestWrite s k e addr data) := by
  unfold State.guestWrite
  repeat' with_reducible first
    | apply Touches.refl | refine (State.emit_touches ..).after ?_ | refine (State.startReq_touches ..).after ?_ | split

theorem State.commitGuest_touches (s : State) (k : Nat) (e : Slot) :
    Touches accessParts s (State.commitGuest s k e) := by
  unfold State.commitGuest
  repeat' with_reducible first
    | apply Touches.refl | refine (State.guestWrite_touches ..).after ?_ | apply Touches.foldl | split | intro _

theorem State.issueReductions_touches (s : State) (k : Nat) (e : Slot) :
    Touches [.adders] s (State.issueReductions s k e) := by
  unfold State.issueReductions
  dsimp only
  repeat' with_reducible first
    | apply Touches.refl | apply Touches.set
  all_goals
    intro p hp
    cases p with
    | adders => exact absurd (by decide) hp
    | _ => rfl

theorem State.applySeq_touches (s : State) (k : Nat) (e : Slot) :
    Touches [.seqs] s (State.applySeq s k e) := by
  unfold State.applySeq
  dsimp only
  repeat' with_reducible first
    | apply Touches.refl | apply Touches.foldl | split | apply Touches.set | intro _
  all_goals
    intro p hp
    cases p with
    | seqs => exact absurd (by decide) hp
    | _ => rfl

theorem State.makeVisible_touches (s : State) (k : Nat) (e : Slot) :
    Touches [.free, .out, .ic, .errs, .fports, .parts, .ctxs, .slots, .seqs, .atc, .xlats, .reqs, .reqNo, .cores, .lines,
      .adders] s (State.makeVisible s k e) :=
  (State.applySeq_touches ..).after ((State.issueReductions_touches ..).after ((State.applyUses_touches ..).after
    ((State.commitGuest_touches ..).after (.foldl (.refl ..) fun _ _ => (State.commitStaged_touches ..).mono (by
    decide)))))

theorem State.warmFor_touches (s : State) (k : Nat) (e : Slot) (t : Nat) :
    Touches [.parts] s (State.warmFor s k e t) := by
  unfold State.warmFor
  repeat' with_reducible first
    | apply Touches.refl | refine (State.modPart_touches ..).after ?_ | split

theorem State.countTile_touches (s : State) (k : Nat) (e : Slot) :
    Touches [.parts, .ctxs, .queues, .slots] s (State.countTile s k e) :=
  (State.modCtx_touches ..).after ((State.modPart_touches ..).after ((State.modQueue_touches ..).after
    ((State.modSlot_touches ..).mono (by decide))))

theorem State.writeQuality_touches (s : State) (q seq : Nat) :
    Touches [.out, .msix, .fports, .queues, .slots] s (State.writeQuality s q seq) := by
  unfold State.writeQuality
  repeat' with_reducible first
    | apply Touches.refl | refine (State.modSlot_touches ..).after ?_ | refine (State.pushWrite_touches ..).after ?_
    | split | apply State.onSlot_touches | intro _

theorem State.failAfterCommit_touches (s : State) (k : Nat) (e : Slot) (t : Nat) :
    Touches [.slots] s (State.failAfterCommit s k e t) :=
  .ite (State.modSlot_touches ..) (.refl ..)

theorem State.publishOutputs_touches (s : State) (e : Slot) :
    Touches [.ic, .errs, .ctxs, .folios, .atc] s (State.publishOutputs s e).1 := by
  unfold State.publishOutputs
  repeat' with_reducible first
    | apply Touches.refl | refine (State.discardStagings_touches ..).after ?_ | refine (State.publish_touches ..).after ?_
    | apply Touches.foldl | split | intro _

/-! ### XlatCmds -/

theorem State.dropFault_touches (s : State) (id : Nat) :
    Touches [.faults] s (State.dropFault s id) := by
  unfold State.dropFault
  repeat' with_reducible first
    | apply Touches.refl | apply Touches.set
  all_goals
    intro p hp
    cases p with
    | faults => exact absurd (by decide) hp
    | _ => rfl

theorem State.hostOnce_touches (s : State) (id : Nat) (a : Atc) :
    Touches [.out, .reqs, .cores] s (State.hostOnce s id a) := by
  unfold State.hostOnce
  dsimp only
  repeat' with_reducible first
    | apply Touches.refl | refine (State.commitStreamNow_touches ..).after ?_ | refine (State.dropReq_touches ..).after ?_
    | refine (State.emit_touches ..).after ?_ | refine (State.setReq_touches ..).after ?_
    | refine (State.strandNow_touches ..).after ?_ | split

theorem State.serveWaiter_touches (s : State) (die pasid : Nat) (a : Atc) (id : Nat) :
    Touches [.out, .ctxs, .atc, .faults, .faultNo, .reqs, .cores] s (State.serveWaiter s die pasid a id) := by
  unfold State.serveWaiter
  repeat' with_reducible first
    | apply Touches.refl | refine (State.hostAccess_touches ..).after ?_ | refine (State.hostOnce_touches ..).after ?_
    | refine (State.recordFault_touches ..).after ?_ | split

theorem State.rebatch_touches (s : State) (k : Nat) (ids : List Nat) :
    Touches [.ctxs, .faults] s (State.rebatch s k ids) :=
  .foldl (.refl ..) fun _ _ => (State.modCtx_touches ..).after ((State.modFault_touches ..).mono (by decide))

theorem State.retryHost_touches (s : State) (id : Nat) :
    Touches [.free, .out, .fports, .parts, .ctxs, .slots, .atc, .xlats, .faults, .reqs, .reqNo, .cores, .lines] s
      (State.retryHost s id) := by
  unfold State.retryHost
  dsimp only
  repeat' with_reducible first
    | apply Touches.refl | refine (State.dropFault_touches ..).after ?_ | refine (State.modFault_touches ..).after ?_
    | refine (State.restart_touches ..).after ?_ | split

theorem State.drainHost_touches (s : State) :
    Touches [.out, .fports, .ctxs, .slots, .faults, .groupNo, .reqs] s (State.drainHost s) :=
  .foldl (.refl ..) fun _ _ => State.drainFaults_touches ..

theorem State.sendFaultVector_touches (s : State) (key : Nat) :
    Touches [.out, .msix, .fports] s (State.sendFaultVector s key) := by
  unfold State.sendFaultVector
  dsimp only
  repeat' with_reducible first
    | apply Touches.refl | refine (State.sendVector_touches ..).after ?_ | split

theorem State.retryFabric_touches (s : State) (id : Nat) :
    Touches [.free, .out, .fports, .parts, .ctxs, .slots, .atc, .xlats, .faults, .reqs, .reqNo, .cores, .lines] s
      (State.retryFabric s id) := by
  unfold State.retryFabric
  dsimp only
  repeat' with_reducible first
    | apply Touches.refl | refine (State.dropFault_touches ..).after ?_ | refine (State.restart_touches ..).after ?_
    | split

theorem State.leaveFault_touches (s : State) (id : Nat) :
    Touches [.faults] s (State.leaveFault s id) := by
  unfold State.leaveFault
  repeat' with_reducible first
    | apply Touches.refl | apply Touches.set
  all_goals
    intro p hp
    cases p with
    | faults => exact absurd (by decide) hp
    | _ => rfl

theorem State.answerReq_touches (s : State) (id : Nat) (r : MemReq) (poison : Bool) :
    Touches [.faults, .reqs, .cores] s (State.answerReq s id r poison) := by
  unfold State.answerReq
  dsimp only
  repeat' with_reducible first
    | apply Touches.refl | refine (State.commitStreamNow_touches ..).after ?_ | refine (State.dropReq_touches ..).after ?_
    | refine (State.leaveFault_touches ..).after ?_ | refine (State.setReq_touches ..).after ?_
    | refine (State.strandNow_touches ..).after ?_ | split

theorem State.holdLink_touches (s : State) (n : Nat) :
    Touches [.ic, .fports] s (State.holdLink s n) :=
  (State.icLevel_touches ..).after ((State.modFport_touches ..).mono (by decide))

theorem State.logPart_touches (s : State) (p error action : Nat) :
    Touches [.ic, .errs] s (State.logPart s p error action) :=
  State.logError_touches ..

theorem State.abortPart_touches (s : State) (p : Nat) :
    Touches [.out, .mail, .ic, .msix, .errs, .fports, .parts, .ctxs, .queues, .slots, .graphs, .folios, .atc, .reqs, .cores,
      .clusters] s (State.abortPart s p) :=
  (State.endWhere_touches ..).after ((State.logPart_touches ..).after ((State.modPart_touches ..).mono (by decide)))

/-! ### ResetOps -/

theorem State.sendAbort_touches (s : State) (p reason : Nat) :
    Touches [.out, .mail, .ic, .msix, .errs, .fports, .parts, .ctxs, .queues, .slots, .graphs, .folios, .atc, .reqs, .cores,
      .clusters] s (State.sendAbort s p reason) := by
  unfold State.sendAbort
  dsimp only
  repeat' with_reducible first
    | apply Touches.refl | refine (State.abortPart_touches ..).after ?_ | refine (State.logPart_touches ..).after ?_
    | refine (State.modPart_touches ..).after ?_ | refine (State.viaPort_touches ..).after ?_ | apply Touches.foldl
    | split | apply Touches.set | intro _
  all_goals
    intro p hp
    cases p with
    | errs => exact absurd (by decide) hp
    | _ => rfl

theorem State.tdiError_touches (s : State) (p : Nat) :
    Touches [.out, .msix, .fports, .parts, .queues] s (State.tdiError s p) := by
  unfold State.tdiError
  repeat' with_reducible first
    | apply Touches.refl | refine (State.modPart_touches ..).after ?_ | refine (State.stopPartition_touches ..).after ?_
    | split

theorem State.abandonCommands_touches (s : State) (p : Nat) (but : Option Nat) :
    Touches [.out, .mail, .fports] s (State.abandonCommands s p but) :=
  .foldl (.refl ..) fun _ _ => State.refuse_touches ..

theorem State.drainForReset_touches (s : State) (kind q : Nat) :
    Touches endParts s (State.drainForReset s kind q) :=
  .ite ((State.modQueue_touches ..).mono (by decide)) (State.drainQueue_touches ..)

theorem State.fencePart_touches (s : State) (p : Nat) (t : ResetTrigger) (record : Nat) (st : PState) (but : Option Nat) :
    Touches resetParts s (State.fencePart s p t record st but) := by
  unfold State.fencePart
  dsimp only
  repeat' with_reducible first
    | apply Touches.refl | refine (State.abandonCommands_touches ..).after ?_
    | refine (State.drainForReset_touches ..).after ?_ | refine (State.modPart_touches ..).after ?_
    | refine (State.sendAbort_touches ..).after ?_ | refine (State.tdiError_touches ..).after ?_
    | refine (State.track_touches ..).after ?_ | apply Touches.foldl | split | apply Touches.set | intro _
  all_goals
    intro p hp
    cases p with
    | cores => exact absurd (by decide) hp
    | _ => rfl

theorem State.startReset_touches (s : State) (p : Nat) (t : ResetTrigger) (record : Nat) :
    Touches resetParts s (State.startReset s p t record) :=
  .ite (State.fencePart_touches ..) (.refl ..)

theorem State.dropTranslations_touches (s : State) (p : Nat) (ctx : Option Nat) :
    Touches [.xlats, .faults, .reqs] s (State.dropTranslations s p ctx) := by
  unfold State.dropTranslations
  dsimp only
  repeat' with_reducible first
    | apply Touches.refl | apply Touches.set
  all_goals
    intro p hp
    cases p with
    | xlats | faults | reqs => exact absurd (by decide) hp
    | _ => rfl

theorem State.writeDump_touches (s : State) (p : Nat) :
    Touches [.free, .out] s (State.writeDump s p) := by
  unfold State.writeDump
  dsimp only
  repeat' with_reducible first
    | apply Touches.refl | refine (State.draw_touches ..).after ?_ | refine (State.emit_touches ..).after ?_ | split

theorem State.flushPart_touches (s : State) (p : Nat) :
    Touches [.free, .out, .parts, .reqs, .reqNo, .lines] s (State.flushPart s p) :=
  State.dropLines_touches ..

theorem State.clearCores_touches (s : State) (quads : List Nat) :
    Touches [.cores] s (State.clearCores s quads) := by
  unfold State.clearCores
  repeat' with_reducible first
    | apply Touches.refl | apply Touches.set
  all_goals
    intro p hp
    cases p with
    | cores => exact absurd (by decide) hp
    | _ => rfl

theorem State.clearPart_touches (s : State) (p : Nat) :
    Touches [.parts, .atc, .cores] s (State.clearPart s p) := by
  unfold State.clearPart
  dsimp only
  repeat' with_reducible first
    | apply Touches.refl | refine (State.atcDrop_touches ..).after ?_ | refine (State.clearCores_touches ..).after ?_
    | refine (State.modPart_touches ..).after ?_

theorem State.dropWindows_touches (s : State) (t : Nat → InWindow → Bool) :
    Touches [.errs, .folios, .atc, .inbound] s (State.dropWindows s t) := by
  unfold State.dropWindows
  dsimp only
  repeat' with_reducible first
    | apply Touches.refl | refine (State.modFolio_touches ..).after ?_ | refine (State.sweepFolio_touches ..).after ?_
    | apply Touches.foldl | apply Touches.set | intro _
  all_goals
    intro p hp
    cases p with
    | inbound => exact absurd (by decide) hp
    | _ => rfl

theorem State.deleteContext_touches (s : State) (k : Nat) :
    Touches [.out, .errs, .ctxs, .seqs, .folios, .atc, .xlats, .faults, .inbound, .reqs, .cores] s (State.deleteContext s k) := by
  unfold State.deleteContext
  dsimp only
  repeat' with_reducible first
    | apply Touches.refl | refine (State.atcDrop_touches ..).after ?_ | refine (State.closeHolds_touches ..).after ?_
    | refine (State.dropTranslations_touches ..).after ?_ | refine (State.dropWindows_touches ..).after ?_
    | refine (State.emit_touches ..).after ?_ | split | apply Touches.set
  all_goals
    intro p hp
    cases p with
    | ctxs | seqs => exact absurd (by decide) hp
    | _ => rfl

theorem State.dismantle_touches (s : State) (p : Nat) :
    Touches [.out, .mail, .msix, .errs, .fports, .parts, .ctxs, .queues, .slots, .graphs, .seqs, .extents, .folios, .atc,
      .xlats, .faults, .inbound, .reqs, .cores, .clusters] s (State.dismantle s p) := by
  unfold State.dismantle
  dsimp only
  repeat' with_reducible first
    | apply Touches.refl | refine (State.askRevoke_touches ..).after ?_ | refine (State.deleteContext_touches ..).after ?_
    | refine (State.dropWindows_touches ..).after ?_ | refine (State.modPart_touches ..).after ?_ | apply Touches.foldl
    | intro _

theorem State.startDestroy_touches (s : State) (p : Nat) (ch : Option Nat) :
    Touches resetParts s (State.startDestroy s p ch) :=
  .ite ((State.fencePart_touches ..).after (.foldl (.refl ..) fun _ _ => (State.modPart_touches ..).after
    ((State.park_touches ..).mono (by decide)))) (.foldl (.refl ..) fun _ _ => (State.modPart_touches ..).after
    ((State.park_touches ..).mono (by decide)))

theorem State.resetReply_touches (s : State) (p ch : Nat) :
    Touches resetParts s (State.resetReply s p ch) := by
  unfold State.resetReply
  dsimp only
  repeat' with_reducible first
    | apply Touches.refl | refine (State.accept_touches ..).after ?_ | refine (State.fencePart_touches ..).after ?_
    | split

theorem State.endReset_touches (s : State) (p : Nat) :
    Touches resetParts s (State.endReset s p) :=
  .foldl ((State.modPart_touches ..).after (.foldl (.ite ((State.resumePartition_touches ..).after
    ((State.modPart_touches ..).after ((State.clearPart_touches ..).mono (by decide)))) ((State.clearPart_touches
    ..).mono (by decide))) fun _ _ => (State.acceptAll_touches ..).after ((State.newEpoch_touches ..).mono (by decide))))
    fun _ _ => State.resetReply_touches ..

theorem State.endClearing_touches (s : State) (p : Nat) :
    Touches [.free, .out, .parts, .reqs, .reqNo, .cores, .lines] s (State.endClearing s p) := by
  unfold State.endClearing
  dsimp only
  repeat' with_reducible first
    | apply Touches.refl | refine (State.clearCores_touches ..).after ?_ | refine (State.dropLines_touches ..).after ?_
    | refine (State.modPart_touches ..).after ?_

theorem State.endDestroy_touches (s : State) (p : Nat) :
    Touches [.out, .sec, .mail, .fports, .parts, .atc, .cores] s (State.endDestroy s p) := by
  unfold State.endDestroy
  dsimp only
  repeat' with_reducible first
    | apply Touches.refl | refine (State.acceptAll_touches ..).after ?_ | refine (State.clearPart_touches ..).after ?_
    | refine (State.zeroise_touches ..).after ?_ | apply Touches.set
  all_goals
    intro p hp
    cases p with
    | parts => exact absurd (by decide) hp
    | _ => rfl

theorem State.becomeFatal_touches (s : State) :
    Touches resetParts s (State.becomeFatal s) := by
  unfold State.becomeFatal
  dsimp only
  repeat' with_reducible first
    | apply Touches.refl | refine (State.emit_touches ..).after ?_ | refine (State.endWhere_touches ..).after ?_
    | refine (State.sendAbort_touches ..).after ?_ | refine (State.track_touches ..).after ?_ | apply Touches.foldl
    | split | apply Touches.set | intro _
  all_goals
    intro p hp
    cases p with
    | errs => exact absurd (by decide) hp
    | _ => rfl

/-! ### AlarmCmds -/

theorem State.whenOn_touches {ps : List Part} {r s : State} {f : State → State} (h : Touches ps r s)
    (hf : ∀ s, Touches ps s (f s)) : Touches ps r (s.whenOn f) := .ite (h.trans (hf s)) h

theorem State.glitch_touches (s : State) :
    Touches [.pins] s (State.glitch s) := by
  unfold State.glitch
  repeat' with_reducible first
    | apply Touches.refl | apply Touches.set
  all_goals
    intro p hp
    cases p with
    | pins => exact absurd (by decide) hp
    | _ => rfl

theorem State.strike_touches (s : State) (p : Nat) (t : ResetTrigger) :
    Touches [.out, .sec, .mail, .ic, .msix, .errs, .fports, .commons, .parts, .ctxs, .queues, .slots, .graphs, .extents,
      .folios, .atc, .reqs, .cores, .clusters] s (State.strike s p t) :=
  .foldl ((State.startReset_touches ..).after ((State.modPart_touches ..).after ((State.zeroise_touches ..).mono (by
    decide)))) fun _ _ => (State.askRevoke_touches ..).mono (by decide)

/-! ### TimeCmds -/

theorem State.toHoldover_touches (s : State) :
    Touches [.time, .ic] s (State.toHoldover s) := by
  unfold State.toHoldover
  dsimp only
  repeat' with_reducible first
    | apply Touches.refl | refine (State.icFire_touches ..).after ?_ | apply Touches.set
  all_goals
    intro p hp
    cases p with
    | time => exact absurd (by decide) hp
    | _ => rfl

theorem State.loseStrobe_touches (s : State) :
    Touches [.time, .ic] s (State.loseStrobe s) := by
  unfold State.loseStrobe
  dsimp only
  repeat' with_reducible first
    | apply Touches.refl | refine (State.toHoldover_touches ..).after ?_ | split | apply Touches.set
  all_goals
    intro p hp
    cases p with
    | time => exact absurd (by decide) hp
    | _ => rfl

theorem State.rejectStrobe_touches (s : State) :
    Touches [.time] s (State.rejectStrobe s) := by
  unfold State.rejectStrobe
  repeat' with_reducible first
    | apply Touches.refl | apply Touches.set
  all_goals
    intro p hp
    cases p with
    | time => exact absurd (by decide) hp
    | _ => rfl

theorem State.detectStep_touches (s : State) (e : Int) :
    Touches [.time, .ic, .parts, .queues] s (State.detectStep s e) := by
  unfold State.detectStep
  dsimp only
  repeat' with_reducible first
    | apply Touches.refl | refine (State.icFire_touches ..).after ?_ | split | apply Touches.set
  all_goals
    intro p hp
    cases p with
    | time | parts | queues => exact absurd (by decide) hp
    | _ => rfl

theorem State.lockTime_touches (s : State) (v : Nat) :
    Touches [.out, .boot, .time, .bg, .accrued] s (State.lockTime s v) := by
  unfold State.lockTime
  dsimp only
  repeat' with_reducible first
    | apply Touches.refl | refine (State.becomeReady_touches ..).after ?_ | split | apply Touches.set
  all_goals
    intro p hp
    cases p with
    | time | bg | accrued => exact absurd (by decide) hp
    | _ => rfl

theorem State.acceptStrobe_touches (s : State) (v : Nat) :
    Touches [.out, .boot, .time, .ic, .bg, .parts, .queues, .accrued] s (State.acceptStrobe s v) := by
  unfold State.acceptStrobe
  dsimp only
  repeat' with_reducible first
    | apply Touches.refl | refine (State.detectStep_touches ..).after ?_ | refine (State.lockTime_touches ..).after ?_
    | split | apply Touches.set
  all_goals
    intro p hp
    cases p with
    | time => exact absurd (by decide) hp
    | _ => rfl

theorem State.expireStrobe_touches (s : State) :
    Touches [.time, .ic] s (State.expireStrobe s) := by
  unfold State.expireStrobe
  repeat' with_reducible first
    | apply Touches.refl | refine (State.loseStrobe_touches ..).after ?_ | apply Touches.set
  all_goals
    intro p hp
    cases p with
    | time => exact absurd (by decide) hp
    | _ => rfl

theorem State.frameLayout_touches (s : State) (p : Nat) :
    Touches [.parts] s (State.frameLayout s p) := by
  unfold State.frameLayout
  repeat' with_reducible first
    | apply Touches.refl | refine (State.modPart_touches ..).after ?_ | split

theorem State.frameEffects_touches (s : State) (f : Nat) :
    Touches [.out, .power, .commons, .parts, .ctxs, .slots, .reqs, .clusters] s (State.frameEffects s f) := by
  unfold State.frameEffects
  dsimp only
  repeat' with_reducible first
    | apply Touches.refl | refine (State.frameLayout_touches ..).after ?_ | refine (State.pumpPort_touches ..).after ?_
    | refine (State.track_touches ..).after ?_ | apply Touches.foldl | apply Touches.set | intro _
  all_goals
    intro p hp
    cases p with
    | power | parts | ctxs => exact absurd (by decide) hp
    | _ => rfl

theorem State.anchor_touches (s : State) :
    Touches [.out, .time, .mail, .ic, .power, .bg, .commons, .parts, .ctxs, .slots, .reqs, .clusters, .accrued] s
      (State.anchor s) := by
  unfold State.anchor
  dsimp only
  repeat' with_reducible first
    | apply Touches.refl | refine (State.frameEffects_touches ..).after ?_ | refine (State.toHoldover_touches ..).after ?_
    | split | apply Touches.set
  all_goals
    intro p hp
    cases p with
    | time | mail | bg | parts | slots | accrued => exact absurd (by decide) hp
    | _ => rfl

theorem State.chargeWaits_touches (s : State) :
    Touches [.ctxs, .slots] s (State.chargeWaits s) := by
  unfold State.chargeWaits
  repeat' with_reducible first
    | apply Touches.refl | refine (State.account_touches ..).after ?_ | refine (State.modSlot_touches ..).after ?_
    | apply Touches.foldl | split | intro _

theorem State.scrubNear_touches (s : State) :
    Touches [.out, .bg] s (State.scrubNear s) := by
  unfold State.scrubNear
  dsimp only
  repeat' with_reducible first
    | apply Touches.refl | refine (State.emit_touches ..).after ?_ | apply Touches.foldl | split | apply Touches.set
    | intro _
  all_goals
    intro p hp
    cases p with
    | bg => exact absurd (by decide) hp
    | _ => rfl

theorem State.scrubSram_touches (s : State) :
    Touches [.bg] s (State.scrubSram s) := by
  unfold State.scrubSram
  dsimp only
  repeat' with_reducible first
    | apply Touches.refl | split | apply Touches.set
  all_goals
    intro p hp
    cases p with
    | bg => exact absurd (by decide) hp
    | _ => rfl

theorem State.calibrate_touches (s : State) :
    Touches [.bg] s (State.calibrate s) := by
  unfold State.calibrate
  dsimp only
  repeat' with_reducible first
    | apply Touches.refl | split | apply Touches.set
  all_goals
    intro p hp
    cases p with
    | bg => exact absurd (by decide) hp
    | _ => rfl

theorem State.ageing_touches (s : State) (k : Nat) (low : Bool) :
    Touches [.out, .cores] s (State.ageing s k low) :=
  .ite (.refl ..) (.ite ((State.modCore_touches ..).mono (by decide)) (.ite (.refl ..) ((State.emit_touches ..).after
    ((State.modCore_touches ..).mono (by decide)))))

theorem State.scrubBad_touches (s : State) :
    Touches [.bg] s (State.scrubBad s) := by
  unfold State.scrubBad
  repeat' with_reducible first
    | apply Touches.refl | apply Touches.set
  all_goals
    intro p hp
    cases p with
    | bg => exact absurd (by decide) hp
    | _ => rfl

theorem State.scrubMirror_touches (s : State) (c addr i page : Nat) :
    Touches [.free, .reqs, .reqNo] s (State.scrubMirror s c addr i page) :=
  (State.addReq_touches ..).after ((State.draw_touches ..).mono (by decide))

/-! ### ErrorCmds -/

theorem State.quarantine_touches (s : State) (c : Nat) :
    Touches [.free, .out, .commons, .parts, .ctxs, .slots, .reqs, .reqNo, .cores, .clusters, .lines] s (State.quarantine s c) := by
  unfold State.quarantine
  dsimp only
  repeat' with_reducible first
    | apply Touches.refl | refine (State.dropLines_touches ..).after ?_ | refine (State.modCluster_touches ..).after ?_
    | refine (State.settleLaunch_touches ..).after ?_ | refine (State.track_touches ..).after ?_ | apply Touches.foldl
    | split | apply Touches.set | intro _
  all_goals
    intro p hp
    cases p with
    | parts | slots | cores => exact absurd (by decide) hp
    | _ => rfl

theorem State.logEscalated_touches (s : State) (i : Nat) (r : ErrRecord) :
    Touches [.ic, .errs] s (State.logEscalated s i r).1 := by
  unfold State.logEscalated
  dsimp only
  repeat' with_reducible first
    | apply Touches.refl | refine (State.logError_touches ..).after ?_ | apply Touches.set
  all_goals
    intro p hp
    cases p with
    | errs => exact absurd (by decide) hp
    | _ => rfl

theorem State.escalateToPart_touches (s : State) (p : Nat) :
    Touches resetParts s (State.escalateToPart s p) :=
  (State.startReset_touches ..).after ((State.logEscalated_touches ..).mono (by decide))

theorem State.escalate_touches (s : State) (d : Domain) :
    Touches escalationParts s (State.escalate s d) := by
  unfold State.escalate
  dsimp only
  repeat' with_reducible first
    | apply Touches.refl | refine (State.becomeFatal_touches ..).after ?_
    | refine (State.escalateToPart_touches ..).after ?_ | refine (State.logEscalated_touches ..).after ?_
    | refine (State.quarantine_touches ..).after ?_ | apply Touches.foldl | split | intro _

theorem State.clusterError_touches (s : State) (c : Nat) (syn : BitVec 32) :
    Touches escalationParts s (State.clusterError s c syn) :=
  .ite ((State.escalate_touches ..).after ((State.logError_touches ..).mono (by decide))) (.ite ((State.logError_touches
    ..).mono (by decide)) ((State.quarantine_touches ..).after ((State.logError_touches ..).mono (by decide))))

theorem State.queueError_touches (s : State) (q : Nat) (syn : BitVec 32) :
    Touches escalationParts s (State.queueError s q syn) := by
  unfold State.queueError
  dsimp only
  repeat' with_reducible first
    | apply Touches.refl | refine (State.escalate_touches ..).after ?_ | refine (State.logError_touches ..).after ?_
    | split | apply Touches.set
  all_goals
    intro p hp
    cases p with
    | errs => exact absurd (by decide) hp
    | _ => rfl

theorem State.partError_touches (s : State) (p : Nat) (syn : BitVec 32) :
    Touches escalationParts s (State.partError s p syn) :=
  .ite (.refl ..) (.ite ((State.escalate_touches ..).after ((State.logError_touches ..).mono (by decide)))
    ((State.startReset_touches ..).after ((State.logError_touches ..).mono (by decide))))

theorem State.dieError_touches (s : State) (d : Nat) (syn : BitVec 32) :
    Touches escalationParts s (State.dieError s d syn) :=
  .ite ((State.escalate_touches ..).after ((State.logError_touches ..).mono (by decide))) ((State.becomeFatal_touches
    ..).after ((State.logError_touches ..).mono (by decide)))

theorem State.failTile_touches (s : State) (k error cause : Nat) (syn : BitVec 32) :
    Touches [.ic, .errs, .commons, .ctxs, .slots, .cores, .clusters] s (State.failTile s k error cause syn) :=
  (State.track_touches ..).after ((State.modCore_touches ..).after ((State.modSlot_touches ..).after
    ((State.logError_touches ..).mono (by decide))))

theorem State.tileStateError_touches (s : State) (k : Nat) (syn : BitVec 32) :
    Touches [.ic, .errs, .commons, .ctxs, .slots, .cores, .clusters] s (State.tileStateError s k syn) :=
  .ite ((State.logError_touches ..).mono (by decide)) (.ite (State.failTile_touches ..) ((State.track_touches ..).after
    ((State.modCore_touches ..).after ((State.logError_touches ..).mono (by decide)))))

theorem State.lineError_touches (s : State) (c line half : Nat) (dirty : Bool) (syn : BitVec 32) :
    Touches [.free, .out, .ic, .errs, .parts, .reqs, .reqNo, .lines] s (State.lineError s c line half dirty syn) := by
  unfold State.lineError
  dsimp only
  repeat' with_reducible first
    | apply Touches.refl | refine (State.dropLines_touches ..).after ?_ | refine (State.logError_touches ..).after ?_
    | refine (State.modLine_touches ..).after ?_ | split

theorem State.tierError_touches (s : State) (c addr : Nat) (syn : BitVec 32) :
    Touches [.free, .out, .ic, .errs, .parts, .folios, .reqs, .reqNo] s (State.tierError s c addr syn) := by
  unfold State.tierError
  dsimp only
  repeat' with_reducible first
    | apply Touches.refl | refine (State.draw_touches ..).after ?_ | refine (State.scrubMirror_touches ..).after ?_
    | refine (State.storePoison_touches ..).after ?_ | split

/-! ### MailFormat -/

theorem State.serveCmd_touches {ps : List Part} {r s : State} {ch op : Nat} {f : Message → State → State} (h : Touches ps r s)
    (hf : ∀ m s, Touches ps s (f m s)) (hp : [.out, .mail, .fports] ⊆ ps := by decide) : Touches ps r (s.serveCmd ch op f) := by
  unfold State.serveCmd
  dsimp only
  repeat' split
  · exact h
  · exact h.followedBy (State.refuse_touches ..) hp
  · exact h.trans (hf ..)
  · exact h
  · exact h

theorem State.serveChecked_touches {ps : List Part} {r s : State} {ch op : Nat} {cs : Message → List Check}
    {f : Message → State → State} (h : Touches ps r s) (hf : ∀ m s, Touches ps s (f m s))
    (hp : [.out, .mail, .fports] ⊆ ps := by decide) : Touches ps r (s.serveChecked ch op cs f) := by
  refine State.serveCmd_touches h (fun m s => ?_) hp
  split
  · exact (Touches.refl ps s).followedBy (State.refuseAttr_touches ..) hp
  · exact hf ..

/-! ### ExtentCmds -/

theorem State.onCheck_touches {ps : List Part} {r s : State} {ch : Nat} {f : Message → Nat → State → State} (h : Touches ps r
  s)
    (hf : ∀ m t s, Touches ps s (f m t s)) (hp : [.mail] ⊆ ps := by decide) : Touches ps r (s.onCheck ch f) := by
  unfold State.onCheck
  dsimp only
  split
  · exact (h.followedBy (State.modChan_touches ..) hp).trans (hf ..)
  · exact h

/-! ### PowerCmds -/

theorem State.hardCapLevel_touches (s : State) (b : Bool) (held : Nat) :
    Touches [.pins, .ic, .power] s (State.hardCapLevel s b held) := by
  unfold State.hardCapLevel
  dsimp only
  repeat' with_reducible first
    | apply Touches.refl | refine (State.glitch_touches ..).after ?_ | refine (State.icLevel_touches ..).after ?_ | split
    | apply Touches.set
  all_goals
    intro p hp
    cases p with
    | pins | power => exact absurd (by decide) hp
    | _ => rfl

theorem State.readSensor_touches (s : State) (r : ThermalReading) :
    Touches [.power, .clusters] s (State.readSensor s r) := by
  unfold State.readSensor
  repeat' with_reducible first
    | apply Touches.refl | refine (State.modCluster_touches ..).after ?_ | split | apply Touches.set
  all_goals
    intro p hp
    cases p with
    | power => exact absurd (by decide) hp
    | _ => rfl

/-! ### BootCmds -/

theorem State.inStage_touches {ps : List Part} {r s : State} {st : Stage} {f : State → State} (h : Touches ps r s)
    (hf : ∀ s, Touches ps s (f s)) : Touches ps r (s.inStage st f) :=
  State.whenLive_touches h fun s => State.when_touches (.refl ps s) hf

theorem State.deriveBootKeys_touches (s : State) :
    Touches [.free, .sec] s (State.deriveBootKeys s) := by
  unfold State.deriveBootKeys
  dsimp only
  repeat' with_reducible first
    | apply Touches.refl | split | apply Touches.set
  all_goals
    intro p hp
    cases p with
    | free | sec => exact absurd (by decide) hp
    | _ => rfl

theorem State.readBoot_touches (s : State) :
    Touches [.out, .boot] s (State.readBoot s) := by
  unfold State.readBoot
  repeat' with_reducible first
    | apply Touches.refl | refine (State.emit_touches ..).after ?_ | apply Touches.set
  all_goals
    intro p hp
    cases p with
    | boot => exact absurd (by decide) hp
    | _ => rfl

theorem State.refuseImage_touches (s : State) :
    Touches [.out, .boot] s (State.refuseImage s) := by
  unfold State.refuseImage
  repeat' with_reducible first
    | apply Touches.refl | refine (State.emit_touches ..).after ?_ | refine (State.failBoot_touches ..).after ?_
    | apply Touches.set
  all_goals
    intro p hp
    cases p with
    | boot => exact absurd (by decide) hp
    | _ => rfl

theorem State.takeImage_touches (s : State) (b : Bytes) :
    Touches [.boot, .sec] s (State.takeImage s b) := by
  unfold State.takeImage
  dsimp only
  repeat' with_reducible first
    | apply Touches.refl | apply Touches.set
  all_goals
    intro p hp
    cases p with
    | boot | sec => exact absurd (by decide) hp
    | _ => rfl

theorem State.loadBins_touches (s : State) (ageing : List (Nat × Nat)) :
    Touches [.cores] s (State.loadBins s ageing) :=
  .foldl (.refl ..) fun _ _ => State.modCore_touches ..

theorem State.enterTime_touches (s : State) :
    Touches [.out, .boot, .time] s (State.enterTime s) := by
  unfold State.enterTime
  repeat' with_reducible first
    | apply Touches.refl | refine (State.enterStage_touches ..).after ?_ | apply Touches.set
  all_goals
    intro p hp
    cases p with
    | boot | time => exact absurd (by decide) hp
    | _ => rfl

/-! ### IcCmds -/

theorem ackEffect_touches (s : State) (k : Nat) : Touches [.free, .out, .ic] s (ackEffect s k) := by
  cases hl : s.ic.lingers k s.time.now with
  | none =>
    rw [ackEffect_of_lingers_none hl]
    refine ⟨(ackAnswer_forget_frame s k _).mono (by simp), fun hn => ackAnswer_nested (hn.forget k) fun n p h => ?_⟩
    exact (running_forget s.ic k).symm ▸ Ic.candidate_lt_running h
  | some e =>
    obtain ⟨r, hr, heq⟩ := ackEffect_of_lingers_some hl
    rw [heq]
    refine ⟨(ackAnswer_draw_frame s k r).mono (by simp), fun hn => ackAnswer_nested (hn.forget k) fun n p h => ?_⟩
    refine (running_forget s.ic k).symm ▸ ?_
    subst h
    rcases hr with hr | hr
    · exact Ic.lt_running_of_lingers (hl.trans hr.symm)
    · exact Ic.candidate_lt_running hr.symm

theorem State.flushMsix_touches (s : State) :
    Touches [.out, .msix] s (State.flushMsix s) := by
  unfold State.flushMsix
  dsimp only
  repeat' with_reducible first
    | apply Touches.refl | refine (State.emit_touches ..).after ?_ | apply Touches.foldl | apply Touches.set | intro _
  all_goals
    intro p hp
    cases p with
    | msix => exact absurd (by decide) hp
    | _ => rfl

/-! ### MailCmds -/

theorem State.settleMail_touches (s : State) :
    Touches [.mail, .ic] s (State.settleMail s) := by
  unfold State.settleMail
  dsimp only
  repeat' with_reducible first
    | apply Touches.refl | refine (State.icLevel_touches ..).after ?_ | apply Touches.set
  all_goals
    intro p hp
    cases p with
    | mail => exact absurd (by decide) hp
    | _ => rfl

theorem State.onChannel_touches {ps : List Part} {r s : State} {x : Requester} {ch reg : Nat} {f : State → State}
    (h : Touches ps r s) (hf : ∀ s, Touches ps s (f s)) (hp : [.out, .bad] ⊆ ps := by decide) :
    Touches ps r (s.onChannel x ch reg f) := by
  have hbad : ∀ s k n, Touches ps s (s.badAccess k n) := fun s _ _ =>
    (Touches.refl ps s).followedBy (State.badAccess_touches ..) fun _ hx => hp (by simp_all)
  have hout : [.out] ⊆ ps := fun _ hx => hp (by simp_all)
  refine State.access_touches h (fun s => ?_) hout
  split
  · exact hbad ..
  · exact .ite (hbad ..) (.ite (hf s) ((Touches.refl ps s).followedBy (State.emit_touches ..) hout))

theorem State.readMessage_touches (s : State) (ch : Nat) :
    Touches [.out, .fports] s (State.readMessage s ch) :=
  State.viaPath_touches ..

theorem State.answerBusy_touches (s : State) (ch retry : Nat) (d : ReadData) :
    Touches [.out, .mail, .fports] s (State.answerBusy s ch retry d) := by
  unfold State.answerBusy
  dsimp only
  repeat' with_reducible first
    | apply Touches.refl | refine (State.modChan_touches ..).after ?_ | refine (State.replyWith_touches ..).after ?_
    | split

theorem State.takeMessage_touches (s : State) (ch : Nat) (b : Bytes) :
    Touches [.out, .mail, .fports] s (State.takeMessage s ch b) := by
  unfold State.takeMessage
  dsimp only
  repeat' with_reducible first
    | apply Touches.refl | refine (State.modChan_touches ..).after ?_ | refine (State.refuse_touches ..).after ?_
    | refine (State.refuseAttr_touches ..).after ?_ | split

theorem State.notify_touches (s : State) (c : Channel) :
    Touches [.out, .msix, .fports] s (State.notify s c) := by
  unfold State.notify
  repeat' with_reducible first
    | apply Touches.refl | refine (State.sendVector_touches ..).after ?_ | split

/-! ### Registers -/

theorem State.turnAway_touches (s : State) (r : Requester) (write : Bool) (kind off : Nat) :
    Touches [.out, .bad] s (State.turnAway s r write kind off) :=
  .ite ((State.badAccess_touches ..).mono (by decide)) (State.badRead_touches ..)

theorem State.writeSc_touches (s : State) (off size : Nat) (v : BitVec 64) (a : Place) :
    Touches [.time, .lanes, .parts, .queues] s (State.writeSc s off size v a) := by
  unfold State.writeSc
  dsimp only
  repeat' with_reducible first
    | apply Touches.refl | refine (State.modLane_touches ..).after ?_ | refine (State.modPart_touches ..).after ?_
    | refine (State.modQueue_touches ..).after ?_ | split | apply Touches.set
  all_goals
    intro p hp
    cases p with
    | time => exact absurd (by decide) hp
    | _ => rfl

theorem State.scWrite_touches (s : State) (r : Requester) (off size : Nat) (v : BitVec 64) :
    Touches [.out, .time, .bad, .lanes, .parts, .queues] s (State.scWrite s r off size v) :=
  State.access_touches (.refl ..) fun _ => .ite ((State.emit_touches ..).mono (by decide)) (.ite
    ((State.badAccess_touches ..).mono (by decide)) ((State.writeSc_touches ..).mono (by decide)))

theorem State.writeBar2_touches (s : State) (off size : Nat) (v : BitVec 64) :
    Touches [.out, .msix] s (State.writeBar2 s off size v) := by
  unfold State.writeBar2
  dsimp only
  repeat' with_reducible first
    | apply Touches.refl | refine (State.flushMsix_touches ..).after ?_ | split | apply Touches.set
  all_goals
    intro p hp
    cases p with
    | msix => exact absurd (by decide) hp
    | _ => rfl

theorem State.writeConfig_touches (s : State) (off : Nat) (v : BitVec 64) :
    Touches [.out, .msix, .pri, .pageAlloc] s (State.writeConfig s off v) := by
  unfold State.writeConfig
  repeat' with_reducible first
    | apply Touches.refl | refine (State.flushMsix_touches ..).after ?_ | split | apply Touches.set
  all_goals
    intro p hp
    cases p with
    | msix | pri | pageAlloc => exact absurd (by decide) hp
    | _ => rfl

theorem State.writeBobbin_touches (s : State) (off size : Nat) (v : BitVec 64) :
    Touches [.ic, .errs] s (s.writeBobbin off size v) := by
  unfold State.writeBobbin
  dsimp only
  split
  · exact .refl ..
  split
  · exact State.when_touches (.refl ..) fun s => .setIc (.refl ..) fun h => h.writeSrc ..
  split
  · exact .setIc (.refl ..) fun h => h.writePrimask ..
  split
  · exact .setIc (.refl ..) id
  split
  · exact (Touches.of_frame (errs_frame s _)).mono (by decide)
  · exact .refl ..

/-! ### BridgeCmds -/

theorem State.onBridge_touches {ps : List Part} {r s : State} {f : State → State} (h : Touches ps r s)
    (hf : ∀ s, Touches ps s (f s)) : Touches ps r (s.onBridge f) :=
  State.whenLive_touches h fun s => State.when_touches (.refl ps s) hf

theorem State.writeBridgeCtl_touches (s : State) (r : Requester) (v : BitVec 64) :
    Touches [.out, .bad, .bridge] s (State.writeBridgeCtl s r v) := by
  unfold State.writeBridgeCtl
  dsimp only
  repeat' with_reducible first
    | apply Touches.refl | refine (State.badAccess_touches ..).after ?_ | split | refine State.access_touches ?_ ?_
    | apply Touches.set | intro _
  all_goals
    intro p hp
    cases p with
    | bridge => exact absurd (by decide) hp
    | _ => rfl

/-! ### Class1Cmds -/

theorem State.drainErrors_touches (s : State) :
    Touches [.ic, .errs] s (State.drainErrors s) := by
  unfold State.drainErrors
  dsimp only
  repeat' with_reducible first
    | apply Touches.refl | refine (State.icLevel_touches ..).after ?_ | apply Touches.foldl | apply Touches.set | intro _
  all_goals
    intro p hp
    cases p with
    | errs => exact absurd (by decide) hp
    | _ => rfl

theorem State.endRepair_touches (s : State) (i : Nat) (done : List (Nat × Nat)) :
    Touches [.errs, .folios] s (State.endRepair s i done) := by
  unfold State.endRepair
  dsimp only
  repeat' with_reducible first
    | apply Touches.refl | refine (State.modFolio_touches ..).after ?_ | apply Touches.set
  all_goals
    intro p hp
    cases p with
    | errs => exact absurd (by decide) hp
    | _ => rfl

/-! ### Class2Cmds -/

theorem State.setSession_touches (s : State) (n : Nat) (x : Session) :
    Touches [.sec] s (State.setSession s n x) := by
  unfold State.setSession
  repeat' with_reducible first
    | apply Touches.refl | apply Touches.set
  all_goals
    intro p hp
    cases p with
    | sec => exact absurd (by decide) hp
    | _ => rfl

/-! ### RegisterCmds -/

theorem State.withImage_touches {ps : List Part} {r s : State} {ch : Nat} {image : Bytes} {clean : Bool}
    {f : GraphImage → State → State} (h : Touches ps r s) (hf : ∀ g s, Touches ps s (f g s))
    (hp : [.out, .mail, .fports] ⊆ ps := by decide) : Touches ps r (s.withImage ch image clean f) := by
  unfold State.withImage
  split
  · exact h.trans (hf ..)
  · exact h.followedBy (State.replyWith_touches ..) hp

theorem State.dropReaders_touches (s : State) (i : Nat) (gone : BitVec 64) :
    Touches [.errs, .ctxs, .folios, .atc, .inbound] s (State.dropReaders s i gone) :=
  .foldl ((State.dropWindows_touches ..).mono (by decide)) fun _ _ => (State.closeHolds_touches ..).mono (by decide)

theorem State.dropPublishers_touches (s : State) (i : Nat) (gone : BitVec 64) :
    Touches [.errs, .ctxs, .folios, .atc] s (State.dropPublishers s i gone) :=
  .foldl (.refl ..) fun _ _ => State.closeHolds_touches ..

/-! ### ResetCmds -/

theorem State.revokeSeqs_touches (s : State) (x : Extent) :
    Touches [.seqs] s (State.revokeSeqs s x) := by
  unfold State.revokeSeqs
  repeat' with_reducible first
    | apply Touches.refl | apply Touches.set
  all_goals
    intro p hp
    cases p with
    | seqs => exact absurd (by decide) hp
    | _ => rfl

/-! ### SpdmCmds -/

theorem State.respond_touches (s : State) (n : Nat) (name : String) (content : Bytes) :
    Touches [.out] s (State.respond s n name content) :=
  State.emit_touches ..

theorem State.respondFree_touches (s : State) (n : Nat) (name : String) :
    Touches [.free, .out] s (State.respondFree s n name) :=
  (State.respond_touches ..).after ((State.draw_touches ..).mono (by decide))

theorem State.spdmError_touches (s : State) (n : Nat) :
    Touches [.out] s (State.spdmError s n) :=
  State.respond_touches ..

theorem State.onDoe_touches {ps : List Part} {r s : State} {f : State → State} (h : Touches ps r s)
    (hf : ∀ s, Touches ps s (f s)) : Touches ps r (s.onDoe f) :=
  State.whenLive_touches h fun s => State.when_touches (.refl ps s) hf

theorem State.inOrderOf_touches {ps : List Part} {r s : State} {n : Nat} {ok : Session → Bool} {f : Session → State → State}
    (h : Touches ps r s) (hf : ∀ x s, Touches ps s (f x s)) (hp : [.out] ⊆ ps := by decide) :
    Touches ps r (s.inOrderOf n ok f) :=
  State.onDoe_touches h fun s => .ite (hf _ s) ((Touches.refl ps s).followedBy (State.spdmError_touches ..) hp)

theorem State.loseSession_touches (s : State) (n : Nat) :
    Touches [.out, .sec, .msix, .fports, .parts, .queues] s (State.loseSession s n) := by
  unfold State.loseSession
  dsimp only
  repeat' with_reducible first
    | apply Touches.refl | refine (State.tdiError_touches ..).after ?_ | apply Touches.foldl | apply Touches.set | intro _
  all_goals
    intro p hp
    cases p with
    | sec => exact absurd (by decide) hp
    | _ => rfl

theorem State.onTdi_touches {ps : List Part} {r s : State} {n p : Nat} {f : State → State} (h : Touches ps r s)
    (hf : ∀ s, Touches ps s (f s)) (hp : [.out, .sec] ⊆ ps := by decide) : Touches ps r (s.onTdi n p f) :=
  State.inOrderOf_touches h
    (fun _ s => ((Touches.refl ps s).followedBy (State.setSession_touches ..) fun _ hx => hp (by simp_all)).trans (hf _))
    fun _ hx => hp (by simp_all)

theorem State.tdispError_touches (s : State) (n : Nat) :
    Touches [.out] s (State.tdispError s n) :=
  State.respond_touches ..

end Sys2Proof.Machine
end

section
/-!
What each command touches (tier 3): the parts of the state that it may change, whatever its operands; and that the interrupts
under way stay nested.
-/
namespace Sys2Proof.Machine

open Sys2Proof

-- The laws' default arguments are evaluated one after the other: elaborated in parallel, they would wait for each other.
set_option Elab.async false

theorem Answers.nested {ps : List Part} {s : State} {o : Host.Outcome State Fault Refusal} (h : Answers (Touches ps s) o) :
    Answers (fun t => s.ic.StacksNested → t.ic.StacksNested) o := h.mono fun _ => Touches.nested

/-- R362: sleep retains the live stacks. -/
theorem Ic.StacksNested.sleep {c : Ic} (h : c.StacksNested) : c.sleep.StacksNested := by
  unfold Ic.sleep
  split
  · exact h
  · exact ⟨h.1, h.1⟩

/-- R362: a wake brings the retained stacks back. -/
theorem Ic.StacksNested.wakeUp {c : Ic} (h : c.StacksNested) : c.wakeUp.StacksNested := ⟨h.2, h.2⟩

/-! ### QueueCmds -/

theorem execScQdb_touches (r : Requester) (q : Nat) (v : BitVec 32) (s : State) :
    Answers (Touches [.out, .bad, .queues] s) (execScQdb r q v s) :=
  State.onQueuePage_touches (.refl ..) fun _ => (State.modQueue_touches ..).mono (by decide)

theorem execDoorbellTokenAccrual_touches (q : Nat) (s : State) :
    Answers (Touches [.queues] s) (execDoorbellTokenAccrual q s) :=
  State.whenLive_touches (.refl ..) fun _ => State.when_touches (.refl ..) fun _ => State.modQueue_touches ..

theorem execScQcountsRead_touches (r : Requester) (q : Nat) (half : Half) (s : State) :
    Answers (Touches [.out, .bad, .queues] s) (execScQcountsRead r q half s) :=
  State.access_touches (.refl ..) fun _ => .ite ((State.emit_touches ..).after ((State.modQueue_touches ..).mono (by
    decide))) ((State.badRead_touches ..).mono (by decide))

theorem execQueueWriteAccepted_touches (q : Nat) (s : State) :
    Answers (Touches slotParts s) (execQueueWriteAccepted q s) :=
  State.whenLive_touches (.refl ..) fun _ => State.when_touches (.refl ..) fun _ => State.when_touches
    ((State.issueHead_touches ..).after ((State.modQueue_touches ..).mono (by decide))) fun _ => State.endResume_touches
    ..

theorem execInterruptLost_touches (q : Nat) (s : State) :
    Answers (Touches [.out, .msix, .fports, .queues] s) (execInterruptLost q s) :=
  State.whenLive_touches (.refl ..) fun _ => State.when_touches (.refl ..) fun _ => (State.issueHead_touches ..).after
    ((State.modQueue_touches ..).mono (by decide))

theorem execQueueAreaAccessFail_touches (q : Nat) (area : QueueArea) (s : State) :
    Answers (Touches [.out, .ic, .msix, .fports, .parts, .queues] s) (execQueueAreaAccessFail q area s) := by
  unfold execQueueAreaAccessFail
  show Touches _ s _
  dsimp only
  repeat' with_reducible first
    | apply Touches.refl | refine (State.issueHead_touches ..).after ?_ | refine (State.modQueue_touches ..).after ?_
    | refine (State.noteBlocked_touches ..).after ?_ | refine (State.setQState_touches ..).after ?_ | split
    | apply State.when_touches | apply State.whenLive_touches | intro _

theorem execScQctlStop_touches (r : Requester) (q : Nat) (s : State) :
    Answers (Touches [.out, .bad, .msix, .fports, .queues] s) (execScQctlStop r q s) :=
  State.onQueuePage_touches (.refl ..) fun _ => State.when_touches (.refl ..) fun _ => (State.setQState_touches ..).after
    ((State.modQueue_touches ..).mono (by decide))

theorem execScQctlResume_touches (r : Requester) (q : Nat) (s : State) :
    Answers (Touches [.out, .bad, .msix, .fports, .queues] s) (execScQctlResume r q s) :=
  State.onQueuePage_touches (.refl ..) fun _ => .ite ((State.startResume_touches ..).mono (by decide))
    (State.when_touches (.refl ..) fun _ => (State.setQState_touches ..).after ((State.modQueue_touches ..).mono (by
    decide)))

theorem execQueueGuilty_touches (q : Nat) (admittedCopy : Bool) (s : State) :
    Answers (Touches endParts s) (execQueueGuilty q admittedCopy s) := by
  unfold execQueueGuilty
  show Touches _ s _
  dsimp only
  repeat' with_reducible first
    | apply Touches.refl | refine (State.endSlot_touches ..).after ?_ | refine (State.modQueue_touches ..).after ?_
    | refine (State.refuseSlot_touches ..).after ?_ | refine (State.setQState_touches ..).after ?_ | apply Touches.foldl
    | split | apply State.when_touches | apply State.whenLive_touches | apply Touches.set | intro _
  all_goals
    intro p hp
    cases p with
    | errs => exact absurd (by decide) hp
    | _ => rfl

/-! ### SlotCmds -/

theorem execSlotFetch_touches (q : Nat) (s : State) :
    Answers (Touches [.out, .fports, .queues] s) (execSlotFetch q s) :=
  State.whenLive_touches (.refl ..) fun _ => State.when_touches (.refl ..) fun _ => (State.viaPath_touches ..).after
    ((State.modQueue_touches ..).mono (by decide))

theorem execSlotArrival_touches (q : Nat) (d : ReadData) (s : State) :
    Answers (Touches checkParts s) (execSlotArrival q d s) := by
  unfold execSlotArrival
  show Touches _ s _
  dsimp only
  repeat' with_reducible first
    | apply Touches.refl | refine (State.checkArrival_touches ..).after ?_ | refine (State.modQueue_touches ..).after ?_
    | refine (State.refuseUnfetched_touches ..).after ?_ | split | apply State.when_touches | apply State.whenLive_touches
    | intro _

theorem execExternalConstantsReadDone_touches (q seq : Nat) (d : ReadData) (s : State) :
    Answers (Touches checkParts s) (execExternalConstantsReadDone q seq d s) := by
  unfold execExternalConstantsReadDone
  show Touches _ s _
  repeat' with_reducible first
    | apply Touches.refl | refine (State.checkLaunch_touches ..).after ?_ | refine (State.endRead_touches ..).after ?_
    | refine (State.modSlot_touches ..).after ?_ | refine (State.refuseSlot_touches ..).after ?_ | split
    | apply State.onSlot_touches | apply State.whenLive_touches | intro _

theorem execOverrideTableReadDone_touches (q seq : Nat) (d : ReadData) (s : State) :
    Answers (Touches checkParts s) (execOverrideTableReadDone q seq d s) := by
  unfold execOverrideTableReadDone
  show Touches _ s _
  repeat' with_reducible first
    | apply Touches.refl | refine (State.checkLaunch_touches ..).after ?_ | refine (State.endRead_touches ..).after ?_
    | refine (State.modSlot_touches ..).after ?_ | refine (State.refuseSlot_touches ..).after ?_ | split
    | apply State.onSlot_touches | apply State.whenLive_touches | intro _

theorem execNop_touches (q seq : Nat) (s : State) :
    Answers (Touches slotParts s) (execNop q seq s) :=
  State.whenLive_touches (.refl ..) fun _ => State.onSlot_touches (.refl ..) fun _ _ => State.finishOk_touches ..

theorem execLaunch_touches (q seq : Nat) (s : State) :
    Answers (Touches [.slots] s) (execLaunch q seq s) :=
  State.whenLive_touches (.refl ..) fun _ => State.onSlot_touches (.refl ..) fun _ _ => State.startLaunch_touches ..

theorem execChainStore_touches (q seq : Nat) (d : ReadData) (s : State) :
    Answers (Touches [.out, .mail, .msix, .errs, .fports, .parts, .ctxs, .queues, .slots, .admitted, .graphs, .folios, .atc,
      .reqs] s) (execChainStore q seq d s) := by
  unfold execChainStore
  show Touches _ s _
  dsimp only
  repeat' with_reducible first
    | apply Touches.refl | refine (State.admitSlot_touches ..).after ?_ | refine (State.endRead_touches ..).after ?_
    | refine (State.finishOk_touches ..).after ?_ | refine (State.modCtx_touches ..).after ?_
    | refine (State.refuseArgs_touches ..).after ?_ | split | apply State.onSlot_touches | apply State.whenLive_touches
    | intro _

theorem execChainRun_touches (q seq : Nat) (s : State) :
    Answers (Touches [.slots] s) (execChainRun q seq s) :=
  State.whenLive_touches (.refl ..) fun _ => State.onSlot_touches (.refl ..) fun _ _ => State.startLaunch_touches ..

theorem execAdviseNormal_touches (q seq : Nat) (s : State) :
    Answers (Touches [.out, .slots] s) (execAdviseNormal q seq s) :=
  State.whenLive_touches (.refl ..) fun _ => State.adviseOut_touches ..

theorem execAdviseHot_touches (q seq : Nat) (s : State) :
    Answers (Touches [.out, .slots] s) (execAdviseHot q seq s) :=
  State.whenLive_touches (.refl ..) fun _ => State.adviseOut_touches ..

theorem execAdviseCold_touches (q seq : Nat) (s : State) :
    Answers (Touches [.out, .slots] s) (execAdviseCold q seq s) :=
  State.whenLive_touches (.refl ..) fun _ => State.adviseOut_touches ..

theorem execAdviseWillNeed_touches (q seq : Nat) (s : State) :
    Answers (Touches [.out, .slots] s) (execAdviseWillNeed q seq s) :=
  State.whenLive_touches (.refl ..) fun _ => State.adviseOut_touches ..

theorem execAdviseDontNeed_touches (q seq : Nat) (s : State) :
    Answers (Touches [.free, .out, .mail, .msix, .errs, .fports, .parts, .queues, .slots, .graphs, .folios, .atc, .reqs,
      .reqNo, .lines] s) (execAdviseDontNeed q seq s) :=
  State.whenLive_touches (.refl ..) fun _ => State.onSlot_touches (.refl ..) fun _ _ => (State.finishOk_touches ..).after
    ((State.dropLines_touches ..).mono (by decide))

theorem execAdviseReleaseKeep_touches (q seq : Nat) (s : State) :
    Answers (Touches [.out, .mail, .msix, .errs, .fports, .parts, .queues, .slots, .graphs, .folios, .atc, .reqs, .lines] s)
      (execAdviseReleaseKeep q seq s) := by
  unfold execAdviseReleaseKeep
  show Touches _ s _
  dsimp only
  repeat' with_reducible first
    | apply Touches.refl | refine (State.finishOk_touches ..).after ?_ | apply State.onSlot_touches
    | apply State.whenLive_touches | apply Touches.set | intro _
  all_goals
    intro p hp
    cases p with
    | lines => exact absurd (by decide) hp
    | _ => rfl

theorem execPrefetchNearTier_touches (q seq : Nat) (s : State) :
    Answers (Touches [.out, .slots] s) (execPrefetchNearTier q seq s) :=
  State.whenLive_touches (.refl ..) fun _ => State.onSlot_touches (.refl ..) fun _ _ => State.sendAdvice_touches ..

theorem execPrefetchClusterCache_touches (q seq : Nat) (s : State) :
    Answers (Touches [.free, .out, .mail, .msix, .errs, .fports, .parts, .queues, .slots, .graphs, .folios, .atc, .reqs,
      .reqNo, .lines] s) (execPrefetchClusterCache q seq s) :=
  State.whenLive_touches (.refl ..) fun _ => State.onSlot_touches (.refl ..) fun _ _ => (State.settleAdvice_touches
    ..).after ((State.fillRange_touches ..).mono (by decide))

theorem execPrefetchBoth_touches (q seq : Nat) (s : State) :
    Answers (Touches [.free, .out, .parts, .slots, .reqs, .reqNo, .lines] s) (execPrefetchBoth q seq s) :=
  State.whenLive_touches (.refl ..) fun _ => State.onSlot_touches (.refl ..) fun _ _ => (State.sendAdvice_touches
    ..).after (State.fillRange_touches ..)

theorem execAdviceAck_touches (q seq : Nat) (s : State) :
    Answers (Touches slotParts s) (execAdviceAck q seq s) :=
  State.whenLive_touches (.refl ..) fun _ => State.onSlot_touches (.refl ..) fun _ _ => (State.settleAdvice_touches
    ..).after ((State.modSlot_touches ..).mono (by decide))

theorem execFenceQueue_touches (q seq : Nat) (s : State) :
    Answers (Touches slotParts s) (execFenceQueue q seq s) :=
  State.whenLive_touches (.refl ..) fun _ => State.startFence_touches ..

theorem execFenceContext_touches (q seq : Nat) (s : State) :
    Answers (Touches slotParts s) (execFenceContext q seq s) :=
  State.whenLive_touches (.refl ..) fun _ => State.startFence_touches ..

theorem execFenceFinish_touches (q seq : Nat) (s : State) :
    Answers (Touches slotParts s) (execFenceFinish q seq s) :=
  State.whenLive_touches (.refl ..) fun _ => State.onSlot_touches (.refl ..) fun _ _ => State.finishOk_touches ..

theorem execSeqAdmit_touches (q seq : Nat) (s : State) :
    Answers (Touches [.out, .mail, .msix, .errs, .fports, .parts, .queues, .slots, .admitted, .graphs, .seqs, .folios, .atc,
      .reqs] s) (execSeqAdmit q seq s) := by
  unfold execSeqAdmit
  show Touches _ s _
  dsimp only
  repeat' with_reducible first
    | apply Touches.refl | refine (State.admitSlot_touches ..).after ?_ | refine (State.finishOk_touches ..).after ?_
    | refine (State.refuseArgs_touches ..).after ?_ | refine (State.refuseSlot_touches ..).after ?_ | split
    | apply State.onSlot_touches | apply State.whenLive_touches | apply Touches.set | intro _
  all_goals
    intro p hp
    cases p with
    | seqs => exact absurd (by decide) hp
    | _ => rfl

theorem execSeqRetireOne_touches (q seq : Nat) (s : State) :
    Answers (Touches [.out, .mail, .msix, .errs, .fports, .parts, .queues, .slots, .admitted, .graphs, .seqs, .folios, .atc,
      .reqs] s) (execSeqRetireOne q seq s) :=
  State.whenLive_touches (.refl ..) fun _ => State.seqRetire_touches ..

theorem execSeqRetireGroup_touches (q seq : Nat) (s : State) :
    Answers (Touches [.out, .mail, .msix, .errs, .fports, .parts, .queues, .slots, .admitted, .graphs, .seqs, .folios, .atc,
      .reqs] s) (execSeqRetireGroup q seq s) :=
  State.whenLive_touches (.refl ..) fun _ => State.seqRetire_touches ..

theorem execSeqRetireContext_touches (q seq : Nat) (s : State) :
    Answers (Touches [.out, .mail, .msix, .errs, .fports, .parts, .queues, .slots, .admitted, .graphs, .seqs, .folios, .atc,
      .reqs] s) (execSeqRetireContext q seq s) :=
  State.whenLive_touches (.refl ..) fun _ => State.seqRetire_touches ..

theorem execSeqEntryFreed_touches (entry : Nat) (s : State) :
    Answers (Touches [.out, .mail, .msix, .errs, .fports, .parts, .queues, .slots, .graphs, .seqs, .folios, .atc, .reqs] s)
      (execSeqEntryFreed entry s) := by
  unfold execSeqEntryFreed
  show Touches _ s _
  dsimp only
  repeat' with_reducible first
    | apply Touches.refl | refine (State.finishOk_touches ..).after ?_ | apply Touches.foldl | apply State.onSlot_touches
    | apply State.when_touches | apply State.whenLive_touches | apply Touches.set | intro _
  all_goals
    intro p hp
    cases p with
    | slots | seqs => exact absurd (by decide) hp
    | _ => rfl

/-! ### FolioCmds -/

theorem execFolioOpenRead_touches (q seq : Nat) (resultMapped : Bool) (s : State) :
    Answers (Touches [.out, .mail, .msix, .errs, .fports, .parts, .ctxs, .queues, .slots, .graphs, .folios, .atc, .reqs] s)
      (execFolioOpenRead q seq resultMapped s) := by
  unfold execFolioOpenRead
  show Touches _ s _
  dsimp only
  repeat' with_reducible first
    | apply Touches.refl | refine (State.addOpen_touches ..).after ?_ | refine (State.finishFolio_touches ..).after ?_
    | refine (State.finishSlot_touches ..).after ?_ | split | refine State.onFolio_touches ?_ ?_
    | apply State.whenLive_touches | intro _

theorem execFolioOpenDraft_touches (q seq : Nat) (resultMapped : Bool) (s : State) :
    Answers (Touches [.out, .mail, .msix, .errs, .fports, .parts, .ctxs, .queues, .slots, .graphs, .folios, .atc, .reqs] s)
      (execFolioOpenDraft q seq resultMapped s) := by
  unfold execFolioOpenDraft
  show Touches _ s _
  repeat' with_reducible first
    | apply Touches.refl | refine (State.finishFolio_touches ..).after ?_ | refine (State.finishSlot_touches ..).after ?_
    | split | refine (State.addDraft_touches ‹_›).after ?_ | refine State.onFolio_touches ?_ ?_
    | apply State.whenLive_touches | intro _

theorem execFolioClose_touches (q seq : Nat) (resultMapped : Bool) (s : State) :
    Answers (Touches [.out, .mail, .msix, .errs, .fports, .parts, .ctxs, .queues, .slots, .graphs, .folios, .atc, .reqs] s)
      (execFolioClose q seq resultMapped s) := by
  unfold execFolioClose
  show Touches _ s _
  dsimp only
  repeat' with_reducible first
    | apply Touches.refl | refine (State.closeHolds_touches ..).after ?_ | refine (State.closeOpens_touches ..).after ?_
    | refine (State.discardDraft_touches ..).after ?_ | refine (State.finishFolio_touches ..).after ?_ | split
    | refine State.onFolio_touches ?_ ?_ | apply State.whenLive_touches | intro _

theorem execPageListReadDone_touches (q seq : Nat) (d : ReadData) (s : State) :
    Answers (Touches [.out, .mail, .msix, .errs, .fports, .parts, .queues, .slots, .admitted, .graphs, .folios, .atc, .reqs]
      s) (execPageListReadDone q seq d s) := by
  unfold execPageListReadDone
  show Touches _ s _
  dsimp only
  repeat' with_reducible first
    | apply Touches.refl | refine (State.admitSlot_touches ..).after ?_ | refine (State.endRead_touches ..).after ?_
    | refine (State.modSlot_touches ..).after ?_ | refine (State.refuseArgs_touches ..).after ?_ | split
    | apply State.onSlot_touches | apply State.whenLive_touches | intro _

theorem execFolioPublish_touches (q seq : Nat) (resultMapped : Bool) (s : State) :
    Answers (Touches [.out, .mail, .ic, .msix, .errs, .fports, .parts, .ctxs, .queues, .slots, .graphs, .folios, .atc, .reqs]
      s) (execFolioPublish q seq resultMapped s) := by
  unfold execFolioPublish
  show Touches _ s _
  dsimp only
  repeat' with_reducible first
    | apply Touches.refl | refine (State.draftToOpen_touches ..).after ?_ | refine (State.finishFolio_touches ..).after ?_
    | refine (State.finishSlot_touches ..).after ?_ | refine (State.publish_touches ..).after ?_
    | refine (State.publishList_touches ..).after ?_ | split | refine State.onFolio_touches ?_ ?_
    | apply State.whenLive_touches | intro _

theorem execMirrorCopyDone_touches (folio version : Nat) (s : State) :
    Answers (Touches [.ic, .folios, .atc] s) (execMirrorCopyDone folio version s) := by
  unfold execMirrorCopyDone
  show Touches _ s _
  dsimp only
  repeat' with_reducible first
    | apply Touches.refl | refine (State.dropFolioAtc_touches ..).after ?_
    | refine (State.giveMirrors_touches ..).after ?_ | refine (State.icFire_touches ..).after ?_
    | refine (State.modFolio_touches ..).after ?_ | split | apply State.when_touches | apply State.whenLive_touches
    | intro _

/-! ### TileCmds -/

theorem execPhaseStart_touches (q seq phase : Nat) (s : State) :
    Answers (Touches [.commons, .ctxs, .slots, .seqs, .clusters] s) (execPhaseStart q seq phase s) := by
  unfold execPhaseStart
  show Touches _ s _
  dsimp only
  repeat' with_reducible first
    | apply Touches.refl | refine (State.buildWork_touches ..).after ?_ | refine (State.modSlot_touches ..).after ?_
    | refine (State.settleLaunch_touches ..).after ?_ | refine (State.startReshards_touches ..).after ?_
    | refine (State.track_touches ..).after ?_ | split | apply State.onSlot_touches | apply State.when_touches
    | apply State.whenLive_touches | intro _

theorem execTileStart_touches (core : Nat) (gathers : List Gather) (s : State) :
    Answers (Touches [.free, .out, .fports, .commons, .parts, .ctxs, .slots, .folios, .atc, .xlats, .reqs, .reqNo, .cores,
      .clusters, .lines] s) (execTileStart core gathers s) := by
  unfold execTileStart
  show Touches _ s _
  repeat' with_reducible first
    | apply Touches.refl | refine (State.startTile_touches ..).after ?_ | split | apply State.when_touches
    | apply State.whenLive_touches | intro _

theorem execBaste_touches (core : Nat) (s : State) :
    Answers (Touches [.cores] s) (execBaste core s) :=
  State.whenLive_touches (.refl ..) fun _ => State.when_touches (.refl ..) fun _ => State.modCore_touches ..

theorem execContextSwitchDone_touches (core : Nat) (s : State) :
    Answers (Touches accessParts s) (execContextSwitchDone core s) := by
  unfold execContextSwitchDone
  show Touches _ s _
  repeat' with_reducible first
    | apply Touches.refl | refine (State.kick_touches ..).after ?_ | refine (State.modCore_touches ..).after ?_ | split
    | apply State.when_touches | apply State.whenLive_touches | intro _

theorem execGatherReturn_touches (core request : Nat) (more : List Gather) (s : State) :
    Answers (Touches accessParts s) (execGatherReturn core request more s) := by
  unfold execGatherReturn
  show Touches _ s _
  dsimp only
  repeat' with_reducible first
    | apply Touches.refl | refine (State.dropReq_touches ..).after ?_ | refine (State.issueGathers_touches ..).after ?_
    | refine (State.modCore_touches ..).after ?_ | refine (State.noteStall_touches ..).after ?_ | split
    | apply State.when_touches | apply State.whenLive_touches | intro _

theorem execTileCommitStart_touches (core : Nat) (work : List TileOp) (s : State) :
    Answers (Touches accessParts s) (execTileCommitStart core work s) := by
  unfold execTileCommitStart
  show Touches _ s _
  dsimp only
  repeat' with_reducible first
    | apply Touches.refl | refine (State.fillStaged_touches ..).after ?_ | refine (State.modCore_touches ..).after ?_
    | refine (State.modSlot_touches ..).after ?_ | refine (State.pinTargets_touches ..).after ?_
    | refine (State.runOps_touches ..).after ?_ | split | apply State.when_touches | apply State.whenLive_touches
    | intro _

theorem execForcedTack_touches (core : Nat) (s : State) :
    Answers (Touches [.ctxs, .cores] s) (execForcedTack core s) :=
  State.whenLive_touches (.refl ..) fun _ => State.when_touches (.refl ..) fun _ => State.forceCounted_touches ..

theorem execIdleStrandsTimeout_touches (core : Nat) (s : State) :
    Answers (Touches [.ctxs, .cores] s) (execIdleStrandsTimeout core s) :=
  State.whenLive_touches (.refl ..) fun _ => State.when_touches (.refl ..) fun _ => State.forceCounted_touches ..

theorem execAbandonDone_touches (core : Nat) (s : State) :
    Answers (Touches [.bg, .commons, .ctxs, .slots, .extents, .atc, .reqs, .cores, .clusters] s) (execAbandonDone core s) :=
  State.whenLive_touches (.refl ..) fun _ => State.when_touches (.refl ..) fun _ => (State.track_touches ..).after
    ((State.settleLaunch_touches ..).after ((State.modSlot_touches ..).after ((State.endTile_touches ..).after
    ((State.returnTile_touches ..).after ((State.chargeTile_touches ..).after ((State.unpinAll_touches ..).after
    ((State.dropTileReqs_touches ..).mono (by decide))))))))

theorem execMonitorTick_touches (s : State) :
    Answers (Touches [.out, .mail, .ic, .msix, .errs, .fports, .parts, .ctxs, .queues, .slots, .graphs, .folios, .atc, .reqs,
      .cores, .clusters] s) (execMonitorTick s) :=
  State.whenLive_touches (.refl ..) fun _ => State.when_touches (.refl ..) fun _ => .foldl (.refl ..) fun _ _ =>
    State.monitorOne_touches ..

theorem execHemForcedTack_touches (q seq : Nat) (s : State) :
    Answers (Touches [.slots, .cores, .clusters] s) (execHemForcedTack q seq s) :=
  State.whenLive_touches (.refl ..) fun _ => State.onSlot_touches (.refl ..) fun _ _ => .ite ((State.modSlot_touches
    ..).after ((State.forceLaunch_touches ..).mono (by decide))) ((State.forceLaunch_touches ..).mono (by decide))

theorem execFallbackSwitch_touches (q seq : Nat) (s : State) :
    Answers (Touches [.commons, .parts, .ctxs, .slots, .cores, .clusters] s) (execFallbackSwitch q seq s) := by
  unfold execFallbackSwitch
  show Touches _ s _
  dsimp only
  repeat' with_reducible first
    | apply Touches.refl | refine (State.forceLaunch_touches ..).after ?_ | refine (State.modPart_touches ..).after ?_
    | refine (State.modSlot_touches ..).after ?_ | refine (State.settleLaunch_touches ..).after ?_
    | refine (State.track_touches ..).after ?_ | split | apply State.onSlot_touches | apply State.whenLive_touches
    | intro _

theorem execCommonsSwitch_touches (ctx : Nat) (s : State) :
    Answers (Touches [.commons, .ctxs, .cores] s) (execCommonsSwitch ctx s) := by
  unfold execCommonsSwitch
  show Touches _ s _
  dsimp only
  repeat' with_reducible first
    | apply Touches.refl | refine (State.forceCounted_touches ..).after ?_ | apply Touches.foldl
    | apply State.when_touches | apply State.whenLive_touches | apply Touches.set | intro _
  all_goals
    intro p hp
    cases p with
    | commons => exact absurd (by decide) hp
    | _ => rfl

theorem execCommonsSwitchDone_touches (s : State) :
    Answers (Touches [.free, .out, .commons, .parts, .ctxs, .slots, .reqs, .reqNo, .cores, .clusters, .lines] s)
      (execCommonsSwitchDone s) := by
  unfold execCommonsSwitchDone
  show Touches _ s _
  dsimp only
  repeat' with_reducible first
    | apply Touches.refl | refine (State.account_touches ..).after ?_ | refine (State.dropLines_touches ..).after ?_
    | refine (State.modPart_touches ..).after ?_ | refine (State.track_touches ..).after ?_ | split
    | apply State.when_touches | apply State.whenLive_touches | apply Touches.set | intro _
  all_goals
    intro p hp
    cases p with
    | commons | slots | cores => exact absurd (by decide) hp
    | _ => rfl

/-! ### MemCmds -/

theorem execMemData_touches (port tag : Nat) (words : List (BitVec 288)) (s : State) :
    Answers (Touches [.free, .out, .mail, .ic, .msix, .errs, .fports, .parts, .queues, .slots, .graphs, .folios, .atc, .reqs,
      .reqNo, .cores, .lines, .merges] s) (execMemData port tag words s) := by
  unfold execMemData
  show Touches _ s _
  dsimp only
  repeat' with_reducible first
    | apply Touches.refl | refine (State.arriveWords_touches ..).after ?_ | refine (State.goOnRead_touches ..).after ?_
    | refine (State.pumpPort_touches ..).after ?_ | split | apply State.when_touches | apply State.whenLive_touches
    | intro _

theorem execMemAck_touches (port tag : Nat) (s : State) :
    Answers (Touches [.out, .parts, .reqs] s) (execMemAck port tag s) := by
  unfold execMemAck
  show Touches _ s _
  repeat' with_reducible first
    | apply Touches.refl | refine (State.dropReq_touches ..).after ?_ | refine (State.pumpPort_touches ..).after ?_
    | split | apply State.when_touches | apply State.whenLive_touches | intro _

theorem execMirrorServed_touches (cluster folio page word : Nat) (mirror back : BitVec 288) (s : State) :
    Answers (Touches [.free, .out, .mail, .ic, .msix, .errs, .fports, .parts, .queues, .slots, .graphs, .folios, .atc, .reqs,
      .reqNo, .cores, .lines, .merges] s) (execMirrorServed cluster folio page word mirror back s) := by
  unfold execMirrorServed
  show Touches _ s _
  dsimp only
  repeat' with_reducible first
    | apply Touches.refl | refine (State.emit_touches ..).after ?_ | refine (State.goOnRead_touches ..).after ?_
    | refine (State.logError_touches ..).after ?_ | refine (State.storePoison_touches ..).after ?_
    | refine (State.writeBack_touches ..).after ?_ | split | apply State.whenLive_touches | intro _

theorem execBackInval_touches (line : Nat) (s : State) :
    Answers (Touches [.out, .lines, .dirWaits] s) (execBackInval line s) := by
  unfold execBackInval
  show Touches _ s _
  repeat' with_reducible first
    | apply Touches.refl | refine (State.answerInval_touches ..).after ?_ | split | apply State.whenLive_touches
    | apply Touches.set | intro _
  all_goals
    intro p hp
    cases p with
    | dirWaits => exact absurd (by decide) hp
    | _ => rfl

theorem execSnoop_touches (line : Nat) (s : State) :
    Answers (Touches [.out, .dirWaits] s) (execSnoop line s) := by
  unfold execSnoop
  show Touches _ s _
  repeat' with_reducible first
    | apply Touches.refl | refine (State.answerSnoop_touches ..).after ?_ | split | apply State.whenLive_touches
    | apply Touches.set | intro _
  all_goals
    intro p hp
    cases p with
    | dirWaits => exact absurd (by decide) hp
    | _ => rfl

theorem execRegulatorTokenAccrual_touches (port : Nat) (s : State) :
    Answers (Touches [.out, .parts, .reqs, .accrued] s) (execRegulatorTokenAccrual port s) := by
  unfold execRegulatorTokenAccrual
  show Touches _ s _
  dsimp only
  repeat' with_reducible first
    | apply Touches.refl | refine (State.pumpPort_touches ..).after ?_ | apply State.when_touches
    | apply State.whenLive_touches | apply Touches.set | intro _
  all_goals
    intro p hp
    cases p with
    | parts | accrued => exact absurd (by decide) hp
    | _ => rfl

/-! ### CommitCmds -/

theorem execCommitPhaseEnd_touches (core : Nat) (s : State) :
    Answers (Touches [.free, .out, .mail, .ic, .msix, .errs, .bg, .fports, .commons, .parts, .ctxs, .queues, .slots, .graphs,
      .seqs, .extents, .folios, .atc, .xlats, .reqs, .reqNo, .cores, .clusters, .lines, .dirWaits, .adders] s)
      (execCommitPhaseEnd core s) := by
  unfold execCommitPhaseEnd
  show Touches _ s _
  dsimp only
  repeat' with_reducible first
    | apply Touches.refl | refine (State.answerWaits_touches ..).after ?_ | refine (State.chargeTile_touches ..).after ?_
    | refine (State.countTile_touches ..).after ?_ | refine (State.endTile_touches ..).after ?_
    | refine (State.failAfterCommit_touches ..).after ?_ | refine (State.fillStaged_touches ..).after ?_
    | refine (State.makeVisible_touches ..).after ?_ | refine (State.modSlot_touches ..).after ?_
    | refine (State.monitorOne_touches ..).after ?_ | refine (State.settleLaunch_touches ..).after ?_
    | refine (State.track_touches ..).after ?_ | refine (State.unpinAll_touches ..).after ?_
    | refine (State.warmFor_touches ..).after ?_ | refine (State.writeQuality_touches ..).after ?_ | split
    | apply State.when_touches | apply State.whenLive_touches | intro _

theorem execReductionApply_touches (cluster slice : Nat) (s : State) :
    Answers (Touches [.free, .out, .ic, .errs, .parts, .reqs, .reqNo, .lines, .adders] s) (execReductionApply cluster slice s) := by
  unfold execReductionApply
  show Touches _ s _
  dsimp only
  repeat' with_reducible first
    | apply Touches.refl | refine (State.addReq_touches ..).after ?_ | refine (State.issuePool_touches ..).after ?_
    | refine (State.logError_touches ..).after ?_ | refine (State.modLine_touches ..).after ?_
    | refine (State.shareDirty_touches ..).after ?_ | split | apply State.when_touches | apply State.whenLive_touches
    | apply Touches.set | intro _
  all_goals
    intro p hp
    cases p with
    | lines | adders => exact absurd (by decide) hp
    | _ => rfl

theorem execGranuleCommit_touches (cluster : Nat) (s : State) :
    Answers (Touches [.commons, .ctxs, .slots, .clusters] s) (execGranuleCommit cluster s) := by
  unfold execGranuleCommit
  show Touches _ s _
  dsimp only
  repeat' with_reducible first
    | apply Touches.refl | refine (State.modCluster_touches ..).after ?_ | refine (State.modSlot_touches ..).after ?_
    | refine (State.settleLaunch_touches ..).after ?_ | refine (State.track_touches ..).after ?_ | split
    | apply State.whenLive_touches | intro _

theorem execSharedPageCopyDone_touches (folio version page : Nat) (s : State) :
    Answers (Touches [.free, .out, .fports, .parts, .ctxs, .slots, .folios, .atc, .xlats, .reqs, .reqNo, .cores, .lines] s)
      (execSharedPageCopyDone folio version page s) := by
  unfold execSharedPageCopyDone
  show Touches _ s _
  dsimp only
  repeat' with_reducible first
    | apply Touches.refl | refine (State.atcDrop_touches ..).after ?_ | refine (State.kickAll_touches ..).after ?_
    | refine (State.modFolio_touches ..).after ?_ | refine (State.modSlot_touches ..).after ?_ | split
    | apply State.when_touches | apply State.whenLive_touches | intro _

theorem execLaunchFinish_touches (q seq : Nat) (s : State) :
    Answers (Touches [.out, .mail, .ic, .msix, .errs, .fports, .commons, .parts, .ctxs, .queues, .slots, .graphs, .folios,
      .atc, .reqs, .clusters] s) (execLaunchFinish q seq s) := by
  unfold execLaunchFinish
  show Touches _ s _
  dsimp only
  repeat' with_reducible first
    | apply Touches.refl | refine (State.finishSlot_touches ..).after ?_
    | refine (State.publishOutputs_touches ..).after ?_ | refine (State.track_touches ..).after ?_
    | refine (State.writeQuality_touches ..).after ?_ | split | apply State.onSlot_touches | apply State.whenLive_touches
    | intro _

/-! ### XlatCmds -/

theorem execTranslationCompletion_touches (die slot : Nat) (a : XlatAnswer) (s : State) :
    Answers (Touches [.free, .out, .fports, .parts, .ctxs, .slots, .atc, .xlats, .faults, .faultNo, .reqs, .reqNo, .cores,
      .lines] s) (execTranslationCompletion die slot a s) := by
  unfold execTranslationCompletion
  show Touches _ s _
  dsimp only
  repeat' with_reducible first
    | apply Touches.refl | refine (State.atcFill_touches ..).after ?_ | refine (State.countUnresolved_touches ..).after ?_
    | refine (State.dropFault_touches ..).after ?_ | refine (State.emit_touches ..).after ?_
    | refine (State.freeXlat_touches ..).after ?_ | refine (State.kickAll_touches ..).after ?_
    | refine (State.rebatch_touches ..).after ?_ | refine (State.recordFault_touches ..).after ?_
    | refine (State.serveWaiter_touches ..).after ?_ | refine (State.unresolveReq_touches ..).after ?_
    | apply Touches.foldl | split | apply State.whenLive_touches | apply Touches.set | intro _
  all_goals
    intro p hp
    cases p with
    | xlats => exact absurd (by decide) hp
    | _ => rfl

theorem execPageListFill_touches (die slot : Nat) (s : State) :
    Answers (Touches accessParts s) (execPageListFill die slot s) := by
  unfold execPageListFill
  show Touches _ s _
  dsimp only
  repeat' with_reducible first
    | apply Touches.refl | refine (State.atcFill_touches ..).after ?_ | refine (State.kickAll_touches ..).after ?_
    | refine (State.restart_touches ..).after ?_ | refine (State.setReq_touches ..).after ?_
    | refine (State.strandNow_touches ..).after ?_ | apply Touches.foldl | split | apply State.when_touches
    | apply State.whenLive_touches | apply Touches.set | intro _
  all_goals
    intro p hp
    cases p with
    | xlats => exact absurd (by decide) hp
    | _ => rfl

theorem execFaultBatchFlush_touches (die ctx : Nat) (s : State) :
    Answers (Touches [.out, .fports, .ctxs, .slots, .faults, .groupNo, .reqs] s) (execFaultBatchFlush die ctx s) :=
  State.whenLive_touches (.refl ..) fun _ => State.when_touches (.refl ..) fun _ => (State.noteOverflow_touches ..).after
    (State.deliverFaults_touches ..)

theorem execPrgResponse_touches (group : Nat) (c : PrgCode) (s : State) :
    Answers (Touches [.free, .out, .fports, .parts, .ctxs, .slots, .atc, .xlats, .faults, .groupNo, .reqs, .reqNo, .cores,
      .lines] s) (execPrgResponse group c s) := by
  unfold execPrgResponse
  show Touches _ s _
  dsimp only
  repeat' with_reducible first
    | apply Touches.refl | refine (State.drainHost_touches ..).after ?_
    | refine (State.faultUnresolved_touches ..).after ?_ | refine (State.kickAll_touches ..).after ?_
    | refine (State.modPart_touches ..).after ?_ | refine (State.retryHost_touches ..).after ?_ | apply Touches.foldl
    | split | apply State.when_touches | apply State.whenLive_touches | intro _

theorem execPriEnable_touches (p : Nat) (s : State) :
    Answers (Touches [.out, .fports, .parts, .ctxs, .slots, .faults, .groupNo, .reqs] s) (execPriEnable p s) :=
  State.whenLive_touches (.refl ..) fun _ => State.when_touches (.refl ..) fun _ => (State.drainHost_touches ..).after
    ((State.modPart_touches ..).mono (by decide))

theorem execFaultRingWriteAccepted_touches (ctx : Nat) (s : State) :
    Answers (Touches [.out, .msix, .fports, .ctxs, .faults] s) (execFaultRingWriteAccepted ctx s) := by
  unfold execFaultRingWriteAccepted
  show Touches _ s _
  dsimp only
  repeat' with_reducible first
    | apply Touches.refl | refine (State.modCtx_touches ..).after ?_ | refine (State.sendFaultVector_touches ..).after ?_
    | split | apply State.whenLive_touches | apply Touches.set | intro _
  all_goals
    intro p hp
    cases p with
    | faults => exact absurd (by decide) hp
    | _ => rfl

theorem execFaultRingWriteFail_touches (ctx : Nat) (s : State) :
    Answers (Touches [.ctxs, .faults] s) (execFaultRingWriteFail ctx s) := by
  unfold execFaultRingWriteFail
  show Touches _ s _
  dsimp only
  repeat' with_reducible first
    | apply Touches.refl | refine (State.bufferFault_touches ..).after ?_ | refine (State.modCtx_touches ..).after ?_
    | apply Touches.foldl | split | apply State.whenLive_touches | intro _

theorem execFaultRetry_touches (fault : Nat) (s : State) :
    Answers (Touches [.free, .out, .fports, .parts, .ctxs, .slots, .atc, .xlats, .faults, .reqs, .reqNo, .cores, .lines] s)
      (execFaultRetry fault s) := by
  unfold execFaultRetry
  show Touches _ s _
  dsimp only
  repeat' with_reducible first
    | apply Touches.refl | refine (State.modFault_touches ..).after ?_ | refine (State.retryFabric_touches ..).after ?_
    | split | apply State.when_touches | apply State.whenLive_touches | intro _

theorem execConsumerPoll_touches (ctx : Nat) (s : State) :
    Answers (Touches [.out, .fports] s) (execConsumerPoll ctx s) := by
  unfold execConsumerPoll
  show Touches _ s _
  dsimp only
  repeat' with_reducible first
    | apply Touches.refl | refine (State.viaPort_touches ..).after ?_ | split | apply State.when_touches
    | apply State.whenLive_touches | intro _

theorem execConsumerReadDone_touches (ctx count : Nat) (s : State) :
    Answers (Touches [.free, .out, .fports, .parts, .ctxs, .slots, .atc, .xlats, .faults, .groupNo, .reqs, .reqNo, .cores,
      .lines] s) (execConsumerReadDone ctx count s) := by
  unfold execConsumerReadDone
  show Touches _ s _
  dsimp only
  repeat' with_reducible first
    | apply Touches.refl | refine (State.drainFaults_touches ..).after ?_ | refine (State.kickAll_touches ..).after ?_
    | refine (State.modCtx_touches ..).after ?_ | refine (State.retryFabric_touches ..).after ?_ | apply Touches.foldl
    | split | apply State.when_touches | apply State.whenLive_touches | intro _

theorem execUnresolvedFault_touches (q seq cause : Nat) (s : State) :
    Answers (Touches endParts s) (execUnresolvedFault q seq cause s) :=
  State.whenLive_touches (.refl ..) fun _ => State.onSlot_touches (.refl ..) fun _ _ => State.endSlot_touches ..

theorem execAtsInvalidateRequest_touches (tag : Nat) (pasid : Option Nat) (base length : Nat) (s : State) :
    Answers (Touches [.atc, .xlats, .invals, .cores] s) (execAtsInvalidateRequest tag pasid base length s) := by
  unfold execAtsInvalidateRequest
  show Touches _ s _
  dsimp only
  repeat' with_reducible first
    | apply Touches.refl | refine (State.atcDrop_touches ..).after ?_ | apply State.whenLive_touches | apply Touches.set
    | intro _
  all_goals
    intro p hp
    cases p with
    | xlats | invals => exact absurd (by decide) hp
    | _ => rfl

theorem execInvalidationCompletion_touches (tag : Nat) (s : State) :
    Answers (Touches [.out, .invals] s) (execInvalidationCompletion tag s) := by
  unfold execInvalidationCompletion
  show Touches _ s _
  dsimp only
  repeat' with_reducible first
    | apply Touches.refl | refine (State.emit_touches ..).after ?_ | split | apply State.when_touches
    | apply State.whenLive_touches | apply Touches.set | intro _
  all_goals
    intro p hp
    cases p with
    | invals => exact absurd (by decide) hp
    | _ => rfl

theorem execInboundRequest_touches (endpoint window offset : Nat) (write : Bool) (len : Nat) (data : Bytes) (s : State) :
    Answers (Touches [.free, .out, .ic, .errs, .parts, .reqs, .reqNo, .lines, .merges] s) (execInboundRequest endpoint window
      offset write len data s) := by
  unfold execInboundRequest
  show Touches _ s _
  dsimp only
  repeat' with_reducible first
    | apply Touches.refl | refine (State.applyMerge_touches ..).after ?_ | refine (State.emit_touches ..).after ?_
    | refine (State.fillMerge_touches ..).after ?_ | split | apply State.whenLive_touches | apply Touches.set | intro _
  all_goals
    intro p hp
    cases p with
    | merges => exact absurd (by decide) hp
    | _ => rfl

theorem execFabricResponse_touches (request : Nat) (c : FabricCode) (s : State) :
    Answers (Touches [.ctxs, .slots, .faults, .faultNo, .reqs, .cores] s) (execFabricResponse request c s) := by
  unfold execFabricResponse
  show Touches _ s _
  repeat' with_reducible first
    | apply Touches.refl | refine (State.answerReq_touches ..).after ?_ | refine (State.leaveFault_touches ..).after ?_
    | refine (State.recordFault_touches ..).after ?_ | refine (State.unresolve_touches ..).after ?_ | split
    | apply State.when_touches | apply State.whenLive_touches | intro _

theorem execFabricResponseTimeout_touches (request : Nat) (s : State) :
    Answers (Touches [.fports, .ctxs, .slots, .faults, .reqs] s) (execFabricResponseTimeout request s) := by
  unfold execFabricResponseTimeout
  show Touches _ s _
  repeat' with_reducible first
    | apply Touches.refl | refine (State.leaveFault_touches ..).after ?_ | refine (State.modFport_touches ..).after ?_
    | refine (State.unresolve_touches ..).after ?_ | split | apply State.when_touches | apply State.whenLive_touches
    | intro _

theorem execHostWriteErrorAnswer_touches (q seq : Nat) (s : State) :
    Answers (Touches endParts s) (execHostWriteErrorAnswer q seq s) :=
  State.whenLive_touches (.refl ..) fun _ => State.onSlot_touches (.refl ..) fun _ _ => (State.endSlot_touches ..).after
    (.ite ((State.issueHead_touches ..).after ((State.modQueue_touches ..).mono (by decide))) (.refl ..))

theorem execHostReadErrorAnswer_touches (request : Nat) (s : State) :
    Answers (Touches [.ic, .errs, .faults, .reqs, .cores] s) (execHostReadErrorAnswer request s) := by
  unfold execHostReadErrorAnswer
  show Touches _ s _
  repeat' with_reducible first
    | apply Touches.refl | refine (State.answerReq_touches ..).after ?_ | refine (State.logError_touches ..).after ?_
    | split | apply State.when_touches | apply State.whenLive_touches | intro _

theorem execLinkHeld_touches (port : Nat) (s : State) :
    Answers (Touches [.ic, .fports] s) (execLinkHeld port s) :=
  State.whenLive_touches (.refl ..) fun _ => State.when_touches (.refl ..) fun _ => State.holdLink_touches ..

theorem execLinkUp_touches (port : Nat) (s : State) :
    Answers (Touches [.free, .out, .ic, .fports, .parts, .ctxs, .slots, .atc, .xlats, .reqs, .reqNo, .cores, .lines] s)
      (execLinkUp port s) :=
  State.whenLive_touches (.refl ..) fun _ => State.when_touches (.refl ..) fun _ => (State.kickAll_touches ..).after
    ((State.restart_touches ..).after (.foldl ((State.icLevel_touches ..).after ((State.modFport_touches ..).mono (by
    decide))) fun _ _ => (State.emit_touches ..).mono (by decide)))

theorem execLinkUnencrypted_touches (port : Nat) (s : State) :
    Answers (Touches [.ic, .fports] s) (execLinkUnencrypted port s) :=
  State.whenLive_touches (.refl ..) fun _ => State.when_touches (.refl ..) fun _ => (State.modFport_touches ..).after
    (.ite (State.holdLink_touches ..) ((State.icLevel_touches ..).after ((State.modFport_touches ..).mono (by decide))))

theorem execAbortNoticeReceived_touches (group origin serial : Nat) (s : State) :
    Answers (Touches resetParts s) (execAbortNoticeReceived group origin serial s) := by
  unfold execAbortNoticeReceived
  show Touches _ s _
  dsimp only
  repeat' with_reducible first
    | apply Touches.refl | refine (State.abortPart_touches ..).after ?_ | refine (State.track_touches ..).after ?_
    | apply Touches.foldl | apply State.when_touches | apply State.whenLive_touches | apply Touches.set | intro _
  all_goals
    intro p hp
    cases p with
    | errs => exact absurd (by decide) hp
    | _ => rfl

/-! ### AlarmCmds -/

theorem execScTamperN_touches (held : Nat) (s : State) :
    Answers (Touches [.out, .boot, .pins, .sec, .parts] s) (execScTamperN held s) := by
  unfold execScTamperN
  show Touches _ s _
  repeat' with_reducible first
    | apply Touches.refl | refine (State.classA_touches ..).after ?_ | refine (State.glitch_touches ..).after ?_ | split
    | apply State.whenOn_touches | apply Touches.set | intro _
  all_goals
    intro p hp
    cases p with
    | pins => exact absurd (by decide) hp
    | _ => rfl

theorem execDebugUnlockAttempt_touches (s : State) :
    Answers (Touches [.out, .boot, .sec, .parts] s) (execDebugUnlockAttempt s) := by
  unfold execDebugUnlockAttempt
  show Touches _ s _
  repeat' with_reducible first
    | apply Touches.refl | refine (State.classA_touches ..).after ?_ | split | apply State.whenOn_touches
    | apply Touches.set | intro _
  all_goals
    intro p hp
    cases p with
    | sec => exact absurd (by decide) hp
    | _ => rfl

theorem execThimbleDomainGlitch_touches (s : State) :
    Answers (Touches [.out, .boot, .sec, .parts] s) (execThimbleDomainGlitch s) :=
  State.whenOn_touches (.refl ..) fun _ => State.classA_touches ..

theorem execClassBGlitch_touches (die : Bool) (unit : Nat) (s : State) :
    Answers (Touches [.out, .boot, .sec, .mail, .ic, .msix, .errs, .fports, .commons, .parts, .ctxs, .queues, .slots,
      .graphs, .extents, .folios, .atc, .reqs, .cores, .clusters] s) (execClassBGlitch die unit s) := by
  unfold execClassBGlitch
  show Touches _ s _
  dsimp only
  repeat' with_reducible first
    | apply Touches.refl | refine (State.classA_touches ..).after ?_ | refine (State.strike_touches ..).after ?_
    | apply Touches.foldl | split | apply State.whenLive_touches | apply Touches.set | intro _
  all_goals
    intro p hp
    cases p with
    | sec => exact absurd (by decide) hp
    | _ => rfl

theorem execRetireFuseBlown_touches (s : State) :
    Answers (Touches [.out, .fuses, .sec, .mail, .fports] s) (execRetireFuseBlown s) := by
  unfold execRetireFuseBlown
  show Touches _ s _
  dsimp only
  repeat' with_reducible first
    | apply Touches.refl | refine (State.accept_touches ..).after ?_ | apply Touches.foldl | split | apply Touches.set
    | intro _
  all_goals
    intro p hp
    cases p with
    | fuses | sec => exact absurd (by decide) hp
    | _ => rfl

theorem execPartitionKeyRenewed_touches (p : Nat) (s : State) :
    Answers (Touches [.sec, .parts] s) (execPartitionKeyRenewed p s) :=
  State.whenLive_touches (.refl ..) fun _ => State.when_touches (.refl ..) fun _ => (State.modPart_touches ..).after
    (State.newInstance_touches ..)

theorem execPartitionCertificateIssued_touches (p : Nat) (s : State) :
    Answers (Touches [.parts] s) (execPartitionCertificateIssued p s) :=
  State.whenLive_touches (.refl ..) fun _ => State.when_touches (.refl ..) fun _ => State.modPart_touches ..

/-! ### TimeCmds -/

theorem execTimeStrobe_touches (v : BitVec 64) (parity : BitVec 8) (s : State) :
    Answers (Touches [.out, .boot, .time, .ic, .bg, .parts, .queues, .accrued] s) (execTimeStrobe v parity s) := by
  unfold execTimeStrobe
  show Touches _ s _
  dsimp only
  repeat' with_reducible first
    | apply Touches.refl | refine (State.acceptStrobe_touches ..).after ?_
    | refine (State.expireStrobe_touches ..).after ?_ | refine (State.loseStrobe_touches ..).after ?_
    | refine (State.rejectStrobe_touches ..).after ?_ | split | apply State.when_touches | apply State.whenLive_touches
    | intro _

theorem execStrobeTimeout_touches (s : State) :
    Answers (Touches [.time, .ic] s) (execStrobeTimeout s) :=
  State.whenLive_touches (.refl ..) fun _ => State.when_touches (.refl ..) fun _ => State.expireStrobe_touches ..

theorem execSlewComplete_touches (s : State) :
    Answers (Touches [.time] s) (execSlewComplete s) := by
  unfold execSlewComplete
  show Touches _ s _
  repeat' with_reducible first
    | apply Touches.refl | apply State.when_touches | apply State.whenLive_touches | apply Touches.set | intro _
  all_goals
    intro p hp
    cases p with
    | time => exact absurd (by decide) hp
    | _ => rfl

theorem execFrameBoundary_touches (s : State) :
    Answers (Touches [.out, .time, .power, .commons, .parts, .ctxs, .slots, .reqs, .clusters] s) (execFrameBoundary s) := by
  unfold execFrameBoundary
  show Touches _ s _
  dsimp only
  repeat' with_reducible first
    | apply Touches.refl | refine (State.frameEffects_touches ..).after ?_ | apply State.when_touches
    | apply State.whenLive_touches | apply Touches.set | intro _
  all_goals
    intro p hp
    cases p with
    | time => exact absurd (by decide) hp
    | _ => rfl

theorem execReanchor_touches (s : State) :
    Answers (Touches [.out, .time, .mail, .ic, .power, .bg, .commons, .parts, .ctxs, .slots, .reqs, .clusters, .accrued] s)
      (execReanchor s) :=
  State.whenLive_touches (.refl ..) fun _ => State.when_touches (.refl ..) fun _ => State.anchor_touches ..

theorem execMsBoundary_touches (blockWatts : Nat) (clusterWatts : List (Nat × Nat)) (s : State) :
    Answers (Touches [.time, .power, .parts, .ctxs, .queues, .slots] s) (execMsBoundary blockWatts clusterWatts s) := by
  unfold execMsBoundary
  show Touches _ s _
  dsimp only
  repeat' with_reducible first
    | apply Touches.refl | refine (State.chargeWaits_touches ..).after ?_ | apply State.when_touches
    | apply State.whenLive_touches | apply Touches.set | intro _
  all_goals
    intro p hp
    cases p with
    | time | power | parts | ctxs | queues => exact absurd (by decide) hp
    | _ => rfl

theorem execPowerWindowEnd_touches (joules : List (Nat × Nat)) (s : State) :
    Answers (Touches [.time, .parts] s) (execPowerWindowEnd joules s) := by
  unfold execPowerWindowEnd
  show Touches _ s _
  dsimp only
  repeat' with_reducible first
    | apply Touches.refl | apply State.when_touches | apply State.whenLive_touches | apply Touches.set | intro _
  all_goals
    intro p hp
    cases p with
    | time | parts => exact absurd (by decide) hp
    | _ => rfl

theorem execBackgroundSlot_touches (ageing : List (Nat × Bool)) (s : State) :
    Answers (Touches [.out, .bg, .cores] s) (execBackgroundSlot ageing s) := by
  unfold execBackgroundSlot
  show Touches _ s _
  dsimp only
  repeat' with_reducible first
    | apply Touches.refl | refine (State.ageing_touches ..).after ?_ | refine (State.calibrate_touches ..).after ?_
    | refine (State.scrubNear_touches ..).after ?_ | refine (State.scrubSram_touches ..).after ?_ | apply Touches.foldl
    | apply State.when_touches | apply State.whenLive_touches | apply Touches.set | intro _
  all_goals
    intro p hp
    cases p with
    | bg => exact absurd (by decide) hp
    | _ => rfl

theorem execScrubResult_touches (port addr : Nat) (found : ScrubFind) (s : State) :
    Answers (Touches [.free, .ic, .errs, .bg, .folios, .reqs, .reqNo] s) (execScrubResult port addr found s) := by
  unfold execScrubResult
  show Touches _ s _
  dsimp only
  repeat' with_reducible first
    | apply Touches.refl | refine (State.logError_touches ..).after ?_ | refine (State.quarantineAt_touches ..).after ?_
    | refine (State.scrubBad_touches ..).after ?_ | refine (State.scrubMirror_touches ..).after ?_ | split
    | apply State.when_touches | apply State.whenLive_touches | apply Touches.set | intro _
  all_goals
    intro p hp
    cases p with
    | bg => exact absurd (by decide) hp
    | _ => rfl

/-! ### ErrorCmds -/

theorem execEscalated_touches (d : Domain) (s : State) :
    Answers (Touches escalationParts s) (execEscalated d s) :=
  State.whenLive_touches (.refl ..) fun _ => State.when_touches (.refl ..) fun _ => State.escalate_touches ..

theorem execClusterQuarantine_touches (cluster : Nat) (s : State) :
    Answers (Touches escalationParts s) (execClusterQuarantine cluster s) :=
  State.whenLive_touches (.refl ..) fun _ => State.when_touches (.refl ..) fun _ => State.clusterError_touches ..

theorem execBlockFatal_touches (die : Nat) (s : State) :
    Answers (Touches escalationParts s) (execBlockFatal die s) :=
  State.whenLive_touches (.refl ..) fun _ => State.when_touches (.refl ..) fun _ => State.dieError_touches ..

theorem execWordUncorrectable_touches (place : WordPlace) (syndrome : BitVec 32) (s : State) :
    Answers (Touches escalationParts s) (execWordUncorrectable place syndrome s) := by
  unfold execWordUncorrectable
  show Touches _ s _
  repeat' with_reducible first
    | apply Touches.refl | refine (State.clusterError_touches ..).after ?_ | refine (State.dieError_touches ..).after ?_
    | refine (State.escalate_touches ..).after ?_ | refine (State.failTile_touches ..).after ?_
    | refine (State.lineError_touches ..).after ?_ | refine (State.logError_touches ..).after ?_
    | refine (State.partError_touches ..).after ?_ | refine (State.queueError_touches ..).after ?_
    | refine (State.tierError_touches ..).after ?_ | refine (State.tileStateError_touches ..).after ?_ | split
    | apply State.when_touches | apply State.whenLive_touches | intro _

theorem execPoisonConsumed_touches (core : Nat) (from_ : PoisonFrom) (s : State) :
    Answers (Touches resetParts s) (execPoisonConsumed core from_ s) := by
  unfold execPoisonConsumed
  show Touches _ s _
  dsimp only
  repeat' with_reducible first
    | apply Touches.refl | refine (State.endSlot_touches ..).after ?_ | refine (State.logError_touches ..).after ?_
    | refine (State.track_touches ..).after ?_ | split | apply State.when_touches | apply State.whenLive_touches | intro _

theorem execTileError_touches (core : Nat) (e : TileErr) (s : State) :
    Answers (Touches [.ic, .errs, .commons, .ctxs, .slots, .cores, .clusters] s) (execTileError core e s) :=
  State.whenLive_touches (.refl ..) fun _ => State.when_touches (.refl ..) fun _ => State.failTile_touches ..

theorem execErrPop_touches (queue : Nat) (v : BitVec 32) (s : State) :
    Answers (Touches [.ic, .errs] s) (execErrPop queue v s) := by
  unfold execErrPop
  show Touches _ s _
  repeat' with_reducible first
    | apply Touches.refl | refine (State.popError_touches ..).after ?_ | apply State.when_touches
    | apply State.whenLive_touches | apply Touches.set | intro _
  all_goals
    intro p hp
    cases p with
    | errs => exact absurd (by decide) hp
    | _ => rfl

theorem execErrQstatRead_touches (queue : Nat) (half : Half) (s : State) :
    Answers (Touches [.out, .errs] s) (execErrQstatRead queue half s) := by
  unfold execErrQstatRead
  show Touches _ s _
  dsimp only
  repeat' with_reducible first
    | apply Touches.refl | refine (State.emit_touches ..).after ?_ | split | apply State.whenLive_touches
    | apply Touches.set | intro _
  all_goals
    intro p hp
    cases p with
    | errs => exact absurd (by decide) hp
    | _ => rfl

/-! ### ExtentCmds -/

theorem execExtentGrant_touches (ch : Nat) (s : State) :
    Answers (Touches [.out, .mail, .fports] s) (execExtentGrant ch s) :=
  State.whenLive_touches (.refl ..) fun _ => State.serveChecked_touches (.refl ..) fun _ _ => (State.emit_touches
    ..).after ((State.modChan_touches ..).after ((State.park_touches ..).mono (by decide)))

theorem execExtentCheckAnswer_touches (ch : Nat) (ok : Bool) (mcGroup : Nat) (s : State) :
    Answers (Touches [.out, .mail, .fports, .extents] s) (execExtentCheckAnswer ch ok mcGroup s) := by
  unfold execExtentCheckAnswer
  show Touches _ s _
  repeat' with_reducible first
    | apply Touches.refl | refine (State.accept_touches ..).after ?_ | refine (State.refuse_touches ..).after ?_
    | refine (State.refuseAttr_touches ..).after ?_ | split | refine State.onCheck_touches ?_ ?_
    | apply State.whenLive_touches | apply Touches.set | intro _
  all_goals
    intro p hp
    cases p with
    | extents => exact absurd (by decide) hp
    | _ => rfl

theorem execExtentCheckTimeout_touches (ch : Nat) (s : State) :
    Answers (Touches [.out, .mail, .fports] s) (execExtentCheckTimeout ch s) :=
  State.whenLive_touches (.refl ..) fun _ => State.when_touches (.refl ..) fun _ => State.onCheck_touches (.refl ..) fun
    _ _ _ => State.refuse_touches ..

theorem execExtentRights_touches (ch : Nat) (s : State) :
    Answers (Touches [.out, .mail, .fports, .extents] s) (execExtentRights ch s) :=
  State.whenLive_touches (.refl ..) fun _ => State.serveChecked_touches (.refl ..) fun _ _ => (State.accept_touches
    ..).after ((State.modExtent_touches ..).mono (by decide))

theorem execExtentRevoke_touches (ch : Nat) (s : State) :
    Answers (Touches [.out, .mail, .msix, .errs, .fports, .parts, .ctxs, .queues, .slots, .graphs, .extents, .folios, .atc,
      .reqs, .cores, .clusters] s) (execExtentRevoke ch s) := by
  unfold execExtentRevoke
  show Touches _ s _
  dsimp only
  repeat' with_reducible first
    | apply Touches.refl | refine (State.askRevoke_touches ..).after ?_ | split | refine State.serveChecked_touches ?_ ?_
    | apply State.whenLive_touches | intro _

theorem execExtentRevokeReq_touches (grant : Nat) (partition : Option Nat) (s : State) :
    Answers (Touches [.out, .mail, .msix, .errs, .fports, .parts, .ctxs, .queues, .slots, .graphs, .extents, .folios, .atc,
      .reqs, .cores, .clusters] s) (execExtentRevokeReq grant partition s) :=
  State.whenLive_touches (.refl ..) fun _ => .foldl (.refl ..) fun _ _ => State.askRevoke_touches ..

theorem execNearTierReport_touches (size : Nat) (s : State) :
    Answers (Touches [.boot] s) (execNearTierReport size s) := by
  unfold execNearTierReport
  show Touches _ s _
  repeat' with_reducible first
    | apply Touches.refl | apply State.when_touches | apply State.whenLive_touches | apply Touches.set | intro _
  all_goals
    intro p hp
    cases p with
    | boot => exact absurd (by decide) hp
    | _ => rfl

/-! ### PowerCmds -/

theorem execInputGlitch_touches (pin : Pin) (width : Nat) (s : State) :
    Answers (Touches [.pins] s) (execInputGlitch pin width s) :=
  State.whenLive_touches (.refl ..) fun _ => State.when_touches (.refl ..) fun _ => State.glitch_touches ..

theorem execScHardCapAssert_touches (held : Nat) (s : State) :
    Answers (Touches [.pins, .ic, .power] s) (execScHardCapAssert held s) :=
  State.whenLive_touches (.refl ..) fun _ => State.hardCapLevel_touches ..

theorem execScHardCapDeassert_touches (held : Nat) (s : State) :
    Answers (Touches [.pins, .ic, .power] s) (execScHardCapDeassert held s) :=
  State.whenLive_touches (.refl ..) fun _ => State.hardCapLevel_touches ..

theorem execCoolantStop_touches (held : Nat) (s : State) :
    Answers (Touches [.boot, .pins] s) (execCoolantStop held s) := by
  unfold execCoolantStop
  show Touches _ s _
  repeat' with_reducible first
    | apply Touches.refl | refine (State.coolantStop_touches ..).after ?_ | refine (State.glitch_touches ..).after ?_
    | split | apply State.whenLive_touches | apply Touches.set | intro _
  all_goals
    intro p hp
    cases p with
    | pins => exact absurd (by decide) hp
    | _ => rfl

theorem execThermalSample_touches (readings : List ThermalReading) (s : State) :
    Answers (Touches [.boot, .power, .clusters] s) (execThermalSample readings s) :=
  State.whenLive_touches (.refl ..) fun _ => State.when_touches (.refl ..) fun _ => .ite ((State.coolantStop_touches
    ..).after (.foldl (.refl ..) fun _ _ => (State.readSensor_touches ..).mono (by decide))) (.foldl (.refl ..) fun _ _
    => (State.readSensor_touches ..).mono (by decide))

theorem execDroopDetect_touches (core : Nat) (excess : Bool) (s : State) :
    Answers (Touches [.cores] s) (execDroopDetect core excess s) :=
  State.whenLive_touches (.refl ..) fun _ => State.when_touches (.refl ..) fun _ => State.modCore_touches ..

/-! ### BootCmds -/

theorem execScResetNAssert_touches (held : Nat) (s : State) :
    Answers (Touches Part.all s) (execScResetNAssert held s) :=
  .ite (.refl ..) (.ite (.ite ((State.glitch_touches ..).mono (by decide)) (.refl ..)) (State.wholeReset_touches ..))

theorem execScResetNDeassert_touches (held : Nat) (coolantOk hardCap : Bool) (s : State) :
    Answers (Touches [.out, .boot, .pins, .ic, .power] s) (execScResetNDeassert held coolantOk hardCap s) :=
  .ite (.refl ..) (State.comeUp_touches ..)

theorem execRomDone_touches (selfTestOk : Bool) (s : State) :
    Answers (Touches [.out, .boot] s) (execRomDone selfTestOk s) := by
  unfold execRomDone
  show Touches _ s _
  repeat' with_reducible first
    | apply Touches.refl | refine (State.enterStage_touches ..).after ?_ | refine (State.failBoot_touches ..).after ?_
    | split | apply State.inStage_touches | intro _

theorem execKeysDone_touches (ok : Bool) (s : State) :
    Answers (Touches [.free, .out, .boot, .sec] s) (execKeysDone ok s) := by
  unfold execKeysDone
  show Touches _ s _
  repeat' with_reducible first
    | apply Touches.refl | refine (State.deriveBootKeys_touches ..).after ?_
    | refine (State.enterStage_touches ..).after ?_ | refine (State.failBoot_touches ..).after ?_
    | refine (State.readBoot_touches ..).after ?_ | split | apply State.inStage_touches | intro _

theorem execBootData_touches (data : Option Bytes) (s : State) :
    Answers (Touches [.out, .boot] s) (execBootData data s) := by
  unfold execBootData
  show Touches _ s _
  dsimp only
  repeat' with_reducible first
    | apply Touches.refl | refine (State.readBoot_touches ..).after ?_ | refine (State.refuseImage_touches ..).after ?_
    | split | apply State.inStage_touches | apply State.when_touches | apply Touches.set | intro _
  all_goals
    intro p hp
    cases p with
    | boot => exact absurd (by decide) hp
    | _ => rfl

theorem execBootReadTimeout_touches (s : State) :
    Answers (Touches [.out, .boot] s) (execBootReadTimeout s) :=
  State.inStage_touches (.refl ..) fun _ => State.when_touches (.refl ..) fun _ => State.refuseImage_touches ..

theorem execImageChecked_touches (ageing : List (Nat × Nat)) (s : State) :
    Answers (Touches [.out, .boot, .sec, .cores] s) (execImageChecked ageing s) :=
  State.inStage_touches (.refl ..) fun _ => State.when_touches (.refl ..) fun _ => .ite ((State.enterStage_touches
    ..).after ((State.loadBins_touches ..).after ((State.takeImage_touches ..).mono (by decide))))
    ((State.refuseImage_touches ..).mono (by decide))

theorem execMemoryPortReady_touches (port : Nat) (s : State) :
    Answers (Touches [.boot] s) (execMemoryPortReady port s) := by
  unfold execMemoryPortReady
  show Touches _ s _
  repeat' with_reducible first
    | apply Touches.refl | apply State.inStage_touches | apply State.when_touches | apply Touches.set | intro _
  all_goals
    intro p hp
    cases p with
    | boot => exact absurd (by decide) hp
    | _ => rfl

theorem execMemoryPortTimeout_touches (port : Nat) (s : State) :
    Answers (Touches [.free, .out, .boot, .mail, .ic, .msix, .errs, .fports, .commons, .parts, .ctxs, .queues, .slots,
      .graphs, .folios, .atc, .reqs, .reqNo, .cores, .clusters, .lines] s) (execMemoryPortTimeout port s) := by
  unfold execMemoryPortTimeout
  show Touches _ s _
  dsimp only
  repeat' with_reducible first
    | apply Touches.refl | refine (State.clusterError_touches ..).after ?_ | refine (State.emit_touches ..).after ?_
    | refine (State.failBoot_touches ..).after ?_ | split | apply State.inStage_touches | apply State.when_touches
    | apply Touches.set | intro _
  all_goals
    intro p hp
    cases p with
    | boot => exact absurd (by decide) hp
    | _ => rfl

theorem execTrainingDone_touches (tests : List BundleTest) (s : State) :
    Answers (Touches [.out, .boot, .time, .bridge] s) (execTrainingDone tests s) := by
  unfold execTrainingDone
  show Touches _ s _
  repeat' with_reducible first
    | apply Touches.refl | refine (State.enterTime_touches ..).after ?_ | refine (State.failBoot_touches ..).after ?_
    | split | apply State.inStage_touches | apply State.when_touches | apply Touches.set | intro _
  all_goals
    intro p hp
    cases p with
    | boot | bridge => exact absurd (by decide) hp
    | _ => rfl

theorem execTimeLimitExpiry_touches (s : State) :
    Answers (Touches [.out, .boot] s) (execTimeLimitExpiry s) :=
  State.inStage_touches (.refl ..) fun _ => State.when_touches (.refl ..) fun _ => State.becomeReady_touches ..

/-! ### IcCmds -/

theorem execIcDoorbellFire_touches (v : BitVec 32) (s : State) :
    Answers (Touches [.ic] s) (execIcDoorbellFire v s) :=
  State.whenLive_touches (.refl ..) fun _ => State.when_touches (.refl ..) fun _ => .ite (State.icLevel_touches ..)
    (State.icFire_touches ..)

theorem execIcDoorbellDeassert_touches (v : BitVec 32) (s : State) :
    Answers (Touches [.ic] s) (execIcDoorbellDeassert v s) :=
  State.whenLive_touches (.refl ..) fun _ => State.when_touches (.refl ..) fun _ => State.icLevel_touches ..

theorem execIcAck_touches (core : Nat) (s : State) :
    Answers (Touches [.free, .out, .ic] s) (execIcAck core s) :=
  State.whenLive_touches (.refl ..) fun _ => ackEffect_touches ..

theorem execIcEoi_touches (core : Nat) (v : BitVec 32) (s : State) : Answers (Touches [.ic] s) (execIcEoi core v s) :=
  State.whenLive_touches (.refl ..) fun _ => .setIc (.refl ..) fun h => h.eoi ..

theorem execIcSetPending_touches (v : BitVec 32) (s : State) : Answers (Touches [.ic] s) (execIcSetPending v s) :=
  State.whenLive_touches (.refl ..) fun _ => .setIc (.refl ..) fun h => h.setSrc ..

theorem execIcClearPending_touches (v : BitVec 32) (s : State) : Answers (Touches [.ic] s) (execIcClearPending v s) :=
  State.whenLive_touches (.refl ..) fun _ => .setIc (.refl ..) fun h => h.setSrc ..

theorem execStormWindowExpiry_touches (source : Nat) (s : State) :
    Answers (Touches [.ic] s) (execStormWindowExpiry source s) := by
  refine State.whenLive_touches (.refl ..) fun s => ?_
  split
  · exact State.when_touches (.refl ..) fun _ => .setIc (.refl ..) fun h => h.setSrc ..
  · exact .refl ..

theorem execSleepReq_touches (s : State) : Answers (Touches [.ic] s) (execSleepReq s) :=
  State.whenLive_touches (.refl ..) fun _ => State.when_touches (.refl ..) fun _ => .setIc (.refl ..) fun h => h.sleep

theorem execIcWake_touches (pin : Bool) (s : State) : Answers (Touches [.ic] s) (execIcWake pin s) :=
  State.whenLive_touches (.refl ..) fun _ => State.when_touches (.refl ..) fun _ => .setIc (.refl ..) fun h => h.wakeUp

theorem execIcStatusRead_touches (half : Half) (s : State) : Answers (Touches [.out, .ic] s) (execIcStatusRead half s) :=
  State.whenLive_touches (.refl ..) fun _ =>
    State.when_touches ((State.emit_touches ..).mono (by decide)) fun _ => .setIc (.refl ..) id

theorem execMsixUnmask_touches (entry : Option Nat) (s : State) :
    Answers (Touches [.out, .msix] s) (execMsixUnmask entry s) := by
  unfold execMsixUnmask
  show Touches _ s _
  dsimp only
  repeat' with_reducible first
    | apply Touches.refl | refine (State.flushMsix_touches ..).after ?_ | split | apply State.whenLive_touches
    | apply Touches.set | intro _
  all_goals
    intro p hp
    cases p with
    | msix => exact absurd (by decide) hp
    | _ => rfl

/-! ### MailCmds -/

theorem execScMbNotice_touches (r : Requester) (ch : Nat) (v : BitVec 64) (s : State) :
    Answers (Touches [.out, .bad, .mail, .ic] s) (execScMbNotice r ch v s) := by
  unfold execScMbNotice
  show Touches _ s _
  dsimp only
  repeat' with_reducible first
    | apply Touches.refl | refine (State.emit_touches ..).after ?_ | refine (State.modChan_touches ..).after ?_
    | refine (State.settleMail_touches ..).after ?_ | split | refine State.onChannel_touches ?_ ?_ | apply Touches.set
    | intro _
  all_goals
    intro p hp
    cases p with
    | mail => exact absurd (by decide) hp
    | _ => rfl

theorem execNoticeTake_touches (bobbin : Nat) (s : State) :
    Answers (Touches [.out, .mail, .ic, .fports] s) (execNoticeTake bobbin s) := by
  unfold execNoticeTake
  show Touches _ s _
  dsimp only
  repeat' with_reducible first
    | apply Touches.refl | refine (State.modChan_touches ..).after ?_ | refine (State.readMessage_touches ..).after ?_
    | refine (State.settleMail_touches ..).after ?_ | split | apply State.whenLive_touches | intro _

theorem execBusyAnswer_touches (ch : Nat) (s : State) :
    Answers (Touches [.out, .mail, .ic, .fports] s) (execBusyAnswer ch s) := by
  unfold execBusyAnswer
  show Touches _ s _
  dsimp only
  repeat' with_reducible first
    | apply Touches.refl | refine (State.modChan_touches ..).after ?_ | refine (State.readMessage_touches ..).after ?_
    | refine (State.settleMail_touches ..).after ?_ | apply Touches.foldl | split | apply State.when_touches
    | apply State.whenLive_touches | apply Touches.set | intro _
  all_goals
    intro p hp
    cases p with
    | mail => exact absurd (by decide) hp
    | _ => rfl

theorem execMessageReadDone_touches (ch : Nat) (d : ReadData) (s : State) :
    Answers (Touches [.out, .mail, .fports] s) (execMessageReadDone ch d s) := by
  unfold execMessageReadDone
  show Touches _ s _
  dsimp only
  repeat' with_reducible first
    | apply Touches.refl | refine (State.answerBusy_touches ..).after ?_ | refine (State.refuse_touches ..).after ?_
    | refine (State.takeMessage_touches ..).after ?_ | split | apply State.when_touches | apply State.whenLive_touches
    | intro _

theorem execCapabilityCheck_touches (ch : Nat) (s : State) :
    Answers (Touches [.out, .sec, .mail, .ic, .fports] s) (execCapabilityCheck ch s) := by
  unfold execCapabilityCheck
  show Touches _ s _
  dsimp only
  repeat' with_reducible first
    | apply Touches.refl | refine (State.icFire_touches ..).after ?_ | refine (State.modChan_touches ..).after ?_
    | refine (State.refuse_touches ..).after ?_ | split | apply State.whenLive_touches | apply Touches.set | intro _
  all_goals
    intro p hp
    cases p with
    | sec => exact absurd (by decide) hp
    | _ => rfl

theorem execCapabilityExpiry_touches (capId : Nat) (s : State) :
    Answers (Touches [.sec] s) (execCapabilityExpiry capId s) := by
  unfold execCapabilityExpiry
  show Touches _ s _
  repeat' with_reducible first
    | apply Touches.refl | apply State.when_touches | apply State.whenLive_touches | apply Touches.set | intro _
  all_goals
    intro p hp
    cases p with
    | sec => exact absurd (by decide) hp
    | _ => rfl

theorem execReplyPosted_touches (ch : Nat) (accepted : Bool) (s : State) :
    Answers (Touches Part.all s) (execReplyPosted ch accepted s) := by
  unfold execReplyPosted
  show Touches _ s _
  dsimp only
  repeat' with_reducible first
    | apply Touches.refl | refine (State.modChan_touches ..).after ?_ | refine (State.notify_touches ..).after ?_
    | refine (State.reboot_touches ..).after ?_ | refine (State.settleMail_touches ..).after ?_ | split
    | apply State.when_touches | apply State.whenLive_touches | intro _

theorem execScMbAck_touches (r : Requester) (ch : Nat) (v : BitVec 32) (s : State) :
    Answers (Touches [.out, .bad, .mail] s) (execScMbAck r ch v s) :=
  State.onChannel_touches (.refl ..) fun _ => State.when_touches (.refl ..) fun _ => (State.modChan_touches ..).mono (by
    decide)

theorem execReplyHoldExpiry_touches (ch : Nat) (s : State) :
    Answers (Touches [.mail] s) (execReplyHoldExpiry ch s) :=
  State.whenLive_touches (.refl ..) fun _ => State.when_touches (.refl ..) fun _ => State.modChan_touches ..

/-! ### Registers -/

theorem execBadScAccess_touches (r : Requester) (write : Bool) (offset size : Nat) (s : State) :
    Answers (Touches [.out, .bad] s) (execBadScAccess r write offset size s) :=
  State.access_touches (.refl ..) fun _ => .ite ((State.emit_touches ..).mono (by decide)) (.ite (State.turnAway_touches
    ..) (State.when_touches (.refl ..) fun _ => (State.emit_touches ..).mono (by decide)))

theorem execScBadAccessRead_touches (r : Requester) (half : Half) (s : State) :
    Answers (Touches [.out, .bad] s) (execScBadAccessRead r half s) := by
  unfold execScBadAccessRead
  show Touches _ s _
  dsimp only
  repeat' with_reducible first
    | apply Touches.refl | refine (State.badRead_touches ..).after ?_ | refine (State.emit_touches ..).after ?_ | split
    | refine State.access_touches ?_ ?_ | apply Touches.set | intro _
  all_goals
    intro p hp
    cases p with
    | bad => exact absurd (by decide) hp
    | _ => rfl

theorem execScSignalsRead_touches (r : Requester) (half : Half) (s : State) :
    Answers (Touches [.out, .pins, .bad] s) (execScSignalsRead r half s) := by
  unfold execScSignalsRead
  show Touches _ s _
  dsimp only
  repeat' with_reducible first
    | apply Touches.refl | refine (State.badRead_touches ..).after ?_ | refine (State.emit_touches ..).after ?_ | split
    | refine State.access_touches ?_ ?_ | apply Touches.set | intro _
  all_goals
    intro p hp
    cases p with
    | pins => exact absurd (by decide) hp
    | _ => rfl

theorem execRegisterWrite_touches (r : Requester) (sp : Space) (offset size : Nat) (v : BitVec 64) (s : State) :
    Answers (Touches [.out, .time, .bad, .ic, .msix, .errs, .lanes, .parts, .queues, .pri, .pageAlloc] s) (execRegisterWrite
      r sp offset size v s) := by
  unfold execRegisterWrite
  show Touches _ s _
  repeat' with_reducible first
    | apply Touches.refl | refine (State.scWrite_touches ..).after ?_ | refine (State.writeBar2_touches ..).after ?_
    | refine (State.writeBobbin_touches ..).after ?_ | refine (State.writeConfig_touches ..).after ?_ | split
    | apply State.whenLive_touches | intro _

/-! ### BridgeCmds -/

theorem execBridgeFlitReplay_touches (bundle again : Nat) (s : State) :
    Answers (Touches [.free, .out, .mail, .ic, .msix, .errs, .fports, .bridge, .commons, .parts, .ctxs, .queues, .slots,
      .graphs, .folios, .atc, .reqs, .reqNo, .cores, .clusters, .lines] s) (execBridgeFlitReplay bundle again s) := by
  unfold execBridgeFlitReplay
  show Touches _ s _
  repeat' with_reducible first
    | apply Touches.refl | refine (State.dieError_touches ..).after ?_ | split | apply State.onBridge_touches
    | apply Touches.set | intro _
  all_goals
    intro p hp
    cases p with
    | bridge => exact absurd (by decide) hp
    | _ => rfl

theorem execBridgeRetrainStart_touches (bundle : Nat) (s : State) :
    Answers (Touches [.bridge] s) (execBridgeRetrainStart bundle s) := by
  unfold execBridgeRetrainStart
  show Touches _ s _
  repeat' with_reducible first
    | apply Touches.refl | apply State.onBridge_touches | apply Touches.set | intro _
  all_goals
    intro p hp
    cases p with
    | bridge => exact absurd (by decide) hp
    | _ => rfl

theorem execBridgeRetrainEnd_touches (t : BundleTest) (s : State) :
    Answers (Touches [.free, .out, .mail, .ic, .msix, .errs, .fports, .bridge, .commons, .parts, .ctxs, .queues, .slots,
      .graphs, .folios, .atc, .reqs, .reqNo, .cores, .clusters, .lines] s) (execBridgeRetrainEnd t s) := by
  unfold execBridgeRetrainEnd
  show Touches _ s _
  dsimp only
  repeat' with_reducible first
    | apply Touches.refl | refine (State.dieError_touches ..).after ?_ | refine (State.icFire_touches ..).after ?_ | split
    | apply State.onBridge_touches | apply State.when_touches | apply Touches.set | intro _
  all_goals
    intro p hp
    cases p with
    | bridge => exact absurd (by decide) hp
    | _ => rfl

theorem execWidthReq_touches (r : Requester) (v : BitVec 64) (s : State) :
    Answers (Touches [.out, .bad, .bridge] s) (execWidthReq r v s) :=
  State.writeBridgeCtl_touches ..

theorem execRetrain_touches (r : Requester) (v : BitVec 64) (s : State) :
    Answers (Touches [.out, .bad, .bridge] s) (execRetrain r v s) :=
  .ite (State.writeBridgeCtl_touches ..) (.refl ..)

theorem execBridgeWidthChange_touches (s : State) :
    Answers (Touches [.ic, .bridge] s) (execBridgeWidthChange s) := by
  unfold execBridgeWidthChange
  show Touches _ s _
  dsimp only
  repeat' with_reducible first
    | apply Touches.refl | refine (State.icFire_touches ..).after ?_ | split | apply State.onBridge_touches
    | apply State.when_touches | apply Touches.set | intro _
  all_goals
    intro p hp
    cases p with
    | bridge => exact absurd (by decide) hp
    | _ => rfl

/-! ### Class1Cmds -/

theorem execPartitionReset_touches (ch : Nat) (s : State) :
    Answers (Touches resetParts s) (execPartitionReset ch s) :=
  State.whenLive_touches (.refl ..) fun _ => State.serveChecked_touches (.refl ..) fun _ _ => (State.startReset_touches
    ..).after ((State.modPart_touches ..).after ((State.park_touches ..).mono (by decide)))

theorem execQueueReset_touches (ch : Nat) (s : State) :
    Answers (Touches [.out, .mail, .msix, .errs, .fports, .commons, .parts, .ctxs, .queues, .slots, .graphs, .folios, .atc,
      .reqs, .cores, .clusters] s) (execQueueReset ch s) :=
  State.whenLive_touches (.refl ..) fun _ => State.serveChecked_touches (.refl ..) fun _ _ => .ite
    ((State.modQueue_touches ..).after ((State.park_touches ..).mono (by decide))) ((State.track_touches ..).after
    ((State.drainQueue_touches ..).after ((State.park_touches ..).mono (by decide))))

theorem execQueueStop_touches (ch : Nat) (s : State) :
    Answers (Touches [.out, .mail, .msix, .fports, .queues] s) (execQueueStop ch s) :=
  State.whenLive_touches (.refl ..) fun _ => State.serveChecked_touches (.refl ..) fun _ _ => State.when_touches (.refl
    ..) fun _ => (State.accept_touches ..).after ((State.mgmtStopQueue_touches ..).mono (by decide))

theorem execQueueStopResume_touches (ch : Nat) (s : State) :
    Answers (Touches [.out, .mail, .msix, .fports, .queues] s) (execQueueStopResume ch s) :=
  State.whenLive_touches (.refl ..) fun _ => State.serveChecked_touches (.refl ..) fun _ _ => State.when_touches (.refl
    ..) fun _ => (State.accept_touches ..).after ((State.mgmtResumeQueue_touches ..).mono (by decide))

theorem execErrorLogRead_touches (ch : Nat) (s : State) :
    Answers (Touches [.out, .mail, .ic, .errs, .fports] s) (execErrorLogRead ch s) :=
  State.whenLive_touches (.refl ..) fun _ => State.serveChecked_touches (.refl ..) fun _ _ => (State.accept_touches
    ..).after ((State.drainErrors_touches ..).mono (by decide))

theorem execFolioRepair_touches (ch : Nat) (source readBack : List (BitVec 288)) (s : State) :
    Answers (Touches [.free, .out, .mail, .errs, .fports, .parts, .folios, .reqs, .reqNo] s) (execFolioRepair ch source
      readBack s) := by
  unfold execFolioRepair
  show Touches _ s _
  dsimp only
  repeat' with_reducible first
    | apply Touches.refl | refine (State.accept_touches ..).after ?_ | refine (State.endRepair_touches ..).after ?_
    | refine (State.writeBack_touches ..).after ?_ | apply Touches.foldl | split | refine State.serveChecked_touches ?_ ?_
    | apply State.whenLive_touches | intro _

/-! ### Class2Cmds -/

theorem execSpdmMessage_touches (ch : Nat) (s : State) :
    Answers (Touches [.free, .out, .sec, .mail, .fports] s) (execSpdmMessage ch s) :=
  State.whenLive_touches (.refl ..) fun _ => State.serveChecked_touches (.refl ..) fun _ _ => .ite ((State.accept_touches
    ..).after ((State.setSession_touches ..).after ((State.draw_touches ..).mono (by decide)))) ((State.accept_touches
    ..).after ((State.setSession_touches ..).after ((State.draw_touches ..).mono (by decide))))

theorem execAttest_touches (ch : Nat) (s : State) :
    Answers (Touches [.out, .mail, .fports] s) (execAttest ch s) := by
  unfold execAttest
  show Touches _ s _
  dsimp only
  repeat' with_reducible first
    | apply Touches.refl | refine (State.accept_touches ..).after ?_ | refine (State.tooLong_touches ..).after ?_ | split
    | refine State.serveChecked_touches ?_ ?_ | apply State.whenLive_touches | intro _

theorem execKeyZeroise_touches (ch : Nat) (s : State) :
    Answers (Touches [.out, .sec, .mail, .ic, .msix, .errs, .fports, .commons, .parts, .ctxs, .queues, .slots, .graphs,
      .extents, .folios, .atc, .reqs, .cores, .clusters] s) (execKeyZeroise ch s) :=
  State.whenLive_touches (.refl ..) fun _ => State.serveChecked_touches (.refl ..) fun _ _ => (State.strike_touches
    ..).after ((State.modPart_touches ..).after ((State.park_touches ..).mono (by decide)))

theorem execSlotRetireCommand_touches (ch : Nat) (s : State) :
    Answers (Touches [.out, .sec, .mail, .fports] s) (execSlotRetireCommand ch s) := by
  unfold execSlotRetireCommand
  show Touches _ s _
  dsimp only
  repeat' with_reducible first
    | apply Touches.refl | refine (State.park_touches ..).after ?_ | refine State.serveChecked_touches ?_ ?_
    | apply State.whenLive_touches | apply Touches.set | intro _
  all_goals
    intro p hp
    cases p with
    | sec => exact absurd (by decide) hp
    | _ => rfl

theorem execSignerRevoke_touches (ch : Nat) (s : State) :
    Answers (Touches [.out, .fuses, .mail, .fports] s) (execSignerRevoke ch s) := by
  unfold execSignerRevoke
  show Touches _ s _
  repeat' with_reducible first
    | apply Touches.refl | refine (State.accept_touches ..).after ?_ | refine State.serveChecked_touches ?_ ?_
    | apply State.whenLive_touches | apply Touches.set | intro _
  all_goals
    intro p hp
    cases p with
    | fuses => exact absurd (by decide) hp
    | _ => rfl

theorem execRollbackAdvance_touches (ch : Nat) (s : State) :
    Answers (Touches [.out, .fuses, .mail, .fports] s) (execRollbackAdvance ch s) := by
  unfold execRollbackAdvance
  show Touches _ s _
  dsimp only
  repeat' with_reducible first
    | apply Touches.refl | refine (State.accept_touches ..).after ?_ | refine State.serveChecked_touches ?_ ?_
    | apply State.whenLive_touches | apply Touches.set | intro _
  all_goals
    intro p hp
    cases p with
    | fuses => exact absurd (by decide) hp
    | _ => rfl

theorem execFwReboot_touches (ch : Nat) (s : State) :
    Answers (Touches [.out, .mail, .fports] s) (execFwReboot ch s) :=
  State.whenLive_touches (.refl ..) fun _ => State.serveChecked_touches (.refl ..) fun _ _ => State.accept_touches ..

theorem execRequesterSet_touches (ch : Nat) (s : State) :
    Answers (Touches [.out, .sec, .mail, .fports] s) (execRequesterSet ch s) := by
  unfold execRequesterSet
  show Touches _ s _
  dsimp only
  repeat' with_reducible first
    | apply Touches.refl | refine (State.accept_touches ..).after ?_ | split | refine State.serveChecked_touches ?_ ?_
    | apply State.when_touches | apply State.whenLive_touches | apply Touches.set | intro _
  all_goals
    intro p hp
    cases p with
    | sec => exact absurd (by decide) hp
    | _ => rfl

theorem execRequesterSetRemove_touches (ch : Nat) (s : State) :
    Answers (Touches [.out, .sec, .mail, .fports] s) (execRequesterSetRemove ch s) := by
  unfold execRequesterSetRemove
  show Touches _ s _
  dsimp only
  repeat' with_reducible first
    | apply Touches.refl | refine (State.accept_touches ..).after ?_ | refine State.serveChecked_touches ?_ ?_
    | apply State.when_touches | apply State.whenLive_touches | apply Touches.set | intro _
  all_goals
    intro p hp
    cases p with
    | sec => exact absurd (by decide) hp
    | _ => rfl

theorem execOwnerSet_touches (ch : Nat) (s : State) :
    Answers (Touches [.out, .fuses, .mail, .fports] s) (execOwnerSet ch s) := by
  unfold execOwnerSet
  show Touches _ s _
  dsimp only
  repeat' with_reducible first
    | apply Touches.refl | refine (State.accept_touches ..).after ?_ | refine State.serveChecked_touches ?_ ?_
    | apply State.whenLive_touches | apply Touches.set | intro _
  all_goals
    intro p hp
    cases p with
    | fuses => exact absurd (by decide) hp
    | _ => rfl

/-! ### CtxCmds -/

theorem execContextCreate_touches (ch : Nat) (s : State) :
    Answers (Touches [.out, .mail, .fports, .ctxs] s) (execContextCreate ch s) := by
  unfold execContextCreate
  show Touches _ s _
  repeat' with_reducible first
    | apply Touches.refl | refine (State.accept_touches ..).after ?_ | refine State.serveChecked_touches ?_ ?_
    | apply State.whenLive_touches | apply Touches.set | intro _
  all_goals
    intro p hp
    cases p with
    | ctxs => exact absurd (by decide) hp
    | _ => rfl

theorem execContextDelete_touches (ch : Nat) (s : State) :
    Answers (Touches [.out, .mail, .errs, .fports, .ctxs, .seqs, .folios, .atc, .xlats, .faults, .inbound, .reqs, .cores] s)
      (execContextDelete ch s) :=
  State.whenLive_touches (.refl ..) fun _ => State.serveChecked_touches (.refl ..) fun _ _ => (State.accept_touches
    ..).after ((State.deleteContext_touches ..).mono (by decide))

theorem execContextSet_touches (ch : Nat) (s : State) :
    Answers (Touches [.out, .mail, .fports, .ctxs] s) (execContextSet ch s) :=
  State.whenLive_touches (.refl ..) fun _ => State.serveChecked_touches (.refl ..) fun _ _ => (State.accept_touches
    ..).after ((State.modCtx_touches ..).mono (by decide))

theorem execQueueCreate_touches (ch : Nat) (s : State) :
    Answers (Touches [.out, .mail, .msix, .fports, .queues] s) (execQueueCreate ch s) :=
  State.whenLive_touches (.refl ..) fun _ => State.serveChecked_touches (.refl ..) fun _ _ => (State.accept_touches
    ..).after ((State.pushWrite_touches ..).after ((State.writeWord_touches ..).after ((State.modQueue_touches ..).mono
    (by decide))))

theorem execQueueDelete_touches (ch : Nat) (s : State) :
    Answers (Touches [.out, .mail, .msix, .errs, .fports, .commons, .parts, .ctxs, .queues, .slots, .graphs, .folios, .atc,
      .reqs, .cores, .clusters] s) (execQueueDelete ch s) :=
  State.whenLive_touches (.refl ..) fun _ => State.serveChecked_touches (.refl ..) fun _ _ => .ite
    ((State.modQueue_touches ..).after ((State.park_touches ..).mono (by decide))) ((State.track_touches ..).after
    ((State.drainQueue_touches ..).after ((State.park_touches ..).mono (by decide))))

theorem execInboundWindowSet_touches (ch : Nat) (s : State) :
    Answers (Touches [.out, .mail, .errs, .fports, .folios, .atc, .inbound] s) (execInboundWindowSet ch s) := by
  unfold execInboundWindowSet
  show Touches _ s _
  dsimp only
  repeat' with_reducible first
    | apply Touches.refl | refine (State.accept_touches ..).after ?_ | refine (State.dropWindows_touches ..).after ?_
    | refine (State.modFolio_touches ..).after ?_ | split | refine State.serveChecked_touches ?_ ?_
    | apply State.whenLive_touches | apply Touches.set | intro _
  all_goals
    intro p hp
    cases p with
    | inbound => exact absurd (by decide) hp
    | _ => rfl

theorem execPowerCapSet_touches (ch : Nat) (s : State) :
    Answers (Touches [.out, .mail, .power, .fports] s) (execPowerCapSet ch s) := by
  unfold execPowerCapSet
  show Touches _ s _
  repeat' with_reducible first
    | apply Touches.refl | refine (State.accept_touches ..).after ?_ | refine State.serveChecked_touches ?_ ?_
    | apply State.whenLive_touches | apply Touches.set | intro _
  all_goals
    intro p hp
    cases p with
    | power => exact absurd (by decide) hp
    | _ => rfl

theorem execMbGroupPower_touches (ch : Nat) (s : State) :
    Answers (Touches [.out, .mail, .fports] s) (execMbGroupPower ch s) := by
  unfold execMbGroupPower
  show Touches _ s _
  dsimp only
  repeat' with_reducible first
    | apply Touches.refl | refine (State.accept_touches ..).after ?_ | refine State.serveChecked_touches ?_ ?_
    | apply State.whenLive_touches | apply Touches.set | intro _
  all_goals
    intro p hp
    cases p with
    | mail => exact absurd (by decide) hp
    | _ => rfl

/-! ### PartCmds -/

theorem execPartitionCreate_touches (ch : Nat) (s : State) :
    Answers (Touches [.out, .sec, .mail, .fports, .parts] s) (execPartitionCreate ch s) := by
  unfold execPartitionCreate
  show Touches _ s _
  dsimp only
  repeat' with_reducible first
    | apply Touches.refl | refine (State.accept_touches ..).after ?_ | refine (State.newInstance_touches ..).after ?_
    | refine State.serveChecked_touches ?_ ?_ | apply State.whenLive_touches | apply Touches.set | intro _
  all_goals
    intro p hp
    cases p with
    | parts => exact absurd (by decide) hp
    | _ => rfl

theorem execPartitionDestroy_touches (ch : Nat) (s : State) :
    Answers (Touches resetParts s) (execPartitionDestroy ch s) :=
  State.whenLive_touches (.refl ..) fun _ => State.serveChecked_touches (.refl ..) fun _ _ => State.startDestroy_touches
    ..

theorem execLayoutChange_touches (ch : Nat) (s : State) :
    Answers (Touches [.out, .mail, .fports, .parts] s) (execLayoutChange ch s) := by
  unfold execLayoutChange
  show Touches _ s _
  dsimp only
  repeat' with_reducible first
    | apply Touches.refl | refine (State.accept_touches ..).after ?_ | refine (State.modPart_touches ..).after ?_ | split
    | refine State.serveChecked_touches ?_ ?_ | apply State.whenLive_touches | intro _

theorem execPartitionSet_touches (ch : Nat) (s : State) :
    Answers (Touches [.out, .mail, .fports, .parts] s) (execPartitionSet ch s) :=
  State.whenLive_touches (.refl ..) fun _ => State.serveChecked_touches (.refl ..) fun _ _ => (State.accept_touches
    ..).after ((State.modPart_touches ..).mono (by decide))

theorem execRegulatorSet_touches (ch : Nat) (s : State) :
    Answers (Touches [.out, .mail, .fports, .parts] s) (execRegulatorSet ch s) :=
  State.whenLive_touches (.refl ..) fun _ => State.serveChecked_touches (.refl ..) fun _ _ => (State.accept_touches
    ..).after ((State.modPart_touches ..).mono (by decide))

/-! ### Readback -/

theorem execScRbIndex_touches (r : Requester) (lane : Nat) (v : BitVec 64) (s : State) :
    Answers (Touches [.out, .bad, .lanes] s) (execScRbIndex r lane v s) :=
  State.access_touches (.refl ..) fun _ => .ite ((State.badAccess_touches ..).mono (by decide)) (State.when_touches
    (.refl ..) fun _ => (State.modLane_touches ..).mono (by decide))

theorem execCaptureDone_touches (r : Requester) (lane : Nat) (s : State) :
    Answers (Touches [.free, .lanes] s) (execCaptureDone r lane s) := by
  unfold execCaptureDone
  show Touches _ s _
  dsimp only
  repeat' with_reducible first
    | apply Touches.refl | refine (State.draw_touches ..).after ?_ | refine (State.modLane_touches ..).after ?_ | split
    | apply State.whenLive_touches | intro _

/-! ### RegisterCmds -/

theorem execGraphRegister_touches (ch : Nat) (image : Bytes) (clean : Bool) (s : State) :
    Answers (Touches [.out, .mail, .fports, .graphs] s) (execGraphRegister ch image clean s) := by
  unfold execGraphRegister
  show Touches _ s _
  dsimp only
  repeat' with_reducible first
    | apply Touches.refl | refine (State.accept_touches ..).after ?_ | split | refine State.serveChecked_touches ?_ ?_
    | apply State.whenLive_touches | refine State.withImage_touches ?_ ?_ | apply Touches.set | intro _
  all_goals
    intro p hp
    cases p with
    | graphs => exact absurd (by decide) hp
    | _ => rfl

theorem execGraphPatch_touches (ch : Nat) (image : Bytes) (clean : Bool) (s : State) :
    Answers (Touches [.out, .mail, .fports, .graphs] s) (execGraphPatch ch image clean s) := by
  unfold execGraphPatch
  show Touches _ s _
  dsimp only
  repeat' with_reducible first
    | apply Touches.refl | refine (State.accept_touches ..).after ?_ | refine (State.modGraph_touches ..).after ?_ | split
    | refine State.serveChecked_touches ?_ ?_ | apply State.whenLive_touches | refine State.withImage_touches ?_ ?_
    | intro _

theorem execGraphUnregister_touches (ch : Nat) (s : State) :
    Answers (Touches [.out, .mail, .fports, .graphs] s) (execGraphUnregister ch s) := by
  unfold execGraphUnregister
  show Touches _ s _
  repeat' with_reducible first
    | apply Touches.refl | refine (State.accept_touches ..).after ?_ | refine (State.modGraph_touches ..).after ?_ | split
    | refine State.serveChecked_touches ?_ ?_ | apply State.whenLive_touches | intro _

theorem execFolioRegister_touches (ch : Nat) (s : State) :
    Answers (Touches [.out, .mail, .fports, .folios] s) (execFolioRegister ch s) := by
  unfold execFolioRegister
  show Touches _ s _
  dsimp only
  repeat' with_reducible first
    | apply Touches.refl | refine (State.accept_touches ..).after ?_ | split | refine State.serveChecked_touches ?_ ?_
    | apply State.whenLive_touches | apply Touches.set | intro _
  all_goals
    intro p hp
    cases p with
    | folios => exact absurd (by decide) hp
    | _ => rfl

theorem execFolioSet_touches (ch : Nat) (s : State) :
    Answers (Touches [.out, .mail, .errs, .fports, .ctxs, .folios, .atc, .inbound] s) (execFolioSet ch s) := by
  unfold execFolioSet
  show Touches _ s _
  dsimp only
  repeat' with_reducible first
    | apply Touches.refl | refine (State.accept_touches ..).after ?_ | refine (State.dropPublishers_touches ..).after ?_
    | refine (State.dropReaders_touches ..).after ?_ | refine (State.modFolio_touches ..).after ?_ | split
    | refine State.serveChecked_touches ?_ ?_ | apply State.whenLive_touches | intro _

theorem execFolioLookup_touches (ch : Nat) (s : State) :
    Answers (Touches [.out, .mail, .fports] s) (execFolioLookup ch s) := by
  unfold execFolioLookup
  show Touches _ s _
  dsimp only
  repeat' with_reducible first
    | apply Touches.refl | refine (State.accept_touches ..).after ?_ | split | refine State.serveChecked_touches ?_ ?_
    | apply State.whenLive_touches | intro _

theorem execFolioUnregister_touches (ch : Nat) (s : State) :
    Answers (Touches [.out, .mail, .errs, .fports, .folios, .atc] s) (execFolioUnregister ch s) := by
  unfold execFolioUnregister
  show Touches _ s _
  repeat' with_reducible first
    | apply Touches.refl | refine (State.accept_touches ..).after ?_ | refine (State.modFolio_touches ..).after ?_
    | refine (State.sweepFolio_touches ..).after ?_ | split | refine State.serveChecked_touches ?_ ?_
    | apply State.whenLive_touches | intro _

/-! ### ResetCmds -/

theorem execPartitionResetStart_touches (p : Nat) (t : ResetTrigger) (s : State) :
    Answers (Touches resetParts s) (execPartitionResetStart p t s) :=
  State.whenLive_touches (.refl ..) fun _ => State.startReset_touches ..

theorem execPartitionResetDrainDone_touches (p : Nat) (s : State) :
    Answers (Touches [.free, .out, .mail, .msix, .errs, .fports, .parts, .ctxs, .queues, .slots, .graphs, .seqs, .extents,
      .folios, .atc, .xlats, .faults, .inbound, .reqs, .reqNo, .cores, .clusters, .lines] s) (execPartitionResetDrainDone p
      s) := by
  unfold execPartitionResetDrainDone
  show Touches _ s _
  dsimp only
  repeat' with_reducible first
    | apply Touches.refl | refine (State.dismantle_touches ..).after ?_
    | refine (State.dropTranslations_touches ..).after ?_ | refine (State.flushPart_touches ..).after ?_
    | refine (State.modPart_touches ..).after ?_ | refine (State.writeDump_touches ..).after ?_ | split
    | apply State.when_touches | apply State.whenLive_touches | intro _

theorem execPartitionResetEnd_touches (p : Nat) (s : State) :
    Answers (Touches resetParts s) (execPartitionResetEnd p s) :=
  State.whenLive_touches (.refl ..) fun _ => State.when_touches (.refl ..) fun _ => (State.track_touches ..).after
    (State.endReset_touches ..)

theorem execLayoutClearingDone_touches (p : Nat) (s : State) :
    Answers (Touches [.free, .out, .sec, .mail, .fports, .parts, .atc, .reqs, .reqNo, .cores, .lines] s)
      (execLayoutClearingDone p s) :=
  State.whenLive_touches (.refl ..) fun _ => .ite (State.when_touches (.refl ..) fun _ => (State.endDestroy_touches
    ..).mono (by decide)) (State.when_touches (.refl ..) fun _ => (State.endClearing_touches ..).mono (by decide))

theorem execRevocationDrainBound_touches (extent : Nat) (s : State) :
    Answers (Touches [.out, .mail, .msix, .errs, .fports, .commons, .parts, .ctxs, .queues, .slots, .graphs, .seqs, .extents,
      .folios, .atc, .reqs, .cores, .clusters] s) (execRevocationDrainBound extent s) := by
  unfold execRevocationDrainBound
  show Touches _ s _
  dsimp only
  repeat' with_reducible first
    | apply Touches.refl | refine (State.endWhere_touches ..).after ?_ | refine (State.modExtent_touches ..).after ?_
    | refine (State.revokeSeqs_touches ..).after ?_ | refine (State.settleFences_touches ..).after ?_
    | refine (State.track_touches ..).after ?_ | split | apply State.when_touches | apply State.whenLive_touches | intro _

theorem execRevocationInvalidated_touches (extent : Nat) (s : State) :
    Answers (Touches [.free, .out, .mail, .msix, .errs, .fports, .parts, .ctxs, .queues, .slots, .graphs, .extents, .folios,
      .atc, .reqs, .reqNo, .cores, .clusters, .lines] s) (execRevocationInvalidated extent s) :=
  State.whenLive_touches (.refl ..) fun _ => State.when_touches (.refl ..) fun _ => State.invalidated_touches ..

theorem execZeroingDone_touches (extent : Nat) (s : State) :
    Answers (Touches [.out, .extents] s) (execZeroingDone extent s) := by
  unfold execZeroingDone
  show Touches _ s _
  repeat' with_reducible first
    | apply Touches.refl | refine (State.emit_touches ..).after ?_ | split | apply State.when_touches
    | apply State.whenLive_touches | apply Touches.set | intro _
  all_goals
    intro p hp
    cases p with
    | extents => exact absurd (by decide) hp
    | _ => rfl

/-! ### SpdmCmds -/

theorem execGetVersion_touches (session : Nat) (s : State) :
    Answers (Touches [.free, .out, .sec] s) (execGetVersion session s) :=
  State.inOrderOf_touches (.refl ..) fun _ _ => (State.respondFree_touches ..).after ((State.setSession_touches ..).mono
    (by decide))

theorem execGetCapabilities_touches (session : Nat) (s : State) :
    Answers (Touches [.free, .out, .sec] s) (execGetCapabilities session s) :=
  State.inOrderOf_touches (.refl ..) fun _ _ => (State.respondFree_touches ..).after ((State.setSession_touches ..).mono
    (by decide))

theorem execNegotiateAlgorithms_touches (session : Nat) (common : Bool) (s : State) :
    Answers (Touches [.free, .out, .sec] s) (execNegotiateAlgorithms session common s) :=
  State.inOrderOf_touches (.refl ..) fun _ _ => (State.respondFree_touches ..).after ((State.setSession_touches ..).mono
    (by decide))

theorem execGetDigests_touches (session : Nat) (s : State) :
    Answers (Touches [.out] s) (execGetDigests session s) :=
  State.inOrderOf_touches (.refl ..) fun _ _ => State.respond_touches ..

theorem execGetCertificate_touches (session slot offset length : Nat) (s : State) :
    Answers (Touches [.out] s) (execGetCertificate session slot offset length s) := by
  unfold execGetCertificate
  show Touches _ s _
  repeat' with_reducible first
    | apply Touches.refl | refine (State.respond_touches ..).after ?_ | refine (State.spdmError_touches ..).after ?_
    | split | refine State.inOrderOf_touches ?_ ?_ | intro _

theorem execChallenge_touches (session slot : Nat) (nonce : BitVec 256) (s : State) :
    Answers (Touches [.out] s) (execChallenge session slot nonce s) := by
  unfold execChallenge
  show Touches _ s _
  repeat' with_reducible first
    | apply Touches.refl | refine (State.respond_touches ..).after ?_ | refine (State.spdmError_touches ..).after ?_
    | split | refine State.inOrderOf_touches ?_ ?_ | intro _

theorem execGetMeasurements_touches (session index slot : Nat) (sign : Bool) (nonce : BitVec 256) (s : State) :
    Answers (Touches [.out] s) (execGetMeasurements session index slot sign nonce s) := by
  unfold execGetMeasurements
  show Touches _ s _
  repeat' with_reducible first
    | apply Touches.refl | refine (State.respond_touches ..).after ?_ | refine (State.spdmError_touches ..).after ?_
    | split | refine State.inOrderOf_touches ?_ ?_ | intro _

theorem execKeyExchange_touches (session : Nat) (requester : Requester) (bound : Option Nat) (mutAuth : Bool) (s : State) :
    Answers (Touches [.free, .out, .sec] s) (execKeyExchange session requester bound mutAuth s) :=
  State.inOrderOf_touches (.refl ..) fun _ _ => (State.respondFree_touches ..).after ((State.setSession_touches ..).mono
    (by decide))

theorem execFinish_touches (session : Nat) (ok : Bool) (rootDigest : Option (BitVec 384)) (s : State) :
    Answers (Touches [.free, .out, .fuses, .sec, .msix, .fports, .parts, .queues] s) (execFinish session ok rootDigest s) := by
  unfold execFinish
  show Touches _ s _
  dsimp only
  repeat' with_reducible first
    | apply Touches.refl | refine (State.loseSession_touches ..).after ?_ | refine (State.respondFree_touches ..).after ?_
    | refine (State.setSession_touches ..).after ?_ | refine (State.spdmError_touches ..).after ?_ | split
    | refine State.inOrderOf_touches ?_ ?_ | apply Touches.set | intro _
  all_goals
    intro p hp
    cases p with
    | fuses => exact absurd (by decide) hp
    | _ => rfl

theorem execHeartbeat_touches (session : Nat) (s : State) :
    Answers (Touches [.out] s) (execHeartbeat session s) :=
  State.inOrderOf_touches (.refl ..) fun _ _ => State.respond_touches ..

theorem execKeyUpdate_touches (session : Nat) (s : State) :
    Answers (Touches [.out, .sec] s) (execKeyUpdate session s) :=
  State.inOrderOf_touches (.refl ..) fun _ _ => (State.respond_touches ..).after ((State.setSession_touches ..).mono (by
    decide))

theorem execEndSession_touches (session : Nat) (s : State) :
    Answers (Touches [.out, .sec, .msix, .fports, .parts, .queues] s) (execEndSession session s) :=
  State.inOrderOf_touches (.refl ..) fun _ _ => (State.loseSession_touches ..).after ((State.respond_touches ..).mono (by
    decide))

theorem execSpdmSessionLoss_touches (session : Nat) (s : State) :
    Answers (Touches [.out, .sec, .msix, .fports, .parts, .queues] s) (execSpdmSessionLoss session s) :=
  State.whenLive_touches (.refl ..) fun _ => State.when_touches (.refl ..) fun _ => State.loseSession_touches ..

theorem execChunkSend_touches (session _handle index : Nat) (chunk : Bytes) (last : Bool) (s : State) :
    Answers (Touches [.free, .out, .sec] s) (execChunkSend session _handle index chunk last s) := by
  unfold execChunkSend
  show Touches _ s _
  repeat' with_reducible first
    | apply Touches.refl | refine (State.respondFree_touches ..).after ?_ | refine (State.setSession_touches ..).after ?_
    | split | refine State.inOrderOf_touches ?_ ?_ | intro _

theorem execChunkGet_touches (session _handle index : Nat) (s : State) :
    Answers (Touches [.out, .sec] s) (execChunkGet session _handle index s) := by
  unfold execChunkGet
  show Touches _ s _
  dsimp only
  repeat' with_reducible first
    | apply Touches.refl | refine (State.respond_touches ..).after ?_ | refine (State.setSession_touches ..).after ?_
    | split | refine State.inOrderOf_touches ?_ ?_ | intro _

theorem execGetTdispVersion_touches (session p : Nat) (s : State) :
    Answers (Touches [.free, .out, .sec] s) (execGetTdispVersion session p s) :=
  State.onTdi_touches (.refl ..) fun _ => (State.respondFree_touches ..).mono (by decide)

theorem execGetTdispCapabilities_touches (session p : Nat) (s : State) :
    Answers (Touches [.free, .out, .sec] s) (execGetTdispCapabilities session p s) :=
  State.onTdi_touches (.refl ..) fun _ => (State.respondFree_touches ..).mono (by decide)

theorem execLockInterfaceRequest_touches (session p : Nat) (s : State) :
    Answers (Touches [.free, .out, .sec, .msix, .fports, .parts, .queues] s) (execLockInterfaceRequest session p s) :=
  State.onTdi_touches (.refl ..) fun _ => .ite ((State.respondFree_touches ..).after ((State.stopPartition_touches
    ..).after ((State.modPart_touches ..).mono (by decide)))) ((State.tdispError_touches ..).mono (by decide))

theorem execGetDeviceInterfaceReport_touches (session p : Nat) (s : State) :
    Answers (Touches [.out, .sec] s) (execGetDeviceInterfaceReport session p s) :=
  State.onTdi_touches (.refl ..) fun _ => (State.respond_touches ..).mono (by decide)

theorem execGetDeviceInterfaceState_touches (session p : Nat) (s : State) :
    Answers (Touches [.out, .sec] s) (execGetDeviceInterfaceState session p s) :=
  State.onTdi_touches (.refl ..) fun _ => (State.respond_touches ..).mono (by decide)

theorem execStartInterfaceRequest_touches (session p : Nat) (s : State) :
    Answers (Touches [.free, .out, .sec, .msix, .fports, .parts, .queues] s) (execStartInterfaceRequest session p s) :=
  State.onTdi_touches (.refl ..) fun _ => .ite ((State.respondFree_touches ..).after ((State.resumePartition_touches
    ..).after ((State.modPart_touches ..).mono (by decide)))) ((State.tdispError_touches ..).mono (by decide))

theorem execStopInterfaceRequest_touches (session p : Nat) (s : State) :
    Answers (Touches [.free, .out, .sec, .mail, .ic, .msix, .errs, .fports, .commons, .parts, .ctxs, .queues, .slots,
      .graphs, .folios, .atc, .reqs, .cores, .clusters] s) (execStopInterfaceRequest session p s) :=
  State.onTdi_touches (.refl ..) fun _ => (State.respondFree_touches ..).after (.ite ((State.modPart_touches ..).mono (by
    decide)) (.ite ((State.resumePartition_touches ..).after ((State.modPart_touches ..).after ((State.modPart_touches
    ..).mono (by decide)))) ((State.startReset_touches ..).after ((State.modPart_touches ..).after
    ((State.modPart_touches ..).mono (by decide))))))

theorem execIdeKmKeyProg_touches (session p keyBits : Nat) (s : State) :
    Answers (Touches [.free, .out, .sec, .parts] s) (execIdeKmKeyProg session p keyBits s) :=
  State.onTdi_touches (.refl ..) fun _ => (State.respondFree_touches ..).after ((State.modPart_touches ..).mono (by
    decide))

/-! ### Telemetry -/

theorem execFirmwareTelemetrySample_touches (s : State) :
    Answers (Touches [.out, .mail] s) (execFirmwareTelemetrySample s) := by
  unfold execFirmwareTelemetrySample
  show Touches _ s _
  repeat' with_reducible first
    | apply Touches.refl | refine (State.emit_touches ..).after ?_ | apply State.when_touches
    | apply State.whenLive_touches | apply Touches.set | intro _
  all_goals
    intro p hp
    cases p with
    | mail => exact absurd (by decide) hp
    | _ => rfl

theorem execTelemetryRead_touches (ch : Nat) (s : State) :
    Answers (Touches [.out, .mail, .fports] s) (execTelemetryRead ch s) :=
  State.whenLive_touches (.refl ..) fun _ => State.serveChecked_touches (.refl ..) fun _ _ => .ite (State.accept_touches
    ..) (State.tooLong_touches ..)

theorem execSnapshot_touches (ch : Nat) (s : State) :
    Answers (Touches [.free, .out, .mail, .fports] s) (execSnapshot ch s) := by
  unfold execSnapshot
  show Touches _ s _
  dsimp only
  repeat' with_reducible first
    | apply Touches.refl | refine (State.accept_touches ..).after ?_ | refine (State.draw_touches ..).after ?_
    | refine (State.emit_touches ..).after ?_ | split | refine State.serveChecked_touches ?_ ?_
    | apply State.whenLive_touches | intro _

theorem execPowerRead_touches (ch : Nat) (s : State) :
    Answers (Touches [.out, .mail, .fports] s) (execPowerRead ch s) :=
  State.whenLive_touches (.refl ..) fun _ => State.serveChecked_touches (.refl ..) fun _ _ => .ite (State.accept_touches
    ..) (State.tooLong_touches ..)

/-! ### Every command, every step -/

theorem exec_nested (i : Instr) (s : State) : Answers (fun t => s.ic.StacksNested → t.ic.StacksNested) (exec i s) :=
  match i with
  | .registerWrite r sp offset size v => (execRegisterWrite_touches r sp offset size v s).nested
  | .badScAccess r write offset size => (execBadScAccess_touches r write offset size s).nested
  | .scBadAccessRead r half => (execScBadAccessRead_touches r half s).nested
  | .scQcountsRead r q half => (execScQcountsRead_touches r q half s).nested
  | .scQdb r q v => (execScQdb_touches r q v s).nested
  | .doorbellTokenAccrual q => (execDoorbellTokenAccrual_touches q s).nested
  | .slotFetch q => (execSlotFetch_touches q s).nested
  | .slotArrival q d => (execSlotArrival_touches q d s).nested
  | .externalConstantsReadDone q seq d => (execExternalConstantsReadDone_touches q seq d s).nested
  | .overrideTableReadDone q seq d => (execOverrideTableReadDone_touches q seq d s).nested
  | .nop q seq => (execNop_touches q seq s).nested
  | .launch q seq => (execLaunch_touches q seq s).nested
  | .chainStore q seq d => (execChainStore_touches q seq d s).nested
  | .chainRun q seq => (execChainRun_touches q seq s).nested
  | .adviseNormal q seq => (execAdviseNormal_touches q seq s).nested
  | .adviseHot q seq => (execAdviseHot_touches q seq s).nested
  | .adviseCold q seq => (execAdviseCold_touches q seq s).nested
  | .adviseWillNeed q seq => (execAdviseWillNeed_touches q seq s).nested
  | .adviseDontNeed q seq => (execAdviseDontNeed_touches q seq s).nested
  | .adviseReleaseKeep q seq => (execAdviseReleaseKeep_touches q seq s).nested
  | .prefetchNearTier q seq => (execPrefetchNearTier_touches q seq s).nested
  | .prefetchClusterCache q seq => (execPrefetchClusterCache_touches q seq s).nested
  | .prefetchBoth q seq => (execPrefetchBoth_touches q seq s).nested
  | .adviceAck q seq => (execAdviceAck_touches q seq s).nested
  | .fenceQueue q seq => (execFenceQueue_touches q seq s).nested
  | .fenceContext q seq => (execFenceContext_touches q seq s).nested
  | .fenceFinish q seq => (execFenceFinish_touches q seq s).nested
  | .seqAdmit q seq => (execSeqAdmit_touches q seq s).nested
  | .seqRetireOne q seq => (execSeqRetireOne_touches q seq s).nested
  | .seqRetireGroup q seq => (execSeqRetireGroup_touches q seq s).nested
  | .seqRetireContext q seq => (execSeqRetireContext_touches q seq s).nested
  | .seqEntryFreed entry => (execSeqEntryFreed_touches entry s).nested
  | .folioOpenRead q seq resultMapped => (execFolioOpenRead_touches q seq resultMapped s).nested
  | .folioOpenDraft q seq resultMapped => (execFolioOpenDraft_touches q seq resultMapped s).nested
  | .folioClose q seq resultMapped => (execFolioClose_touches q seq resultMapped s).nested
  | .folioPublish q seq resultMapped => (execFolioPublish_touches q seq resultMapped s).nested
  | .pageListReadDone q seq d => (execPageListReadDone_touches q seq d s).nested
  | .phaseStart q seq phase => (execPhaseStart_touches q seq phase s).nested
  | .baste core => (execBaste_touches core s).nested
  | .tileStart core gathers => (execTileStart_touches core gathers s).nested
  | .contextSwitchDone core => (execContextSwitchDone_touches core s).nested
  | .tileCommitStart core work => (execTileCommitStart_touches core work s).nested
  | .commitPhaseEnd core => (execCommitPhaseEnd_touches core s).nested
  | .gatherReturn core request more => (execGatherReturn_touches core request more s).nested
  | .reductionApply cluster slice => (execReductionApply_touches cluster slice s).nested
  | .granuleCommit cluster => (execGranuleCommit_touches cluster s).nested
  | .sharedPageCopyDone folio version page => (execSharedPageCopyDone_touches folio version page s).nested
  | .memData port tag words => (execMemData_touches port tag words s).nested
  | .memAck port tag => (execMemAck_touches port tag s).nested
  | .backInval line => (execBackInval_touches line s).nested
  | .snoop line => (execSnoop_touches line s).nested
  | .launchFinish q seq => (execLaunchFinish_touches q seq s).nested
  | .queueWriteAccepted q => (execQueueWriteAccepted_touches q s).nested
  | .queueAreaAccessFail q area => (execQueueAreaAccessFail_touches q area s).nested
  | .interruptLost q => (execInterruptLost_touches q s).nested
  | .scQctlStop r q => (execScQctlStop_touches r q s).nested
  | .scQctlResume r q => (execScQctlResume_touches r q s).nested
  | .queueGuilty q admittedCopy => (execQueueGuilty_touches q admittedCopy s).nested
  | .monitorTick => (execMonitorTick_touches s).nested
  | .fallbackSwitch q seq => (execFallbackSwitch_touches q seq s).nested
  | .hemForcedTack q seq => (execHemForcedTack_touches q seq s).nested
  | .forcedTack core => (execForcedTack_touches core s).nested
  | .idleStrandsTimeout core => (execIdleStrandsTimeout_touches core s).nested
  | .abandonDone core => (execAbandonDone_touches core s).nested
  | .commonsSwitch ctx => (execCommonsSwitch_touches ctx s).nested
  | .commonsSwitchDone => (execCommonsSwitchDone_touches s).nested
  | .translationCompletion die slot a => (execTranslationCompletion_touches die slot a s).nested
  | .pageListFill die slot => (execPageListFill_touches die slot s).nested
  | .faultBatchFlush die ctx => (execFaultBatchFlush_touches die ctx s).nested
  | .faultRingWriteFail ctx => (execFaultRingWriteFail_touches ctx s).nested
  | .prgResponse group c => (execPrgResponse_touches group c s).nested
  | .faultRetry fault => (execFaultRetry_touches fault s).nested
  | .consumerPoll ctx => (execConsumerPoll_touches ctx s).nested
  | .consumerReadDone ctx count => (execConsumerReadDone_touches ctx count s).nested
  | .unresolvedFault q seq cause => (execUnresolvedFault_touches q seq cause s).nested
  | .atsInvalidateRequest tag pasid base length => (execAtsInvalidateRequest_touches tag pasid base length s).nested
  | .invalidationCompletion tag => (execInvalidationCompletion_touches tag s).nested
  | .inboundRequest endpoint window offset write len data => (execInboundRequest_touches endpoint window offset write len data s).nested
  | .fabricResponse request c => (execFabricResponse_touches request c s).nested
  | .fabricResponseTimeout request => (execFabricResponseTimeout_touches request s).nested
  | .hostWriteErrorAnswer q seq => (execHostWriteErrorAnswer_touches q seq s).nested
  | .hostReadErrorAnswer request => (execHostReadErrorAnswer_touches request s).nested
  | .linkHeld port => (execLinkHeld_touches port s).nested
  | .linkUp port => (execLinkUp_touches port s).nested
  | .linkUnencrypted port => (execLinkUnencrypted_touches port s).nested
  | .abortNoticeReceived group origin serial => (execAbortNoticeReceived_touches group origin serial s).nested
  | .frameBoundary => (execFrameBoundary_touches s).nested
  | .backgroundSlot ageing => (execBackgroundSlot_touches ageing s).nested
  | .scrubResult port addr found => (execScrubResult_touches port addr found s).nested
  | .msBoundary blockWatts clusterWatts => (execMsBoundary_touches blockWatts clusterWatts s).nested
  | .powerWindowEnd joules => (execPowerWindowEnd_touches joules s).nested
  | .timeStrobe v parity => (execTimeStrobe_touches v parity s).nested
  | .strobeTimeout => (execStrobeTimeout_touches s).nested
  | .reanchor => (execReanchor_touches s).nested
  | .wordUncorrectable place syndrome => (execWordUncorrectable_touches place syndrome s).nested
  | .poisonConsumed core from_ => (execPoisonConsumed_touches core from_ s).nested
  | .tileError core e => (execTileError_touches core e s).nested
  | .clusterQuarantine cluster => (execClusterQuarantine_touches cluster s).nested
  | .escalated d => (execEscalated_touches d s).nested
  | .mirrorServed cluster folio page word mirror back => (execMirrorServed_touches cluster folio page word mirror back s).nested
  | .mirrorCopyDone folio version => (execMirrorCopyDone_touches folio version s).nested
  | .errPop queue v => (execErrPop_touches queue v s).nested
  | .errQstatRead queue half => (execErrQstatRead_touches queue half s).nested
  | .partitionResetStart p t => (execPartitionResetStart_touches p t s).nested
  | .partitionResetDrainDone p => (execPartitionResetDrainDone_touches p s).nested
  | .partitionResetEnd p => (execPartitionResetEnd_touches p s).nested
  | .blockFatal die => (execBlockFatal_touches die s).nested
  | .revocationDrainBound extent => (execRevocationDrainBound_touches extent s).nested
  | .revocationInvalidated extent => (execRevocationInvalidated_touches extent s).nested
  | .zeroingDone extent => (execZeroingDone_touches extent s).nested
  | .scMbNotice r ch v => (execScMbNotice_touches r ch v s).nested
  | .noticeTake bobbin => (execNoticeTake_touches bobbin s).nested
  | .messageReadDone ch d => (execMessageReadDone_touches ch d s).nested
  | .capabilityCheck ch => (execCapabilityCheck_touches ch s).nested
  | .busyAnswer ch => (execBusyAnswer_touches ch s).nested
  | .replyPosted ch accepted => (execReplyPosted_touches ch accepted s).nested
  | .scMbAck r ch v => (execScMbAck_touches r ch v s).nested
  | .replyHoldExpiry ch => (execReplyHoldExpiry_touches ch s).nested
  | .capabilityExpiry capId => (execCapabilityExpiry_touches capId s).nested
  | .partitionReset ch => (execPartitionReset_touches ch s).nested
  | .queueReset ch => (execQueueReset_touches ch s).nested
  | .queueStop ch => (execQueueStop_touches ch s).nested
  | .queueStopResume ch => (execQueueStopResume_touches ch s).nested
  | .errorLogRead ch => (execErrorLogRead_touches ch s).nested
  | .folioRepair ch source readBack => (execFolioRepair_touches ch source readBack s).nested
  | .spdmMessage ch => (execSpdmMessage_touches ch s).nested
  | .attest ch => (execAttest_touches ch s).nested
  | .keyZeroise ch => (execKeyZeroise_touches ch s).nested
  | .signerRevoke ch => (execSignerRevoke_touches ch s).nested
  | .rollbackAdvance ch => (execRollbackAdvance_touches ch s).nested
  | .fwReboot ch => (execFwReboot_touches ch s).nested
  | .requesterSet ch => (execRequesterSet_touches ch s).nested
  | .requesterSetRemove ch => (execRequesterSetRemove_touches ch s).nested
  | .ownerSet ch => (execOwnerSet_touches ch s).nested
  | .partitionCreate ch => (execPartitionCreate_touches ch s).nested
  | .partitionDestroy ch => (execPartitionDestroy_touches ch s).nested
  | .layoutChange ch => (execLayoutChange_touches ch s).nested
  | .partitionSet ch => (execPartitionSet_touches ch s).nested
  | .regulatorSet ch => (execRegulatorSet_touches ch s).nested
  | .contextCreate ch => (execContextCreate_touches ch s).nested
  | .contextDelete ch => (execContextDelete_touches ch s).nested
  | .contextSet ch => (execContextSet_touches ch s).nested
  | .queueCreate ch => (execQueueCreate_touches ch s).nested
  | .queueDelete ch => (execQueueDelete_touches ch s).nested
  | .extentGrant ch => (execExtentGrant_touches ch s).nested
  | .extentRights ch => (execExtentRights_touches ch s).nested
  | .extentRevoke ch => (execExtentRevoke_touches ch s).nested
  | .inboundWindowSet ch => (execInboundWindowSet_touches ch s).nested
  | .powerCapSet ch => (execPowerCapSet_touches ch s).nested
  | .mbGroupPower ch => (execMbGroupPower_touches ch s).nested
  | .graphRegister ch image clean => (execGraphRegister_touches ch image clean s).nested
  | .graphPatch ch image clean => (execGraphPatch_touches ch image clean s).nested
  | .graphUnregister ch => (execGraphUnregister_touches ch s).nested
  | .folioRegister ch => (execFolioRegister_touches ch s).nested
  | .folioSet ch => (execFolioSet_touches ch s).nested
  | .folioLookup ch => (execFolioLookup_touches ch s).nested
  | .folioUnregister ch => (execFolioUnregister_touches ch s).nested
  | .telemetryRead ch => (execTelemetryRead_touches ch s).nested
  | .snapshot ch => (execSnapshot_touches ch s).nested
  | .powerRead ch => (execPowerRead_touches ch s).nested
  | .firmwareTelemetrySample => (execFirmwareTelemetrySample_touches s).nested
  | .extentCheckAnswer ch ok mcGroup => (execExtentCheckAnswer_touches ch ok mcGroup s).nested
  | .extentCheckTimeout ch => (execExtentCheckTimeout_touches ch s).nested
  | .extentRevokeReq grant partition => (execExtentRevokeReq_touches grant partition s).nested
  | .nearTierReport size => (execNearTierReport_touches size s).nested
  | .bootData data => (execBootData_touches data s).nested
  | .icDoorbellFire v => (execIcDoorbellFire_touches v s).nested
  | .icDoorbellDeassert v => (execIcDoorbellDeassert_touches v s).nested
  | .icAck core => (execIcAck_touches core s).nested
  | .icEoi core v => (execIcEoi_touches core v s).nested
  | .icSetPending v => (execIcSetPending_touches v s).nested
  | .icClearPending v => (execIcClearPending_touches v s).nested
  | .stormWindowExpiry source => (execStormWindowExpiry_touches source s).nested
  | .sleepReq => (execSleepReq_touches s).nested
  | .icWake pin => (execIcWake_touches pin s).nested
  | .msixUnmask entry => (execMsixUnmask_touches entry s).nested
  | .scTamperN held => (execScTamperN_touches held s).nested
  | .debugUnlockAttempt => (execDebugUnlockAttempt_touches s).nested
  | .classBGlitch die unit => (execClassBGlitch_touches die unit s).nested
  | .retireFuseBlown => (execRetireFuseBlown_touches s).nested
  | .partitionKeyRenewed p => (execPartitionKeyRenewed_touches p s).nested
  | .getVersion session => (execGetVersion_touches session s).nested
  | .getCapabilities session => (execGetCapabilities_touches session s).nested
  | .negotiateAlgorithms session common => (execNegotiateAlgorithms_touches session common s).nested
  | .getDigests session => (execGetDigests_touches session s).nested
  | .getCertificate session slot offset length => (execGetCertificate_touches session slot offset length s).nested
  | .challenge session slot nonce => (execChallenge_touches session slot nonce s).nested
  | .getMeasurements session index slot signed nonce => (execGetMeasurements_touches session index slot signed nonce s).nested
  | .keyExchange session requester bound mutAuth => (execKeyExchange_touches session requester bound mutAuth s).nested
  | .finish session ok rootDigest => (execFinish_touches session ok rootDigest s).nested
  | .heartbeat session => (execHeartbeat_touches session s).nested
  | .keyUpdate session => (execKeyUpdate_touches session s).nested
  | .endSession session => (execEndSession_touches session s).nested
  | .chunkSend session handle index chunk last => (execChunkSend_touches session handle index chunk last s).nested
  | .chunkGet session handle index => (execChunkGet_touches session handle index s).nested
  | .spdmSessionLoss session => (execSpdmSessionLoss_touches session s).nested
  | .getTdispVersion session p => (execGetTdispVersion_touches session p s).nested
  | .getTdispCapabilities session p => (execGetTdispCapabilities_touches session p s).nested
  | .lockInterfaceRequest session p => (execLockInterfaceRequest_touches session p s).nested
  | .getDeviceInterfaceReport session p => (execGetDeviceInterfaceReport_touches session p s).nested
  | .getDeviceInterfaceState session p => (execGetDeviceInterfaceState_touches session p s).nested
  | .startInterfaceRequest session p => (execStartInterfaceRequest_touches session p s).nested
  | .stopInterfaceRequest session p => (execStopInterfaceRequest_touches session p s).nested
  | .ideKmKeyProg session p keyBits => (execIdeKmKeyProg_touches session p keyBits s).nested
  | .scHardCapAssert held => (execScHardCapAssert_touches held s).nested
  | .scHardCapDeassert held => (execScHardCapDeassert_touches held s).nested
  | .thermalSample readings => (execThermalSample_touches readings s).nested
  | .coolantStop held => (execCoolantStop_touches held s).nested
  | .droopDetect core excess => (execDroopDetect_touches core excess s).nested
  | .scResetNAssert held => (execScResetNAssert_touches held s).nested
  | .scResetNDeassert held coolantOk hardCap => (execScResetNDeassert_touches held coolantOk hardCap s).nested
  | .romDone selfTestOk => (execRomDone_touches selfTestOk s).nested
  | .keysDone ok => (execKeysDone_touches ok s).nested
  | .imageChecked ageing => (execImageChecked_touches ageing s).nested
  | .memoryPortReady port => (execMemoryPortReady_touches port s).nested
  | .memoryPortTimeout port => (execMemoryPortTimeout_touches port s).nested
  | .trainingDone tests => (execTrainingDone_touches tests s).nested
  | .timeLimitExpiry => (execTimeLimitExpiry_touches s).nested
  | .bridgeFlitReplay bundle again => (execBridgeFlitReplay_touches bundle again s).nested
  | .bridgeRetrainStart bundle => (execBridgeRetrainStart_touches bundle s).nested
  | .bridgeRetrainEnd t => (execBridgeRetrainEnd_touches t s).nested
  | .widthReq r v => (execWidthReq_touches r v s).nested
  | .retrain r v => (execRetrain_touches r v s).nested
  | .bridgeWidthChange => (execBridgeWidthChange_touches s).nested
  | .scSignalsRead r half => (execScSignalsRead_touches r half s).nested
  | .scRbIndex r lane v => (execScRbIndex_touches r lane v s).nested
  | .captureDone r lane => (execCaptureDone_touches r lane s).nested
  | .slotRetireCommand ch => (execSlotRetireCommand_touches ch s).nested
  | .icStatusRead half => (execIcStatusRead_touches half s).nested
  | .bootReadTimeout => (execBootReadTimeout_touches s).nested
  | .thimbleDomainGlitch => (execThimbleDomainGlitch_touches s).nested
  | .partitionCertificateIssued p => (execPartitionCertificateIssued_touches p s).nested
  | .inputGlitch pin width => (execInputGlitch_touches pin width s).nested
  | .slewComplete => (execSlewComplete_touches s).nested
  | .faultRingWriteAccepted ctx => (execFaultRingWriteAccepted_touches ctx s).nested
  | .priEnable p => (execPriEnable_touches p s).nested
  | .regulatorTokenAccrual port => (execRegulatorTokenAccrual_touches port s).nested
  | .layoutClearingDone p => (execLayoutClearingDone_touches p s).nested

theorem nested_of_step {s t : State} (h : step s = .next t) (hn : s.ic.StacksNested) : t.ic.StacksNested := by
  cases hp : s.pending with
  | nil =>
    rw [step_of_idle hp] at h
    cases h
    exact hn
  | cons c cs =>
    have hc := exec_nested c { s with pending := cs }
    rw [← step_of_pending hp, h] at hc
    exact hc hn

/-- Settles O7: every command keeps the stacks nested, and a nested stack holds priorities below 16, each once. -/
theorem stepKeepsInterruptsNested : Obligations.StepKeepsInterruptsNested :=
  ⟨fun _ _ hn h => nested_of_step h hn, fun _ => IcCore.Nested.length_le⟩

end Sys2Proof.Machine
end

section
/-!
PROOFS (this file, a sitting of its own). What the proofs about single commands share: a command on a live block, a field that
is set, and an entry of a table that is changed.
-/
namespace Sys2Proof.Machine

open Sys2Proof

/-- A command that acts on a live block only. -/
theorem completes_live {i : Instr} {s : State} {f : State → State} {P : State → Prop} (hl : s.live = true)
    (he : exec i s = .next (s.whenLive f)) (hp : P (f s)) : Completes i s P :=
  ⟨f s, he.trans (congrArg _ (State.whenLive_live hl f)), hp⟩

/-- A command that acts on a live block only, and only under its own condition. -/
theorem completes_when {i : Instr} {s : State} {b : State → Bool} {f : State → State → State} {P : State → Prop}
    (hl : s.live = true) (he : exec i s = .next (s.whenLive fun s => s.when (b s) (f s))) (hb : b s = true) (hp : P (f s s)) :
    Completes i s P :=
  completes_live hl he (by rw [hb, State.when_true]; exact hp)

/-- A command that is known to touch some parts only keeps the others, whatever else is known of its effect. -/
theorem Completes.framed {i : Instr} {s : State} {P : State → Prop} {ps qs : List Part} (h : Completes i s P)
    (hf : Answers (Touches ps s) (exec i s)) (hsub : ps ⊆ qs) : Completes i s fun t => OnlyChanges qs s t ∧ P t := by
  obtain ⟨t, ht, hp⟩ := h
  rw [ht] at hf
  exact ⟨t, ht, hf.frame.mono hsub, hp⟩

/-- An access to a register of a live block. -/
theorem completes_access {i : Instr} {s : State} {r : Requester} {f : State → State} {P : State → Prop} (hl : s.live = true)
    (he : exec i s = .next (s.access r f)) (hp : P (f s)) : Completes i s P :=
  ⟨f s, he.trans (congrArg _ (access_of_live hl r f)), hp⟩

/-- An access to a register of a stopped block is answered with an error. -/
theorem completes_stopped {i : Instr} {s : State} {r : Requester} {f : State → State} {P : State → Prop}
    (hl : s.boot.stopped ≠ .no) (he : exec i s = .next (s.access r f)) (hp : P (s.emit (.errorResponse r))) : Completes i s P :=
  ⟨_, he.trans (congrArg _ (by simp [State.access, hl])), hp⟩

/-- A change of one queue: what it leaves, and what it makes of the queue. -/
theorem modQueue_only (s : State) (q : Nat) (f : Queue → Queue) :
    OnlyChanges [.queues] s (s.modQueue q f) ∧ (∀ x, x ≠ q → (s.modQueue q f).queue x = s.queue x)
      ∧ (s.modQueue q f).queue q = f (s.queue q) :=
  ⟨modQueue_frame s q f, fun _ h => State.queue_modQueue_ne s f h, State.queue_modQueue_same s q f⟩

end Sys2Proof.Machine
end

section
/-!
PROOFS (this file, a sitting of its own). The doorbells of the queues and their tokens (R158, R180).
-/
namespace Sys2Proof.Machine

open Sys2Proof

theorem bitsAt_top {v lo n : Nat} (h : v < 2 ^ (lo + n)) : bitsAt v lo n = v / 2 ^ lo := by
  rw [bitsAt, Nat.mod_eq_of_lt]
  exact Nat.div_lt_of_lt_mul (by rwa [← Nat.pow_add])

/-- A queue that takes no doorbells, or not this epoch's, counts the doorbell as stale. -/
theorem Queue.doorbell_stale {u : Queue} {epoch upper tail : Nat}
    (h : u.state = .disabled ∨ u.state = .draining ∨ epoch ≠ u.epoch) : u.doorbell epoch upper tail = .stale := by
  rw [Queue.doorbell]
  rcases h with h | h | h
  · simp [h]
  · simp [h]
  · exact ite_eq_left_iff.mpr fun _ => if_pos (bne_iff_ne.mpr h)

/-- What a doorbell makes of its queue, test by test (R158). -/
theorem Queue.ring_eq (u : Queue) (v : Nat) (hv : v < 2 ^ 32) :
    u.ring v =
      if u.state = .disabled ∨ u.state = .draining ∨ v / 2 ^ 16 % 2 ^ 8 ≠ u.epoch then
        { u with dbStale := min (u.dbStale + 1) 0xFFFF }
      else if v / 2 ^ 24 ≠ 0 ∨ u.ringSize ≤ v % 2 ^ 16 then { u with dbBad := min (u.dbBad + 1) 0xFFFF }
      else if u.ahead (v % 2 ^ 16) < u.ahead u.tail then { u with dbStale := min (u.dbStale + 1) 0xFFFF }
      else if u.ahead (v % 2 ^ 16) = u.ahead u.tail then u
      else if u.tokens ≠ 0 then { u with tail := v % 2 ^ 16, tokens := u.tokens - 1 }
      else { u with pendingTail := some (v % 2 ^ 16), dbAbsorbed := min (u.dbAbsorbed + 1) 0xFFFF, absorbedF := true } := by
  have htop : bitsAt v 24 8 = v / 2 ^ 24 := bitsAt_top hv
  have htail : bitsAt v 0 16 = v % 2 ^ 16 := by simp [bitsAt]
  have hepoch : bitsAt v 16 8 = v / 2 ^ 16 % 2 ^ 8 := rfl
  rw [Queue.ring, htop, htail, hepoch]
  by_cases hoff : u.state = .disabled ∨ u.state = .draining ∨ v / 2 ^ 16 % 2 ^ 8 ≠ u.epoch
  · rw [Queue.doorbell_stale hoff, if_pos hoff]
    rfl
  · rw [if_neg hoff]
    obtain ⟨hd, hr, he⟩ : u.state ≠ .disabled ∧ u.state ≠ .draining ∧ v / 2 ^ 16 % 2 ^ 8 = u.epoch := by
      simpa [not_or] using hoff
    simp only [Queue.doorbell, beq_iff_eq, hd, hr, he, bne_self_eq_false, Bool.false_eq_true, if_false,
      Bool.or_eq_true, bne_iff_ne, decide_eq_true_eq, satAdd, Queue.takeTail]
    by_cases hbad : v / 2 ^ 24 ≠ 0 ∨ u.ringSize ≤ v % 2 ^ 16
    · rw [if_pos hbad, if_pos hbad]
      rfl
    · rw [if_neg hbad, if_neg hbad]
      by_cases hback : u.ahead (v % 2 ^ 16) < u.ahead u.tail
      · rw [if_pos hback, if_pos hback]
        rfl
      · rw [if_neg hback, if_neg hback]
        by_cases hsame : u.ahead (v % 2 ^ 16) = u.ahead u.tail
        · rw [if_pos hsame, if_pos hsame]
          rfl
        · rw [if_neg hsame, if_neg hsame]
          rfl

/-- A token that accrues with no tail waiting is kept. -/
theorem Queue.accrue_of_none {u : Queue} (h : u.pendingTail = none) :
    u.accrue = { u with tokens := min 32 (u.tokens + 1), tokenCount := u.tokenCount + 1 } := by
  simp [Queue.accrue, h]

/-- A tail of an active queue that lies further on than its own is newer. -/
theorem Queue.doorbell_newer {u : Queue} {n : Nat} (ha : u.state = .active) (hn : n < u.ringSize)
    (hnew : u.ahead u.tail < u.ahead n) : u.doorbell u.epoch 0 n = .newer := by
  have hback : ¬ u.ahead n < u.ahead u.tail := by omega
  have hother : u.ahead n ≠ u.ahead u.tail := by omega
  simp [Queue.doorbell, ha, hn, hback, hother]

/-- A token that accrues with a newer tail waiting applies it. -/
theorem Queue.accrue_of_newer {u : Queue} {n : Nat} (h : u.pendingTail = some n) (ha : u.state = .active) (hn : n < u.ringSize)
    (hnew : u.ahead u.tail < u.ahead n) :
    u.accrue.tail = n ∧ u.accrue.pendingTail = none ∧ u.accrue.tokens = min 32 (u.tokens + 1) - 1 := by
  have hdb := Queue.doorbell_newer
    (u := { u with tokens := min 32 (u.tokens + 1), tokenCount := u.tokenCount + 1, pendingTail := none }) ha hn hnew
  have hpay : (min 32 (u.tokens + 1) != 0) = true := bne_iff_ne.mpr (by omega)
  simp only [Queue.accrue, h]
  rw [hdb]
  simp [Queue.takeTail, hpay]

theorem Queue.counts_cleared (u : Queue) :
    (u.countsCleared .low).counts = u.dbBad * 2 ^ 32 + u.resumeFailed * 2 ^ 48
      ∧ (u.countsCleared .high).counts = u.dbAbsorbed + u.dbStale * 2 ^ 16 ∧ (u.countsCleared .whole).counts = 0 := by
  simp [Queue.countsCleared, Queue.counts, readsLow, readsHigh]

theorem State.modQueue_emit_only (s : State) (q : Nat) (f : Queue → Queue) (o : Out) :
    OnlyChanges [.queues, .out] s ((s.modQueue q f).emit o) :=
  ((modQueue_frame s q f).mono (by decide)).trans ((emit_frame _ o).mono (by decide))

/-- Settles O18: each test of R158 by itself, and the tokens by whether a tail waits. -/
theorem doorbellsAndTheirTokens : Obligations.DoorbellsAndTheirTokens := by
  unfold Obligations.DoorbellsAndTheirTokens
  refine ⟨fun s r q v hl hr => ?ring, fun s q hl hd hp => ?kept, fun s q n hl hd hp ha hn hnew => ?applied,
    fun s r q half hl hr => ?read⟩
  case ring =>
    refine completes_access hl rfl ?_
    rw [if_pos hr]
    obtain ⟨hf, hne, hq⟩ := modQueue_only s q fun u => u.ring v.toNat
    exact ⟨hf, hne, hq.trans (Queue.ring_eq _ _ v.isLt)⟩
  case kept =>
    refine completes_live hl rfl ?_
    rw [hd, State.when_true]
    obtain ⟨hf, hne, hq⟩ := modQueue_only s q Queue.accrue
    exact ⟨hf, hne, hq.trans (Queue.accrue_of_none hp)⟩
  case applied =>
    refine completes_live hl rfl ?_
    rw [hd, State.when_true]
    obtain ⟨hf, -, hq⟩ := modQueue_only s q Queue.accrue
    rw [hq]
    exact ⟨hf, Queue.accrue_of_newer hp ha hn hnew⟩
  case read =>
    refine completes_access hl rfl ?_
    rw [if_pos hr]
    obtain ⟨-, hne, hq⟩ := modQueue_only s q fun u => u.countsCleared half
    have hq' : ((s.modQueue q fun u => u.countsCleared half).emit (.regValue r (halfOf half (s.queue q).counts))).queue q
        = (s.queue q).countsCleared half := hq
    obtain ⟨hlow, hhigh, hall⟩ := (s.queue q).counts_cleared
    rw [hq']
    exact ⟨s.modQueue_emit_only q _ _, rfl, hne, fun h => h ▸ hlow, fun h => h ▸ hhigh, fun h => h ▸ hall⟩

end Sys2Proof.Machine
end

section
/-!
PROOFS (this file, a sitting of its own). Reads of the registers (R9, R10, R26).
-/
namespace Sys2Proof.Machine

open Sys2Proof

/-- A read of a block that serves, in a group that is on, of an access that is in order. -/
theorem readServed {s : State} {r : Requester} {off size : Nat} (hl : s.live = true) (hdark : s.inDarkGroup r off = false)
    (hkind : s.accessKind r false off size = 0) (hkeep : readClears (placeOf r off) = false) {P : State → Prop}
    (hp : P (s.emit (.regValue r (s.readValue r off size)))) : Completes (.badScAccess r false off size) s P := by
  refine completes_access hl rfl ?_
  simp only [hdark, hkind, hkeep, bne_self_eq_false, Bool.false_eq_true, if_false, Bool.not_false, Bool.and_self,
    State.when_true]
  exact hp

/-- A register that shows itself to management only. -/
theorem State.statusReg_badAccess (s : State) (tee : Bool) :
    s.statusReg (.host tee) 0x100 = s.forMgmt (.host tee) s.bad.word := rfl

theorem State.statusReg_pins (s : State) (tee : Bool) :
    s.statusReg (.host tee) 0x630 = s.forMgmt (.host tee) s.pins.word := rfl

theorem State.forMgmt_mgmt {s : State} {r : Requester} (h : s.isMgmt r = true) (v : Nat) : s.forMgmt r v = v := if_pos h

theorem State.forMgmt_other {s : State} {r : Requester} (h : s.isMgmt r = false) (v : Nat) : s.forMgmt r v = 0 := by
  simp [State.forMgmt, h]

theorem halfOf_zero (h : Half) : halfOf h 0 = 0 := by cases h <;> rfl

/-- Settles O16: an access in order is served by its place; the two registers that management's reads clear, by the reader. -/
theorem servedReadsAnswerTheRegister : Obligations.ServedReadsAnswerTheRegister := by
  unfold Obligations.ServedReadsAnswerTheRegister
  refine ⟨fun s r off size hl hd hk hc => readServed hl hd hk hc rfl, fun s tee hl => ?time, fun s half tee hl hm hh => ?bad,
    fun s half tee hl hm => ?badOther, fun s half tee hl hm hh => ?pins, fun s half tee hl hm => ?pinsOther⟩
  case time =>
    exact readServed hl rfl rfl rfl rfl
  case bad =>
    refine completes_access hl rfl ?_
    simp only [State.viewAdmits, Bool.not_true, Bool.false_eq_true, if_false, hm, hh, Bool.and_self, if_true,
      State.statusReg_badAccess, State.forMgmt_mgmt hm]
    rfl
  case badOther =>
    refine completes_access hl rfl ?_
    simp only [State.viewAdmits, Bool.not_true, Bool.false_eq_true, if_false, hm, Bool.false_and,
      State.statusReg_badAccess, State.forMgmt_other hm, halfOf_zero]
  case pins =>
    refine completes_access hl rfl ?_
    simp only [State.viewAdmits, Bool.not_true, Bool.false_eq_true, if_false, hm, hh, Bool.and_self, if_true,
      State.statusReg_pins, State.forMgmt_mgmt hm]
    rfl
  case pinsOther =>
    refine completes_access hl rfl ?_
    simp only [State.viewAdmits, Bool.not_true, Bool.false_eq_true, if_false, hm, Bool.false_and,
      State.statusReg_pins, State.forMgmt_other hm, halfOf_zero]

end Sys2Proof.Machine
end

section
/-!
PROOFS (this file, a sitting of its own). Writes of the registers, and the accesses that are turned away (R26, R29).
-/
namespace Sys2Proof.Machine

open Sys2Proof

/-! ### Bits of a written word -/

theorem bitAt_toNat {w : Nat} (v : BitVec w) (i : Nat) : bitAt v.toNat i = v.getLsbD i := by
  simp [bitAt, bitsAt, BitVec.getLsbD, Nat.testBit_eq_decide_div_mod_eq, Bool.beq_eq_decide_eq]

theorem written_whole (off : Nat) (v : BitVec 64) : written off 8 v = v.toNat := rfl

/-! ### Accesses to the SC registers -/

/-- R29: an access that is turned away is counted, with its kind and bits [27:4] of its offset. -/
theorem State.badAccess_only (s : State) (kind off : Nat) :
    OnlyChanges [.bad] s (s.badAccess kind off) ∧ (s.badAccess kind off).bad.count = min (s.bad.count + 1) 0xFFFFFFFF
      ∧ (s.badAccess kind off).bad.lastKind = kind ∧ (s.badAccess kind off).bad.lastOffset = off / 16 % 2 ^ 24 := by
  refine ⟨fun p hp => ?_, rfl, rfl, rfl⟩
  cases p with
  | bad => exact absurd List.mem_cons_self hp
  | _ => rfl

/-- A read that is turned away is counted and answers zero. -/
theorem State.badRead_only (s : State) (r : Requester) (kind off : Nat) :
    OnlyChanges [.bad, .out] s (s.badRead r kind off) ∧ (s.badRead r kind off).out = .regValue r 0 :: s.out
      ∧ (s.badRead r kind off).bad.count = min (s.bad.count + 1) 0xFFFFFFFF
      ∧ (s.badRead r kind off).bad.lastKind = kind ∧ (s.badRead r kind off).bad.lastOffset = off / 16 % 2 ^ 24 := by
  obtain ⟨hf, hc, hk, ho⟩ := s.badAccess_only kind off
  exact ⟨(hf.mono (by decide)).trans ((emit_frame _ _).mono (by decide)), rfl, hc, hk, ho⟩

/-- A write of a block that serves, in a group that is on, that is in order. -/
theorem writeServed {s : State} {r : Requester} {off size : Nat} {v : BitVec 64} (hl : s.live = true)
    (hdark : s.inDarkGroup r off = false) (hkind : s.accessKind r true off size = 0) {P : State → Prop}
    (hp : P (s.writeSc off size v (placeOf r off))) : Completes (.registerWrite r .sc off size v) s P := by
  refine completes_access (r := r) hl rfl ?_
  simp only [hdark, hkind, bne_self_eq_false, Bool.false_eq_true, if_false]
  exact hp

/-! ### Where an offset lies -/

theorem placeOf_jobGroup (tee : Bool) {p : Nat} (hp : p < 64) : placeOf (.host tee) (0x20800 + 8 * p) = .status (0x800 + 8 * p) := by
  have h1 : ¬ 0x20800 + 8 * p < 0x10000 := by omega
  have h2 : ¬ 0x20800 + 8 * p < 0x20000 := by omega
  have h3 : 0x20800 + 8 * p < 0x30000 := by omega
  have h4 : 0x20800 + 8 * p - 0x20000 = 0x800 + 8 * p := by omega
  simp only [placeOf, scPlace, h1, h2, h3, h4, if_true, if_false]

theorem placeOf_queue (tee : Bool) {q reg : Nat} (hq : q < 4096) (hreg : reg < 0x1000) :
    placeOf (.host tee) (queueOffset q reg) = .queue q reg := by
  have h1 : ¬ queueOffset q reg < 0x10000 := by unfold queueOffset; omega
  have h2 : ¬ queueOffset q reg < 0x20000 := by unfold queueOffset; omega
  have h3 : ¬ queueOffset q reg < 0x30000 := by unfold queueOffset; omega
  have h4 : ¬ queueOffset q reg < 0x80000 := by unfold queueOffset; omega
  have h5 : 0x1000000 ≤ queueOffset q reg := by unfold queueOffset; omega
  have h6 : queueOffset q reg < 0x2000000 := by unfold queueOffset; omega
  have h7 : (queueOffset q reg - 0x1000000) / 0x1000 = q := by unfold queueOffset; omega
  have h8 : queueOffset q reg % 0x1000 = reg := by unfold queueOffset; omega
  simp [placeOf, scPlace, h1, h2, h3, h4, h5, h6, h7, h8]

/-! ### The writes that are in order -/

theorem accessKind_timeStatus {s : State} {tee : Bool} (hm : s.isMgmt (.host tee) = true) :
    s.accessKind (.host tee) true 0x20008 8 = 0 := by
  have hplace : placeOf (.host tee) 0x20008 = .status 8 := rfl
  simp [State.accessKind, hplace, State.regBytes, isStatusReg, State.permits, State.viewAdmits, hm, sizeOk]

theorem accessKind_jobGroup {s : State} {tee : Bool} {p : Nat} (hm : s.isMgmt (.host tee) = true) (hp : p < 64) :
    s.accessKind (.host tee) true (0x20800 + 8 * p) 8 = 0 := by
  have hreg : isStatusReg ((0x800 + 8 * p) / 8 * 8) = true := by
    have h1 : 0x800 ≤ (0x800 + 8 * p) / 8 * 8 := by omega
    have h2 : (0x800 + 8 * p) / 8 * 8 < 0xA00 := by omega
    simp [isStatusReg, h1, h2]
  have hend : 0x800 + 8 * p < 0xA00 := by omega
  have halign : (0x20800 + 8 * p) % 8 = 0 := by omega
  simp [State.accessKind, placeOf_jobGroup tee hp, State.regBytes, hreg, State.permits, State.viewAdmits, hm, hend, sizeOk,
    halign]

theorem accessKind_queueStatus {s : State} {tee : Bool} {q : Nat} (hq : q < 4096) (hr : s.reachesQueue (.host tee) q = true) :
    s.accessKind (.host tee) true (queueOffset q 8) 8 = 0 := by
  have halign : queueOffset q 8 % 8 = 0 := by unfold queueOffset; omega
  simp [State.accessKind, placeOf_queue tee hq, State.regBytes, State.permits, State.viewAdmits, hr, sizeOk, halign]

/-! ### The interrupt controller's registers -/

theorem Ic.core_writeSrc_src (c : Ic) (n w now : Nat) : (c.writeSrc n w now).src n = (c.src n).written w := by
  simp only [Ic.writeSrc, Ic.src_setSrc_same]

theorem Ic.src_writeSrc_ne (c : Ic) {n m : Nat} (w now : Nat) (h : m ≠ n) : (c.writeSrc n w now).src m = c.src m := by
  simp only [Ic.writeSrc]
  rw [Ic.src_setSrc_ne _ _ h]
  split <;> rfl

/-- A write of a source's register. -/
theorem State.writeBobbin_source {s : State} {n : Nat} {v : BitVec 64} (hn : n < 1024)
    (ha : absentSource s.fuses.full n = false) :
    s.writeBobbin (0x0C010000 + 8 * n) 8 v = { s with ic := s.ic.writeSrc n v.toNat s.time.now } := by
  have h1 : (0x0C010000 + 8 * n) % 8 = 0 := by omega
  have h2 : 0x0C010000 + 8 * n < 0x0C012000 := by omega
  have h3 : (0x0C010000 + 8 * n - 0x0C010000) / 8 = n := by omega
  simp [State.writeBobbin, written_whole, h1, h2, ha, State.when_true]

/-- A write of a core's PRIMASK. -/
theorem State.writeBobbin_primask {s : State} {k : Nat} {v : BitVec 64} (hk : k < 4) :
    s.writeBobbin (0x0C001018 + 0x100 * k) 8 v = { s with ic := s.ic.writePrimask k (v.toNat % 32) } := by
  have h1 : (0x0C001018 + 0x100 * k) % 8 = 0 := by omega
  have h2 : ¬ 0x0C010000 ≤ 0x0C001018 + 0x100 * k := by omega
  have h3 : 0x0C001000 ≤ 0x0C001018 + 0x100 * k := by omega
  have h4 : 0x0C001018 + 0x100 * k < 0x0C001400 := by omega
  have h5 : (0x0C001018 + 0x100 * k) % 0x100 = 0x18 := by omega
  have h6 : (0x0C001018 + 0x100 * k - 0x0C001000) / 0x100 = k := by omega
  have h7 : bitsAt v.toNat 0 5 = v.toNat % 32 := by simp [bitsAt]
  simp [State.writeBobbin, written_whole, h1, h2, h3, h4, h5, h6, h7]

/-! ### The MSI-X table -/

/-- Entry `e` with its address written by two dwords. -/
theorem MsixEntry.write_address (x : MsixEntry) (v : BitVec 64) :
    (x.write 0 (BitVec.ofNat 32 v.toNat)).write 1 (BitVec.ofNat 32 (v.toNat / 2 ^ 32)) = { x with address := v } := by
  have hv := v.isLt
  simp only [MsixEntry.write]
  congr 1
  apply BitVec.eq_of_toNat_eq
  simp only [BitVec.toNat_ofNat]
  omega

theorem tbl_put_put {α : Type} (t : Tbl α) (k : Nat) (a b : α) : Tbl.put (Tbl.put t k a) k b = Tbl.put t k b := by
  induction t with
  | nil => simp [Tbl.put]
  | cons e t ih =>
    obtain ⟨j, c⟩ := e
    simp only [Tbl.put]
    split_ifs <;> simp_all [Tbl.put]

/-- The two dwords of an address in the table. -/
theorem Msix.writeDword_address (m : Msix) {e : Nat} (he : e < 2048) (v : BitVec 64) :
    (m.writeDword (16 * e) (BitVec.ofNat 32 v.toNat)).writeDword (16 * e + 4) (BitVec.ofNat 32 (v.toNat / 2 ^ 32))
      = { m with entries := m.entries.put e { m.entries.getD e {} with address := v } } := by
  have h1 : 16 * e < 0x8000 := by omega
  have h2 : 16 * e + 4 < 0x8000 := by omega
  have h3 : 16 * e / 16 = e := by omega
  have h4 : (16 * e + 4) / 16 = e := by omega
  have h5 : 16 * e % 16 / 4 = 0 := by omega
  have h6 : (16 * e + 4) % 16 / 4 = 1 := by omega
  simp only [Msix.writeDword, h1, h2, h3, h4, h5, h6, if_true, tbl_getD_put_same, tbl_put_put, MsixEntry.write_address]

/-- An entry that asks for a message. -/
def MsixEntry.asks (e : MsixEntry) : Bool := e.pending && !e.masked

theorem Msix.due_eq_nil {m : Msix} : m.due = [] ↔ (m.enable = true → m.funcMask = false → ∀ x ∈ m.entries, x.2.asks = false) := by
  cases he : m.enable <;> cases hf : m.funcMask <;> simp [Msix.due, he, hf, MsixEntry.asks]

/-- An address that is written makes no message due. -/
theorem Msix.due_putAddress {m : Msix} (h : m.due = []) (e : Nat) (v : BitVec 64) :
    { m with entries := m.entries.put e { m.entries.getD e {} with address := v } : Msix }.due = [] := by
  rw [Msix.due_eq_nil] at h ⊢
  intro hen hfm x hx
  rcases tbl_mem_put hx with rfl | hx
  · cases hg : Tbl.get? m.entries e with
    | none => simp [Tbl.getD, hg, MsixEntry.asks]
    | some y =>
      have hy := h hen hfm _ (tbl_mem_get hg)
      simpa [Tbl.getD, hg, MsixEntry.asks] using hy
  · exact h hen hfm x hx

theorem State.flushMsix_of_due {s : State} (h : s.msix.due = []) : s.flushMsix = s := by simp [State.flushMsix, h]

theorem State.writeBar2_address {s : State} {e : Nat} (he : e < 2048) (hd : s.msix.due = []) (v : BitVec 64) :
    s.writeBar2 (16 * e) 8 v
      = { s with msix := { s.msix with entries := s.msix.entries.put e { s.msix.entries.getD e {} with address := v } } } := by
  have h1 : 16 * e % 8 = 0 := by omega
  simp only [State.writeBar2, h1, beq_self_eq_true, Bool.or_true, Bool.and_self, Bool.not_true, Bool.false_eq_true, if_false,
    if_true, Msix.writeDword_address _ he]
  exact State.flushMsix_of_due (Msix.due_putAddress hd e v)

theorem setMsix_frame (s : State) (m : Msix) : OnlyChanges [.msix] s { s with msix := m } := by
  intro p hp
  cases p with
  | msix => exact absurd List.mem_cons_self hp
  | _ => rfl

/-- Settles O17: what is turned away is counted by `badAccess`, and each write that is in order is traced to its place. -/
theorem registerAccessesReachTheirFieldOrAreCounted : Obligations.RegisterAccessesReachTheirFieldOrAreCounted := by
  unfold Obligations.RegisterAccessesReachTheirFieldOrAreCounted
  refine ⟨fun s r off size hl hd hk => ?badRead, fun s r off size hl hd hk => ?badWrite, fun s r off size w hl hd => ?dark,
    fun s r off size w hs => completes_stopped hs rfl rfl, fun s r q v hl hr => ?noQueue,
    fun s r q v hs => completes_stopped hs rfl rfl, fun s tee v hl hm => ?time, fun s tee p v hl hp hm => ?jobGroup,
    fun s tee q v hl hq hr hv => ?intLost, fun s r n v hl hn ha => ?source, fun s r k v hl hk ha => ?primask,
    fun s tee e v hl he hd => ?msix⟩
  case badRead =>
    refine completes_access hl rfl ?_
    simp only [hd, hk, Bool.false_eq_true, if_false, bne_iff_ne, ne_eq, not_false_eq_true, if_true, State.turnAway]
    exact s.badRead_only r _ off
  case badWrite =>
    refine completes_access hl rfl ?_
    simp only [hd, hk, Bool.false_eq_true, if_false, bne_iff_ne, ne_eq, not_false_eq_true, if_true, State.turnAway]
    exact s.badAccess_only _ off
  case dark =>
    refine completes_access hl rfl ?_
    rw [if_pos hd]
  case noQueue =>
    refine completes_access hl rfl ?_
    simp only [hr, Bool.false_eq_true, if_false]
    obtain ⟨hf, hc, hk, -⟩ := s.badAccess_only 2 (queueOffset q 0)
    exact ⟨hf, hc, hk⟩
  case time =>
    refine writeServed hl rfl (accessKind_timeStatus hm) ?_
    have hplace : placeOf (.host tee) 0x20008 = .status 8 := rfl
    simp only [hplace, State.writeSc, Time.clearSeen, written_whole, bitAt_toNat]
    rfl
  case jobGroup =>
    have hdark : s.inDarkGroup (.host tee) (0x20800 + 8 * p) = false := by simp [State.inDarkGroup, placeOf_jobGroup tee hp]
    refine writeServed hl hdark (accessKind_jobGroup hm hp) ?_
    have hwrite : s.writeSc (0x20800 + 8 * p) 8 v (.status (0x800 + 8 * p))
        = s.modPart p fun u => { u with jobGroup := bitsAt v.toNat 0 16 } := by
      have h1 : (0x800 + 8 * p) / 8 * 8 ≠ 8 := by omega
      have h2 : 0x800 + 8 * p < 0xA00 := by omega
      have h3 : (0x800 + 8 * p) % 8 = 0 := by omega
      simp [State.writeSc, written_whole, h1, h2, h3]
    rw [placeOf_jobGroup tee hp, hwrite]
    refine ⟨modPart_frame s p _, ?_, fun x hx => State.part_modPart_ne s _ hx⟩
    simp [bitsAt]
  case intLost =>
    have hdark : s.inDarkGroup (.host tee) (queueOffset q 8) = false := by simp [State.inDarkGroup, placeOf_queue tee hq]
    refine writeServed hl hdark (accessKind_queueStatus hq hr) ?_
    have hwrite : s.writeSc (queueOffset q 8) 8 v (.queue q 8) = s.modQueue q fun u => { u with intLost := false } := by
      simp [State.writeSc, written_whole, bitAt_toNat, hv]
    rw [placeOf_queue tee hq (by decide), hwrite]
    obtain ⟨hf, hne, hq⟩ := modQueue_only s q fun u => { u with intLost := false }
    exact ⟨hf, hq, hne⟩
  case source =>
    refine completes_live hl rfl ?_
    rw [State.writeBobbin_source hn ha]
    have hsrc := s.ic.core_writeSrc_src n v.toNat s.time.now
    refine ⟨setIc_frame s _, ?_, ?_, ?_, ?_, ?_, ?_, fun m hm => Ic.src_writeSrc_ne _ _ _ hm⟩
    all_goals simp [hsrc, Src.written, bitAt_toNat, bitsAt]
  case primask =>
    refine completes_live hl rfl ?_
    rw [State.writeBobbin_primask hk]
    have hcores : s.ic.writePrimask k (v.toNat % 32) = s.ic.setCore k { s.ic.core k with primask := v.toNat % 32 } := by
      simp [Ic.writePrimask, ha, Ic.setCore]
    rw [hcores]
    refine ⟨setIc_frame s _, ?_, ?_, fun j hj => Ic.core_setCore_ne _ _ hj, fun m => Ic.src_setCore _ _ _ _⟩ <;>
      rw [Ic.core_setCore_same]
  case msix =>
    refine completes_live hl rfl ?_
    simp only [State.writeBar2_address he hd]
    refine ⟨setMsix_frame s _, ?_, ?_, fun x hx => tbl_getD_put_ne _ _ _ hx⟩ <;> rw [tbl_getD_put_same]

end Sys2Proof.Machine
end

section
/-!
PROOFS (this file, a sitting of its own). The sources of the interrupt controller, its sleep, and the MSI-X table (R354, R359,
R361, R362, R364, R368).
-/
namespace Sys2Proof.Machine

open Sys2Proof

/-! ### Fires -/

theorem Ic.src_fire_zero_state (c : Ic) (now : Nat) : ((c.fire 0 now).src 0).state = (c.src 0).state.fired := by
  cases h : c.asleep with
  | true =>
    rw [Ic.src_fire_asleep h]
    rfl
  | false =>
    have hfire : c.fire 0 now = c.setSrc 0 (c.src 0).fireQuiet := by simp [Ic.fire, h]
    rw [hfire, Ic.src_setSrc_same]
    rfl

/-- A fire takes the state of its source on, whichever source it is. -/
theorem Ic.src_fire_fired (c : Ic) (n now : Nat) : ((c.fire n now).src n).state = (c.src n).state.fired := by
  by_cases hn : n = 0
  · subst hn
    exact c.src_fire_zero_state now
  · exact c.src_fire_state hn now

theorem level_ne_zero {n : Nat} (h : isLevelSource n = true) : n ≠ 0 := by
  rintro rfl
  exact absurd h (by decide)

/-- An asserting message of a level that was low fires the source. -/
theorem Ic.setLevel_true_low {c : Ic} {n : Nat} (h : (c.src n).level = false) (now : Nat) :
    c.setLevel n true now = (c.setSrc n { c.src n with level := true }).fire n now := by simp [Ic.setLevel, h]

theorem Ic.setLevel_false (c : Ic) (n now : Nat) :
    c.setLevel n false now
      = c.setSrc n { c.src n with level := false, state := if (c.src n).state = .pending then .inactive else (c.src n).state } :=
  rfl

/-- A change of one source and of nothing else. -/
theorem setSrc_only (s : State) (n : Nat) (r : Src) :
    OnlyChanges [.ic] s { s with ic := s.ic.setSrc n r } ∧ (s.ic.setSrc n r).src n = r
      ∧ ∀ m, m ≠ n → (s.ic.setSrc n r).src m = s.ic.src m :=
  ⟨setIc_frame s _, Ic.src_setSrc_same _ n r, fun _ hm => Ic.src_setSrc_ne _ r hm⟩

/-! ### Sleep -/

theorem Ic.candidate_asleep {c : Ic} (h : c.asleep = true) (k : Nat) : c.candidate k = none := by simp [Ic.candidate, h]

theorem Ic.src_wakeUp {c : Ic} (h : c.asleep = true) (n : Nat) : c.wakeUp.src n = c.src n := by simp [Ic.src, Ic.wakeUp, h]

/-! ### The MSI-X table -/

/-- Where no entry of a table passes a test, an entry that passes is the only one after it is put there. -/
theorem tbl_filter_put {α : Type} {t : Tbl α} {f : Nat × α → Bool} {k : Nat} {a : α} (ht : t.filter f = [])
    (ha : f (k, a) = true) : (Tbl.put t k a).filter f = [(k, a)] := by
  induction t with
  | nil => simp [Tbl.put, ha]
  | cons e t ih =>
    obtain ⟨j, b⟩ := e
    obtain ⟨hb, ht'⟩ : f (j, b) = false ∧ t.filter f = [] := by simpa using ht
    simp only [Tbl.put]
    split_ifs
    · simp [ha, ht']
    · simp [ha, hb, ht']
    · simp [hb, ih ht']

/-- Unmasking one pending entry makes its message due, and no other. -/
theorem Msix.due_unmask {m : Msix} {e : Nat} (hen : m.enable = true) (hfm : m.funcMask = false) (hd : m.due = [])
    (hp : (m.entries.getD e {}).pending = true) :
    { m with entries := m.entries.put e { m.entries.getD e {} with masked := false } : Msix }.due = [e] := by
  have hnone : m.entries.filter (fun x => x.2.pending && !x.2.masked) = [] := by simpa [Msix.due, hen, hfm] using hd
  generalize m.entries.getD e {} = x at hp ⊢
  have hone := tbl_filter_put (k := e) (a := { x with masked := false }) hnone (by simp [hp])
  simp [Msix.due, hen, hfm, hone]

theorem State.flushMsix_one {s : State} {e : Nat} (h : s.msix.due = [e]) :
    s.flushMsix = { s with
      msix := { s.msix with entries := s.msix.entries.put e { s.msix.entries.getD e {} with pending := false } } }.emit
        (.msix e) := by
  simp [State.flushMsix, h]

/-- Settles O15: by what a fire, a level and a clearing do to one source, and what each leaves of the others. -/
theorem interruptControllerKeepsItsSources : Obligations.InterruptControllerKeepsItsSources := by
  unfold Obligations.InterruptControllerKeepsItsSources
  refine ⟨fun s v hl ho hs he => ?edge, fun s v hl ho hs hlev hlow => ?low, fun s v hl ho hs hlev hhigh hi => ?cleared,
    fun s v hl ho hs hlev => ?deassert, fun s v hl => ?setPending, fun s v hl => ?clearPending,
    fun s n w hl hw hnow => ?window, fun s hl ha hw => ?refused, fun s hl ha hw => ?sleep, fun s hl ha => ?wake,
    fun s h hl => ?status, fun s e hl hen hfm hd _ hp => ?unmask⟩
  case edge =>
    refine completes_live hl rfl ?_
    simp only [ho, hs, he, beq_self_eq_true, Bool.and_self, Bool.false_and, Bool.false_eq_true, if_false, State.when_true]
    exact ⟨setIc_frame s _, s.ic.src_fire_fired _ _, fun m h0 hm => Ic.src_fire_ne _ h0 hm _⟩
  case low =>
    refine completes_live hl rfl ?_
    have hfire : (isLevelSource (dbSource v) && !(s.ic.src (dbSource v)).clearedHigh) = true := by
      simp [hlev, Src.clearedHigh, hlow]
    simp only [ho, hs, hfire, beq_self_eq_true, Bool.and_self, if_true, State.when_true, State.icLevel]
    refine ⟨setIc_frame s _, ?_, Ic.src_setLevel_true_level _ (level_ne_zero hlev) _, fun m h0 hm => ?_⟩
    · rw [Ic.setLevel_true_low hlow, Ic.src_fire_fired, Ic.src_setSrc_same]
    · rw [Ic.setLevel_true_low hlow, Ic.src_fire_ne _ h0 hm, Ic.src_setSrc_ne _ _ hm]
  case cleared =>
    refine completes_live hl rfl ?_
    have hfire : (isLevelSource (dbSource v) && !(s.ic.src (dbSource v)).clearedHigh) = false := by
      simp [hlev, Src.clearedHigh, hhigh, hi]
    simp only [ho, hs, hfire, beq_self_eq_true, Bool.and_self, Bool.false_eq_true, if_false, State.when_true, State.icFire]
    refine ⟨setIc_frame s _, ?_, ?_, fun m h0 hm => Ic.src_fire_ne _ h0 hm _⟩
    · rw [Ic.src_fire_fired, hi]
      rfl
    · rw [Ic.src_fire_level _ (level_ne_zero hlev), hhigh]
  case deassert =>
    refine completes_live hl rfl ?_
    simp only [ho, hs, hlev, beq_self_eq_true, Bool.and_self, State.when_true, State.icLevel, Ic.setLevel_false]
    obtain ⟨hf, hsame, hne⟩ := setSrc_only s (dbSource v) { s.ic.src (dbSource v) with
      level := false, state := if (s.ic.src (dbSource v)).state = .pending then .inactive else (s.ic.src (dbSource v)).state }
    refine ⟨hf, ?_, ?_, hne⟩ <;> rw [hsame]
  case setPending =>
    exact completes_live hl rfl (setSrc_only s _ _)
  case clearPending =>
    exact completes_live hl rfl (setSrc_only s _ _)
  case window =>
    refine completes_live hl rfl ?_
    simp only [hw, hnow, decide_true, State.when_true]
    exact setSrc_only s _ _
  case refused =>
    refine completes_live hl rfl ?_
    simp only [ha, Bool.not_false, State.when_true, Ic.sleep, hw, if_true]
  case sleep =>
    refine completes_live hl rfl ?_
    simp only [ha, Bool.not_false, State.when_true, Ic.sleep, hw, Bool.false_eq_true, if_false]
    exact ⟨setIc_frame s _, trivial, trivial, trivial, trivial, Ic.candidate_asleep rfl⟩
  case wake =>
    refine completes_live hl rfl ?_
    simp only [ha, Bool.true_or, Bool.and_self, State.when_true]
    exact ⟨setIc_frame s _, rfl, rfl, rfl, Ic.src_wakeUp ha⟩
  case status =>
    refine completes_live hl rfl ?_
    cases hh : readsHigh h with
    | true => exact ⟨((emit_frame s _).mono (by decide)).trans ((setIc_frame _ _).mono (by decide)), rfl, rfl⟩
    | false => exact ⟨(emit_frame s _).mono (by decide), rfl, rfl⟩
  case unmask =>
    refine completes_live hl rfl ?_
    dsimp only
    rw [State.flushMsix_one (Msix.due_unmask hen hfm hd hp)]
    refine ⟨((setMsix_frame s _).mono (by decide)).trans ((emit_frame _ _).mono (by decide)), rfl, ?_, ?_⟩
    · simp [State.emit]
    · simp [State.emit]

end Sys2Proof.Machine
end

section
/-!
PROOFS (this file, a sitting of its own). Strobes and the states of the time logic (R122, R124 to R126, R133 to R135).
-/
namespace Sys2Proof.Machine

open Sys2Proof

/-! ### A strobe by itself -/

/-- A strobe whose parity is good, no timeout being owed, is too early or is taken. -/
theorem exec_timeStrobe_good {s : State} {v : BitVec 64} {par : BitVec 8} (hl : s.live = true) (hr : s.time.released = true)
    (hp : parityOk v par = true) (ho : s.time.overdue = false) {P : State → Prop}
    (h : P (if s.time.lastStrobe.any (fun l => s.time.now - l < 500) then s.rejectStrobe.loseStrobe else s.acceptStrobe v.toNat)) :
    Completes (.timeStrobe v par) s P := by
  refine completes_live hl rfl ?_
  simp only [hr, State.when_true, hp, Bool.not_true, Bool.false_eq_true, if_false, ho]
  cases hlast : s.time.lastStrobe with
  | none => simpa [hlast] using h
  | some l =>
    by_cases hearly : s.time.now - l < 500
    · simpa [hlast, hearly] using h
    · simpa [hlast, hearly] using h

/-- A strobe in its time is taken. -/
theorem strobeTaken {s : State} {v : BitVec 64} {par : BitVec 8} (hl : s.live = true) (hr : s.time.released = true)
    (hp : parityOk v par = true) (ho : s.time.overdue = false) (he : s.time.lastStrobe.any (fun l => s.time.now - l < 500) = false)
    {P : State → Prop} (h : P (s.acceptStrobe v.toNat)) : Completes (.timeStrobe v par) s P :=
  exec_timeStrobe_good hl hr hp ho (by rwa [he])

theorem setTime_frame (s : State) (t : Time) : OnlyChanges [.time] s { s with time := t } := by
  intro p hp
  cases p with
  | time => exact absurd List.mem_cons_self hp
  | _ => rfl

/-- HOLDOVER is entered with its message of source 2. -/
theorem State.toHoldover_only (s : State) :
    OnlyChanges [.time, .ic] s s.toHoldover ∧ (s.toHoldover.ic.src 2).state = (s.ic.src 2).state.fired :=
  ⟨s.toHoldover_touches.frame, Ic.src_fire_fired _ _ _⟩

theorem State.toHoldover_time (s : State) :
    s.toHoldover.time = { s.time with state := .holdover, holdoverSeen := true, holdoverSince := some s.time.now
                                      holdovers := min (s.time.holdovers + 1) 0xFFFF } := rfl

theorem State.loseStrobe_locked {s : State} (h : s.time.state = .locked) :
    s.loseStrobe = { s with time := { s.time with goodRun := 0 } }.toHoldover := by
  simp [State.loseStrobe, h]

theorem State.loseStrobe_stepPending {s : State} (h : s.time.state = .stepPending) :
    s.loseStrobe = { s with time := { s.time with goodRun := 0, lostInStep := true } } := by
  simp [State.loseStrobe, h]

/-- The time logic after a strobe that is taken, before the strobe acts on it. -/
def Time.taken (t : Time) : Time := { t with lastStrobe := some t.now, expired := false, goodRun := t.goodRun + 1 }

theorem State.acceptStrobe_unlocked {s : State} (h : s.time.state = .unlocked) (v : Nat) :
    s.acceptStrobe v
      = if 16 ≤ s.time.goodRun + 1 then { s with time := s.time.taken }.lockTime v else { s with time := s.time.taken } := by
  simp only [State.acceptStrobe]
  split
  · rfl
  all_goals simp_all

theorem State.acceptStrobe_locked {s : State} (h : s.time.state = .locked) (v : Nat) :
    s.acceptStrobe v
      = if 1000 < (s.time.offset v).natAbs then { s with time := s.time.taken }.detectStep (s.time.offset v)
        else { s with time := { s.time.taken with
          slew := s.time.offset v, slewing := s.time.offset v != 0 || s.time.slewing } } := by
  simp only [State.acceptStrobe]
  split
  case h_3 => rfl
  all_goals simp_all

theorem State.acceptStrobe_holdover {s : State} (h : s.time.state = .holdover) (hg : 16 ≤ s.time.goodRun + 1) (v : Nat) :
    s.acceptStrobe v
      = if 1000 < (s.time.offset v).natAbs then { s with time := s.time.taken }.detectStep (s.time.offset v)
        else { s with time := { s.time.taken with
          state := .locked, holdoverSince := none, slew := s.time.offset v
          slewing := s.time.offset v != 0 || s.time.slewing } } := by
  have hg' : ¬ s.time.goodRun + 1 < 16 := by omega
  simp only [State.acceptStrobe, if_neg hg']
  split
  case h_2 => rfl
  all_goals simp_all

/-! ### The step -/

theorem State.part_of_get {s : State} {p : Nat} {u : Partition} (h : s.parts.get? p = some u) : s.part p = u := by
  simp [State.part, Tbl.getD, h]

theorem State.queue_of_get {s : State} {q : Nat} {u : Queue} (h : s.queues.get? q = some u) : s.queue q = u := by
  simp [State.queue, Tbl.getD, h]

/-- A step found while LOCKED: what it sets, counts and tells. -/
theorem State.detectStep_locked {s : State} {e : Int} (h : s.time.state = .locked) :
    OnlyChanges [.time, .parts, .queues, .ic] s (s.detectStep e) ∧ (s.detectStep e).time.state = .stepPending
      ∧ (s.detectStep e).time.delta = e ∧ (s.detectStep e).time.ct = s.time.ct
      ∧ (s.detectStep e).time.steps = min (s.time.steps + 1) 0xFFFF ∧ ((s.detectStep e).ic.src 1).state = (s.ic.src 1).state.fired
      ∧ (∀ p u, s.parts.get? p = some u → ((s.detectStep e).part p).events.timeSteps = min (u.events.timeSteps + 1) 0xFFFF)
      ∧ ∀ q u, s.queues.get? q = some u → u.state ≠ QState.disabled → ((s.detectStep e).queue q).stepF = true := by
  refine ⟨(State.detectStep_touches s e).frame.mono (by decide), rfl, ?_, rfl, rfl, Ic.src_fire_fired _ _ _, fun p u hp => ?_, fun q u hq hu => ?_⟩
  · simp [State.detectStep, State.icFire, h]
  · have hget : (s.detectStep e).parts.get? p
        = some { u with events := { u.events with timeSteps := satAdd 16 u.events.timeSteps 1 } } := by
      simp [State.detectStep, State.icFire, tbl_get_mapV, hp]
    rw [State.part_of_get hget]
    rfl
  · have hget : (s.detectStep e).queues.get? q = some { u with stepF := true } := by
      simp [State.detectStep, State.icFire, tbl_get_mapV, hq, hu]
    rw [State.queue_of_get hget]

/-- Settles O38: by the state of the time logic that the strobe meets. -/
theorem strobesSteerTheTimeLogic : Obligations.StrobesSteerTheTimeLogic := by
  unfold Obligations.StrobesSteerTheTimeLogic
  refine ⟨fun s v par hl hr hp hs => ?parity, fun s v par hl hr hp ho he hs hg => ?counted,
    fun s v par hl hr hp ho he hs hg hb => ?lock, fun s v par hl hr hp ho he hs => ?early,
    fun s v par hl hr hp ho he hs hd => ?slew, fun s v par hl hr hp ho he hs hd => ?step,
    fun s v par hl hr hp ho he hs hg hd => ?relock⟩
  case parity =>
    refine completes_live hl rfl ?_
    have hs' : s.rejectStrobe.time.state ≠ .stepPending := hs
    show _ = s.rejectStrobe
    simp only [hr, State.when_true, hp, Bool.not_false, if_true, if_neg hs']
  case counted =>
    refine strobeTaken hl hr hp ho he ?_
    rw [State.acceptStrobe_unlocked hs, if_neg (by omega)]
    rfl
  case lock =>
    refine strobeTaken hl hr hp ho he ?_
    have hb' : ¬ ({ s with time := s.time.taken } : State).boot.stage = .time := hb
    rw [State.acceptStrobe_unlocked hs, if_pos hg]
    simp only [State.lockTime, beq_iff_eq, if_neg hb']
    refine ⟨fun p hp => ?_, trivial, trivial, rfl⟩
    cases p with
    | time | accrued | bg => simp at hp
    | _ => rfl
  case early =>
    refine exec_timeStrobe_good hl hr hp ho ?_
    have hs' : s.rejectStrobe.time.state = .locked := hs
    rw [if_pos he, State.loseStrobe_locked hs']
    obtain ⟨hf, hfired⟩ := State.toHoldover_only
      { s.rejectStrobe with time := { s.rejectStrobe.time with goodRun := 0 } }
    exact ⟨((setTime_frame s _).mono (by decide)).trans hf, rfl, rfl, rfl, rfl, hfired⟩
  case slew =>
    refine strobeTaken hl hr hp ho he ?_
    rw [State.acceptStrobe_locked hs, if_neg (by omega)]
    exact ⟨setTime_frame s _, hs, rfl, rfl⟩
  case step =>
    refine strobeTaken hl hr hp ho he ?_
    rw [State.acceptStrobe_locked hs, if_pos hd]
    obtain ⟨hf, hrest⟩ := State.detectStep_locked (e := s.time.offset v.toNat) (s := { s with time := s.time.taken }) hs
    exact ⟨((setTime_frame s _).mono (by decide)).trans hf, hrest⟩
  case relock =>
    refine strobeTaken hl hr hp ho he ?_
    rw [State.acceptStrobe_holdover hs hg, if_neg (by omega)]
    exact ⟨setTime_frame s _, rfl, rfl, rfl⟩

end Sys2Proof.Machine
end

section
/-!
PROOFS (this file, a sitting of its own). The loss of a strobe, and the anchor of a step (R125, R133 to R135).
-/
namespace Sys2Proof.Machine

open Sys2Proof

/-! ### What is read of a slot that is changed in place -/

/-- A change in place of one slot, seen at any slot. -/
theorem State.slot_modSlot (s : State) (q n a b : Nat) {f : Slot → Slot} (hf : ∀ e, (f e).queue = e.queue ∧ (f e).seq = e.seq) :
    (s.modSlot q n f).slot? a b = (s.slot? a b).map fun e => if e.queue == q && e.seq == n then f e else e := by
  have hkey : ((fun e : Slot => e.queue == a && e.seq == b) ∘ fun e => if e.queue == q && e.seq == n then f e else e)
      = fun e => e.queue == a && e.seq == b := by
    funext e
    simp only [Function.comp]
    split
    · rw [(hf e).1, (hf e).2]
    · rfl
  simp only [State.slot?, State.modSlot, List.find?_map, hkey]

/-- The promise of a slot, where it has one. -/
def State.promiseOf (s : State) (q n : Nat) : Option Promise := (s.slot? q n).bind (·.promise)

theorem State.promiseOf_of_slots {s t : State} (h : t.slots = s.slots) (q n : Nat) : t.promiseOf q n = s.promiseOf q n := by
  simp only [State.promiseOf, State.slot?, h]

theorem State.promiseOf_modSlot (s : State) (q n a b : Nat) {f : Slot → Slot}
    (hf : ∀ e, (f e).queue = e.queue ∧ (f e).seq = e.seq ∧ (f e).promise = e.promise) :
    (s.modSlot q n f).promiseOf a b = s.promiseOf a b := by
  rw [State.promiseOf, State.slot_modSlot _ _ _ _ _ fun e => ⟨(hf e).1, (hf e).2.1⟩, State.promiseOf]
  cases s.slot? a b with
  | none => rfl
  | some e =>
    simp only [Option.map_some, Option.bind_some]
    split
    · exact (hf e).2.2
    · rfl

/-! ### What a frame's effects leave of the time and the promises -/

theorem State.promiseOf_account (s : State) (k : Nat) (f : Account → Account) (q n : Nat) :
    (s.account k f).promiseOf q n = s.promiseOf q n := State.promiseOf_of_slots (by simp [State.account]) q n

theorem State.promiseOf_followWait (s : State) (e : Slot) (q n : Nat) : (s.followWait e).promiseOf q n = s.promiseOf q n := by
  unfold State.followWait
  split
  · exact s.promiseOf_modSlot _ _ _ _ fun _ => ⟨rfl, rfl, rfl⟩
  · rw [State.promiseOf_account]
    exact s.promiseOf_modSlot _ _ _ _ fun _ => ⟨rfl, rfl, rfl⟩
  · rfl

theorem State.promiseOf_foldl {α : Type} (f : State → α → State) (q n : Nat)
    (h : ∀ s x, (f s x).promiseOf q n = s.promiseOf q n) (l : List α) (s : State) :
    (l.foldl f s).promiseOf q n = s.promiseOf q n := by
  induction l generalizing s with
  | nil => rfl
  | cons x l ih => exact (ih (f s x)).trans (h s x)

theorem State.promiseOf_track (s : State) (q n : Nat) : s.track.promiseOf q n = s.promiseOf q n := by
  unfold State.track
  refine (State.promiseOf_foldl _ q n (fun s e => s.promiseOf_followWait e q n) _ _).trans ?_
  refine State.promiseOf_foldl _ q n (fun s p => State.promiseOf_foldl _ q n (fun s c => ?_) _ _) _ _
  exact State.promiseOf_of_slots ((State.modShares_touches s p c _).frame .slots (by decide)) q n

theorem State.promiseOf_frameEffects (s : State) (f q n : Nat) : (s.frameEffects f).promiseOf q n = s.promiseOf q n := by
  unfold State.frameEffects
  refine (State.promiseOf_track _ q n).trans ?_
  refine (State.promiseOf_foldl _ q n (fun s p => State.promiseOf_of_slots ?_ q n) _ _).trans ?_
  · exact (State.pumpPort_touches s p).frame .slots (by decide)
  refine (State.promiseOf_foldl _ q n (fun s p => State.promiseOf_of_slots ?_ q n) _ _).trans ?_
  · exact (State.frameLayout_touches s p).frame .slots (by decide)
  exact State.promiseOf_of_slots rfl q n

theorem State.time_frameEffects (s : State) (f : Nat) : (s.frameEffects f).time = s.time :=
  (State.frameEffects_touches s f).frame .time (by decide)

/-! ### The anchor -/

/-- The time logic at the anchor of a step, before a lost strobe is taken into account. -/
def Time.anchored (t : Time) : Time :=
  let x := shiftBy t.delta t.ct
  { t with
    state := .locked, ct := x, delta := 0, stepAt := x, frameDone := frameOf x + 1, fullThrough := frameOf x + 2
    msDone := min t.msDone (x / 1000000), windowDone := min t.windowDone (x / 100000000)
    slew := t.slewAfter, slewing := t.slewAfter != 0, slewPhase := 0, slewAfter := 0, lostInStep := false }

/-- The slots with their times moved by the step (R135). -/
def State.rebaseSlots (s : State) (d : Int) : State := { s with slots := s.slots.map fun (e : Slot) => e.rebase d }

/-- The anchor ends in a state with the anchored time and the rebased slots, and enters HOLDOVER from there where a strobe was
lost during the step. -/
theorem State.anchor_eq (s : State) :
    ∃ t : State, t.time = s.time.anchored
      ∧ (∀ q n, t.promiseOf q n = (s.rebaseSlots s.time.delta).promiseOf q n)
      ∧ s.anchor = if s.time.lostInStep then t.toHoldover else t := by
  refine ⟨_, ?_, ?_, rfl⟩
  · exact State.time_frameEffects _ _
  · intro q n
    exact (State.promiseOf_frameEffects _ _ q n).trans (State.promiseOf_of_slots rfl q n)

/-- A rebased promise has its deadline shifted. -/
theorem State.promiseOf_rebase {s : State} {q n : Nat} {e : Slot} {p : Promise} (d : Int) (he : s.slot? q n = some e)
    (hp : e.promise = some p) :
    ((s.rebaseSlots d).promiseOf q n).map (fun p : Promise => p.deadline) = some (shiftBy d p.deadline) := by
  have hslot : (s.rebaseSlots d).slot? q n = some (e.rebase d) := by
    simp only [State.rebaseSlots, State.slot?, List.find?_map]
    exact congrArg (Option.map _) he
  rw [State.promiseOf, hslot]
  simp [Slot.rebase, hp, Promise.rebase]

/-- A step whose anchor has come. -/
theorem exec_reanchor {s : State} (hl : s.live = true) (hs : s.time.state = .stepPending) (hf : s.time.stepFrame < frameOf s.time.ct)
    {P : State → Prop} (h : P s.anchor) : Completes .reanchor s P :=
  completes_when hl rfl (by simp [hs, hf]) h

/-- Settles O39: the anchor by its time and its rebased slots, and the rest by the state of the time logic. -/
theorem timeIsLostAndAnchored : Obligations.TimeIsLostAndAnchored := by
  unfold Obligations.TimeIsLostAndAnchored
  refine ⟨fun s hl hr ho hs => ?lost, fun s hl hr ho hs => ?lostInStep, fun s hl hs hf hlost => ?anchored,
    fun s hl hs hf hlost => ?anchoredLate, fun s hl hw hz => ?slewed⟩
  case lost =>
    have hs' : ({ s with time := { s.time with expired := true } } : State).time.state = .locked := hs
    refine completes_when hl rfl (by simp [hr, ho]) ?_
    rw [State.expireStrobe, State.loseStrobe_locked hs']
    obtain ⟨hf, hfired⟩ := State.toHoldover_only { s with time := { s.time with expired := true, goodRun := 0 } }
    exact ⟨((setTime_frame s _).mono (by decide)).trans hf, rfl, rfl, rfl, rfl, rfl, hfired⟩
  case lostInStep =>
    have hs' : ({ s with time := { s.time with expired := true } } : State).time.state = .stepPending := hs
    refine completes_when hl rfl (by simp [hr, ho]) ?_
    rw [State.expireStrobe, State.loseStrobe_stepPending hs']
  case anchored =>
    refine exec_reanchor hl hs hf ?_
    obtain ⟨t, htime, hslots, hanchor⟩ := s.anchor_eq
    rw [hanchor, hlost, if_neg (by decide), htime]
    refine ⟨rfl, rfl, rfl, rfl, rfl, fun q n e p he hp => ?_⟩
    exact (congrArg _ (hslots q n)).trans (State.promiseOf_rebase _ he hp)
  case anchoredLate =>
    refine exec_reanchor hl hs hf ?_
    obtain ⟨t, htime, -, hanchor⟩ := s.anchor_eq
    rw [hanchor, hlost, if_pos rfl, State.toHoldover_time, htime]
    exact ⟨rfl, rfl, rfl⟩
  case slewed =>
    exact completes_when hl rfl (by simp [hw, hz]) rfl

end Sys2Proof.Machine
end

section
/-!
PROOFS (this file, a sitting of its own). Power and heat (R408, R409, R414 to R416, R457).
-/
namespace Sys2Proof.Machine

open Sys2Proof

/-- A level of the hard-cap pin that was held long enough. -/
theorem State.hardCapLevel_held (s : State) (b : Bool) {n : Nat} (hn : 100 ≤ n) :
    s.hardCapLevel b n = { s with
      pins := { s.pins with hardCap := b }
      power := { s.power with hardCap := b, hardEvents := s.power.hardEvents + if b && !s.pins.hardCap then 1 else 0 } }.icLevel 7 b := by
  rw [State.hardCapLevel, if_neg (by omega)]

/-- What a level of the hard-cap pin may change. -/
theorem State.hardCapLevel_frame (s : State) (b : Bool) (n : Nat) : OnlyChanges [.pins, .power, .ic] s (s.hardCapLevel b n) :=
  (State.hardCapLevel_touches s b n).frame.mono (by decide)

/-- The reading of a cluster's sensor. -/
theorem State.readSensor_cluster {s : State} {c : Nat} (hc : c < s.nClusters) (e : Nat) :
    s.readSensor ⟨false, c, e⟩ = s.modCluster c fun x =>
      { x with celsius8 := e, throttled := decide (840 ≤ e) || (x.throttled && decide (800 ≤ e)) } := by
  simp only [State.readSensor, Bool.false_eq_true, if_false, hc, if_true]
  rfl

theorem State.critical_cluster {s : State} {c : Nat} (hc : c < s.nClusters) (e : Nat) :
    s.critical ⟨false, c, e⟩ = decide (920 ≤ e) := by
  simp only [State.critical, hc, decide_true, Bool.and_true, Bool.false_eq_true, if_false]
  rfl

theorem State.coolantStop_of_live {s : State} (hl : s.live = true) : s.coolantStop = { s with boot := { s.boot with stopped := .coolant } } := by
  simp [State.coolantStop, (live_parts hl).1]

/-- One reading in its time: the sensor is read, and a critical one stops the block. -/
theorem exec_thermalSample {s : State} {r : ThermalReading} (hl : s.live = true) (hct : s.time.ct % 1024 < 2) {P : State → Prop}
    (h : P (if s.critical r then (s.readSensor r).coolantStop else s.readSensor r)) : Completes (.thermalSample [r]) s P := by
  refine completes_when hl rfl (by simp [hct]) ?_
  simpa using h

/-- Settles O59: each command by the condition under which it acts. -/
theorem powerAndHeatAreControlled : Obligations.PowerAndHeatAreControlled := by
  unfold Obligations.PowerAndHeatAreControlled
  refine ⟨fun s n hl hn hp => ?assert, fun s n hl hn => ?deassert, fun s c e hl hct hc he => ?warm, fun s c e hl hct hc he => ?critical,
    fun s d e hl hct hd he => ?base, fun s n hl hn => ?coolant, fun s k hl hk ha => ?droop, fun s k hl => ?noDroop,
    fun s p w hl hw => completes_when hl rfl (decide_eq_true hw) rfl⟩
  case assert =>
    refine completes_live hl rfl ⟨s.hardCapLevel_frame true n, ?_⟩
    rw [State.hardCapLevel_held s true hn]
    exact ⟨rfl, rfl, by simp [State.icLevel, hp], Ic.src_setLevel_true_level _ (by decide) _⟩
  case deassert =>
    refine completes_live hl rfl ⟨s.hardCapLevel_frame false n, ?_⟩
    rw [State.hardCapLevel_held s false hn]
    refine ⟨rfl, rfl, rfl, ?_⟩
    rw [State.icLevel, Ic.setLevel_false, Ic.src_setSrc_same]
  case warm =>
    refine exec_thermalSample hl hct ?_
    rw [State.critical_cluster hc, if_neg (by simpa using he), State.readSensor_cluster hc]
    refine ⟨(State.modCluster_touches s c _).frame, ?_, ?_, fun d hd => tbl_getD_put_ne _ _ _ hd⟩ <;>
      rw [State.cluster_modCluster_same]
  case critical =>
    refine exec_thermalSample hl hct ?_
    rw [State.critical_cluster hc, if_pos (by simpa using he), State.readSensor_cluster hc,
      State.coolantStop_of_live (s := s.modCluster c _) hl]
    refine ⟨fun p hp => ?_, rfl⟩
    cases p with
    | clusters | boot => simp at hp
    | _ => rfl
  case base =>
    refine exec_thermalSample hl hct ?_
    have hcool : ¬ criticalAt ≤ e := Nat.not_le.mpr he
    have hcold : s.critical ⟨true, d, e⟩ = false := by simp [State.critical, hcool]
    rw [hcold, if_neg (by decide)]
    simp only [State.readSensor, if_true, hd]
  case coolant =>
    refine completes_live hl rfl ?_
    rw [if_neg (by omega)]
    exact State.coolantStop_of_live (s := { s with pins := { s.pins with coolantOk := false } }) hl
  case droop =>
    refine completes_when hl rfl (by simp [hk, ha, State.droopWindow]) ?_
    exact ⟨(State.modCore_touches s k _).frame, fun j hj => State.core_modCore_ne s _ hj, State.core_modCore_same s k _⟩
  case noDroop =>
    exact completes_live hl rfl (by simp [State.when_false])

end Sys2Proof.Machine
end

section
/-!
PROOFS (this file, a sitting of its own). The stores of error records (R383, R386, R387).
-/
namespace Sys2Proof.Machine

open Sys2Proof

/-! ### A store of a queue put into the stores -/

@[simp] theorem Errors.queue_put_same (e : Errors) (i : Nat) (q : ErrQueue) :
    ({ e with queues := e.queues.put i q } : Errors).queue i = q := by simp [Errors.queue]

theorem Errors.queue_put_ne (e : Errors) {i j : Nat} (q : ErrQueue) (h : j ≠ i) :
    ({ e with queues := e.queues.put i q } : Errors).queue j = e.queue j := tbl_getD_put_ne _ _ _ h

/-! ### Storing a record (R386) -/

/-- Whether a record merges with the last record of queue `i`. -/
def Errors.merges (e : Errors) (i : Nat) (r : ErrRecord) : Bool := (e.queue i).records.getLast?.any fun n => r.mergesInto n

/-- A record that merges with no record is handled by the room that its queue has. -/
theorem Errors.store_unmerged {e : Errors} {i : Nat} {r : ErrRecord} (hm : e.merges i r = false) :
    e.store i r =
      if 4 ≤ (e.queue i).records.length then
        { e with
          queues := e.queues.put i { e.queue i with
            overrun := true, lost := satAdd 32 (e.queue i).lost 1, lostNow := satAdd 32 (e.queue i).lostNow 1 }
          recordsLost := satAdd 16 e.recordsLost 1 }
      else
        { e with
          nextSeq := e.nextSeq + 1
          queues := e.queues.put i { e.queue i with
            records := (e.queue i).records ++ [{ r with
              recordSeq := e.nextSeq, lost := (e.queue i).lostNow
              rflags := if (e.queue i).lostNow = 0 then r.rflags else r.rflags ||| 2 }]
            lostNow := 0 } } := by
  cases hlast : (e.queue i).records.getLast? with
  | none => simp only [Errors.store, hlast, Bool.false_eq_true, if_false, ge_iff_le, beq_iff_eq]
  | some n =>
    have hm' : r.mergesInto n = false := by simpa [Errors.merges, hlast] using hm
    simp only [Errors.store, hlast, hm', Bool.false_eq_true, if_false, ge_iff_le, beq_iff_eq]

/-- A record that merges is counted in the last record. -/
theorem Errors.store_merged {e : Errors} {i : Nat} {r n : ErrRecord} (hn : (e.queue i).records.getLast? = some n)
    (hm : r.mergesInto n = true) :
    e.store i r = { e with queues := e.queues.put i { e.queue i with
      records := (e.queue i).records.dropLast ++ [{ n with count := min (n.count + 1) 0xFFFFFFFF }] } } := by
  simp only [Errors.store, hn, hm, if_true]
  rfl

/-! ### Popping and reading -/

/-- The record put into the log last is its newest. -/
theorem Errors.toLog_newest (e : Errors) (r : ErrRecord) : (e.toLog [r]).log.getLast? = some r := by
  simp only [Errors.toLog, List.length_append, List.length_cons, List.length_nil]
  rw [List.getLast?_drop, if_neg (by simp), List.getLast?_concat]

theorem Errors.toLog_queues (e : Errors) (rs : List ErrRecord) : (e.toLog rs).queues = e.queues := by
  cases e
  rfl

theorem Errors.toLog_queue (e : Errors) (rs : List ErrRecord) (j : Nat) : (e.toLog rs).queue j = e.queue j := by
  rw [Errors.queue, Errors.toLog_queues, ← Errors.queue]

/-- What a pop leaves of the stores: queue `i` without its first record, and everything else. -/
theorem State.popError_errs (s : State) (i : Nat) :
    (s.popError i).errs = { s.errs with queues := s.errs.queues.put i { s.errs.queue i with records := (s.errs.queue i).records.tail } } := by
  unfold State.popError
  dsimp only
  split <;> rfl

theorem setErrs_frame (s : State) (e : Errors) : OnlyChanges [.errs] s { s with errs := e } := by
  intro p hp
  cases p with
  | errs => exact absurd List.mem_cons_self hp
  | _ => rfl

/-- Settles O42: the three outcomes of `Errors.store`, the pop, and the read by the half that it takes. -/
theorem errorRecordsAreStoredAndRead : Obligations.ErrorRecordsAreStoredAndRead := by
  unfold Obligations.ErrorRecordsAreStoredAndRead
  refine ⟨fun e i r hl hm => ?room, fun e i r hl hm => ?full, fun e i r n hn hm => ?merged,
    fun s i v r rest hl hi hv hr => ?pop, fun s i half hl hi hh => ?clears, fun s i half hl hh => ?keeps⟩
  case room =>
    rw [Errors.store_unmerged hm, if_neg (by omega)]
    refine ⟨?_, rfl, ?_, fun j hj => Errors.queue_put_ne _ _ hj⟩ <;> simp [Errors.queue]
  case full =>
    rw [Errors.store_unmerged hm, if_pos hl]
    refine ⟨?_, ?_, ?_, rfl⟩ <;> simp [Errors.queue, satAdd]
  case merged =>
    rw [Errors.store_merged hn hm]
    exact ⟨by simp, rfl⟩
  case pop =>
    refine completes_when hl rfl (by simp [hv, hi]) ?_
    have htake : (s.errs.queue i).records.take 1 = [r] := by simp [hr]
    rw [htake]
    have hlog := s.errs.toLog_newest r
    have hqueue : ∀ j, (s.errs.toLog [r]).queue j = s.errs.queue j := s.errs.toLog_queue [r]
    generalize s.errs.toLog [r] = e at hlog hqueue ⊢
    refine ⟨((setErrs_frame s e).mono (by decide)).trans ((State.popError_touches _ i).frame.mono (by decide)), ?_, ?_, fun j hj => ?_⟩
    · rw [State.popError_errs, Errors.queue_put_same, hqueue, hr]
      rfl
    · rw [State.popError_errs]
      exact hlog
    · rw [State.popError_errs, Errors.queue_put_ne _ _ hj]
      exact hqueue j
  case clears =>
    refine completes_live hl rfl ?_
    have hcond : (readsHigh half && decide (i < 275)) = true := by simp [hh, hi]
    dsimp only
    rw [if_pos hcond]
    exact ⟨((emit_frame s _).mono (by decide)).trans ((setErrs_frame _ _).mono (by decide)), rfl, Errors.queue_put_same _ _ _,
      fun j hj => Errors.queue_put_ne _ _ hj⟩
  case keeps =>
    refine completes_live hl rfl ?_
    dsimp only
    rw [hh, Bool.false_and, if_neg (by decide)]

end Sys2Proof.Machine
end

section
/-!
PROOFS (this file, a sitting of its own). The mailbox: the replies, the states of a channel, and the capability check (R305, R328,
R329, R332, R335, R337, R340, R341, R345, R347).
-/
namespace Sys2Proof.Machine

open Sys2Proof

/-! ### Channels and replies -/

theorem State.chan_of_mail {s t : State} (h : t.mail = s.mail) (k : Nat) : t.chan k = s.chan k := by simp only [State.chan, h]

theorem State.chan_viaPath (s : State) (n : Nat) (o : Out) (k : Nat) : (s.viaPath n o).chan k = s.chan k :=
  State.chan_of_mail (viaPath_frame s n o .mail (by decide)) k

theorem State.chan_sendVector (s : State) (path p : Nat) (v : GuestVector) (k : Nat) : (s.sendVector path p v).1.chan k = s.chan k :=
  State.chan_of_mail (sendVector_frame s path p v .mail (by decide)) k

theorem State.chan_settleMail (s : State) (k : Nat) : s.settleMail.chan k = s.chan k := rfl

theorem State.chan_notify (s : State) (c : Channel) (k : Nat) : (s.notify c).chan k = s.chan k := by
  unfold State.notify
  split
  · rfl
  · split_ifs
    · exact State.chan_sendVector _ _ _ _ _
    · exact State.chan_sendVector _ _ _ _ _
    · rfl

theorem modChan_frame (s : State) (ch : Nat) (f : Channel → Channel) : OnlyChanges [.mail] s (s.modChan ch f) := by
  intro p hp
  cases p with
  | mail => exact absurd List.mem_cons_self hp
  | _ => rfl

theorem State.chan_replyWith_same (s : State) (ch detail : Nat) (body : Bytes) (attrIndex needed retryAfter : Nat) :
    (s.replyWith ch detail body attrIndex needed retryAfter).chan ch
      = { s.chan ch with
          serve := .replying, header := s.replyHeader ch detail attrIndex needed retryAfter, body := body, bobbin := none } := by
  rw [State.replyWith, State.chan_viaPath, State.chan_modChan_same]

theorem State.chan_replyWith_ne (s : State) {ch k : Nat} (detail : Nat) (body : Bytes) (attrIndex needed retryAfter : Nat)
    (h : k ≠ ch) : (s.replyWith ch detail body attrIndex needed retryAfter).chan k = s.chan k := by
  rw [State.replyWith, State.chan_viaPath, State.chan_modChan_ne _ _ h]

/-- Every reply is formed as R337 says, whatever it carries. -/
theorem State.replyWith_replying (s : State) (ch detail : Nat) (body : Bytes) (attrIndex needed retryAfter : Nat) :
    (s.replyWith ch detail body attrIndex needed retryAfter).Replying ch detail body := by
  constructor <;> rw [State.chan_replyWith_same] <;> rfl

theorem State.replyWith_frame (s : State) (ch detail : Nat) (body : Bytes) (attrIndex needed retryAfter : Nat) :
    OnlyChanges replyParts s (s.replyWith ch detail body attrIndex needed retryAfter) :=
  (State.replyWith_touches s ch detail body attrIndex needed retryAfter).frame.mono (by decide)

/-- A refusal changes nothing but the channel, and its reply leaves. -/
theorem State.refuse_does (s : State) (ch detail : Nat) :
    OnlyChanges replyParts s (s.refuse ch detail) ∧ (s.refuse ch detail).Replying ch detail [] :=
  ⟨s.replyWith_frame _ _ _ _ _ _, s.replyWith_replying _ _ _ _ _ _⟩

/-- A command that succeeds replies with its body. -/
theorem State.accept_does (s : State) (ch : Nat) (body : Bytes) :
    OnlyChanges replyParts s (s.accept ch body) ∧ (s.accept ch body).Replying ch Detail.none body :=
  ⟨s.replyWith_frame _ _ _ _ _ _, s.replyWith_replying _ _ _ _ _ _⟩

/-- A reply looks at the mailbox only. -/
theorem State.Replying.of_mail {s t : State} {ch detail : Nat} {body : Bytes} (h : s.Replying ch detail body)
    (hm : t.mail = s.mail) : t.Replying ch detail body := by
  obtain ⟨hs, hd, hst, hb⟩ := h
  constructor <;> rw [State.chan_of_mail hm] <;> assumption

theorem State.settleMail_frame (s : State) : OnlyChanges [.mail, .ic] s s.settleMail :=
  (State.settleMail_touches s).frame.mono (by decide)

/-! ### Accesses to a channel -/

/-- Whether an access comes through the registers themselves and not through a view. -/
def directAccess : Requester → Bool
  | .view _ _ => false
  | _ => true

/-- A direct access to a channel of a group that is on. -/
theorem completes_onChannel {i : Instr} {s : State} {r : Requester} {ch reg : Nat} {f : State → State} {P : State → Prop}
    (hl : s.live = true) (hr : directAccess r = true) (hch : ch < 64) (hg : s.groupOn ch = true)
    (he : exec i s = .next (s.onChannel r ch reg f)) (hp : P (f s)) : Completes i s P := by
  refine completes_access hl he ?_
  cases r with
  | view t p => exact absurd hr (by simp [directAccess])
  | host t =>
    dsimp only
    rwa [if_neg (by omega), if_pos hg]
  | fabric n e =>
    dsimp only
    rwa [if_neg (by omega), if_pos hg]

/-! ### The answer to a backlog (R347) -/

/-- One channel is read for a BUSY answer. -/
def State.busyRead (retry : Nat) (s : State) (ch : Nat) : State :=
  (s.modChan ch fun c => { c with serve := .reading, takeCt := s.ctInt, busyRetry := some retry }).readMessage ch

theorem State.chan_busyRead_same (retry : Nat) (s : State) (ch : Nat) :
    ((s.busyRead retry ch).chan ch).serve = .reading ∧ ((s.busyRead retry ch).chan ch).busyRetry = some retry := by
  rw [State.busyRead, State.readMessage, State.chan_viaPath, State.chan_modChan_same]
  exact ⟨rfl, rfl⟩

/-- What a channel has once it is read for a BUSY answer stays, whichever channels follow. -/
theorem State.chan_busyRead_keeps {retry : Nat} {s : State} {ch : Nat} (k : Nat)
    (h : (s.chan ch).serve = .reading ∧ (s.chan ch).busyRetry = some retry) :
    ((s.busyRead retry k).chan ch).serve = .reading ∧ ((s.busyRead retry k).chan ch).busyRetry = some retry := by
  by_cases hk : ch = k
  · subst hk
    exact s.chan_busyRead_same retry ch
  · rwa [State.busyRead, State.readMessage, State.chan_viaPath, State.chan_modChan_ne _ _ hk]

theorem State.chan_foldl_busyRead {retry ch : Nat} (l : List Nat) (s : State)
    (h : ((s.chan ch).serve = .reading ∧ (s.chan ch).busyRetry = some retry) ∨ ch ∈ l) :
    ((l.foldl (State.busyRead retry) s).chan ch).serve = .reading
      ∧ ((l.foldl (State.busyRead retry) s).chan ch).busyRetry = some retry := by
  induction l generalizing s with
  | nil => simpa using h
  | cons k l ih =>
    refine ih _ ?_
    rcases h with h | h
    · exact .inl (State.chan_busyRead_keeps k h)
    · rcases List.mem_cons.mp h with rfl | h
      · exact .inl (s.chan_busyRead_same retry ch)
      · exact .inr h

/-- A channel that is not IDLE has an entry. -/
theorem State.mem_chans {s : State} {ch : Nat} (h : (s.chan ch).state ≠ .idle) : (ch, s.chan ch) ∈ s.mail.chans := by
  cases hc : s.mail.chans.get? ch with
  | none => simp [State.chan, Tbl.getD, hc] at h
  | some c =>
    have hch : s.chan ch = c := by simp [State.chan, Tbl.getD, hc]
    rw [hch]
    exact tbl_mem_get hc

/-! ### The obligations -/

/-- Settles O45: by the state that each command finds the channel in. -/
theorem mailboxChannelsGoThroughTheirStates : Obligations.MailboxChannelsGoThroughTheirStates := by
  unfold Obligations.MailboxChannelsGoThroughTheirStates
  refine ⟨fun s r ch v hl hr hch hg hi hb => ?notice, fun s r ch v hl hr hch hg hi => ?noticeRefused,
    fun s b ch c hl hb hm hf ha ht => ?take, fun s ch b m hl hs hbusy ho hp hf => ?read, fun s ch b hl hs hbusy ho => ?unknown,
    fun s ch hl hs hbusy => ?unreadable, fun s ch hl hlev hst hs ho => ?busy, fun s ch ok hl hs ho => ?posted,
    fun s r ch v hl hr hch hg hv hs hi => ?ack, fun s ch hl hs hn => ?expiry⟩
  case notice =>
    refine completes_onChannel hl (by cases r <;> simp_all [directAccess]) hch hg rfl ?_
    have hfree : ((s.chan ch).state != .idle || s.boot.stage == .failed) = false := by simp [hi, hb]
    rw [if_neg (by simp [hfree])]
    refine ⟨?_, ?_⟩
    · refine OnlyChanges.trans ?_ (State.settleMail_frame _)
      intro p hp
      cases p with
      | mail => simp at hp
      | _ => rfl
    · have hsame : ∀ (t : State) (n k : Nat), ({ t with mail := { t.mail with accepted := n } } : State).settleMail.chan k = t.chan k :=
        fun _ _ _ => rfl
      dsimp only
      rw [hsame, State.chan_modChan_same]
      refine ⟨rfl, ?_, rfl, rfl, rfl, rfl, fun k hk => ?_⟩
      · simp [bitsAt]
      · rw [hsame, State.chan_modChan_ne _ _ hk]
  case noticeRefused =>
    refine completes_onChannel hl (by cases r <;> simp_all [directAccess]) hch hg rfl ?_
    have hbusy : ((s.chan ch).state != .idle || s.boot.stage == .failed) = true := by
      rcases hi with hi | hi <;> simp [hi]
    rw [if_pos hbusy]
    rfl
  case take =>
    refine completes_live hl rfl ?_
    rw [if_pos (by simp [hb, hm, hf, ha]), ht]
    dsimp only
    refine ⟨?_, ?_⟩
    · exact ((modChan_frame s ch _).mono (by decide)).trans
        (((viaPath_frame _ _ _).mono (by decide)).trans ((State.settleMail_frame _).mono (by decide)))
    · rw [State.chan_settleMail, State.readMessage, State.chan_viaPath, State.chan_modChan_same]
      refine ⟨rfl, rfl, rfl, rfl, fun k hk => ?_⟩
      rw [State.chan_settleMail, State.chan_viaPath, State.chan_modChan_ne _ _ hk]
  case read =>
    refine completes_when hl rfl (by simp [hs]) ?_
    simp only [hbusy, State.takeMessage, ho, hp, hf, Bool.not_true, Bool.false_eq_true, if_false]
    refine ⟨((modChan_frame s ch _).mono (by decide)).trans (modChan_frame _ ch _), ?_⟩
    rw [State.chan_modChan_same]
    refine ⟨rfl, rfl, fun k hk => ?_⟩
    rw [State.chan_modChan_ne _ _ hk, State.chan_modChan_ne _ _ hk]
  case unknown =>
    refine completes_when hl rfl (by simp [hs]) ?_
    simp only [hbusy, State.takeMessage, ho, Bool.not_false, if_true]
    obtain ⟨hf, hr⟩ := (s.modChan ch fun c => { c with message := some (busyMessage b) }).refuse_does ch Detail.opcode
    exact ⟨((modChan_frame s ch _).mono (by decide)).trans hf, hr⟩
  case unreadable =>
    refine completes_when hl rfl (by simp [hs]) ?_
    simp only [hbusy]
    exact s.refuse_does ch Detail.unreadable
  case busy =>
    refine Completes.framed (completes_when hl rfl (by simp [hlev, hst, hs, ho]) ?_) (execBusyAnswer_touches ch s) (by decide)
    have hlisted : ch ∈ (s.mail.chans.filter fun e =>
        e.2.state == .pending && e.2.serve == .none && opcodeClass e.2.opcode == 4).map (·.1) :=
      List.mem_map.mpr ⟨_, List.mem_filter.mpr ⟨s.mem_chans (by simp [hst]), by simp [hst, hs, ho]⟩, rfl⟩
    have hretry : (if s.time.state == .unlocked then 0 else retryAfter s.ctNow s.backlog)
        = if s.time.state = .unlocked then 0 else retryAfter s.ctNow s.backlog := by simp
    rw [← hretry]
    exact State.chan_foldl_busyRead _ s (.inr hlisted)
  case posted =>
    refine completes_when hl rfl (by simp [hs]) ?_
    have hno : ((s.chan ch).header.opcode == 0x26 && (s.chan ch).header.status == Status.ok) = false := by simp [ho]
    dsimp only
    rw [hno, if_neg (by decide), State.chan_settleMail, State.chan_notify, State.chan_modChan_same]
    refine ⟨rfl, rfl, rfl, rfl, rfl, fun k hk => ?_⟩
    rw [State.chan_settleMail, State.chan_notify, State.chan_modChan_ne _ _ hk]
  case ack =>
    refine completes_onChannel hl (by cases r <;> simp_all [directAccess]) hch hg rfl ?_
    rw [hv, hs, hi]
    simp [State.when_true]
  case expiry =>
    exact completes_when hl rfl (by simp [hs, hn]) rfl

/-- The gate is told with the reply that refuses. -/
theorem State.refuse_gate (s : State) (ch detail : Nat) :
    ((s.refuse ch detail).chan ch).gate = (s.chan ch).gate ∧ ((s.refuse ch detail).chan ch).header.gate = (s.chan ch).gate := by
  rw [State.refuse, State.chan_replyWith_same]
  exact ⟨rfl, rfl⟩

/-- Settles O46: the check by the gate that it finds, 0 for none. -/
theorem capabilitiesAreChecked : Obligations.CapabilitiesAreChecked := by
  unfold Obligations.CapabilitiesAreChecked
  refine ⟨fun s ch m hl hst hs hm => ?check, fun s k u hl hu hn hct => ?expiry⟩
  case check =>
    refine completes_live hl rfl ?_
    rw [if_pos (by simp [hst, hs]), hm]
    dsimp only
    generalize s.gateOf m (s.chan ch).origin = g
    have hfired : (((s.modChan ch fun c => { c with gate := g }).icFire 4).ic.src 4).state = (s.ic.src 4).state.fired :=
      Ic.src_fire_fired _ _ _
    have hgate : (((s.modChan ch fun c => { c with gate := g }).icFire 4).chan ch).gate = g := by
      have hchan : ((s.modChan ch fun c => { c with gate := g }).icFire 4).chan ch = (s.modChan ch fun c => { c with gate := g }).chan ch :=
        rfl
      rw [hchan, State.chan_modChan_same]
    have hframe : OnlyChanges [.mail, .ic] s ((s.modChan ch fun c => { c with gate := g }).icFire 4) :=
      ((modChan_frame s ch _).mono (by decide)).trans ((setIc_frame _ _).mono (by decide))
    have hsec : ((s.modChan ch fun c => { c with gate := g }).icFire 4).sec = s.sec := rfl
    generalize (s.modChan ch fun c => { c with gate := g }).icFire 4 = t at hfired hgate hframe hsec ⊢
    by_cases hg : g = 0
    · simp only [hg, beq_self_eq_true, if_true]
      refine ⟨hfired, ?_, ?_, ?_, ?_⟩
      · rw [State.chan_modChan_same]
        exact hgate.trans hg
      · refine (hframe.mono (by decide)).trans (OnlyChanges.trans (fun p hp => ?_) ((modChan_frame _ ch _).mono (by decide)))
        cases p with
        | sec => simp at hp
        | _ => rfl
      · rw [State.chan_modChan_same]
      · rw [State.modChan_sec, hsec]
    · simp only [beq_iff_eq, hg, if_false]
      obtain ⟨hf, hr⟩ := t.refuse_does ch Detail.gate
      obtain ⟨hg1, hg2⟩ := t.refuse_gate ch Detail.gate
      refine ⟨?_, hg1.trans hgate, ?_, hr, hg2.trans hgate⟩
      · rw [hf .ic (by decide)]
        exact hfired
      · exact (hframe.mono (by decide)).trans (hf.mono (by decide))
  case expiry =>
    refine completes_when hl rfl (by simp [hu, hn, hct]) ⟨fun p hp => ?_, rfl⟩
    cases p with
    | sec => exact absurd List.mem_cons_self hp
    | _ => rfl

end Sys2Proof.Machine
end

section
/-!
PROOFS (this file, a sitting of its own). Four families of mailbox commands fail as they are stated: PARTITION_RESET, KEY_ZEROISE,
PARTITION_DESTROY and EXTENT_REVOKE have the channel that asked for them wait, and R344 then has other commands answered that their
effect abandons or completes. The statements range over every state, also one whose table of channels lists a channel twice; there the
second entry has the command answer the channel that asked for it, whose reply then waits no longer.
-/
namespace Sys2Proof.Machine

open Sys2Proof

/-- What a command makes of a state, where it answers a next one. -/
def execState (i : Instr) (s : State) : State :=
  match exec i s with
  | .next t => t
  | _ => s

theorem Completes.execState {i : Instr} {s : State} {P : State → Prop} (h : Completes i s P) : P (execState i s) := by
  obtain ⟨t, ht, hp⟩ := h
  rw [Machine.execState, ht]
  exact hp

/-- A message to partition 1 with no attributes. -/
def messageOf (op : Nat) : Message :=
  { opcode := op, notify := 0, token := 0, notifyVector := 0, capZero := true, cap := parseCap [], capBytes := [], partition := 1
    context := 0xFF, queue := 0xFFFF, object := 0, attrs := [], data := [] }

/-- A channel that serves such a message. -/
def servingChannel (op : Nat) : Channel :=
  { state := .serving, serve := .allowed, opcode := op, message := some (messageOf op), pagesM1 := 15 }

/-- A channel whose QUEUE_DELETE of queue 0 waits for the queue to drain. -/
def deletingChannel : Channel :=
  { state := .serving, serve := .waiting, opcode := 0x39, message := some { messageOf 0x39 with queue := 0 }, pagesM1 := 15 }

/-- A started block with an ACTIVE partition 1 that has queue 0, whose table lists channel 2 twice: with a command `op`, and behind it
as `c`. -/
def listedTwice (op : Nat) (c : Channel) : State :=
  { State.reset with
    boot := { stage := .ready, outOfReset := true, mailboxOn := true }
    parts := [(1, { state := .active })]
    queues := [(0, { state := .active, partition := 1 })]
    mail := { chans := [(2, servingChannel op), (2, c)] } }

/-- Refutes O47: PARTITION_RESET from a channel that is listed twice abandons that channel. -/
theorem not_classOneCommandsAreServed : ¬ Obligations.ClassOneCommandsAreServed := by
  unfold Obligations.ClassOneCommandsAreServed
  rintro ⟨hreset, -⟩
  obtain ⟨-, -, hwaits⟩ := (hreset (listedTwice 0x10 (servingChannel 0x11)) 2 (messageOf 0x10) (by decide +kernel) (by decide +kernel)).execState
  exact absurd hwaits (by decide +kernel)

/-- Refutes O48: KEY_ZEROISE from a channel that is listed twice abandons that channel. -/
theorem not_classTwoCommandsAreServed : ¬ Obligations.ClassTwoCommandsAreServed := by
  unfold Obligations.ClassTwoCommandsAreServed
  rintro ⟨-, -, hzeroise, -⟩
  obtain ⟨-, -, -, -, hwaits⟩ := (hzeroise (listedTwice 0x22 (servingChannel 0x11)) 2 (messageOf 0x22) (by decide +kernel)
    (by decide +kernel) (by decide +kernel)).execState
  exact absurd hwaits (by decide +kernel)

/-- Refutes O49: PARTITION_DESTROY from a channel that is listed twice ends with a reply of that channel for another command. -/
theorem not_partitionCommandsAreServed : ¬ Obligations.PartitionCommandsAreServed := by
  unfold Obligations.PartitionCommandsAreServed
  rintro ⟨-, hdestroy, -⟩
  obtain ⟨-, -, hwaits⟩ := (hdestroy (listedTwice 0x31 deletingChannel) 2 (messageOf 0x31) (by decide +kernel)
    (by decide +kernel)).execState
  exact absurd hwaits (by decide +kernel)

/-- As `listedTwice`, with EXTENT_REVOKE of the whole of extent 0, whose publication is the last slot of the queue to be deleted. -/
def revokeListedTwice : State :=
  { listedTwice 0x3C deletingChannel with
    queues := [(0, { state := .draining, drainKind := 3, partition := 1 })]
    slots := [{ queue := 0, seq := 1, partition := 1, state := .running, opcode := Op.folioPublish, order := 1, publishing := some [0] }]
    extents := [(0, { base := 0, granules := 1 })]
    mail := { chans := [(2, { servingChannel 0x3C with message := some { messageOf 0x3C with partition := 0xFF } }), (2, deletingChannel)] } }

/-- Refutes O51: the revocation ends the publication, with it the deletion of the queue, and so answers the channel that waits. -/
theorem not_extentCommandsAreServed : ¬ Obligations.ExtentCommandsAreServed := by
  unfold Obligations.ExtentCommandsAreServed
  rintro ⟨-, -, -, -, -, hrevoke, -⟩
  obtain ⟨hwaits, -⟩ := (hrevoke revokeListedTwice 2 { messageOf 0x3C with partition := 0xFF } { base := 0, granules := 1 }
    (by decide +kernel) rfl rfl rfl).execState
  exact absurd hwaits (by decide +kernel)

end Sys2Proof.Machine
end

section
/-!
PROOFS (this file, a sitting of its own). SPDM connections and sessions (R295, R304, R316 to R318, R326).
-/
namespace Sys2Proof.Machine

open Sys2Proof

/-! ### The messages of a conversation -/

/-- A message of a conversation, in order or not. -/
theorem completes_inOrderOf {i : Instr} {s : State} {n : Nat} {x : Session} {ok : Session → Bool}
    {f : Session → State → State} {P : State → Prop} (h : s.Talking n x)
    (he : exec i s = .next (s.inOrderOf n ok f)) (hp : P (if ok x then f x s else s.spdmError n)) :
    Completes i s P := by
  obtain ⟨hl, hon, rfl⟩ := h
  refine completes_when (b := fun s => s.boot.doeOn) (f := fun _ u => if ok (u.session n) then f (u.session n) u else u.spdmError n)
    hl he hon hp

/-- A message in its order. -/
theorem completes_inOrder {i : Instr} {s : State} {n : Nat} {x : Session} {ok : Session → Bool}
    {f : Session → State → State} {P : State → Prop} (h : s.Talking n x)
    (he : exec i s = .next (s.inOrderOf n ok f)) (hok : ok x = true) (hp : P (f x s)) : Completes i s P :=
  completes_inOrderOf h he (by rwa [if_pos hok])

/-- A message out of its order is answered with ERROR. -/
theorem completes_outOfOrder {i : Instr} {s : State} {n : Nat} {x : Session} {ok : Session → Bool}
    {f : Session → State → State} (h : s.Talking n x) (he : exec i s = .next (s.inOrderOf n ok f))
    (hok : ok x = false) : Completes i s fun t => t = s.emit (.spdm n "ERROR" []) :=
  completes_inOrderOf h he (by rw [hok]; rfl)

theorem setSec_frame (s : State) (x : Security) : OnlyChanges [.sec] s { s with sec := x } := by
  intro p hp
  cases p with
  | sec => exact absurd List.mem_cons_self hp
  | _ => rfl

/-- What is kept of a conversation is set, and a response leaves whose bytes are free. -/
theorem respondFree_only (s : State) (n : Nat) (x : Session) (name : String) :
    OnlyChanges [.sec, .free, .out] s ((s.setSession n x).respondFree n name)
      ∧ ((s.setSession n x).respondFree n name).Responds n name
      ∧ ((s.setSession n x).respondFree n name).sec.sessions.get? n = some x :=
  ⟨((setSec_frame s _).mono (by decide)).trans (((draw_frame _).mono (by decide)).trans ((emit_frame _ _).mono (by decide))),
    ⟨_, rfl⟩, tbl_get_put_same _ _ _⟩

/-- What is kept of a conversation is set, and a given response leaves. -/
theorem respond_only (s : State) (n : Nat) (x : Session) (name : String) (b : Bytes) :
    OnlyChanges [.sec, .out] s ((s.setSession n x).respond n name b)
      ∧ ((s.setSession n x).respond n name b).out = .spdm n name b :: s.out
      ∧ ((s.setSession n x).respond n name b).sec.sessions.get? n = some x :=
  ⟨((setSec_frame s _).mono (by decide)).trans ((emit_frame _ _).mono (by decide)), rfl, tbl_get_put_same _ _ _⟩

/-- Settles O55: by the condition that each message of a connection has. -/
theorem connectionsAreAnswered : Obligations.ConnectionsAreAnswered := by
  unfold Obligations.ConnectionsAreAnswered
  refine ⟨fun s n x h he => ?version, fun s n x h he => ?again,
    fun s n x h hv he => ?capabilities, fun s n x h hc he => ?algorithms, fun s n x h => ?uncommon,
    fun s n x h hn => ?digests, fun s n x slot c len h hn hc => ?certificate,
    fun s n x slot off len h hn hc => ?noCertificate, fun s n x slot c k nonce h hn hc hk => ?challenge,
    fun s n x i slot b nonce h hn hb => ?unsigned, fun s n x i slot b c k nonce h hn hb hc hk => ?signed,
    fun s n x hd c h hc => ?chunk, fun s n x hd i h hx hi => ?part⟩
  case version => exact completes_inOrder h rfl (by simp [he]) (respondFree_only s n _ _)
  case again => exact completes_outOfOrder h rfl (by simp [he])
  case uncommon => exact completes_outOfOrder h rfl (by simp)
  case digests =>
    refine completes_inOrder h rfl hn ?_
    rfl
  case capabilities => exact completes_inOrder h rfl (by simp [hv, he]) (respondFree_only s n _ _)
  case algorithms => exact completes_inOrder h rfl (by simp [hc, he]) (respondFree_only s n _ _)
  case certificate =>
    refine completes_inOrder h rfl hn ?_
    simp [hc, State.respond]
  case noCertificate =>
    refine completes_inOrder h rfl hn ?_
    simp [hc, State.spdmError, State.respond]
  case challenge =>
    refine completes_inOrder h rfl hn ?_
    simp [hc, hk, State.respond]
  case unsigned =>
    refine completes_inOrder h rfl hn ?_
    simp [hb, State.respond]
  case signed =>
    refine completes_inOrder h rfl hn ?_
    simp [hb, hc, hk, State.respond]
  case chunk =>
    exact completes_inOrder h rfl (by simp [hc]) (respondFree_only s n _ _)
  case part =>
    refine completes_inOrder h rfl (by simp [hx, hi]) ?_
    exact respond_only s n _ _ _

/-! ### The loss of a session -/

/-- A queue's stop leaves the partitions. -/
theorem mgmtStopQueue_parts (s : State) (q : Nat) : (s.mgmtStopQueue q).parts = s.parts :=
  (State.mgmtStopQueue_touches s q).frame .parts (by decide)

theorem foldl_mgmtStopQueue_parts (l : List Nat) (s : State) : (l.foldl State.mgmtStopQueue s).parts = s.parts := by
  induction l generalizing s with
  | nil => rfl
  | cons q l ih => exact (ih _).trans (mgmtStopQueue_parts s q)

theorem part_of_parts {s t : State} (h : t.parts = s.parts) (p : Nat) : t.part p = s.part p := by simp only [State.part, h]

/-- R295: a TDI that is LOCKED or RUN and loses its session enters ERROR, with its queues stopped. -/
theorem State.part_tdiError_same {s : State} {p : Nat} (h : (s.part p).tdi = .locked ∨ (s.part p).tdi = .run) :
    ((s.tdiError p).part p).tdi = .error ∧ ((s.tdiError p).part p).mgmtStop = true := by
  unfold State.tdiError
  rcases h with h | h <;>
  · simp only [h, State.stopPartition]
    rw [part_of_parts (foldl_mgmtStopQueue_parts _ _), State.part_modPart_same, State.part_modPart_same]
    exact ⟨rfl, rfl⟩

theorem State.tdiError_of_error {s : State} {p : Nat} (h : (s.part p).tdi = .error) : s.tdiError p = s := by
  simp [State.tdiError, h]

theorem State.part_tdiError_ne (s : State) {p q : Nat} (h : q ≠ p) : (s.tdiError p).part q = s.part q := by
  unfold State.tdiError
  split
  · rfl
  · rfl
  all_goals
    rw [State.stopPartition, part_of_parts (foldl_mgmtStopQueue_parts _ _), State.part_modPart_ne _ _ h, State.part_modPart_ne _ _ h]

/-- What ERROR means of a TDI. -/
def State.inError (s : State) (p : Nat) : Prop := (s.part p).tdi = .error ∧ (s.part p).mgmtStop = true

theorem State.inError.tdiError {s : State} {p : Nat} (h : s.inError p) (q : Nat) : (s.tdiError q).inError p := by
  by_cases hq : p = q
  · subst hq
    rwa [State.tdiError_of_error h.1]
  · rwa [State.inError, State.part_tdiError_ne s hq]

/-- The TDIs of a list enter ERROR, those that were LOCKED or RUN in the list or had entered it before. -/
theorem State.inError_foldl {p : Nat} (l : List Nat) (s : State)
    (h : s.inError p ∨ (p ∈ l ∧ ((s.part p).tdi = .locked ∨ (s.part p).tdi = .run))) : (l.foldl State.tdiError s).inError p := by
  induction l generalizing s with
  | nil => simpa using h
  | cons q l ih =>
    refine ih _ ?_
    rcases h with h | ⟨hmem, htdi⟩
    · exact .inl (h.tdiError q)
    · by_cases hq : p = q
      · subst hq
        exact .inl (State.part_tdiError_same htdi)
      · refine .inr ⟨(List.mem_cons.mp hmem).resolve_left hq, ?_⟩
        rwa [State.part_tdiError_ne s hq]

theorem foldl_tdiError_sec (l : List Nat) (s : State) : (l.foldl State.tdiError s).sec = s.sec := by
  induction l generalizing s with
  | nil => rfl
  | cons q l ih => exact (ih _).trans ((State.tdiError_touches s q).frame .sec (by decide))

/-- Settles O56: by the message of the session, and its loss by the fold over the TDIs that it locked. -/
theorem sessionsAreMadeAndLost : Obligations.SessionsAreMadeAndLost := by
  unfold Obligations.SessionsAreMadeAndLost
  refine ⟨fun s n x r b m h hn hx ho hb => ?exchange, fun s n x r b m h ho => ?full, fun s n x d h hx he hm hbanks => ?claims,
    fun s n x d h hx he hbanks => ?finishes, fun s n x h he => ?heartbeat, fun s n x h he => ?update,
    fun s n x h he hp => ?ends, fun s n x p u hl hx hp hu htdi => ?lost⟩
  case exchange => exact completes_inOrder h rfl (by simp [hn, hx, ho, hb]) (respondFree_only s n _ _)
  case full =>
    have hmany : ¬ s.sec.openSessions < 72 := by omega
    exact completes_outOfOrder h rfl (by simp [hmany])
  case claims =>
    refine completes_inOrder h rfl (by simp [hx, he]) ?_
    have hclaim : (x.mutAuth && (s.setSession n { x with established := true }).fuses.ownerBanks.isEmpty) = true := by
      simp [hm, State.setSession, hbanks]
    simp only [Bool.not_true, Bool.false_eq_true, if_false, hclaim, if_true]
    refine ⟨fun p hp => ?_, ⟨_, rfl⟩, tbl_get_put_same _ _ _, rfl⟩
    cases p with
    | sec | free | out | fuses => simp at hp
    | _ => rfl
  case finishes =>
    refine completes_inOrder h rfl (by simp [hx, he]) ?_
    have hclaimed : (x.mutAuth && (s.setSession n { x with established := true }).fuses.ownerBanks.isEmpty) = false := by
      simp [State.setSession, hbanks]
    simp only [Bool.not_true, Bool.false_eq_true, if_false, hclaimed]
    cases d <;> exact respondFree_only s n _ _
  case heartbeat =>
    refine completes_inOrder h rfl he ?_
    rfl
  case update => exact completes_inOrder h rfl he (respond_only s n _ _ _)
  case ends =>
    refine completes_inOrder h rfl he ?_
    have hnone : ((s.respond n "END_SESSION_ACK" []).parts.filter fun e => e.2.tdiSession == some n) = [] := by
      simpa [State.respond] using hp
    simp only [State.loseSession, hnone, List.map_nil, List.foldl_nil]
    exact ⟨((emit_frame s _).mono (by decide)).trans ((setSec_frame _ _).mono (by decide)), rfl, rfl⟩
  case lost =>
    refine completes_when hl rfl (by simp [hx]) ?_
    have hpart : s.part p = u := State.part_of_get hp
    have hmem : p ∈ (s.parts.filter fun e => e.2.tdiSession == some n).map (·.1) :=
      List.mem_map.mpr ⟨(p, u), List.mem_filter.mpr ⟨tbl_mem_get hp, by simp [hu]⟩, rfl⟩
    have herr := State.inError_foldl _ { s with sec := { s.sec with sessions := s.sec.sessions.del n } }
      (.inr ⟨hmem, by rw [← hpart] at htdi; exact htdi⟩)
    refine ⟨herr.1, herr.2, ?_⟩
    rw [State.loseSession, foldl_tdiError_sec]

end Sys2Proof.Machine
end

section
/-!
PROOFS (this file, a sitting of its own). What the endings of slots, the records of errors, and the notices that go with them leave
alone: the states of partitions, that a fatal error stands, and which clusters are quarantined.
-/
namespace Sys2Proof.Machine

open Sys2Proof

/-- A partition without what accesses, endings of slots, notices and an error of its TDI may change: its regulators, reservations,
counters, and the state of the TDI. -/
def Partition.settled (u : Partition) : Partition :=
  { u with regs := [], holds := [], tel := {}, adm := {}, sent := 0, received := 0, events := {}, tdi := .unlocked
           resetSinceError := false, mgmtStop := false }

/-- `t` has every partition as in `s` but for what `Partition.settled` leaves out, the same fatal error and count of escalations, and
the same clusters in quarantine. -/
structure Calm (s t : State) : Prop where
  part : ∀ p, (t.part p).settled = (s.part p).settled
  fatal : t.errs.fatal = s.errs.fatal
  escalations : t.errs.escalations = s.errs.escalations
  quarantined : ∀ c, (t.cluster c).quarantined = (s.cluster c).quarantined

namespace Calm

variable {s t u : State}

theorem refl (s : State) : Calm s s := ⟨fun _ => rfl, rfl, rfl, fun _ => rfl⟩

theorem trans (h : Calm s t) (k : Calm t u) : Calm s u :=
  ⟨fun p => (k.part p).trans (h.part p), k.fatal.trans h.fatal, k.escalations.trans h.escalations,
    fun c => (k.quarantined c).trans (h.quarantined c)⟩

theorem after (k : Calm t u) (h : Calm s t) : Calm s u := h.trans k

theorem of_frame {ps : List Part} (h : OnlyChanges ps s t) (hps : Part.parts ∉ ps ∧ Part.errs ∉ ps ∧ Part.clusters ∉ ps) :
    Calm s t := by
  obtain ⟨hp, he, hc⟩ := hps
  have hparts : t.parts = s.parts := h .parts hp
  have herrs : t.errs = s.errs := h .errs he
  have hclusters : t.clusters = s.clusters := h .clusters hc
  exact ⟨fun p => by rw [part_of_parts hparts], by rw [herrs], by rw [herrs], fun c => by simp only [State.cluster, hclusters]⟩

theorem of_touches {ps : List Part} (h : Touches ps s t) (hps : Part.parts ∉ ps ∧ Part.errs ∉ ps ∧ Part.clusters ∉ ps) :
    Calm s t := of_frame h.frame hps

theorem foldl {α : Type} {f : State → α → State} (h : ∀ s x, Calm s (f s x)) (l : List α) (s : State) : Calm s (l.foldl f s) := by
  induction l generalizing s with
  | nil => exact refl s
  | cons x l ih => exact (h s x).trans (ih _)

theorem modPart (s : State) (p : Nat) {f : Partition → Partition} (hf : ∀ u, (f u).settled = u.settled) :
    Calm s (s.modPart p f) := by
  refine ⟨fun x => ?_, rfl, rfl, fun _ => rfl⟩
  by_cases hx : x = p
  · subst hx
    rw [State.part_modPart_same]
    exact hf _
  · rw [State.part_modPart_ne _ _ hx]

theorem modCluster (s : State) (c : Nat) {f : Cluster → Cluster} (hf : ∀ x, (f x).quarantined = x.quarantined) :
    Calm s (s.modCluster c f) := by
  refine ⟨fun _ => rfl, rfl, rfl, fun x => ?_⟩
  by_cases hx : x = c
  · subst hx
    rw [State.cluster_modCluster_same]
    exact hf _
  · exact congrArg Cluster.quarantined (tbl_getD_put_ne _ _ _ hx)

/-! A change of another field in place. -/

theorem setCtxs {x : Tbl Context} (h : Calm s t) : Calm s { t with ctxs := x } := ⟨h.part, h.fatal, h.escalations, h.quarantined⟩
theorem setFolios {x : Tbl Folio} (h : Calm s t) : Calm s { t with folios := x } :=
  ⟨h.part, h.fatal, h.escalations, h.quarantined⟩
theorem setFoliosGraphs {x : Tbl Folio} {y : Tbl Graph} (h : Calm s t) : Calm s { t with folios := x, graphs := y } :=
  ⟨h.part, h.fatal, h.escalations, h.quarantined⟩
theorem setReqs {x : Tbl MemReq} (h : Calm s t) : Calm s { t with reqs := x } := ⟨h.part, h.fatal, h.escalations, h.quarantined⟩
theorem setCores {x : Tbl Core} (h : Calm s t) : Calm s { t with cores := x } := ⟨h.part, h.fatal, h.escalations, h.quarantined⟩
theorem setExtents {x : Tbl Extent} (h : Calm s t) : Calm s { t with extents := x } :=
  ⟨h.part, h.fatal, h.escalations, h.quarantined⟩
theorem setCommons {x : Commons} (h : Calm s t) : Calm s { t with commons := x } := ⟨h.part, h.fatal, h.escalations, h.quarantined⟩
theorem setErrs {e : Errors} (h : Calm s t) (hf : e.fatal = t.errs.fatal) (he : e.escalations = t.errs.escalations) :
    Calm s { t with errs := e } := ⟨h.part, hf.trans h.fatal, he.trans h.escalations, h.quarantined⟩

/-- A calm change keeps whatever of a partition `Partition.settled` does not leave out. -/
theorem keeps (h : Calm s t) (p : Nat) {α : Type} (f : Partition → α) (hf : ∀ u : Partition, f u.settled = f u) :
    f (t.part p) = f (s.part p) := by
  rw [← hf, h.part p, hf]

end Calm

/-! ### The versions of folios -/

theorem State.sweepQuarantine_calm (s : State) : Calm s s.sweepQuarantine := (Calm.refl s).setErrs rfl rfl

theorem State.sweepFolio_calm (s : State) (i : Nat) : Calm s (s.sweepFolio i) := by
  unfold State.sweepFolio
  split
  · exact .refl s
  · refine (State.sweepQuarantine_calm _).after (Calm.trans ?_ (.foldl (fun s v => ?_) _ _))
    · exact (Calm.refl s).setFolios
    · exact .of_touches (State.dropFolioAtc_touches s i v) (by decide)

theorem State.unbindFolio_calm (s : State) (i v : Nat) : Calm s (s.unbindFolio i v) :=
  (State.sweepFolio_calm _ i).after (.of_touches (State.modFolio_touches ..) (by decide))

theorem State.unbind_calm (s : State) (e : Slot) : Calm s (s.unbind e) := by
  unfold State.unbind
  refine Calm.after (.foldl (fun s r => ?_) _ _) ?_
  · cases r with
    | folioRead f v => exact State.unbindFolio_calm s f v
    | folioOutput f v x => exact State.unbindFolio_calm s f v
    | _ => exact .refl s
  · split
    · exact .of_touches (State.unbindGraph_touches ..) (by decide)
    · exact .refl s

theorem State.discardVersion_calm (s : State) (i v : Nat) : Calm s (s.discardVersion i v) := by
  unfold State.discardVersion
  refine Calm.setCtxs ((State.sweepFolio_calm _ i).after ?_)
  exact (Calm.of_touches (State.dropFolioAtc_touches ..) (by decide)).after (.of_touches (State.modFolio_touches ..) (by decide))

theorem State.discardStagings_calm (s : State) (e : Slot) : Calm s (s.discardStagings e) :=
  .foldl (fun s (x : Nat × Nat) => State.discardVersion_calm s x.1 x.2) _ _

/-! ### The endings of slots -/

theorem State.newEpoch_calm (s : State) (q : Nat) : Calm s (s.newEpoch q) := by
  unfold State.newEpoch
  refine (Calm.of_touches (State.pushWrite_touches ..) (by decide)).after
    ((Calm.of_touches (State.writeWord_touches ..) (by decide)).after ((Calm.of_touches (State.modQueue_touches ..) (by decide)).after ?_))
  exact (Calm.refl s).setErrs rfl rfl

theorem State.settleQueue_calm (s : State) (q : Nat) : Calm s (s.settleQueue q) := by
  unfold State.settleQueue
  dsimp only
  split_ifs
  · exact .refl s
  · exact (Calm.of_touches (State.acceptAll_touches ..) (by decide)).after (State.newEpoch_calm s q)
  · exact (Calm.of_touches (State.acceptAll_touches ..) (by decide)).after (.of_touches (State.deleteQueue_touches ..) (by decide))
  · exact .refl s

theorem State.retireOne_calm (s : State) (e : Slot) : Calm s (s.retireOne e) :=
  (Calm.of_touches (State.dropSlot_touches ..) (by decide)).after
    ((State.unbind_calm _ e).after ((Calm.modPart _ _ fun _ => by rfl).after (.of_touches (State.modQueue_touches ..) (by decide))))

theorem State.retireLoop_calm (n : Nat) (s : State) (q : Nat) : Calm s (State.retireLoop n s q) := by
  induction n generalizing s with
  | zero => exact .refl s
  | succ n ih =>
    unfold State.retireLoop
    split
    · split
      · exact (State.retireOne_calm s _).trans (ih _)
      · exact .refl s
    · exact .refl s

theorem State.retireReady_calm (s : State) (q : Nat) : Calm s (s.retireReady q) := by
  unfold State.retireReady
  refine (State.settleQueue_calm _ q).after ?_
  split
  · exact State.retireLoop_calm _ s q
  · exact (Calm.of_touches (State.writeWord_touches ..) (by decide)).after (State.retireLoop_calm _ s q)

theorem State.finishSlot_calm (s : State) (q seq status cause earliest : Nat) :
    Calm s (s.finishSlot q seq status cause earliest) := by
  unfold State.finishSlot
  split
  · exact .refl s
  · refine (State.retireReady_calm _ q).after ?_
    have hslot : ∀ x : Slot, Calm s (s.modSlot q seq fun _ => x) := fun x => .of_touches (State.modSlot_touches ..) (by decide)
    split
    · exact (Calm.of_touches (State.pushRecord_touches ..) (by decide)).after ((Calm.modPart _ _ fun _ => by rfl).after (hslot _).setReqs)
    · exact (Calm.modPart _ _ fun _ => by rfl).after (hslot _).setReqs

theorem State.refuseSlot_calm (s : State) (q seq status cause earliest : Nat) :
    Calm s (s.refuseSlot q seq status cause earliest) :=
  (State.finishSlot_calm ..).after (.of_touches (State.modQueue_touches ..) (by decide))

theorem Cluster.quarantined_dropJobs (c : Cluster) (q seq : Nat) : (c.dropJobs q seq).quarantined = c.quarantined := rfl

theorem tbl_getD_mapV {α : Type} (t : Tbl α) (f : Nat → α → α) (k : Nat) (d : α) :
    Tbl.getD (Tbl.mapV t f) k d = ((Tbl.get? t k).map (f k)).getD d := by
  rw [Tbl.getD, tbl_get_mapV]

theorem State.forceLaunch_calm (s : State) (q seq : Nat) : Calm s (s.forceLaunch q seq) := by
  refine ⟨fun _ => rfl, rfl, rfl, fun c => ?_⟩
  simp only [State.forceLaunch, State.cluster, tbl_getD_mapV]
  cases h : Tbl.get? s.clusters c <;> simp [Tbl.getD, h, Cluster.quarantined_dropJobs]

theorem State.endSlot_calm (s : State) (q seq : Nat) (w : EndWhy) : Calm s (s.endSlot q seq w) := by
  unfold State.endSlot
  split
  · exact .refl s
  · dsimp only
    split_ifs
    · exact .refl s
    · exact State.refuseSlot_calm ..
    · exact State.finishSlot_calm ..
    · exact .refl s
    · exact (State.discardStagings_calm ..).after ((State.forceLaunch_calm ..).after (.of_touches (State.modSlot_touches ..) (by decide)))

theorem State.endWhere_calm (s : State) (t : Slot → Bool) (w : EndWhy) : Calm s (s.endWhere t w) :=
  .foldl (fun s (e : Slot) => State.endSlot_calm s e.queue e.seq w) _ _

/-! ### Records, notices, and the stop of a partition -/

theorem Errors.store_calm (e : Errors) (i : Nat) (r : ErrRecord) :
    (e.store i r).fatal = e.fatal ∧ (e.store i r).escalations = e.escalations := by
  simp only [Errors.store]
  split_ifs <;> exact ⟨rfl, rfl⟩

theorem State.logError_calm (s : State) (i : Nat) (r : ErrRecord) : Calm s (s.logError i r) := by
  unfold State.logError
  refine (Calm.of_touches (State.icLevel_touches ..) (by decide)).after ?_
  obtain ⟨hf, he⟩ := s.errs.store_calm i { r with ct := s.ctNow }
  exact (Calm.refl s).setErrs hf he

theorem State.logPart_calm (s : State) (p error action : Nat) : Calm s (s.logPart p error action) := State.logError_calm ..

theorem State.abortPart_calm (s : State) (p : Nat) : Calm s (s.abortPart p) :=
  (State.endWhere_calm ..).after ((State.logPart_calm ..).after (.modPart _ _ fun _ => by rfl))

theorem State.sendAbort_calm (s : State) (p reason : Nat) : Calm s (s.sendAbort p reason) := by
  unfold State.sendAbort
  dsimp only
  split
  · exact .refl s
  · refine Calm.after (.foldl State.abortPart_calm _ _) ((State.logPart_calm ..).after ((Calm.modPart _ _ fun _ => by rfl).after
      ((Calm.of_touches (State.viaPort_touches ..) (by decide)).setErrs rfl rfl)))

theorem State.stopPartition_calm (s : State) (p : Nat) : Calm s (s.stopPartition p) :=
  Calm.after (.foldl (fun s q => .of_touches (State.mgmtStopQueue_touches s q) (by decide)) _ _) (.modPart _ _ fun _ => by rfl)

theorem State.tdiError_calm (s : State) (p : Nat) : Calm s (s.tdiError p) := by
  unfold State.tdiError
  split
  · exact .refl s
  · exact .refl s
  all_goals exact (State.stopPartition_calm _ p).after (.modPart _ _ fun _ => by rfl)

theorem State.drainQueue_calm (s : State) (q kind : Nat) (a : Option QueueAttrs) (w : EndWhy) : Calm s (s.drainQueue q kind a w) := by
  unfold State.drainQueue
  exact (State.settleQueue_calm _ q).after (Calm.after (.foldl (fun s n => State.endSlot_calm s q n w) _ _)
    ((Calm.of_touches (State.setQState_touches ..) (by decide)).after (.of_touches (State.modQueue_touches ..) (by decide))))

theorem State.drainForReset_calm (s : State) (kind q : Nat) : Calm s (s.drainForReset kind q) := by
  unfold State.drainForReset
  dsimp only
  split
  · exact .of_touches (State.modQueue_touches ..) (by decide)
  · exact State.drainQueue_calm ..

theorem State.modShares_calm (s : State) (p c : Nat) (f : Shares → Shares) : Calm s (s.modShares p c f) := by
  unfold State.modShares
  split
  · exact (Calm.refl s).setCommons
  · exact .modCluster _ _ fun _ => rfl

theorem State.track_calm (s : State) : Calm s s.track := by
  unfold State.track
  refine Calm.after (.foldl (fun s e => .of_touches (State.followWait_touches s e) (by decide)) _ _) ?_
  exact .foldl (fun s p => .foldl (fun s c => State.modShares_calm ..) _ _) _ _

/-- What a fence does after it has set the state of its partition is calm. -/
theorem State.fencePart_calm (s : State) (p : Nat) (t : ResetTrigger) (record : Nat) (st : PState) (but : Option Nat) :
    Calm (s.modPart p fun u => { u with
      state := st, resetCt := s.ctNow, resetStep := 1, resetTrigger := triggerCode t, resetRecord := record })
      (s.fencePart p t record st but) := by
  unfold State.fencePart
  refine (State.track_calm _).after ((Calm.of_touches (State.abandonCommands_touches ..) (by decide)).after
    ((State.sendAbort_calm ..).after ((State.tdiError_calm ..).after (Calm.after (.foldl (fun s q => State.drainForReset_calm ..) _ _) ?_))))
  exact (Calm.refl _).setCores

/-- After the escalation to a fatal error the block is fatal. -/
theorem State.becomeFatal_fatal (s : State) : s.becomeFatal.errs.fatal = true := by
  rw [State.becomeFatal]
  split
  · assumption
  · refine (Calm.fatal (s := { s with errs := { s.errs with fatal := true } }) ?_).trans rfl
    refine (State.track_calm _).after ((Calm.of_touches (State.emit_touches ..) (by decide)).after
      ((State.endWhere_calm ..).after ?_))
    exact .foldl (fun s p => State.sendAbort_calm s p 2) _ _

/-! ### Fences of extents -/

theorem State.discardDraft_calm (s : State) (i v : Nat) : Calm s (s.discardDraft i v) := by
  unfold State.discardDraft
  dsimp only
  split
  · exact (Calm.of_touches (State.modFolio_touches ..) (by decide)).setCtxs
  · exact State.discardVersion_calm ..

theorem State.raiseFence_calm (s : State) (k : Nat) (p : Option Nat) (reply : List Nat) : Calm s (s.raiseFence k p reply) := by
  unfold State.raiseFence
  split
  · exact .refl s
  · refine Calm.trans ?_ (.foldl (fun s (d : Nat × Nat) => State.discardDraft_calm s d.1 d.2) _ _)
    exact ((State.endWhere_calm ..).after (Calm.refl s).setExtents).setFoliosGraphs

/-- A revocation, whichever channel waits for it. -/
theorem State.askRevoke_calm (s : State) (k : Nat) (p : Option Nat) (ch : Option Nat) : Calm s (s.askRevoke k p ch) := by
  have hpark : ∀ s : State, Calm s (ch.toList.foldl State.park s) :=
    fun s => .foldl (fun s c => .of_touches (State.park_touches s c) (by decide)) _ s
  have hnow : ∀ (s : State) (b : Bytes), Calm s (s.acceptAll ch.toList b) :=
    fun s b => .of_touches (State.acceptAll_touches ..) (by decide)
  unfold State.askRevoke
  split
  · exact .refl s
  · dsimp only
    split
    · split
      · exact (State.raiseFence_calm ..).after (hpark s)
      · exact hnow ..
    all_goals first
      | exact hnow ..
      | split <;> exact (hpark _).after (.of_touches (State.modExtent_touches ..) (by decide))

end Sys2Proof.Machine
end

section
/-!
PROOFS (this file, a sitting of its own). The die bridge (R453 to R456, R458).
-/
namespace Sys2Proof.Machine

open Sys2Proof

theorem setBridge_frame (s : State) (b : Bridge) : OnlyChanges [.bridge] s { s with bridge := b } := by
  intro p hp
  cases p with
  | bridge => exact absurd List.mem_cons_self hp
  | _ => rfl

/-- A command of the bridge acts where there are two dies and the bridge is trained. -/
theorem completes_onBridge {i : Instr} {s : State} {f : State → State} {P : State → Prop} (hl : s.live = true)
    (hfull : s.fuses.full = true) (ht : s.boot.bridgeTrained = true) (he : exec i s = .next (s.onBridge f)) (hp : P (f s)) :
    Completes i s P :=
  completes_when (b := fun s => s.fuses.full && s.boot.bridgeTrained) hl he (by simp [hfull, ht]) hp

/-- Every replay is counted. -/
theorem Bridge.replay_replays (b : Bridge) (n ct : Nat) (locked : Bool) :
    (b.replay n ct locked).replays = min (b.replays + 1) 0xFFFF := by
  simp only [Bridge.replay]
  split
  · rfl
  · split
    · simp only [Bridge.startRetrain]
      split <;> rfl
    · split <;> rfl

/-- R453: the sixteenth replay within a millisecond starts the retraining of its bundle. -/
theorem Bridge.replay_retrains {b : Bridge} {ct : Nat} (hb : b.retraining01 = false)
    (hr : 15 ≤ (b.replayAt01.filter fun t => ct ≤ t + 1000000).length) :
    (b.replay 0 ct true).retraining01 = true ∧ (b.replay 0 ct true).replayAt01 = [] := by
  have hmany : 16 ≤ (({ b with replays := satAdd 16 b.replays 1 } : Bridge).recent 0 ct).length := by
    simp only [Bridge.recent, beq_self_eq_true, if_true, List.length_cons]
    omega
  have hreplay : b.replay 0 ct true = ({ b with replays := satAdd 16 b.replays 1 } : Bridge).startRetrain 0 := by
    simp only [Bridge.replay]
    rw [if_neg (by simp [Bridge.retraining, hb]), if_pos hmany]
  rw [hreplay]
  exact ⟨rfl, rfl⟩

theorem Bridge.askWidth_of_lt {b : Bridge} {w : Nat} (h : w ≠ 3) :
    b.askWidth w = { b with widthReq := w, widthPending := b.width01 != w || b.width10 != w } := by
  simp [Bridge.askWidth, h]

theorem Bridge.startRetrain_both (b : Bridge) :
    ((b.startRetrain 0).startRetrain 1).retraining01 = true ∧ ((b.startRetrain 0).startRetrain 1).retraining10 = true := ⟨rfl, rfl⟩

/-- The end of the retraining of bundle 0 with a width that its good lanes give. -/
theorem Bridge.endRetrain_tested {b : Bridge} {a : BundleTest} (ha : a.bundle = 0) (w : Nat) :
    (b.endRetrain a.bundle).tested a w
      = { b with retrains := min (b.retrains + 1) 0xFFFF, retraining01 := false, width01 := w, good01 := a.goodLanes
                 spares01 := min 32 (b.spares01 + a.sparesNewlyUsed) } := by
  simp [Bridge.endRetrain, Bridge.tested, ha, satAdd]

/-- What a write of SC_BRIDGE_CTL by management does (R458). -/
theorem State.writeBridgeCtl_mgmt {s : State} {tee : Bool} (hl : s.live = true) (hm : s.isMgmt (.host tee) = true)
    (hfull : s.fuses.full = true) (v : BitVec 64) :
    s.writeBridgeCtl (.host tee) v =
      { s with bridge :=
          if v.getLsbD 2 && s.boot.bridgeTrained then ((s.bridge.askWidth (v.toNat % 4)).startRetrain 0).startRetrain 1
          else s.bridge.askWidth (v.toNat % 4) } := by
  rw [State.writeBridgeCtl, access_of_live hl]
  simp only [hm, hfull, Bool.not_true, Bool.false_eq_true, if_false]
  simp [bitsAt]

/-- A width change at the end of a frame: the widths, and its message when it is complete. -/
theorem exec_bridgeWidthChange {s : State} (hl : s.live = true) (hfull : s.fuses.full = true) (ht : s.boot.bridgeTrained = true)
    (hp : s.bridge.widthPending = true) (h01 : s.bridge.retraining01 = false) (h10 : s.bridge.retraining10 = false)
    (hu : s.time.state ≠ .unlocked) (hct : 7936 ≤ s.time.ct % 8192) {wait : Bool}
    (hw : (s.bridge.widthReq == 2 && s.bridgePromised) = wait) {P : State → Prop}
    (h : P (if wait then
        { s with bridge := { s.bridge with
            width01 := widthFor s.bridge.good01 1, width10 := widthFor s.bridge.good10 1, widthPending := true } }
      else
        { s with bridge := { s.bridge with
            width01 := widthFor s.bridge.good01 s.bridge.widthReq, width10 := widthFor s.bridge.good10 s.bridge.widthReq
            widthPending := false } }.icFire 420)) : Completes .bridgeWidthChange s P := by
  refine completes_onBridge hl hfull ht rfl ?_
  have hcond : (s.bridge.widthPending && !s.bridge.retraining01 && !s.bridge.retraining10 && s.time.state != .unlocked
      && decide (7936 ≤ s.time.ct % 8192)) = true := by simp [hp, h01, h10, hu, hct]
  dsimp only
  rw [hcond, State.when_true, hw]
  cases wait <;> exact h

/-- Settles O60: by the bundle, the width that is asked for, and whether promises wait for it. -/
theorem theBridgeIsRetrainedAndNarrowed : Obligations.TheBridgeIsRetrainedAndNarrowed := by
  unfold Obligations.TheBridgeIsRetrainedAndNarrowed
  refine ⟨fun s n k hl hf ht hk => ?replay, fun s k hl hf ht hb hu hk hr => ?often, fun s n k hl hf ht hk hfatal => ?lost,
    fun s hl hf ht => completes_onBridge hl hf ht rfl rfl, fun s a w hl hf ht ha hb hw => ?retrained,
    fun s tee v hl hm hf hv hw => ?width, fun s tee v hl hm => ?refused, fun s tee v hl hm hf ht hv => ?retrain,
    fun s hl hf ht hp h01 h10 hu hct hw => ?changed, fun s hl hf ht hp h01 h10 hu hct hw hpr => ?waits⟩
  case replay =>
    refine completes_onBridge hl hf ht rfl ?_
    rw [if_neg (by omega)]
    exact ⟨setBridge_frame s _, Bridge.replay_replays _ _ _ _⟩
  case often =>
    refine completes_onBridge hl hf ht rfl ?_
    have hlocked : (s.time.state != .unlocked) = true := bne_iff_ne.mpr hu
    rw [if_neg (by omega), hlocked]
    exact Bridge.replay_retrains hb hr
  case lost =>
    refine completes_onBridge hl hf ht rfl ?_
    rw [if_pos hk, State.dieError, if_neg (by simp [hfatal])]
    exact State.becomeFatal_fatal _
  case retrained =>
    refine completes_onBridge hl hf ht rfl ?_
    have hb' : s.bridge.retraining a.bundle = true := by simp [Bridge.retraining, ha, hb]
    have hwidth : (if a.bundle == 0 then (s.bridge.endRetrain a.bundle).width01 else (s.bridge.endRetrain a.bundle).width10)
        = s.bridge.width01 := by simp [ha, Bridge.endRetrain]
    dsimp only
    rw [hb', State.when_true, hwidth, hw]
    dsimp only
    rw [Bridge.endRetrain_tested ha]
    exact ⟨((setBridge_frame s _).mono (by decide)).trans ((setIc_frame _ _).mono (by decide)), rfl, rfl, rfl, rfl, rfl⟩
  case width =>
    refine ⟨_, rfl, ?_⟩
    rw [State.writeBridgeCtl_mgmt hl hm hf, hv, Bool.false_and, if_neg (by decide), Bridge.askWidth_of_lt hw]
    exact ⟨setBridge_frame s _, rfl, rfl, rfl, rfl⟩
  case refused =>
    refine completes_access (r := .host tee) hl rfl ?_
    simp only [hm, Bool.not_false, if_true]
    rfl
  case retrain =>
    refine ⟨_, rfl, ?_⟩
    rw [if_pos hv, State.writeBridgeCtl_mgmt hl hm hf, hv, ht, Bool.and_self, if_pos rfl]
    exact ⟨setBridge_frame s _, Bridge.startRetrain_both _⟩
  case changed =>
    have hnow : (s.bridge.widthReq == 2 && s.bridgePromised) = false := by
      rcases hw with hw | hw
      · simp [hw]
      · simp [hw]
    refine exec_bridgeWidthChange hl hf ht hp h01 h10 hu hct hnow ?_
    exact ⟨((setBridge_frame s _).mono (by decide)).trans ((setIc_frame _ _).mono (by decide)), rfl, rfl, rfl⟩
  case waits =>
    have hlater : (s.bridge.widthReq == 2 && s.bridgePromised) = true := by simp [hw, hpr]
    refine exec_bridgeWidthChange hl hf ht hp h01 h10 hu hct hlater ?_
    exact ⟨setBridge_frame s _, rfl, rfl⟩

end Sys2Proof.Machine
end

section
/-!
PROOFS (this file, a sitting of its own). Device interfaces (R294 to R296).
-/
namespace Sys2Proof.Machine

open Sys2Proof

/-- A message on the device interface of a partition: what it does acts on the session that is then bound to the partition. -/
theorem completes_onTdi {i : Instr} {s : State} {n p : Nat} {x : Session} {f : State → State} {P : State → Prop}
    (h : s.TalkingTdi n p x) (he : exec i s = .next (s.onTdi n p f)) (hp : P (f (s.setSession n { x with bound := some p }))) :
    Completes i s P := by
  obtain ⟨htalk, hest, hbound, hfree⟩ := h
  refine completes_inOrder htalk he ?_ hp
  rcases hbound with hb | hb <;> simp [hest, hb, hfree]

theorem State.part_respondFree (s : State) (n : Nat) (name : String) (p : Nat) : (s.respondFree n name).part p = s.part p := rfl

/-- The queues of a partition that are stopped are let go. -/
theorem State.foldl_mgmtResumeQueue_parts (l : List Nat) (s : State) : (l.foldl State.mgmtResumeQueue s).parts = s.parts := by
  induction l generalizing s with
  | nil => rfl
  | cons q l ih => exact (ih _).trans ((State.mgmtResumeQueue_touches s q).frame .parts (by decide))

/-- Stopping a partition marks it, and changes no other partition. -/
theorem State.part_stopPartition (s : State) (p q : Nat) :
    (s.stopPartition p).part q = (s.modPart p fun u => { u with mgmtStop := true }).part q :=
  part_of_parts (foldl_mgmtStopQueue_parts ..) q

/-- Resuming a partition takes its mark away, and changes no other partition. -/
theorem State.part_resumePartition (s : State) (p q : Nat) :
    (s.resumePartition p).part q = (s.modPart p fun u => { u with mgmtStop := false }).part q :=
  part_of_parts (State.foldl_mgmtResumeQueue_parts ..) q

/-- A reset of an active partition leaves it RESETTING, and keeps what no ending of its work changes. -/
theorem State.part_startReset {s : State} {p : Nat} (h : (s.part p).state = .active) (t : ResetTrigger) (r : Nat) {α : Type}
    (f : Partition → α) (hf : ∀ u : Partition, f u.settled = f u) :
    f ((s.startReset p t r).part p) = f { s.part p with
      state := .resetting, resetCt := s.ctNow, resetStep := 1, resetTrigger := triggerCode t, resetRecord := r } := by
  rw [State.startReset, if_pos (by simp [h]), (State.fencePart_calm s p t r .resetting none).keeps p f hf,
    State.part_modPart_same]

/-- Settles O57: each message acts on the session bound to the partition; the reset of the last by what its fence keeps. -/
theorem deviceInterfacesAreManaged : Obligations.DeviceInterfacesAreManaged := by
  unfold Obligations.DeviceInterfacesAreManaged
  refine ⟨fun s n p x h => ?version, fun s n p x h => ?capabilities, fun s n p x h hu ha hc hl => ?lock, fun s n p x h hu => ?locked,
    fun s n p x h => ?report, fun s n p x h => ?state, fun s n p x h hl hs => ?start, fun s n p x h hr ha => ?stop,
    fun s n p x k h => ?key⟩
  case version =>
    refine completes_onTdi h rfl ?_
    exact respondFree_only s n _ _
  case capabilities =>
    refine completes_onTdi h rfl ?_
    exact respondFree_only s n _ _
  case lock =>
    refine completes_onTdi h rfl ?_
    rw [if_pos (by simp [State.setSession, State.part] at hu ha hc hl ⊢; simp [hu, ha, hc, hl])]
    refine ⟨⟨_, rfl⟩, ?_, ?_, ?_, fun q hq => ?_⟩
    all_goals rw [State.part_respondFree, State.part_stopPartition]
    · rw [State.part_modPart_same, State.part_modPart_same]
    · rw [State.part_modPart_same, State.part_modPart_same]
    · rw [State.part_modPart_same]
    · rw [State.part_modPart_ne _ _ hq, State.part_modPart_ne _ _ hq]; rfl
  case locked =>
    refine completes_onTdi h rfl ?_
    rw [if_neg (by simp [State.setSession, State.part] at hu ⊢; simp [hu])]
    exact ⟨((setSec_frame s _).mono (by decide)).trans ((emit_frame _ _).mono (by decide)), rfl⟩
  case report =>
    refine completes_onTdi h rfl ?_
    exact ⟨((setSec_frame s _).mono (by decide)).trans ((emit_frame _ _).mono (by decide)), rfl⟩
  case state =>
    refine completes_onTdi h rfl ?_
    exact ⟨((setSec_frame s _).mono (by decide)).trans ((emit_frame _ _).mono (by decide)), rfl⟩
  case start =>
    refine completes_onTdi h rfl ?_
    rw [if_pos (by simp [State.setSession, State.part] at hl hs ⊢; simp [hl, hs])]
    refine ⟨⟨_, rfl⟩, ?_, ?_, fun q hq => ?_⟩
    all_goals rw [State.part_respondFree, State.part_resumePartition]
    · rw [State.part_modPart_same, State.part_modPart_same]
    · rw [State.part_modPart_same]
    · rw [State.part_modPart_ne _ _ hq, State.part_modPart_ne _ _ hq]; rfl
  case stop =>
    refine completes_onTdi h rfl ?_
    have htdi : ((s.setSession n { x with bound := some p }).part p).tdi = .run := hr
    dsimp only
    rw [if_neg (by simp [htdi]), if_neg (by simp [htdi])]
    have hact : (((((s.setSession n { x with bound := some p }).modPart p fun u => { u with ideKey := none })).modPart p
        fun u => { u with stopWanted := true }).part p).state = .active := by
      rw [State.part_modPart_same, State.part_modPart_same]
      exact ha
    refine ⟨⟨_, rfl⟩, ?_, ?_, ?_⟩
    · rw [State.part_respondFree, State.part_startReset hact _ _ Partition.ideKey fun _ => rfl, State.part_modPart_same, State.part_modPart_same]
    · rw [State.part_respondFree, State.part_startReset hact _ _ Partition.stopWanted fun _ => rfl, State.part_modPart_same]
    · rw [State.part_respondFree, State.part_startReset hact _ _ Partition.state fun _ => rfl]
  case key =>
    refine completes_onTdi h rfl ?_
    refine ⟨((setSec_frame s _).mono (by decide)).trans (((modPart_frame _ _ _).mono (by decide)).trans
      (((draw_frame _).mono (by decide)).trans ((emit_frame _ _).mono (by decide)))), ⟨_, rfl⟩, ?_, fun q hq => ?_⟩
    · rw [State.part_respondFree, State.part_modPart_same]; rfl
    · rw [State.part_respondFree, State.part_modPart_ne _ _ hq]; rfl

end Sys2Proof.Machine
end

section
/-!
PROOFS (this file, a sitting of its own). Security alarms, the fuse that they blow, and the renewal of keys (R308, R319, R321 to R323,
R326).
-/
namespace Sys2Proof.Machine

open Sys2Proof

theorem live_not_classA {s : State} (h : s.live = true) : s.boot.stopped ≠ .classA := by
  intro hst
  simp [State.live, hst] at h

theorem live_stopped {s : State} (h : s.live = true) : s.boot.stopped = .no := by
  simp only [State.live, Bool.and_eq_true, beq_iff_eq] at h
  exact h.1

/-- An alarm on a block that no alarm has stopped. -/
theorem completes_whenOn {i : Instr} {s : State} {f : State → State} {P : State → Prop} (hr : s.boot.outOfReset = true)
    (hst : s.boot.stopped ≠ .classA) (he : exec i s = .next (s.whenOn f)) (hp : P (f s)) : Completes i s P := by
  refine ⟨f s, ?_, hp⟩
  rw [he, State.whenOn, if_pos (by simp [hr, hst])]

/-- What a class A alarm leaves: the block is stopped, its keys and those of its partitions are gone, and the fuse of its slot is to
be blown. -/
structure State.Alarmed (s t : State) : Prop where
  frame : OnlyChanges [.out, .parts, .sec, .boot] s t
  boot : t.boot = { s.boot with stopped := .classA }
  out : t.out = .faultReport "CLASS_A" (s.fuses.activeSlot.getD 16) :: s.out
  capKey : t.sec.capKey = none
  deviceKey : t.sec.deviceKey = none
  aliasKey : t.sec.aliasKey = none
  sessions : t.sec.sessions = []
  retiring : t.sec.retiring = s.fuses.activeSlot
  debugEnabled : t.sec.debugEnabled = s.sec.debugEnabled
  parts : ∀ p, (t.part p).key = none ∧ (t.part p).identity = none

/-- R322: a class A alarm on a block that none has stopped. -/
theorem State.classA_alarmed {s : State} (h : s.boot.stopped ≠ .classA) : s.Alarmed s.classA := by
  have hc := State.classA_touches s
  rw [State.classA, if_neg (by simpa using h)] at *
  refine ⟨hc.frame.mono (by decide), rfl, rfl, rfl, rfl, rfl, rfl, rfl, rfl, fun p => ?_⟩
  simp only [State.part, State.emit, tbl_getD_mapV]
  cases Tbl.get? s.parts p <;> exact ⟨rfl, rfl⟩

/-- The keys of a struck partition are gone, and its reset is under way. -/
structure State.Struck (s t : State) (p : Nat) : Prop where
  key : (t.part p).key = none
  keyGone : (t.part p).keyGone = true
  state : (t.part p).state = .resetting
  boot : t.boot = s.boot
  classB : t.sec.classB = s.sec.classB

theorem State.part_setSec (s : State) (x : Security) (p : Nat) : ({ s with sec := x } : State).part p = s.part p := rfl

theorem State.part_zeroise_same (s : State) (p : Nat) : (s.zeroise p).part p = { s.part p with
    key := none, keyId := 0, keyCheck := 0, identity := none, certIssued := false, ideKey := none } := by
  rw [State.zeroise, State.part_setSec, State.part_modPart_same]

theorem State.foldl_askRevoke_touches (l : List Nat) (s : State) :
    Touches [.out, .mail, .msix, .errs, .fports, .parts, .ctxs, .queues, .slots, .graphs, .extents, .folios, .atc, .reqs,
      .cores, .clusters] s (l.foldl (fun s k => s.askRevoke k none none) s) := by
  induction l generalizing s with
  | nil => exact .refl ..
  | cons k l ih => exact (State.askRevoke_touches s k none none).trans (ih _)

/-- R323: a strike on an active partition. -/
theorem State.strike_struck {s : State} {p : Nat} (h : (s.part p).state = .active) (t : ResetTrigger) : s.Struck (s.strike p t) p := by
  unfold State.strike
  dsimp only
  set z := (s.zeroise p).modPart p fun u => { u with keyGone := true } with hz
  have hpart : z.part p = { s.part p with
      key := none, keyId := 0, keyCheck := 0, identity := none, certIssued := false, ideKey := none, keyGone := true } := by
    rw [hz, State.part_modPart_same, State.part_zeroise_same]
  have hact : (z.part p).state = .active := by rw [hpart]; exact h
  set l := (((z.startReset p t).extents.filter fun e => e.2.keyPartition == p).map (·.1))
  have hcalm : Calm (z.startReset p t) (l.foldl (fun s k => s.askRevoke k none none) (z.startReset p t)) :=
    .foldl (fun s k => State.askRevoke_calm s k none none) _ _
  have hkept := State.foldl_askRevoke_touches l (z.startReset p t)
  have hreset := State.startReset_touches z p t 0
  refine ⟨?_, ?_, ?_, ?_, ?_⟩
  · rw [hcalm.keeps p Partition.key fun _ => rfl, State.part_startReset hact _ _ Partition.key fun _ => rfl, hpart]
  · rw [hcalm.keeps p Partition.keyGone fun _ => rfl, State.part_startReset hact _ _ Partition.keyGone fun _ => rfl, hpart]
  · rw [hcalm.keeps p Partition.state fun _ => rfl, State.part_startReset hact _ _ Partition.state fun _ => rfl]
  · exact (hreset.frame .boot (by decide)).trans (hkept.frame .boot (by decide))
  · have hsec : (l.foldl (fun s k => s.askRevoke k none none) (z.startReset p t)).sec = z.sec :=
      (hreset.frame .sec (by decide)).trans (hkept.frame .sec (by decide))
    exact (congrArg Security.classB hsec).trans rfl

/-- Settles O54: an alarm of class A by `State.classA_alarmed`, one of class B by `State.strike_struck`, the renewal by what a new
set of keys brings. -/
theorem alarmsTakeTheKeys : Obligations.AlarmsTakeTheKeys := by
  unfold Obligations.AlarmsTakeTheKeys
  refine ⟨fun s n hr hst hn => ?tamper, fun s n hr hst hn => ?glitch, fun s hr hst hd => ?debug, fun s hr hst hd => ?unlock,
    fun s hr hst => ?domain, fun s d u p hl hn hp ha => ?classB, fun s d u hl hn => ?third, fun s n hn hl => ?blown,
    fun s n ch hn hl hch => ?retired, fun s p hl hres hgone hk => ?renewed, fun s p hl hid => ?certified⟩
  case tamper =>
    refine completes_whenOn hr hst rfl ?_
    rw [if_neg (by omega)]
    have h : State.Alarmed { s with pins := { s.pins with tamper := true } } _ := State.classA_alarmed hst
    have hpins : OnlyChanges [.pins] s { s with pins := { s.pins with tamper := true } } := by
      intro p hp
      cases p with
      | pins => exact absurd List.mem_cons_self hp
      | _ => rfl
    refine ⟨(hpins.mono (by decide)).trans (h.frame.mono (by decide)), h.boot, ?_, h.capKey, h.deviceKey, h.aliasKey, h.sessions,
      h.retiring, h.parts⟩
    have hkept := h.frame .pins (by decide)
    exact congrArg Pins.tamper hkept
  case glitch =>
    refine completes_whenOn hr hst rfl ?_
    rw [if_pos hn]
    rfl
  case debug =>
    refine completes_whenOn hr hst rfl ?_
    rw [if_pos hd]
    have h := State.classA_alarmed hst
    exact ⟨congrArg Boot.stopped h.boot, h.capKey, h.debugEnabled⟩
  case unlock =>
    refine completes_whenOn hr hst rfl ?_
    rw [if_neg (by simp [hd])]
  case domain =>
    refine completes_whenOn hr hst rfl ?_
    have h := State.classA_alarmed hst
    exact ⟨h.frame, congrArg Boot.stopped h.boot, h.out⟩
  case classB =>
    refine completes_live hl rfl ?_
    dsimp only
    rw [if_neg (by simp only [List.length_cons]; omega)]
    set u' := { s with sec := { s.sec with
      classB := satAdd 8 s.sec.classB 1
      classBAt := s.time.now :: s.sec.classBAt.filter fun t => s.time.now ≤ t + 1000000000 } } with hu
    have hstruck : u'.struck d u = [p] := hp
    rw [hstruck, List.foldl_cons, List.foldl_nil]
    have hact : (u'.part p).state = .active := ha
    have h := State.strike_struck hact .classB
    exact ⟨h.classB, h.key, h.keyGone, h.state, by rw [h.boot]; exact live_stopped hl⟩
  case third =>
    refine completes_live hl rfl ?_
    dsimp only
    rw [if_pos (by simp only [List.length_cons]; omega)]
    have h := State.classA_alarmed (s := { s with sec := { s.sec with
      classB := satAdd 8 s.sec.classB 1
      classBAt := s.time.now :: s.sec.classBAt.filter fun t => s.time.now ≤ t + 1000000000 } }) (live_not_classA hl)
    exact ⟨congrArg Boot.stopped h.boot, fun p => (h.parts p).1⟩
  case blown =>
    refine ⟨_, rfl, ?_⟩
    simp only [hn]
    exact if_neg (by simpa [State.live] using hl)
  case retired =>
    refine ⟨_, rfl, ?_⟩
    simp only [hn]
    rw [if_pos (by simpa [State.live] using hl), hch, Option.toList_some, List.foldl_cons, List.foldl_nil]
    set t := { s with
      fuses := { s.fuses with retired := s.fuses.retired ||| BitVec.ofNat 16 (2 ^ n) }
      sec := { s.sec with retiring := none, retireReply := none } } with ht
    obtain ⟨hframe, hreply⟩ := t.accept_does ch (toLe 1 (t.fuses.activeSlot.getD 0xFF))
    have hst : OnlyChanges [.fuses, .sec] s t := by
      intro p hp
      cases p with
      | fuses | sec => simp at hp
      | _ => rfl
    have hfuses : (t.accept ch _).fuses = t.fuses := hframe .fuses (by decide)
    have hsec : (t.accept ch _).sec = t.sec := hframe .sec (by decide)
    refine ⟨(hst.mono (by decide)).trans (hframe.mono (by decide)), hfuses, congrArg Security.retiring hsec, ?_⟩
    rwa [hfuses]
  case renewed =>
    refine completes_when hl rfl (by simp [hres, hgone, hk]) ?_
    have hnew : (s.newInstance p).part p = { s.part p with
        keyCount := s.sec.creationCount, key := some (s.memoryKey p s.sec.creationCount), keyId := s.keyIdOf p s.sec.creationCount
        keyCheck := keyCheckOf (s.memoryKey p s.sec.creationCount), identity := some (s.identityKey p s.sec.creationCount)
        certIssued := false } := by
      rw [State.newInstance, State.part_setSec, State.part_modPart_same]
    refine ⟨((State.newInstance_touches s p).frame.mono (by decide)).trans ((modPart_frame _ _ _).mono (by decide)), ?_, ?_, rfl,
      fun q hq => ?_⟩
    · rw [State.part_modPart_same, hnew]
    · rw [State.part_modPart_same, hnew]
    · rw [State.part_modPart_ne _ _ hq, State.newInstance, State.part_setSec, State.part_modPart_ne _ _ hq]
  case certified =>
    refine completes_when hl rfl hid ?_
    rfl

end Sys2Proof.Machine
end

section
/-!
PROOFS (this file, a sitting of its own). Facts that several families use: what a table lost or keeps, what the writes of a queue
leave alone, and how a mailbox command reaches its effect (R338, R340, R345).
-/
namespace Sys2Proof.Machine

open Sys2Proof

/-! ### Tables -/

section
variable {α : Type}

theorem tbl_get_none {t : Tbl α} {k : Nat} (h : Tbl.get? t k = none) : ∀ e ∈ t, e.1 ≠ k := by
  induction t with
  | nil => simp
  | cons x t ih =>
    obtain ⟨j, a⟩ := x
    simp only [Tbl.get?] at h
    split at h
    · cases h
    · rename_i hj
      simpa [hj] using ih h

theorem tbl_get_of_none {t : Tbl α} {k : Nat} (h : ∀ e ∈ t, e.1 ≠ k) : Tbl.get? t k = none := by
  cases hg : Tbl.get? t k with
  | none => rfl
  | some a => exact absurd rfl (h _ (tbl_mem_get hg))

theorem tbl_sorted_tail {e : Nat × α} {t : Tbl α} (h : Tbl.Sorted (e :: t)) : Tbl.Sorted t := (List.pairwise_cons.mp h).2

/-- In a table in order, the keys behind the first entry differ from its key. -/
theorem tbl_sorted_ne {e : Nat × α} {t : Tbl α} (h : Tbl.Sorted (e :: t)) : ∀ x ∈ t, x.1 ≠ e.1 :=
  fun x hx => (Nat.ne_of_lt ((List.pairwise_cons.mp h).1 x hx)).symm

theorem tbl_get_del_same {t : Tbl α} (k : Nat) (h : Tbl.Sorted t) : Tbl.get? (Tbl.del t k) k = none := by
  induction t with
  | nil => rfl
  | cons x t ih =>
    obtain ⟨j, a⟩ := x
    by_cases hj : j = k
    · subst hj
      simpa [Tbl.del] using tbl_get_of_none (tbl_sorted_ne h)
    · simpa [Tbl.del, hj, Tbl.get?] using ih (tbl_sorted_tail h)

/-- An entry of a table in order is the one that its key finds. -/
theorem tbl_get_of_mem {t : Tbl α} (h : Tbl.Sorted t) {e : Nat × α} (he : e ∈ t) : Tbl.get? t e.1 = some e.2 := by
  induction t with
  | nil => cases he
  | cons x t ih =>
    obtain ⟨j, a⟩ := x
    rcases List.mem_cons.mp he with rfl | he
    · simp [Tbl.get?]
    · rw [Tbl.get?, if_neg (tbl_sorted_ne h e he).symm]
      exact ih (tbl_sorted_tail h) he

/-- The entries that a filter leaves out are found no more; the others are found as before. -/
theorem tbl_get_filter {t : Tbl α} (h : Tbl.Sorted t) (p : Nat × α → Bool) (k : Nat) :
    Tbl.get? (List.filter p t) k = (Tbl.get? t k).filter fun a => p (k, a) := by
  cases hg : Tbl.get? t k with
  | none =>
    refine tbl_get_of_none fun e he => tbl_get_none hg e (List.mem_of_mem_filter he)
  | some a =>
    by_cases hp : p (k, a) = true
    · have hmem : (k, a) ∈ List.filter p t := List.mem_filter.mpr ⟨tbl_mem_get hg, hp⟩
      rw [tbl_get_of_mem (tbl_sorted_filter p h) hmem, Option.filter_some, if_pos hp]
    · rw [Option.filter_some, if_neg hp]
      refine tbl_get_of_none fun e he hk => ?_
      obtain ⟨hmem, hpe⟩ := List.mem_filter.mp he
      have he2 := tbl_get_of_mem h hmem
      rw [hk, hg] at he2
      obtain rfl : a = e.2 := Option.some.inj he2
      exact hp (by rwa [← hk])

end

/-! ### The writes of a queue -/

/-- A queue without what only its writes and their interrupts use. -/
def Queue.settled (u : Queue) : Queue :=
  { u with writes := [], intLost := false, absorbedF := false, stepF := false, interruptF := false }

/-- `t` has every queue as in `s`, queue `q` but for what its writes and their interrupts use. -/
structure Written (q : Nat) (s t : State) : Prop where
  own : (t.queue q).settled = (s.queue q).settled
  others : ∀ k, k ≠ q → t.queue k = s.queue k

namespace Written

variable {s t u : State} {q : Nat}

theorem refl (s : State) : Written q s s := ⟨rfl, fun _ _ => rfl⟩

theorem trans (h : Written q s t) (k : Written q t u) : Written q s u :=
  ⟨k.own.trans h.own, fun x hx => (k.others x hx).trans (h.others x hx)⟩

theorem of_queues (h : t.queues = s.queues) : Written q s t := by
  have hq : ∀ k, t.queue k = s.queue k := fun k => by simp only [State.queue, h]
  exact ⟨by rw [hq], fun k _ => hq k⟩

theorem modQueue (s : State) (q : Nat) {f : Queue → Queue} (hf : ∀ u, (f u).settled = u.settled) : Written q s (s.modQueue q f) :=
  ⟨by rw [State.queue_modQueue_same, hf], fun _ h => State.queue_modQueue_ne s f h⟩

/-- Writes keep whatever of their queue `Queue.settled` does not leave out. -/
theorem keeps (h : Written q s t) {α : Type} (f : Queue → α) (hf : ∀ u : Queue, f u.settled = f u) : f (t.queue q) = f (s.queue q) := by
  rw [← hf, h.own, hf]

end Written

theorem State.issueWrites_written (n : Nat) (s : State) (q : Nat) : Written q s (State.issueWrites n s q) := by
  induction n generalizing s with
  | zero => exact .refl s
  | succ n ih =>
    unfold State.issueWrites
    dsimp only
    split
    · exact .refl s
    · split
      · exact .of_queues (viaPath_frame _ _ _ .queues (by decide))
      · next rest _ v _ =>
        have hsend : Written q s (s.sendVector (s.queue q).attrs.path (s.queue q).partition v).1 :=
          .of_queues (sendVector_frame _ _ _ _ .queues (by decide))
        split <;> rename_i heq <;> rw [heq] at hsend
        · exact hsend
        · exact hsend.trans ((Written.modQueue _ q fun _ => by rfl).trans (ih _))
        · exact hsend.trans ((Written.modQueue _ q fun _ => by rfl).trans (ih _))

theorem State.pushWrite_written (s : State) (q : Nat) (w : GuestWrite) : Written q s (s.pushWrite q w) := by
  have hpush : Written q s (s.modQueue q fun u => { u with writes := u.writes ++ [w] }) := .modQueue _ q fun _ => by rfl
  unfold State.pushWrite
  dsimp only
  split
  · exact hpush.trans (State.issueWrites_written ..)
  · exact hpush

theorem State.writeWord_written (s : State) (q : Nat) (broken : Bool) : Written q s (s.writeWord q broken) := by
  unfold State.writeWord
  dsimp only
  split
  · exact .refl s
  · split
    · exact (State.pushWrite_written ..).trans ((State.pushWrite_written ..).trans (.modQueue _ q fun _ => by rfl))
    · exact (State.pushWrite_written ..).trans (.modQueue _ q fun _ => by rfl)

/-- A queue that takes a state keeps all else but its writes. -/
theorem State.setQState_written (s : State) (q : Nat) (st : QState) :
    Written q (s.modQueue q fun u => { u with state := st }) (s.setQState q st) :=
  (State.writeWord_written ..).trans (State.pushWrite_written ..)

/-! ### The replies -/

/-- A reply leaves the groups that are powered. -/
theorem State.replyWith_groups (s : State) (ch detail : Nat) (body : Bytes) (attrIndex needed retryAfter : Nat) :
    (s.replyWith ch detail body attrIndex needed retryAfter).mail.groups = s.mail.groups := by
  rw [State.replyWith]
  exact (congrArg Mailbox.groups (viaPath_frame _ _ _ .mail (by decide))).trans rfl

/-- A command that changes parts of the state and then succeeds. -/
theorem State.accept_after {ps : List Part} {s t : State} (h : OnlyChanges ps s t) (ch : Nat) (body : Bytes) :
    OnlyChanges (ps ++ replyParts) s (t.accept ch body) ∧ (t.accept ch body).Replying ch Detail.none body :=
  ⟨(h.mono fun _ hx => List.mem_append_left _ hx).trans ((t.accept_does ch body).1.mono fun _ hx => List.mem_append_right _ hx),
    (t.accept_does ch body).2⟩

/-- Replies to the other channels leave a channel alone; the channel itself, when it is among them, gets the reply. -/
theorem State.chan_acceptAll_ne {ch : Nat} {chs : List Nat} (h : ch ∉ chs) (s : State) (body : Bytes) :
    (s.acceptAll chs body).chan ch = s.chan ch := by
  induction chs generalizing s with
  | nil => rfl
  | cons c chs ih =>
    rw [List.mem_cons, not_or] at h
    exact (ih h.2 _).trans (State.chan_replyWith_ne _ _ _ _ _ _ h.1)

theorem State.Replying.of_chan {s t : State} {ch detail : Nat} {body : Bytes} (h : s.Replying ch detail body)
    (hc : t.chan ch = s.chan ch) : t.Replying ch detail body := by
  obtain ⟨hs, hd, hst, hb⟩ := h
  constructor <;> rw [hc] <;> assumption

theorem State.replying_acceptAll {ch : Nat} {chs : List Nat} (h : ch ∈ chs) (s : State) (body : Bytes) :
    (s.acceptAll chs body).Replying ch Detail.none body := by
  induction chs generalizing s with
  | nil => cases h
  | cons c chs ih =>
    show ((s.accept c body).acceptAll chs body).Replying ch Detail.none body
    by_cases hmem : ch ∈ chs
    · exact ih hmem _
    · obtain rfl : ch = c := (List.mem_cons.mp h).resolve_right hmem
      exact (s.accept_does ch body).2.of_chan (State.chan_acceptAll_ne hmem _ _)

/-! ### The commands of the mailbox -/

/-- A command that its checks let through acts. -/
theorem completes_serving {i : Instr} {s : State} {ch op : Nat} {m : Message} {cs : State → Message → List Check}
    {f : State → Message → State → State} {P : State → Prop} (h : s.Serving ch op m)
    (he : exec i s = .next (s.whenLive fun s => s.serveChecked ch op (cs s) (f s))) (hno : m.refusal (cs s m) = none)
    (hp : P (f s m s)) : Completes i s P := by
  obtain ⟨hl, hst, hs, hm, hop, hr⟩ := h
  refine completes_live hl he ?_
  rw [State.serveChecked, State.serveCmd]
  simp only [hst, hs, hm, hop, hr]
  simpa [hno] using hp

/-- A command that a check refuses. -/
theorem completes_refusing {i : Instr} {s : State} {ch op d n : Nat} {m : Message} {cs : State → Message → List Check}
    {f : State → Message → State → State} (h : s.Serving ch op m)
    (he : exec i s = .next (s.whenLive fun s => s.serveChecked ch op (cs s) (f s))) (hno : m.refusal (cs s m) = some (d, n)) :
    Completes i s fun t => OnlyChanges replyParts s t ∧ t.Replying ch d [] := by
  obtain ⟨hl, hst, hs, hm, hop, hr⟩ := h
  refine completes_live hl he ?_
  rw [State.serveChecked, State.serveCmd]
  simp only [hst, hs, hm, hop, hr, hno]
  simpa [State.refuseAttr] using And.intro (s.replyWith_frame ch d [] n 0 0) (s.replyWith_replying ch d [] n 0 0)

/-- Checks of which none is bad refuse nothing, in whichever order they are made. -/
theorem refusal_none {m : Message} {cs : List Check} (h : ∀ c ∈ cs, c.bad = false) : m.refusal cs = none := by
  rw [Message.refusal, Option.map_eq_none_iff, List.find?_eq_none]
  intro c hc
  rw [h c hc]
  exact Bool.false_ne_true

theorem mem_inOrder {c : Check} {cs : List Check} (h : c ∈ inOrder cs) : c ∈ cs := by
  simp only [inOrder, checksOf, List.mem_append, List.mem_filter] at h
  tauto

theorem refusal_inOrder_none {m : Message} {cs : List Check} (h : ∀ c ∈ cs, c.bad = false) : m.refusal (inOrder cs) = none :=
  refusal_none fun c hc => h c (mem_inOrder hc)

end Sys2Proof.Machine
end

section
/-!
PROOFS (this file, a sitting of its own). Mailbox commands on contexts, queues, inbound windows and power (R140, R169, R213, R232, R262,
R278, R280, R333, R342, R343, R413).
-/
namespace Sys2Proof.Machine

open Sys2Proof

theorem setCtxs_frame (s : State) (x : Tbl Context) : OnlyChanges [.ctxs] s { s with ctxs := x } := by
  intro p hp
  cases p with
  | ctxs => exact absurd List.mem_cons_self hp
  | _ => rfl

theorem setInbound_frame (s : State) (x : Tbl InWindow) : OnlyChanges [.inbound] s { s with inbound := x } := by
  intro p hp
  cases p with
  | inbound => exact absurd List.mem_cons_self hp
  | _ => rfl

theorem setPower_frame (s : State) (x : Power) : OnlyChanges [.power] s { s with power := x } := by
  intro p hp
  cases p with
  | power => exact absurd List.mem_cons_self hp
  | _ => rfl

theorem setMail_frame (s : State) (x : Mailbox) : OnlyChanges [.mail] s { s with mail := x } := by
  intro p hp
  cases p with
  | mail => exact absurd List.mem_cons_self hp
  | _ => rfl

theorem State.queue_of_queues {s t : State} (h : t.queues = s.queues) (q : Nat) : t.queue q = s.queue q := by
  simp only [State.queue, h]

/-! ### Contexts -/

theorem State.sorted_modCtx {s : State} (h : Tbl.Sorted s.ctxs) (k : Nat) (f : Context → Context) : Tbl.Sorted (s.modCtx k f).ctxs := by
  unfold State.modCtx
  split
  · exact tbl_sorted_put _ _ h
  · exact h

theorem State.sorted_discardVersion {s : State} (h : Tbl.Sorted s.ctxs) (i v : Nat) : Tbl.Sorted (s.discardVersion i v).ctxs := by
  have hkept : (((s.modFolio i fun f => { f with
      slots := f.slots.map fun x => if x.live && x.version == v then {} else x }).dropFolioAtc i v).sweepFolio i).ctxs = s.ctxs :=
    (Eq.trans ((State.sweepFolio_touches ..).frame .ctxs (by decide)) ((State.dropFolioAtc_touches ..).frame .ctxs (by decide))).trans
      ((State.modFolio_touches ..).frame .ctxs (by decide))
  rw [← hkept] at h
  exact tbl_sorted_mapV (fun _ (c : Context) =>
    { c with holds := c.holds.filter fun h => !(h.draft && h.folio == i && h.version == v) }) h

theorem State.sorted_discardDraft {s : State} (h : Tbl.Sorted s.ctxs) (i v : Nat) : Tbl.Sorted (s.discardDraft i v).ctxs := by
  unfold State.discardDraft
  dsimp only
  split
  · have hkept : (s.modFolio i fun f => f.modSlot v fun x => { x with discardAfter := true }).ctxs = s.ctxs :=
      (State.modFolio_touches s i _).frame .ctxs (by decide)
    rw [← hkept] at h
    exact tbl_sorted_mapV (fun _ (c : Context) =>
      { c with holds := c.holds.filter fun h => !(h.draft && h.folio == i && h.version == v) }) h
  · exact State.sorted_discardVersion h i v

theorem State.sorted_closeOpens {s : State} (h : Tbl.Sorted s.ctxs) (k i v n : Nat) : Tbl.Sorted (s.closeOpens k i v n).ctxs := by
  unfold State.closeOpens
  dsimp only
  rw [show ((State.modFolio _ i _).sweepFolio i).ctxs = _ from
    ((State.modFolio_touches _ i _).frame .ctxs (by decide)).trans ((State.sweepFolio_touches _ i).frame .ctxs (by decide))]
  exact State.sorted_modCtx h k _

theorem State.sorted_closeHolds {s : State} (h : Tbl.Sorted s.ctxs) (k : Nat) (t : FolioHold → Bool) :
    Tbl.Sorted (s.closeHolds k t).ctxs := by
  have hfold : ∀ (l : List FolioHold) (s : State), Tbl.Sorted s.ctxs → Tbl.Sorted (l.foldl (fun s h =>
      if h.draft then s.discardDraft h.folio h.version else s.closeOpens k h.folio h.version h.opens) s).ctxs := by
    intro l
    induction l with
    | nil => exact fun _ h => h
    | cons x l ih =>
      intro s hs
      refine ih _ ?_
      dsimp only
      split
      · exact State.sorted_discardDraft hs ..
      · exact State.sorted_closeOpens hs ..
  unfold State.closeHolds
  split
  · exact h
  · exact hfold _ _ h

/-- R232: a context that is deleted is found no more, and none of its entries stands in the sequence table. -/
theorem State.deleteContext_does {s : State} {k : Nat} {c : Context} (hc : s.ctx? k = some c) (hs : Tbl.Sorted s.ctxs) :
    (s.deleteContext k).ctx? k = none ∧ ∀ e ∈ (s.deleteContext k).seqs, ¬(e.2.partition = c.partition ∧ e.2.context = c.index) := by
  unfold State.deleteContext
  rw [hc]
  dsimp only
  set u := ((s.dropWindows fun _ w => w.folio && w.partition == c.partition && w.context == c.index).closeHolds k fun _ => true).dropTranslations
    c.partition (some c.index) with hu
  have hsorted : Tbl.Sorted u.ctxs := by
    rw [hu, show (State.dropTranslations _ _ _).ctxs = _ from (State.dropTranslations_touches ..).frame .ctxs (by decide)]
    refine State.sorted_closeHolds ?_ k _
    rw [show (s.dropWindows _).ctxs = _ from (State.dropWindows_touches ..).frame .ctxs (by decide)]
    exact hs
  have hgone : Tbl.get? (Tbl.del u.ctxs k) k = none := tbl_get_del_same k hsorted
  have hseqs : ∀ e ∈ u.seqs.filter fun e => !(e.2.partition == c.partition && e.2.context == c.index),
      ¬(e.2.partition = c.partition ∧ e.2.context = c.index) := by
    intro e he
    have hne := (List.mem_filter.mp he).2
    rintro ⟨hp, hx⟩
    simp [hp, hx] at hne
  split
  · exact ⟨hgone, hseqs⟩
  · exact ⟨hgone, hseqs⟩

/-! ### Queues -/

/-- R169: a queue without slots that is drained for its deletion is DISABLED at once, and the channels that wait for it are answered. -/
theorem State.drainQueue_delete {s : State} {q : Nat} (hs : (s.slots.any fun e => e.queue == q) = false) (w : EndWhy) :
    (∀ ch, (s.chan ch).state ≠ .idle → (s.chan ch).serve = .waiting →
      (∃ m, (s.chan ch).message = some m ∧ m.opcode = 0x39 ∧ m.queue = q) → (s.drainQueue q 3 none w).Replying ch Detail.none [])
      ∧ ((s.drainQueue q 3 none w).queue q).state = .disabled ∧ ∀ k, k ≠ q → (s.drainQueue q 3 none w).queue k = s.queue k := by
  set a := s.modQueue q fun u =>
    { u with held := [], resuming := none, fetching := false, pendingTail := none, newAttrs := none, drainKind := 3 } with ha
  set u := a.setQState q .draining with hu
  have hw := State.setQState_written a q .draining
  have hslots : u.slots = s.slots := (State.setQState_touches a q .draining).frame .slots (by decide)
  have hmail : u.mail = s.mail := (State.setQState_touches a q .draining).frame .mail (by decide)
  have hstate : (u.queue q).state = .draining := by
    rw [hw.keeps Queue.state fun _ => rfl, State.queue_modQueue_same]
  have hkind : (u.queue q).drainKind = 3 := by
    rw [hw.keeps Queue.drainKind fun _ => rfl, State.queue_modQueue_same, ha, State.queue_modQueue_same]
  have hothers : ∀ k, k ≠ q → u.queue k = s.queue k := fun k hk => by
    rw [hw.others k hk, State.queue_modQueue_ne _ _ hk, ha, State.queue_modQueue_ne _ _ hk]
  have hdrain : s.drainQueue q 3 none w = (u.deleteQueue q).acceptAll (u.queueChans 0x39 q) [] := by
    have hmine : u.slots.filter (fun e => e.queue == q) = [] := by
      rw [hslots, List.filter_eq_nil_iff]
      simpa using hs
    rw [State.drainQueue]
    show ((((u.slots.filter fun e => e.queue == q).map (·.seq)).foldl (fun s n => s.endSlot q n w) u).settleQueue q) = _
    rw [hmine, List.map_nil, List.foldl_nil, State.settleQueue, hslots, hs]
    simp [hstate, hkind]
  have hdel := State.pushWrite_written (u.modQueue q fun u => { u.fresh .disabled u.epoch s.time.now u.attrs with
    mgmtStop := false, intLost := false }) q .eventInterrupt
  have hnow : u.time = s.time := (State.setQState_touches a q .draining).frame .time (by decide)
  have hdelete : u.deleteQueue q = (u.modQueue q fun u => { u.fresh .disabled u.epoch s.time.now u.attrs with
    mgmtStop := false, intLost := false }).pushWrite q .eventInterrupt := by
    rw [State.deleteQueue, hnow]
  have hqueues : ((u.deleteQueue q).acceptAll (u.queueChans 0x39 q) []).queues = (u.deleteQueue q).queues :=
    (State.acceptAll_touches ..).frame .queues (by decide)
  have hqueue : ∀ k, (s.drainQueue q 3 none w).queue k = (u.deleteQueue q).queue k := fun k => by
    rw [hdrain]
    exact State.queue_of_queues hqueues k
  refine ⟨fun ch hi hserve hm => ?_, ?_, fun k hk => ?_⟩
  · rw [hdrain]
    refine State.replying_acceptAll ?_ _ _
    obtain ⟨m, hm, hop, hq⟩ := hm
    rw [State.queueChans, State.waitingChans, hmail]
    exact List.mem_map.mpr ⟨_, List.mem_filter.mpr ⟨s.mem_chans hi, by simp [hserve, hm, hop, hq]⟩, rfl⟩
  · rw [hqueue, hdelete, hdel.keeps Queue.state fun _ => rfl, State.queue_modQueue_same]
    rfl
  · rw [hqueue, hdelete, hdel.others k hk, State.queue_modQueue_ne _ _ hk, hothers k hk]

/-! ### Inbound windows -/

/-- Where no window stands, none is dropped. -/
theorem State.dropWindows_none {s : State} {k : Nat} (h : s.inbound.get? k = none) : (s.dropWindows fun x _ => x == k) = s := by
  have hne := tbl_get_none h
  have hgone : (s.inbound.filter fun e => e.1 == k) = [] := by
    rw [List.filter_eq_nil_iff]
    simpa using hne
  have hkept : (s.inbound.filter fun e => !(e.1 == k)) = s.inbound := by
    rw [List.filter_eq_self]
    simpa using hne
  simp only [State.dropWindows, hgone, hkept, List.map_nil, List.filter_nil, List.foldl_nil]

/-! ### The obligation -/

/-- Settles O50: each command changes its table and then succeeds; a deletion of a queue by the drain of an empty queue. -/
theorem contextAndQueueCommandsAreServed : Obligations.ContextAndQueueCommandsAreServed := by
  unfold Obligations.ContextAndQueueCommandsAreServed
  refine ⟨fun s ch m h hno => ?create, fun s ch m c h ha hc hq hsorted => ?delete, fun s ch m c h hc hno => ?set,
    fun s ch m h hstop hno => ?queue, fun s ch m h ha hd hdr hp hs => ?queueDelete,
    fun s ch m h ha hobj hnone hz hfolio hchecks hsorted => ?window, fun s ch m v h hv hlo hhi => ?cap,
    fun s ch m h hobj hidle => ?groups⟩
  case create =>
    refine completes_serving h rfl hno ?_
    obtain ⟨hframe, hreply⟩ := State.accept_after (setCtxs_frame s (s.ctxs.put (ctxKey m.partition m.context) m.newContext)) ch []
    have hctxs := (State.accept_does { s with ctxs := s.ctxs.put (ctxKey m.partition m.context) m.newContext } ch []).1 .ctxs (by decide)
    refine ⟨hframe, hreply, ?_, fun k hk => ?_⟩
    · exact (congrArg (Tbl.get? · _) hctxs).trans (tbl_get_put_same _ _ _)
    · exact (congrArg (Tbl.get? · k) hctxs).trans (tbl_get_put_ne _ _ hk)
  case delete =>
    refine completes_serving h rfl (refusal_none ?_) ?_
    · simp [State.partMissing, State.contextMissing, State.partNotActive, ha, hc, hq]
    · obtain ⟨hgone, hseqs⟩ := State.deleteContext_does hc hsorted
      obtain ⟨hframe, hreply⟩ := (s.deleteContext (ctxKey m.partition m.context)).accept_does ch []
      refine ⟨hreply, ?_, ?_⟩
      · exact (congrArg (Tbl.get? · _) (hframe .ctxs (by decide))).trans hgone
      · rw [show (State.accept _ ch []).seqs = _ from hframe .seqs (by decide)]
        exact hseqs
  case set =>
    refine completes_serving h rfl hno ?_
    obtain ⟨hframe, hreply⟩ := State.accept_after ((State.modCtx_touches s (ctxKey m.partition m.context) fun c =>
      { c with pendShare := (m.num? 0x12).orElse fun _ => c.pendShare, windows := m.windowsOver c.windows }).frame) ch []
    have hctxs := (State.accept_does (s.modCtx (ctxKey m.partition m.context) fun c =>
      { c with pendShare := (m.num? 0x12).orElse fun _ => c.pendShare, windows := m.windowsOver c.windows }) ch []).1 .ctxs (by decide)
    refine ⟨hframe, hreply, (congrArg (Tbl.get? · _) hctxs).trans ?_⟩
    exact (State.ctx_modCtx_same s _ _).trans (by rw [hc]; rfl)
  case queue =>
    refine completes_serving h rfl hno ?_
    rw [hstop]
    set a := s.modQueue m.queue fun u => { (u.fresh .active u.epoch s.time.now (m.queueAttrs {})) with
      partition := m.partition, mgmtStop := false, intLost := false } with ha
    have hw := (State.writeWord_written a m.queue false).trans (State.pushWrite_written _ m.queue .eventInterrupt)
    set u := (a.writeWord m.queue false).pushWrite m.queue .eventInterrupt
    obtain ⟨hframe, hreply⟩ := u.accept_does ch (toLe 1 (a.queue m.queue).epoch)
    have hqueue : ∀ q, (u.accept ch (toLe 1 (a.queue m.queue).epoch)).queue q = u.queue q :=
      State.queue_of_queues (hframe .queues (by decide))
    have hown : a.queue m.queue = { ((s.queue m.queue).fresh .active (s.queue m.queue).epoch s.time.now (m.queueAttrs {})) with
        partition := m.partition, mgmtStop := false, intLost := false } := State.queue_modQueue_same ..
    have hepoch : (a.queue m.queue).epoch = (s.queue m.queue).epoch := by rw [hown]; rfl
    refine ⟨?_, ?_, ?_, ?_, ?_, ?_, fun q hq => ?_⟩
    · rw [← hepoch]
      exact hreply
    · exact (congrArg Queue.state (hqueue _)).trans ((hw.keeps Queue.state fun _ => rfl).trans (by rw [hown]; rfl))
    · exact (congrArg Queue.partition (hqueue _)).trans ((hw.keeps Queue.partition fun _ => rfl).trans (by rw [hown]))
    · exact (congrArg Queue.attrs (hqueue _)).trans ((hw.keeps Queue.attrs fun _ => rfl).trans (by rw [hown]; rfl))
    · exact (congrArg Queue.epoch (hqueue _)).trans ((hw.keeps Queue.epoch fun _ => rfl).trans hepoch)
    · exact (congrArg Queue.retiredSeq (hqueue _)).trans ((hw.keeps Queue.retiredSeq fun _ => rfl).trans (by rw [hown]; rfl))
    · exact (hqueue q).trans ((hw.others q hq).trans (State.queue_modQueue_ne _ _ hq))
  case queueDelete =>
    refine completes_serving h rfl (refusal_none ?_) ?_
    · simp [State.partMissing, State.queueMissing, State.partNotActive, ha, hd, hp]
    · obtain ⟨-, hst, -, hm, hop, -⟩ := h
      have hchan : (s.park ch).chan ch = { s.chan ch with serve := .waiting, bobbin := none } := State.chan_modChan_same ..
      have hnot : ((s.queue m.queue).state == .draining) = false := by simpa using hdr
      obtain ⟨hreply, hstate, hothers⟩ := State.drainQueue_delete (s := s.park ch) (q := m.queue) hs .queueReset
      have htrack := State.track_touches ((s.park ch).drainQueue m.queue 3 none .queueReset)
      have hqueue : ∀ k, ((s.park ch).drainQueue m.queue 3 none .queueReset).track.queue k
          = ((s.park ch).drainQueue m.queue 3 none .queueReset).queue k := State.queue_of_queues (htrack.frame .queues (by decide))
      have hreplies := (hreply ch (by rw [hchan]; simp [hst]) (by rw [hchan]) ⟨m, by rw [hchan]; exact hm, hop, rfl⟩).of_mail
        (htrack.frame .mail (by decide))
      dsimp only
      rw [if_neg (by rw [show (s.park ch).queue m.queue = s.queue m.queue from rfl, hnot]; exact Bool.false_ne_true)]
      exact ⟨hreplies, by rw [hqueue]; exact hstate, fun k hk => (hqueue k).trans (hothers k hk)⟩
  case window =>
    refine completes_serving h rfl (refusal_inOrder_none ?_) ?_
    · have hbad : ∀ c ∈ s.inWindowChecks (inWindow m.partition ((m.attr? 0x32 0).getD [])) ((m.attr? 0x32 0).getD []), c.bad = false := by
        simpa using hchecks
      simp only [hnone, hz]
      simpa [State.partMissing, State.partNotActive, ha, hobj] using hbad
    · rw [State.dropWindows_none hnone]
      simp only [hz, hfolio]
      obtain ⟨hframe, hreply⟩ := State.accept_after
        (setInbound_frame s (s.inbound.put m.object (inWindow m.partition ((m.attr? 0x32 0).getD [])))) ch []
      have hin := (State.accept_does { s with
        inbound := s.inbound.put m.object (inWindow m.partition ((m.attr? 0x32 0).getD [])) } ch []).1 .inbound (by decide)
      refine ⟨hframe, hreply, ?_, fun k hk => ?_⟩
      · exact (congrArg (Tbl.get? · _) hin).trans (tbl_get_put_same _ _ _)
      · exact (congrArg (Tbl.get? · k) hin).trans (tbl_get_put_ne _ _ hk)
  case cap =>
    refine completes_serving h rfl (refusal_none ?_) ?_
    · simp [Message.rangeOf, Message.outside, hv, hlo, hhi]
    · obtain ⟨hframe, hreply⟩ := State.accept_after (setPower_frame s { s.power with pendCap := m.num? 0x52 }) ch []
      have hpower := (State.accept_does { s with power := { s.power with pendCap := m.num? 0x52 } } ch []).1 .power (by decide)
      exact ⟨hframe, hreply, by rw [← hv]; exact hpower⟩
  case groups =>
    refine completes_serving h rfl (refusal_none ?_) ?_
    · simp [hidle, hobj]
    · obtain ⟨hframe, hreply⟩ := State.accept_after (setMail_frame s { s.mail with groups := BitVec.ofNat 8 m.object ||| 1 }) ch
        (toLe 1 (BitVec.ofNat 8 m.object ||| 1).toNat)
      exact ⟨hframe.mono (by decide), State.replyWith_groups .., hreply⟩

end Sys2Proof.Machine
end

section
/-!
PROOFS (this file, a sitting of its own). The registration of graphs and folios (R101, R119, R120, R240 to R242, R257, R260, R343).
-/
namespace Sys2Proof.Machine

open Sys2Proof

theorem setGraphs_frame (s : State) (x : Tbl Graph) : OnlyChanges [.graphs] s { s with graphs := x } := by
  intro p hp
  cases p with
  | graphs => exact absurd List.mem_cons_self hp
  | _ => rfl

theorem setFolios_frame (s : State) (x : Tbl Folio) : OnlyChanges [.folios] s { s with folios := x } := by
  intro p hp
  cases p with
  | folios => exact absurd List.mem_cons_self hp
  | _ => rfl

/-- The entry that a handle names. -/
theorem State.graph_of_named {s : State} {h i : Nat} {x : Graph} (hg : s.graphOf h = some (i, x)) : s.graphs.get? i = some x := by
  unfold State.graphOf at hg
  dsimp only at hg
  split at hg
  · next e he =>
    split at hg
    · obtain ⟨rfl, rfl⟩ := Prod.mk.inj (Option.some.inj hg)
      exact he
    · cases hg
  · cases hg

theorem State.folio_of_named {s : State} {h i : Nat} {f : Folio} (hf : s.namedFolio h = some (i, f)) :
    s.folios.get? i = some f ∧ f.registered = true := by
  unfold State.namedFolio at hf
  dsimp only at hf
  split at hf
  · next e he =>
    split at hf
    · next hreg =>
      obtain ⟨rfl, rfl⟩ := Prod.mk.inj (Option.some.inj hf)
      simp only [Bool.and_eq_true] at hreg
      exact ⟨he, hreg.1.1.1⟩
    · cases hf
  · cases hf

theorem State.graphs_modGraph {s : State} {i : Nat} {x : Graph} (h : s.graphs.get? i = some x) (f : Graph → Graph) :
    (s.modGraph i f).graphs = s.graphs.put i (f x) := by
  simp only [State.modGraph, h]

theorem State.folios_modFolio {s : State} {i : Nat} {x : Folio} (h : s.folios.get? i = some x) (f : Folio → Folio) :
    (s.modFolio i f).folios = s.folios.put i (f x) := by
  simp only [State.modFolio, h]

theorem Graph.release_unregistered {g : Graph} (h : g.registered = false) : g.release.registered = false := by
  unfold Graph.release
  dsimp only
  split
  · rfl
  · exact h

theorem State.withImage_ok {s : State} {image : Bytes} {clean : Bool} {g : GraphImage} (h : s.checked image clean = .ok g) (ch : Nat)
    (f : GraphImage → State → State) : s.withImage ch image clean f = f g s := by
  unfold State.withImage
  split
  · next g' hg => rw [Except.ok.inj (h.symm.trans hg)]
  · next hg => cases h.symm.trans hg

theorem State.withImage_error {s : State} {image : Bytes} {clean : Bool} {n : Nat} (h : s.checked image clean = .error n) (ch : Nat)
    (f : GraphImage → State → State) : s.withImage ch image clean f = s.replyWith ch Detail.image (toLe 4 n) 0xFFFF 0 0 := by
  unfold State.withImage
  split
  · next hg => cases h.symm.trans hg
  · next n' hg => rw [Except.error.inj (h.symm.trans hg)]

/-! ### The rights of a folio -/

/-- Every folio that is registered in `s` is so in `t`, with the same READERS and PUBLISHERS. -/
def RightsKept (s t : State) : Prop := ∀ i f, s.folios.get? i = some f → f.registered = true →
  ∃ g, t.folios.get? i = some g ∧ g.registered = true ∧ g.readers = f.readers ∧ g.publishers = f.publishers

namespace RightsKept

variable {s t u : State}

theorem refl (s : State) : RightsKept s s := fun _ f hf hr => ⟨f, hf, hr, rfl, rfl⟩

theorem trans (h : RightsKept s t) (k : RightsKept t u) : RightsKept s u := fun i f hf hr => by
  obtain ⟨g, hg, hgr, hgrd, hgp⟩ := h i f hf hr
  obtain ⟨x, hx, hxr, hxrd, hxp⟩ := k i g hg hgr
  exact ⟨x, hx, hxr, hxrd.trans hgrd, hxp.trans hgp⟩

theorem after (k : RightsKept t u) (h : RightsKept s t) : RightsKept s u := h.trans k

theorem of_folios (h : t.folios = s.folios) : RightsKept s t := fun i f hf hr => ⟨f, by rw [h]; exact hf, hr, rfl, rfl⟩

theorem foldl {α : Type} {f : State → α → State} (h : ∀ s x, RightsKept s (f s x)) (l : List α) (s : State) :
    RightsKept s (l.foldl f s) := by
  induction l generalizing s with
  | nil => exact refl s
  | cons x l ih => exact (h s x).trans (ih _)

/-- One folio is replaced. -/
theorem put {i : Nat} {f g : Folio} (hf : s.folios.get? i = some f)
    (hg : f.registered = true → g.registered = true ∧ g.readers = f.readers ∧ g.publishers = f.publishers)
    (h : t.folios = s.folios.put i g) : RightsKept s t := fun k x hx hr => by
  by_cases hk : k = i
  · subst hk
    obtain rfl : f = x := Option.some.inj (hf.symm.trans hx)
    exact ⟨g, by rw [h]; exact tbl_get_put_same _ _ _, hg hr⟩
  · exact ⟨x, by rw [h]; exact (tbl_get_put_ne _ _ hk).trans hx, hr, rfl, rfl⟩

theorem modFolio (s : State) (i : Nat) {f : Folio → Folio}
    (hf : ∀ x, (f x).registered = x.registered ∧ (f x).readers = x.readers ∧ (f x).publishers = x.publishers) :
    RightsKept s (s.modFolio i f) := by
  cases h : s.folios.get? i with
  | none => exact of_folios (by simp only [State.modFolio, h])
  | some x => exact put h (fun hr => ⟨(hf x).1.trans hr, (hf x).2⟩) (State.folios_modFolio h f)

end RightsKept

/-- What a sweep leaves of its folio. -/
def Folio.swept (f : Folio) : Folio :=
  Folio.settle { f with
    slots := (if f.registered then f.slots else f.slots.map VSlot.retire).map fun v => if VSlot.idle v then {} else v }

theorem State.folios_sweepFolio {s : State} {i : Nat} {f : Folio} (h : s.folios.get? i = some f) :
    (s.sweepFolio i).folios = s.folios.put i f.swept := by
  have hfold : ∀ (l : List Nat) (u : State), (l.foldl (fun (s : State) v => s.dropFolioAtc i v) u).folios = u.folios := by
    intro l
    induction l with
    | nil => exact fun _ => rfl
    | cons v l ih => exact fun u => (ih _).trans rfl
  unfold State.sweepFolio
  rw [h]
  exact (hfold _ _).trans rfl

theorem Folio.swept_registered {f : Folio} (h : f.registered = true) :
    f.swept.registered = true ∧ f.swept.readers = f.readers ∧ f.swept.publishers = f.publishers := by
  simp [Folio.swept, Folio.settle, h]

theorem Folio.settle_unregistered {f : Folio} (h : f.registered = false) : f.settle.registered = false := by
  unfold Folio.settle
  split
  · rfl
  · exact h

theorem Folio.swept_unregistered {f : Folio} (h : f.registered = false) : f.swept.registered = false := Folio.settle_unregistered h

theorem State.sweepFolio_rights (s : State) (i : Nat) : RightsKept s (s.sweepFolio i) := by
  cases h : s.folios.get? i with
  | none => exact .of_folios (by simp only [State.sweepFolio, h])
  | some f => exact .put h Folio.swept_registered (State.folios_sweepFolio h)

theorem State.discardVersion_rights (s : State) (i v : Nat) : RightsKept s (s.discardVersion i v) := by
  refine RightsKept.trans (.modFolio s i (f := fun f => { f with
    slots := f.slots.map fun x => if x.live && x.version == v then {} else x }) fun _ => ⟨rfl, rfl, rfl⟩) ?_
  refine RightsKept.trans (.of_folios ?_) ((State.sweepFolio_rights _ i).trans (.of_folios rfl))
  rfl

theorem State.discardDraft_rights (s : State) (i v : Nat) : RightsKept s (s.discardDraft i v) := by
  unfold State.discardDraft
  dsimp only
  split
  · refine RightsKept.after (t := s.modFolio i fun f => f.modSlot v fun x => { x with discardAfter := true }) (.of_folios rfl) ?_
    exact .modFolio s i fun _ => by exact ⟨rfl, rfl, rfl⟩
  · exact State.discardVersion_rights s i v

theorem State.closeOpens_rights (s : State) (k i v n : Nat) : RightsKept s (s.closeOpens k i v n) := by
  unfold State.closeOpens
  dsimp only
  refine (State.sweepFolio_rights _ i).after ((RightsKept.modFolio _ i fun _ => by exact ⟨rfl, rfl, rfl⟩).after ?_)
  exact .of_folios ((State.modCtx_touches s k _).frame .folios (by decide))

theorem State.closeHolds_rights (s : State) (k : Nat) (t : FolioHold → Bool) : RightsKept s (s.closeHolds k t) := by
  unfold State.closeHolds
  split
  · exact .refl s
  · refine .foldl (fun s h => ?_) _ _
    split
    · exact State.discardDraft_rights s _ _
    · exact State.closeOpens_rights s k _ _ _

theorem State.dropWindows_rights (s : State) (t : Nat → InWindow → Bool) : RightsKept s (s.dropWindows t) := by
  unfold State.dropWindows
  refine RightsKept.trans (t := { s with inbound := s.inbound.filter fun e => !t e.1 e.2 }) (.of_folios rfl) (.foldl (fun s w => ?_) _ _)
  exact (State.sweepFolio_rights _ _).after (.modFolio s w.target fun _ => by exact ⟨rfl, rfl, rfl⟩)

theorem State.dropReaders_rights (s : State) (i : Nat) (gone : BitVec 64) : RightsKept s (s.dropReaders i gone) :=
  (State.dropWindows_rights s _).trans (.foldl (fun s k => State.closeHolds_rights s k _) _ _)

theorem State.dropPublishers_rights (s : State) (i : Nat) (gone : BitVec 64) : RightsKept s (s.dropPublishers i gone) :=
  .foldl (fun s k => State.closeHolds_rights s k _) _ _

/-! ### The obligation -/

/-- Settles O52: each command changes one entry and then succeeds; what FOLIO_SET drops afterwards keeps the rights. -/
theorem graphsAndFoliosAreRegistered : Obligations.GraphsAndFoliosAreRegistered := by
  unfold Obligations.GraphsAndFoliosAreRegistered
  refine ⟨fun s ch m image clean i h hp ha hi => ?register, fun s ch m image clean i x h hx ha hv => ?patch,
    fun s ch m i x h hx => ?unregister, fun s ch m i h hp hlen hname hi => ?folioRegister, fun s ch m i f h hf hr hpub => ?folioSet,
    fun s ch m i f h hp hf hr => ?lookup, fun s ch m i f h hf => ?folioUnregister⟩
  case register =>
    refine completes_serving h rfl (refusal_none ?_) ?_
    · simp [State.partMissing, hp, ha, hi]
    · cases hck : s.checked image clean with
      | error n =>
        rw [State.withImage_error hck]
        exact ⟨s.replyWith_frame ch _ _ _ _ _, s.replyWith_replying ch _ _ _ _ _⟩
      | ok g =>
        rw [State.withImage_ok hck]
        simp only [hi]
        obtain ⟨hframe, hreply⟩ := State.accept_after (setGraphs_frame s (s.graphs.put i
          { owner := m.partition, generation := ((s.graphs.get? i).map (·.generation)).getD 0, registered := true, current := 1
            versions := [{ number := 1, image := g, address := m.numOr 0x40 0 }] })) ch
          (toLe 8 (mkGraphHandle i m.partition (((s.graphs.get? i).map (·.generation)).getD 0)) ++ toLe 4 1)
        refine ⟨hframe, ?_, hreply⟩
        exact (congrArg (Tbl.get? · i) ((State.accept_does _ ch _).1 .graphs (by decide))).trans (tbl_get_put_same _ _ _)
  case patch =>
    have hget := State.graph_of_named hx
    refine completes_serving h rfl (refusal_none ?_) ?_
    · simp [hx, ha, hv]
    · cases hck : s.checked image clean with
      | error n =>
        rw [State.withImage_error hck]
        exact ⟨s.replyWith_frame ch _ _ _ _ _, s.replyWith_replying ch _ _ _ _ _⟩
      | ok g =>
        rw [State.withImage_ok hck]
        simp only [hx]
        obtain ⟨hframe, hreply⟩ := State.accept_after (State.modGraph_touches s i fun e => e.patch g (m.numOr 0x40 0)).frame ch
          (toLe 4 (x.current + 1))
        refine ⟨hframe, ?_, hreply⟩
        refine (congrArg (Tbl.get? · i) ((State.accept_does _ ch _).1 .graphs (by decide))).trans ?_
        rw [State.graphs_modGraph hget]
        exact tbl_get_put_same _ _ _
  case unregister =>
    have hget := State.graph_of_named hx
    refine completes_serving h rfl (refusal_none ?_) ?_
    · simp [hx]
    · simp only [hx]
      obtain ⟨hframe, hreply⟩ := State.accept_after
        (State.modGraph_touches s i fun e => Graph.release { e with registered := false }).frame ch []
      have hgraphs : ((s.modGraph i fun e => Graph.release { e with registered := false }).accept ch []).graphs
          = s.graphs.put i (Graph.release { x with registered := false }) :=
        Eq.trans ((State.accept_does _ ch []).1 .graphs (by decide)) (State.graphs_modGraph hget _)
      refine ⟨hframe, hreply, ?_, fun k hk => ?_⟩
      · rw [hgraphs, tbl_get_put_same]
        exact congrArg some (Graph.release_unregistered rfl)
      · rw [hgraphs, tbl_get_put_ne _ _ hk]
  case folioRegister =>
    refine completes_serving h rfl (refusal_none ?_) ?_
    · simp [State.partMissing, hp, hlen, hname, hi]
    · simp only [hi]
      obtain ⟨hframe, hreply⟩ := State.accept_after (setFolios_frame s (s.folios.put i
        { owner := m.partition, generation := ((s.folios.get? i).map (·.generation)).getD 0, registered := true
          name := (m.attr? 0x41 0).getD [], length := le ((m.attr? 0x42 0).getD []) 0 8
          readers := defReaders ((m.attr? 0x42 0).getD []) ||| BitVec.ofNat 64 (2 ^ m.partition)
          publishers := defPublishers ((m.attr? 0x42 0).getD []) ||| BitVec.ofNat 64 (2 ^ m.partition)
          duplex := bitAt (le ((m.attr? 0x42 0).getD []) 24 1) 0, slots := List.replicate 8 {} })) ch
        (toLe 8 (mkFolioHandle i m.partition (((s.folios.get? i).map (·.generation)).getD 0)))
      refine ⟨hframe, ?_, hreply⟩
      rw [show (State.accept _ ch _).folios = _ from (State.accept_does _ ch _).1 .folios (by decide)]
      rw [tbl_get_put_same]
      rfl
  case folioSet =>
    obtain ⟨hget, hreg⟩ := State.folio_of_named hf
    refine completes_serving h rfl (refusal_none ?_) ?_
    · simp [hf, hr, hpub]
    · simp only [hf]
      set r := defReaders ((m.attr? 0x42 0).getD [])
      set p := defPublishers ((m.attr? 0x42 0).getD [])
      set u := s.modFolio i fun f => { f with readers := r, publishers := p } with hu
      have hu_get : u.folios.get? i = some { f with readers := r, publishers := p } := by
        rw [hu, State.folios_modFolio hget, tbl_get_put_same]
      obtain ⟨g, hg, -, hgr, hgp⟩ := ((State.dropReaders_rights u i (f.readers &&& ~~~r)).trans
        (State.dropPublishers_rights _ i (f.publishers &&& ~~~p))) i _ hu_get hreg
      obtain ⟨hframe, hreply⟩ := ((u.dropReaders i (f.readers &&& ~~~r)).dropPublishers i (f.publishers &&& ~~~p)).accept_does ch []
      refine ⟨hreply, ?_⟩
      rw [show (State.accept _ ch []).folios = _ from hframe .folios (by decide), hg]
      simp [hgr, hgp]
  case lookup =>
    refine completes_serving h rfl (refusal_none ?_) ?_
    · simp [State.partMissing, hp, hf, hr]
    · simp only [hf, Option.filter_some, hr, if_true]
      exact s.accept_does ch _
  case folioUnregister =>
    obtain ⟨hget, hreg⟩ := State.folio_of_named hf
    refine completes_serving h rfl (refusal_none ?_) ?_
    · simp [hf]
    · simp only [hf]
      have hmod := State.folios_modFolio hget fun f => { f with registered := false }
      have hfolios : (((s.modFolio i fun f => { f with registered := false }).sweepFolio i).accept ch []).folios
          = (s.folios.put i { f with registered := false }).put i (Folio.swept { f with registered := false }) := by
        rw [show (State.accept _ ch []).folios = _ from (State.accept_does _ ch []).1 .folios (by decide),
          State.folios_sweepFolio (f := { f with registered := false }) (by rw [hmod, tbl_get_put_same]), hmod]
      refine ⟨(State.accept_does _ ch []).2, ?_, fun k hk => ?_⟩
      · rw [hfolios, tbl_get_put_same]
        exact congrArg some (Folio.swept_unregistered rfl)
      · rw [hfolios, tbl_get_put_ne _ _ hk, tbl_get_put_ne _ _ hk]

end Sys2Proof.Machine
end

section
/-!
PROOFS (this file, a sitting of its own). Start-up (R309, R313, R314, R457, R462, R463, R465 to R467).
-/
namespace Sys2Proof.Machine

open Sys2Proof

/-- A command of one boot stage, under its own condition. -/
theorem completes_inStage {i : Instr} {s : State} {st : Stage} {b : State → Bool} {f : State → State → State} {P : State → Prop}
    (hl : s.live = true) (hs : s.boot.stage = st) (he : exec i s = .next (s.inStage st fun s => s.when (b s) (f s)))
    (hb : b s = true) (hp : P (f s s)) : Completes i s P :=
  completes_when (b := fun s => s.boot.stage == st) (f := fun _ s => s.when (b s) (f s)) hl he (by simp [hs])
    (by rw [hb, State.when_true]; exact hp)

/-- The same without a condition of its own. -/
theorem completes_stage {i : Instr} {s : State} {st : Stage} {f : State → State} {P : State → Prop} (hl : s.live = true)
    (hs : s.boot.stage = st) (he : exec i s = .next (s.inStage st f)) (hp : P (f s)) : Completes i s P :=
  completes_when (b := fun s => s.boot.stage == st) (f := fun _ s => f s) hl he (by simp [hs]) hp

theorem setBoot_frame (s : State) (b : Boot) : OnlyChanges [.boot] s { s with boot := b } := by
  intro p hp
  cases p with
  | boot => exact absurd List.mem_cons_self hp
  | _ => rfl

theorem enterStage_frame (s : State) (st : Stage) (reason : Nat) : OnlyChanges [.boot, .out] s (s.enterStage st reason) :=
  ((setBoot_frame s _).mono (by decide)).trans ((emit_frame _ _).mono (by decide))

/-- A refused image: what is told, and what stays. -/
theorem State.refuseImage_does (s : State) :
    OnlyChanges [.boot, .out] s s.refuseImage ∧ s.refuseImage.boot = { s.boot with stage := .failed, reason := 2, bootReadAt := none }
      ∧ s.refuseImage.out.head? = some (.faultReport "IMAGE_REFUSED" 0) :=
  ⟨((setBoot_frame s _).mono (by decide)).trans ((enterStage_frame _ _ _).trans ((emit_frame _ _).mono (by decide))), rfl, rfl⟩

/-- R466: a cluster that is quarantined stays so whatever the settling of its work does. -/
theorem State.quarantine_quarantined (s : State) (c : Nat) : ((s.quarantine c).cluster c).quarantined = true := by
  have hlines : ∀ (l : List Nat) (u : State), (l.foldl (fun (s : State) p =>
      s.dropLines (!(s.part p).keyGone) fun l => l.cluster == c && l.partition == p) u).clusters = u.clusters := by
    intro l
    induction l with
    | nil => exact fun _ => rfl
    | cons p l ih => exact fun u => (ih _).trans ((State.dropLines_touches ..).frame .clusters (by decide))
  have hsettle : ∀ (l : List (Nat × Nat)) (u : State), (l.foldl (fun (s : State) x => s.settleLaunch x.1 x.2) u).clusters = u.clusters := by
    intro l
    induction l with
    | nil => exact fun _ => rfl
    | cons x l ih => exact fun u => (ih _).trans ((State.settleLaunch_touches ..).frame .clusters (by decide))
  have hcluster : ∀ {u v : State}, v.clusters = u.clusters → v.cluster c = u.cluster c := fun h => by simp only [State.cluster, h]
  unfold State.quarantine
  split
  · assumption
  · refine ((State.track_calm _).quarantined c).trans ?_
    rw [hcluster (hsettle _ _), hcluster (hlines _ _)]
    show ((s.modCluster c fun u => { u with quarantined := true }).cluster c).quarantined = true
    rw [State.cluster_modCluster_same]

/-- R466: an error in a cluster that is not quarantined quarantines it, and the boot goes on. -/
theorem State.clusterError_does {s : State} {c : Nat} (h : (s.cluster c).quarantined = false) (syn : BitVec 32) :
    ((s.clusterError c syn).cluster c).quarantined = true ∧ (s.clusterError c syn).boot = s.boot := by
  have herr : s.clusterError c syn
      = (s.logError (errOfCluster c) { clusterRecord c 0x30 0 0 syn with action := 8 }).quarantine c := by
    simp [State.clusterError, State.handling, h]
  rw [herr]
  refine ⟨State.quarantine_quarantined _ c, ?_⟩
  exact Eq.trans ((State.quarantine_touches ..).frame .boot (by decide)) ((State.logError_touches ..).frame .boot (by decide))

/-- The bins are loaded into the cores only. -/
theorem State.loadBins_frame (s : State) (ageing : List (Nat × Nat)) : OnlyChanges [.cores] s (s.loadBins ageing) :=
  (Touches.foldl (.refl ..) fun _ _ => State.modCore_touches ..).frame

/-- Settles O58: by the stage that each command finds the boot in. -/
theorem startUpGoesThroughItsStages : Obligations.StartUpGoesThroughItsStages := by
  unfold Obligations.StartUpGoesThroughItsStages
  refine ⟨fun s n ho hn => ?asserted, fun s n hl hn => ?short, fun s n ho hn => ?released, fun s n ho hst hn => ?noCoolant,
    fun s k hl hs hk => ?keys, fun s hl hs hk => ?noSlot, fun s hl hs => ?selfTest, fun s hl hs => ?image,
    fun s b hl hs hr hlen => ?data, fun s hl hs hr => ?noData, fun s a hl hs hr ha => ?readTimeout,
    fun s ag hl hs hr => ?checked, fun s port hl hs hp hf => ?portReady, fun s port hl hs hp hr hf ht => ?portTimeout,
    fun s hl hs hp hfull => ?base, fun s a b v w hl hs hp hfull ha hb hv hw => ?trained,
    fun s a b hl hs hp hfull ha hb hgood => ?untrained, fun s hl hs ht => ?limit⟩
  case asserted =>
    refine ⟨_, rfl, ?_⟩
    rw [ho, if_neg (by simp), if_neg (by omega)]
    rfl
  case short =>
    have ho : s.boot.outOfReset = true := by
      simp only [State.live, Bool.and_eq_true] at hl
      exact hl.2
    refine ⟨_, rfl, ?_⟩
    rw [ho, if_neg (by simp), if_pos hn, if_pos hl]
    rfl
  case released =>
    refine ⟨_, rfl, ?_⟩
    rw [if_neg (by simp [ho, hn])]
    refine ⟨fun p hp => ?_, rfl, rfl, rfl, rfl, rfl⟩
    cases p with
    | boot | pins | power | out => simp at hp
    | _ => rfl
  case noCoolant =>
    refine ⟨_, rfl, ?_⟩
    rw [if_neg (by simp [ho, hn])]
    simp [State.comeUp, State.coolantStop, State.enterStage, State.emit, hst]
  case keys =>
    refine completes_stage hl hs rfl ?_
    rw [if_neg (by simp), if_neg (by simp [hk])]
    exact ⟨enterStage_frame s _ _, rfl, rfl⟩
  case noSlot =>
    refine completes_stage hl hs rfl ?_
    rw [if_neg (by simp), if_pos (by simp [hk])]
    exact ⟨enterStage_frame s _ _, rfl⟩
  case selfTest =>
    refine completes_stage hl hs rfl ?_
    exact ⟨enterStage_frame s _ _, rfl⟩
  case image =>
    refine completes_stage hl hs rfl ?_
    refine ⟨fun p hp => ?_, rfl, rfl, rfl, rfl, rfl, rfl, rfl⟩
    cases p with
    | boot | out | sec | free => simp at hp
    | _ => rfl
  case data =>
    refine completes_inStage hl hs rfl hr ?_
    exact if_neg (by simpa using hlen)
  case noData =>
    refine completes_inStage hl hs rfl hr ?_
    exact s.refuseImage_does
  case readTimeout =>
    have hlate : (s.boot.bootReadAt.any fun t => t + 10000000 ≤ s.time.now) = true := by
      rw [hr, Option.any_some, decide_eq_true_iff]
      exact ha
    refine completes_inStage (b := fun s => s.boot.bootReadAt.any fun t => t + 10000000 ≤ s.time.now)
      (f := fun _ => State.refuseImage) hl hs rfl hlate ?_
    obtain ⟨hframe, hboot, -⟩ := s.refuseImage_does
    exact ⟨hframe, hboot⟩
  case checked =>
    refine completes_inStage hl hs rfl (by simp [hr]) ?_
    by_cases hok : s.imageOk s.boot.image = true
    · rw [if_pos hok, if_pos hok]
      have hbins := (s.takeImage s.boot.image).loadBins_frame ag
      have hboot : ((s.takeImage s.boot.image).loadBins ag).boot = (s.takeImage s.boot.image).boot := hbins .boot (by decide)
      have htake : OnlyChanges [.boot, .sec] s (s.takeImage s.boot.image) := by
        intro p hp
        cases p with
        | boot | sec => simp at hp
        | _ => rfl
      refine ⟨(htake.mono (by decide)).trans ((hbins.mono (by decide)).trans ((enterStage_frame _ _ _).mono (by decide))), rfl, ?_⟩
      have hstage : (((s.takeImage s.boot.image).loadBins ag).enterStage .training 0).boot
          = { (s.takeImage s.boot.image).boot with stage := .training, reason := 0 } := by
        rw [← hboot]
        rfl
      rw [hstage]
      exact ⟨rfl, rfl, rfl, rfl, rfl, rfl, rfl⟩
    · rw [if_neg hok, if_neg hok]
      obtain ⟨hframe, hboot, -⟩ := s.refuseImage_does
      refine ⟨hframe, ?_⟩
      rw [hboot]
      exact ⟨rfl, rfl, rfl⟩
  case portReady => exact completes_inStage hl hs rfl (by simp [hp, hf]) rfl
  case portTimeout =>
    refine completes_inStage hl hs rfl (by simp [hp, hr, hf, ht]) ?_
    dsimp only
    set u := { s with boot := { s.boot with mpFailed := s.boot.mpFailed ||| BitVec.ofNat 32 (2 ^ port) } }.emit
      (.faultReport "MEMORY_PORT_FAILED" port) with hu
    have hv : ∀ v : State, (v.cluster (port / 2)).quarantined = true ∧ v.boot = u.boot →
        (if v.noMemory = true then v.failBoot BootReason.noMemory else v).boot.mpFailed
            = s.boot.mpFailed ||| BitVec.ofNat 32 (2 ^ port)
          ∧ ((if v.noMemory = true then v.failBoot BootReason.noMemory else v).cluster (port / 2)).quarantined = true := by
      rintro v ⟨hq, hb⟩
      split
      · exact ⟨congrArg Boot.mpFailed hb, hq⟩
      · exact ⟨congrArg Boot.mpFailed hb, hq⟩
    by_cases hq : (u.cluster (port / 2)).quarantined = true
    · rw [if_pos hq]
      exact hv u ⟨hq, rfl⟩
    · rw [if_neg hq]
      exact hv _ (State.clusterError_does (by simpa using hq) 0)
  case base =>
    refine completes_inStage hl hs rfl hp ?_
    rw [if_pos (by simp [hfull])]
    refine ⟨fun p hp => ?_, rfl, rfl, rfl, rfl⟩
    cases p with
    | boot | time | out => simp at hp
    | _ => rfl
  case trained =>
    refine completes_inStage hl hs rfl hp ?_
    rw [if_neg (by simp [hfull])]
    simp only [List.find?, ha, hb, hv, hw, beq_self_eq_true, show ((0 : Nat) == 1) = false from rfl]
    refine ⟨fun p hp => ?_, rfl, rfl, ?_, ?_, ?_, ?_, rfl⟩
    · cases p with
      | boot | time | bridge | out => simp at hp
      | _ => rfl
    all_goals simp [State.enterTime, State.enterStage, State.emit, Bridge.tested, ha, hb]
  case untrained =>
    refine completes_inStage hl hs rfl hp ?_
    rw [if_neg (by simp [hfull])]
    have hnone : trainedWidth a.goodLanes s.bridge.widthReq = none := by
      rw [trainedWidth, if_neg (by omega), if_neg (by omega), if_neg (by omega)]
    simp only [List.find?, ha, hb, hnone, beq_self_eq_true, show ((0 : Nat) == 1) = false from rfl]
    exact ⟨enterStage_frame s _ _, rfl⟩
  case limit =>
    refine completes_inStage hl hs rfl (by simpa using ht) ?_
    refine ⟨((setBoot_frame s _).mono (by decide)).trans (enterStage_frame _ _ _), rfl, rfl, rfl, rfl⟩

end Sys2Proof.Machine
end

section
/-!
PROOFS (this file, a sitting of its own). Partition resets and clearings (R288, R290, R398, R399).
-/
namespace Sys2Proof.Machine

open Sys2Proof

/-! ### Requests to memory, and the lines that are written back -/

theorem Calm.setLines {s t : State} {x : List Line} (h : Calm s t) : Calm s { t with lines := x } :=
  ⟨h.part, h.fatal, h.escalations, h.quarantined⟩

theorem State.charge_calm {s t : State} {r : MemReq} (h : s.charge r = some t) : Calm s t := by
  unfold State.charge at h
  dsimp only at h
  split_ifs at h
  · exact Option.some.inj h ▸ .refl s
  all_goals
    rw [← Option.some.inj h]
    exact .modPart _ _ fun _ => by rfl

theorem State.tryIssue_calm (s : State) (id : Nat) : Calm s (s.tryIssue id) := by
  unfold State.tryIssue
  split
  · split
    · split
      · next hcharge => exact (State.charge_calm hcharge).trans (.of_touches (State.sendReq_touches ..) (by decide))
      · exact .refl s
    · exact .refl s
  · exact .refl s

theorem State.issuePool_calm (s : State) (id : Nat) (r : MemReq) : Calm s (s.issuePool id r) :=
  (State.tryIssue_calm ..).after ((Calm.of_touches (State.draw_touches ..) (by decide)).after
    (.of_touches (State.setReq_touches ..) (by decide)))

theorem State.writeBack_calm (s : State) (p cluster addr bytes : Nat) (words : List (BitVec 288)) :
    Calm s (s.writeBack p cluster addr bytes words) :=
  (State.issuePool_calm ..).after (.of_touches (State.addReq_touches ..) (by decide))

theorem State.flushLine_calm (s : State) (l : Line) : Calm s (s.flushLine l) := by
  unfold State.flushLine
  split
  · exact State.writeBack_calm ..
  · exact .refl s

theorem State.dropLines_calm (s : State) (flush : Bool) (t : Line → Bool) : Calm s (s.dropLines flush t) := by
  unfold State.dropLines
  dsimp only
  refine Calm.setLines ?_
  split
  · exact .foldl State.flushLine_calm _ _
  · exact .refl s

/-- The lines that are dropped stand no more. -/
theorem State.lines_dropLines (s : State) (flush : Bool) (t : Line → Bool) : ∀ l ∈ (s.dropLines flush t).lines, t l = false := by
  intro l hl
  simpa using (List.mem_filter.mp hl).2

/-! ### Clearing -/

theorem tbl_get_mapV_core (s : State) (f : Nat → Core → Core) (k : Nat) :
    (Tbl.mapV s.cores f).getD k {} = ((s.cores.get? k).map (f k)).getD {} := by
  rw [Tbl.getD, tbl_get_mapV]

/-- R288: the scratchpads of the cores of a cleared quad are empty. -/
theorem State.scratch_clearCores (s : State) {quads : List Nat} {k : Nat} (h : k / 4 ∈ quads) :
    ((s.clearCores quads).core k).scratch = [] := by
  rw [State.core, State.clearCores, tbl_get_mapV_core]
  cases s.cores.get? k with
  | none => rfl
  | some c =>
    rw [Option.map_some, Option.getD_some, if_pos (by simpa using h)]
    rfl

theorem State.core_of_cores {s t : State} (h : t.cores = s.cores) (k : Nat) : t.core k = s.core k := by simp only [State.core, h]

/-- What clearing a partition leaves. -/
theorem State.clearPart_does (s : State) (p : Nat) :
    (s.clearPart p).part p = { s.part p with holds := [], affinity := [], ideKey := none }
      ∧ (∀ e ∈ (s.clearPart p).atc, e.2.partition ≠ p) ∧ ∀ k, k / 4 ∈ (s.part p).quads → ((s.clearPart p).core k).scratch = [] := by
  have hatc : ∀ (u : State) (t : Atc → Bool), ∀ e ∈ (u.atcDrop t).atc, t e.2 = false := by
    intro u t e he
    simpa using (List.mem_filter.mp he).2
  refine ⟨State.part_modPart_same .., fun e he => ?_, fun k hk => ?_⟩
  · simpa using hatc (s.clearCores (s.part p).quads) (fun a => a.partition == p) e he
  · have hpins : ∀ (u : State) (t : Atc → Bool), ((u.atcDrop t).core k).scratch = (u.core k).scratch := by
      intro u t
      rw [State.core, State.atcDrop, tbl_get_mapV_core, State.core, Tbl.getD]
      cases u.cores.get? k <;> rfl
    have hclear : ((s.clearPart p).core k) = ((s.clearCores (s.part p).quads).atcDrop fun a => a.partition == p).core k := rfl
    rw [hclear, hpins]
    exact State.scratch_clearCores s hk

theorem foldl_chill_quads (l : List Nat) (u : Partition) : (l.foldl Partition.chill u).quads = u.quads := by
  induction l generalizing u with
  | nil => rfl
  | cons c l ih => exact (ih _).trans rfl

theorem State.part_del {s : State} {p : Nat} {t : Tbl Partition} (h : Tbl.Sorted t) : ({ s with parts := t.del p } : State).part p = {} := by
  rw [State.part, Tbl.getD, tbl_get_del_same p h]
  rfl

/-- Settles O43: the start by what its fence keeps, the drain and the clearings by `State.dropLines_calm`, the end by what
`State.clearPart` leaves. -/
theorem partitionsAreResetAndCleared : Obligations.PartitionsAreResetAndCleared := by
  unfold Obligations.PartitionsAreResetAndCleared
  refine ⟨fun s p t0 hl ha => ?start, fun s p hl hr h1 hd => ?drain, fun s p hl hr h2 hd hk hs hreply hstop => ?ends,
    fun s p hl hn hc => ?clearing, fun s p hl hd hdis hsorted => ?destroyed⟩
  case start =>
    refine completes_live hl rfl ?_
    refine ⟨?_, ?_, ?_, ?_⟩
    · rw [State.part_startReset ha _ _ Partition.state fun _ => rfl]
    · rw [State.part_startReset ha _ _ Partition.resetStep fun _ => rfl]
    · rw [State.part_startReset ha _ _ Partition.resetTrigger fun _ => rfl]
    · rw [State.part_startReset ha _ _ Partition.resetCt fun _ => rfl]
  case drain =>
    refine completes_when hl rfl (by simp [h1, hd]) ?_
    dsimp only
    set a := s.dropTranslations p none with ha
    set u := ((a.writeDump p).flushPart p).modPart p fun u => { u with resetStep := 2 } with hu
    have hfaults : u.faults = a.faults := by
      rw [hu, State.modPart_faults]
      exact Eq.trans ((State.flushPart_touches ..).frame .faults (by decide)) ((State.writeDump_touches ..).frame .faults (by decide))
    have hcalm : Calm s ((a.writeDump p).flushPart p) :=
      (State.dropLines_calm ..).after ((Calm.of_touches (State.writeDump_touches ..) (by decide)).after
        (.of_touches (State.dropTranslations_touches ..) (by decide)))
    have hstate : (u.part p).state = .resetting := by
      rw [hu, State.part_modPart_same]
      exact (hcalm.keeps p Partition.state fun _ => rfl).trans hr
    rw [if_neg (by rw [hstate]; decide)]
    refine ⟨by rw [hu, State.part_modPart_same], hstate, fun f hf => ?_, fun l hlines => ?_⟩
    · rw [hfaults] at hf
      have hne := (List.mem_filter.mp hf).2
      intro hp
      simp [hp] at hne
    · have hne := State.lines_dropLines _ _ _ l hlines
      simpa using hne
  case ends =>
    refine completes_when hl rfl (by simp [hr, h2, hd, hk]; simpa using hs) ?_
    obtain ⟨hpart, hatc, hcore⟩ := s.clearPart_does p
    set a := s.clearPart p with ha
    set u := (a.queuesOf p).foldl (fun s q =>
      let s := s.newEpoch q
      s.acceptAll (s.queueChans 0x11 q) (toLe 1 (s.queue q).epoch)) a with hu
    have hkept : Touches [.out, .msix, .errs, .fports, .queues, .mail] a u :=
      .foldl (.refl ..) fun s q => (State.acceptAll_touches ..).after ((State.newEpoch_touches s q).mono (by decide))
    have hu_part : u.part p = { s.part p with holds := [], affinity := [], ideKey := none } :=
      (part_of_parts (hkept.frame .parts (by decide)) p).trans hpart
    have hend : s.endReset p = u.modPart p fun u =>
        { u with state := .active, resetStep := 0, resetSinceError := true, keyGone := false, replyTo := []
                 events := { u.events with resets := satAdd 16 u.events.resets 1 } } := by
      rw [State.endReset]
      simp only [← ha, hpart, hstop, Bool.false_eq_true, if_false]
      rw [← hu, hu_part, hreply, List.foldl_nil]
    have htrack := State.track_touches (s.endReset p)
    have hparts : (s.endReset p).track.part p = (s.endReset p).part p := part_of_parts (htrack.frame .parts (by decide)) p
    rw [hparts, hend, State.part_modPart_same, hu_part, ← hend]
    refine ⟨rfl, rfl, rfl, rfl, rfl, fun e he => ?_, fun k hk => ?_⟩
    · rw [htrack.frame .atc (by decide), hend] at he
      refine hatc e ?_
      rw [← hkept.frame .atc (by decide)]
      exact he
    · rw [State.core_of_cores (htrack.frame .cores (by decide)), hend]
      exact (congrArg Core.scratch (State.core_of_cores (hkept.frame .cores (by decide)) k)).trans (hcore k hk)
  case clearing =>
    refine completes_live hl rfl ?_
    have hsome : (!(s.part p).clearQuads.isEmpty || !(s.part p).clearWays.isEmpty) = true := by
      rcases hc with hc | hc <;> simp [hc]
    dsimp only
    rw [if_neg (by simpa using hn), hsome, State.when_true, State.endClearing]
    have hdrop := State.dropLines_touches (s.clearCores (s.part p).clearQuads) (!(s.part p).keyGone) fun l =>
      l.partition == p && (s.part p).lostLine l
    have hcalm := (State.dropLines_calm (s.clearCores (s.part p).clearQuads) (!(s.part p).keyGone) fun l =>
      l.partition == p && (s.part p).lostLine l).keeps p Partition.quads fun _ => rfl
    refine ⟨?_, ?_, ?_, fun k hk => ?_⟩
    · rw [State.part_modPart_same]
    · rw [State.part_modPart_same]
    · rw [State.part_modPart_same]
      exact (foldl_chill_quads _ _).trans hcalm
    · exact (congrArg Core.scratch (State.core_of_cores (hdrop.frame .cores (by decide)) k)).trans (State.scratch_clearCores s hk)
  case destroyed =>
    refine completes_live hl rfl ?_
    dsimp only
    rw [if_pos (by simp [hd]), hdis, State.when_true, State.endDestroy]
    have hkept : ∀ (u : State) (chs : List Nat), (u.acceptAll chs []).part p = u.part p := fun u chs =>
      part_of_parts ((State.acceptAll_touches ..).frame .parts (by decide)) p
    rw [hkept, State.part_del]
    · exact ⟨rfl, rfl, rfl⟩
    · exact tbl_sorted_put _ _ (tbl_sorted_put _ _ hsorted)

end Sys2Proof.Machine
end

section
/-!
PROOFS (this file, a sitting of its own). The steps of a revocation after its fence (R232, R259, R470).
-/
namespace Sys2Proof.Machine

open Sys2Proof

theorem State.extents_modExtent {s : State} {k : Nat} {x : Extent} (h : s.extents.get? k = some x) (f : Extent → Extent) :
    (s.modExtent k f).extents = s.extents.put k (f x) := by
  simp only [State.modExtent, h]

/-- The copies of an extent that its invalidation takes away. -/
def State.withoutCopies (s : State) (x : Extent) : State :=
  (s.atcDrop fun a => a.folio && x.losing.getLsbD a.partition && (x.covers a.target || (a.mirror != 0 && x.covers a.mirror))).dropExtentLines x

theorem State.withoutCopies_touches (s : State) (x : Extent) :
    Touches [.free, .out, .parts, .reqs, .reqNo, .lines, .atc, .cores] s (s.withoutCopies x) :=
  (State.dropExtentLines_touches ..).after ((State.atcDrop_touches ..).mono (by decide))

theorem State.lines_withoutCopies (s : State) (x : Extent) :
    ∀ l ∈ (s.withoutCopies x).lines, x.losing.getLsbD l.partition = true → x.covers (64 * l.line) = false := by
  intro l hl hlose
  have hne := State.lines_dropLines _ _ _ l hl
  simpa [hlose] using hne

theorem State.atc_withoutCopies (s : State) (x : Extent) :
    ∀ a ∈ (s.withoutCopies x).atc, a.2.folio = true → x.losing.getLsbD a.2.partition = true → x.covers a.2.target = false := by
  intro a ha hf hlose
  have hatc : (s.withoutCopies x).atc = (s.atcDrop fun a =>
      a.folio && x.losing.getLsbD a.partition && (x.covers a.target || (a.mirror != 0 && x.covers a.mirror))).atc :=
    (State.dropExtentLines_touches ..).frame .atc (by decide)
  rw [hatc] at ha
  have hne := (List.mem_filter.mp ha).2
  simp only [hf, hlose, Bool.and_self, Bool.true_and, Bool.not_eq_true', Bool.or_eq_false_iff] at hne
  exact hne.1

/-- Settles O44: the entry of the extent by its key, the copies by the filters that take them away. -/
theorem revocationsRunToTheirEnd : Obligations.RevocationsRunToTheirEnd := by
  unfold Obligations.RevocationsRunToTheirEnd
  refine ⟨fun s k x hl hx hst hd ht hslots => ?bound, fun s k x hl hx hst hw hr => ?whole, fun s k x hl hx hst hw hr hwait => ?part,
    fun s k x hl hx hst hsorted => ?zeroed⟩
  case bound =>
    refine completes_live hl rfl ?_
    have hready : (x.state == .fenced && !x.drained && decide (x.fenceNs + 50000 ≤ s.time.now)) = true := by simp [hst, hd, ht]
    have hend : (s.endWhere (fun e => e.admitted && x.losing.getLsbD e.partition && s.usesExtent k x e) .revoked) = s := by
      simp [State.endWhere, hslots]
    rw [hx]
    dsimp only
    rw [hready, State.when_true, hend]
    set u := (s.revokeSeqs x).modExtent k fun x => { x with drained := true } with hu
    have huext : u.extents = s.extents.put k { x with drained := true } := State.extents_modExtent (s := s.revokeSeqs x) hx _
    have huslots : u.slots = [] := Eq.trans ((State.modExtent_touches ..).frame .slots (by decide)) hslots
    have huseqs : u.seqs = (s.revokeSeqs x).seqs := (State.modExtent_touches ..).frame .seqs (by decide)
    have htrack := State.track_touches u.settleFences
    have hsettle := State.settleFences_touches u
    have hcommitting : ∀ j y, u.committingIn j y = false := by
      intro j y
      simp [State.committingIn, State.slot?, huslots]
    refine ⟨?_, fun i q hq hlose hkv => ?_⟩
    · rw [htrack.frame .extents (by decide)]
      have hget : u.settleFences.extents.get? k = some { x with drained := true, state := .invalidating } := by
        rw [State.settleFences, tbl_get_mapV, huext, tbl_get_put_same]
        simp [hst, hcommitting]
      rw [hget]
      rfl
    · rw [htrack.frame .seqs (by decide), hsettle.frame .seqs (by decide), huseqs, State.revokeSeqs, tbl_get_mapV, hq]
      simp [hlose, hkv]
  case whole =>
    refine completes_when (f := fun _ s => s.invalidated k) hl rfl (by simp [hx, hst]) ?_
    set u := s.withoutCopies x with hu
    have hux : u.extents.get? k = some x := by
      rw [(s.withoutCopies_touches x).frame .extents (by decide)]
      exact hx
    have hinv : s.invalidated k = u.modExtent k fun x => { x with state := .zeroing, replyTo := [] } := by
      simp only [State.invalidated, hx, hw, hr]
      rfl
    have hmod := State.modExtent_touches u k fun x => { x with state := .zeroing, replyTo := [] }
    rw [hinv]
    refine ⟨?_, ?_, ?_⟩
    · rw [State.extents_modExtent hux, tbl_get_put_same]
      rfl
    · rw [hmod.frame .lines (by decide)]
      exact s.lines_withoutCopies x
    · rw [hmod.frame .atc (by decide)]
      exact s.atc_withoutCopies x
  case part =>
    refine completes_when (f := fun _ s => s.invalidated k) hl rfl (by simp [hx, hst]) ?_
    set u := s.withoutCopies x with hu
    have hux : u.extents.get? k = some x := by
      rw [(s.withoutCopies_touches x).frame .extents (by decide)]
      exact hx
    set v := (u.modExtent k fun y =>
      { y with state := .granted, fenceCt := 0, losing := 0, replyTo := []
               rMask := y.rMask &&& ~~~x.losing, wMask := y.wMask &&& ~~~x.losing, pubMask := y.pubMask &&& ~~~x.losing }).emit
        (.extentReleased x.grant) with hv
    have hinv : s.invalidated k = v.nextRevocation k := by
      simp only [State.invalidated, hx, hw, hr, Bool.false_eq_true, if_false]
      rfl
    have hvx : v.extents.get? k = some { x with
        state := .granted, fenceCt := 0, losing := 0, replyTo := []
        rMask := x.rMask &&& ~~~x.losing, wMask := x.wMask &&& ~~~x.losing, pubMask := x.pubMask &&& ~~~x.losing } := by
      have hvext : v.extents = (u.modExtent k fun y =>
        { y with state := .granted, fenceCt := 0, losing := 0, replyTo := []
                 rMask := y.rMask &&& ~~~x.losing, wMask := y.wMask &&& ~~~x.losing, pubMask := y.pubMask &&& ~~~x.losing }).extents := rfl
      rw [hvext, State.extents_modExtent hux, tbl_get_put_same]
    have hnext : v.nextRevocation k = v.modExtent k fun x => { x with waiting := [] } := by
      rw [State.nextRevocation, hvx]
      simp only [hwait, List.foldl_nil]
    rw [hinv, hnext]
    refine ⟨?_, ?_⟩
    · rw [State.extents_modExtent hvx, tbl_get_put_same]
      rfl
    · rw [(State.modExtent_touches v k fun x => { x with waiting := [] }).frame .out (by decide)]
      rfl
  case zeroed =>
    refine completes_live hl rfl ?_
    rw [hx]
    dsimp only
    rw [hst, show (EState.zeroing == EState.zeroing) = true from rfl, State.when_true]
    refine ⟨fun p hp => ?_, tbl_get_del_same k hsorted, rfl, fun j hj => tbl_get_del_ne _ hj⟩
    cases p with
    | extents | out => simp at hp
    | _ => rfl

end Sys2Proof.Machine
end

section
/-!
PROOFS (this file, a sitting of its own). Errors in control state, and how they strike at the next level (R379, R381, R382, R402).
-/
namespace Sys2Proof.Machine

open Sys2Proof

/-! ### Records and escalations -/

/-- The record of an error leaves which queues are handling one. -/
theorem State.logError_handlingQ (s : State) (i : Nat) (r : ErrRecord) : (s.logError i r).errs.handlingQ = s.errs.handlingQ := by
  show (s.errs.store i { r with ct := s.ctNow }).handlingQ = s.errs.handlingQ
  simp only [Errors.store]
  split_ifs <;> rfl

/-- R382: an escalation is counted, and changes nothing of the partitions, of the clusters, or of whether the block is fatal. -/
theorem State.logEscalated_does (s : State) (i : Nat) (r : ErrRecord) :
    (s.logEscalated i r).1.errs.escalations = min (s.errs.escalations + 1) 0xFFFF
      ∧ (s.logEscalated i r).1.errs.fatal = s.errs.fatal
      ∧ ∀ c, ((s.logEscalated i r).1.cluster c).quarantined = (s.cluster c).quarantined := by
  have h := State.logError_calm { s with errs := { s.errs with escalations := satAdd 16 s.errs.escalations 1 } } i
    { r with error := 0x50, rflags := 1 }
  exact ⟨h.escalations, h.fatal, h.quarantined⟩

/-! ### Quarantine (R381) -/

theorem State.foldl_dropLines_touches (c : Nat) (l : List Nat) (s : State) :
    Touches [.free, .out, .parts, .reqs, .reqNo, .lines] s (l.foldl (fun (s : State) p =>
      s.dropLines (!(s.part p).keyGone) fun l => l.cluster == c && l.partition == p) s) :=
  .foldl (.refl ..) fun _ _ => State.dropLines_touches ..

theorem State.foldl_settleLaunch_touches (l : List (Nat × Nat)) (s : State) :
    Touches [.slots] s (l.foldl (fun (s : State) x => s.settleLaunch x.1 x.2) s) :=
  .foldl (.refl ..) fun _ _ => State.settleLaunch_touches ..

/-- What a quarantine does to the cores, before the settling of the work leaves them. -/
theorem State.cores_quarantine {s : State} {c : Nat} (h : (s.cluster c).quarantined = false) :
    (s.quarantine c).cores = s.cores.mapV fun k u => if clusterOfCore k == c then u.quarantined else u := by
  rw [State.quarantine, if_neg (by simp [h])]
  refine Eq.trans ((State.track_touches _).frame .cores (by decide)) ?_
  refine Eq.trans ((State.foldl_settleLaunch_touches _ _).frame .cores (by decide)) ?_
  exact (State.foldl_dropLines_touches c _ _).frame .cores (by decide)

theorem State.core_quarantine {s : State} {c : Nat} (h : (s.cluster c).quarantined = false) (k : Nat) :
    (s.quarantine c).core k
      = ((s.cores.get? k).map fun u => if clusterOfCore k == c then u.quarantined else u).getD {} := by
  rw [State.core, State.cores_quarantine h, tbl_get_mapV_core]

/-- R381: a quarantine makes the tiles on the cluster's cores fail, and leaves the other cores. -/
theorem State.core_quarantine_running {s : State} {c k : Nat} (h : (s.cluster c).quarantined = false) (hk : clusterOfCore k = c)
    (hm : (s.core k).mode = .running) : ((s.quarantine c).core k).mode = .abandoning ∧ ((s.quarantine c).core k).failed = true := by
  rw [State.core_quarantine h]
  cases hc : s.cores.get? k with
  | none => simp [State.core, Tbl.getD, hc] at hm
  | some u =>
    have hu : u.mode = .running := by simpa [State.core, Tbl.getD, hc] using hm
    simp [hk, Core.quarantined, Core.force, hu]

theorem State.core_quarantine_ne {s : State} {c k : Nat} (h : (s.cluster c).quarantined = false) (hk : clusterOfCore k ≠ c) :
    (s.quarantine c).core k = s.core k := by
  rw [State.core_quarantine h, State.core, Tbl.getD]
  cases s.cores.get? k with
  | none => rfl
  | some u => simp [hk]

/-! ### Escalations -/

/-- R382: an escalation out of a core quarantines its cluster. -/
theorem State.escalate_core {s : State} (k : Nat) :
    ((s.escalate (.core k)).cluster (clusterOfCore k)).quarantined = true
      ∧ (s.escalate (.core k)).errs.escalations = min (s.errs.escalations + 1) 0xFFFF := by
  obtain ⟨hesc, -, -⟩ := s.logEscalated_does (errOfCluster (clusterOfCore k)) { action := 8, level := 1, domain := clusterOfCore k }
  refine ⟨State.quarantine_quarantined _ _, ?_⟩
  rw [← hesc]
  exact congrArg Errors.escalations ((State.quarantine_touches ..).frame .errs (by decide))

/-- R402: the last level makes the block fatal, counts what was escalated, and tells it. -/
theorem State.becomeFatal_does {s : State} (h : s.errs.fatal = false) :
    s.becomeFatal.errs.fatal = true ∧ s.becomeFatal.errs.escalations = s.errs.escalations
      ∧ s.becomeFatal.out.head? = some (.faultReport "BLOCK_FATAL" 0) := by
  refine ⟨s.becomeFatal_fatal, ?_, ?_⟩
  · rw [State.becomeFatal, if_neg (by simp [h])]
    refine (Calm.escalations (s := { s with errs := { s.errs with fatal := true } }) ?_).trans rfl
    refine (State.track_calm _).after ((Calm.of_touches (State.emit_touches ..) (by decide)).after
      ((State.endWhere_calm ..).after ?_))
    exact .foldl (fun s p => State.sendAbort_calm s p 2) _ _
  · rw [State.becomeFatal, if_neg (by simp [h]), (State.track_touches _).frame .out (by decide)]
    rfl

/-- Settles O41: each error by the level at which it strikes. -/
theorem controlErrorsActOnTheirDomain : Obligations.ControlErrorsActOnTheirDomain := by
  unfold Obligations.ControlErrorsActOnTheirDomain
  refine ⟨fun s k syn hl hk hq => ?core, fun s c syn hl hc hq => ?cluster, fun s q syn hl ha hh => ?queue, fun s p syn hl ha => ?part,
    fun s c hl hc hq => ?quarantine, fun s k hl hh hq => ?coreEscalated, fun s p hl hr hf => ?partEscalated,
    fun s d hl hd hf => ?fatal⟩
  case core =>
    refine completes_when hl rfl (by simp [hk]) ?_
    obtain ⟨hquar, hesc⟩ := State.escalate_core (s := s.logError (errOfCore k) { s.coreRecord k 0x20 0 with syndrome := syn.toNat }) k
    exact ⟨hquar, by rw [hesc, (State.logError_calm ..).escalations]⟩
  case cluster =>
    refine completes_when hl rfl (by simp [hc]) ?_
    exact (State.clusterError_does hq syn).1
  case queue =>
    refine completes_live (f := fun s => s.queueError q syn) hl rfl ?_
    rw [State.queueError]
    dsimp only
    rw [if_neg (by simp [ha]), if_neg (by simp [hh]), if_pos (by simp [ha])]
    refine ⟨((State.logError_touches ..).frame.mono (by decide)).trans ((setErrs_frame _ _).mono (by decide)), ?_⟩
    exact congrArg (q :: ·) (State.logError_handlingQ ..)
  case part =>
    refine completes_live (f := fun s => s.partError p syn) hl rfl ?_
    have hh : s.handling (.partition p) = false := by simp [State.handling, ha]
    rw [State.partError]
    dsimp only
    rw [if_neg (by simp [ha]), if_neg (by simp [hh])]
    have hact : ∀ i r, ((s.logError i r).part p).state = .active := fun i r =>
      ((State.logError_calm s i r).keeps p Partition.state fun _ => rfl).trans ha
    refine ⟨?_, ?_⟩
    · rw [State.part_startReset (hact _ _) _ _ Partition.state fun _ => rfl]
    · rw [State.part_startReset (hact _ _) _ _ Partition.resetTrigger fun _ => rfl]
      rfl
  case quarantine =>
    refine completes_when hl rfl (by simp [hc, hq]) ?_
    have herr : s.clusterError c 0 = (s.logError (errOfCluster c) { clusterRecord c 0x30 0 0 0 with action := 8 }).quarantine c := by
      simp [State.clusterError, State.handling, hq]
    have hcores : ∀ k, (s.logError (errOfCluster c) { clusterRecord c 0x30 0 0 0 with action := 8 }).core k = s.core k :=
      State.core_of_cores ((State.logError_touches ..).frame .cores (by decide))
    refine ⟨(State.clusterError_does hq 0).1, fun k hk hm => ?_, fun k hk => ?_⟩
    · rw [herr]
      exact State.core_quarantine_running hq hk (by rw [hcores]; exact hm)
    · rw [herr]
      exact (State.core_quarantine_ne (s := s.logError _ _) hq hk).trans (hcores k)
  case coreEscalated =>
    refine completes_when hl rfl hh ?_
    exact State.escalate_core k
  case partEscalated =>
    refine completes_when hl rfl (by simp [State.handling, hr]) ?_
    obtain ⟨hesc, hfatal, -⟩ := s.logEscalated_does errOfBlock { action := 10, level := 5, domain := 0 }
    obtain ⟨hf', he', ho'⟩ := State.becomeFatal_does (hfatal.trans hf)
    exact ⟨hf', he'.trans hesc, ho'⟩
  case fatal =>
    refine completes_when hl rfl (by simp [hd, hf]) ?_
    have hfatal : (s.logError (errOfDie d) { error := 0x42, action := 10, level := 4, domain := d, syndrome := (0 : BitVec 32).toNat }).errs.fatal
        = false := (State.logError_calm ..).fatal.trans hf
    obtain ⟨hf', -, ho'⟩ := State.becomeFatal_does hfatal
    rw [State.dieError, if_neg (by simp [hf])]
    exact ⟨hf', ho'⟩

end Sys2Proof.Machine
end

section
/-!
PROOFS (this file, a sitting of its own). Slots, cores and requests: what the settling of waits leaves of a slot, how a launch on a
core ends, and what issuing a request makes of its entry (R91, R450).
-/
namespace Sys2Proof.Machine

open Sys2Proof

/-! ### Slots -/

theorem State.slot_of_slots {s t : State} (h : t.slots = s.slots) (q n : Nat) : t.slot? q n = s.slot? q n := by
  simp only [State.slot?, h]

theorem State.slot_key {s : State} {q n : Nat} {e : Slot} (h : s.slot? q n = some e) : e.queue = q ∧ e.seq = n := by
  have hk := List.find?_some h
  simpa using hk

theorem State.slot_mem {s : State} {q n : Nat} {e : Slot} (h : s.slot? q n = some e) : e ∈ s.slots := List.mem_of_find?_eq_some h

/-- A change of one slot, which keeps its place, is found at its place. -/
theorem State.slot_modSlot_same {s : State} {q n : Nat} {e : Slot} (h : s.slot? q n = some e) {f : Slot → Slot}
    (hf : ∀ e, (f e).queue = e.queue ∧ (f e).seq = e.seq) : (s.modSlot q n f).slot? q n = some (f e) := by
  obtain ⟨hq, hn⟩ := State.slot_key h
  rw [State.slot_modSlot _ _ _ _ _ hf, h]
  simp [hq, hn]

/-- A change of one slot, which keeps its place, leaves the others. -/
theorem State.slot_modSlot_other (s : State) {q n a b : Nat} (h : ¬(a = q ∧ b = n)) {f : Slot → Slot}
    (hf : ∀ e, (f e).queue = e.queue ∧ (f e).seq = e.seq) : (s.modSlot q n f).slot? a b = s.slot? a b := by
  rw [State.slot_modSlot _ _ _ _ _ hf]
  cases he : s.slot? a b with
  | none => rfl
  | some e =>
    obtain ⟨hq, hn⟩ := State.slot_key he
    simp [hq, hn, h]

/-- A slot without the account of its waits. -/
def Slot.unwaited (e : Slot) : Slot := { e with waitSince := none, waitNs := 0 }

/-- Every slot of `s` stands in `t` as it was, but for the account of its waits. -/
def SlotsKept (s t : State) : Prop := ∀ q n, (t.slot? q n).map Slot.unwaited = (s.slot? q n).map Slot.unwaited

namespace SlotsKept

variable {s t u : State}

theorem refl (s : State) : SlotsKept s s := fun _ _ => rfl

theorem trans (h : SlotsKept s t) (k : SlotsKept t u) : SlotsKept s u := fun q n => (k q n).trans (h q n)

theorem after (k : SlotsKept t u) (h : SlotsKept s t) : SlotsKept s u := h.trans k

theorem of_slots (h : t.slots = s.slots) : SlotsKept s t := fun q n => by rw [State.slot_of_slots h]

theorem foldl {α : Type} {f : State → α → State} (h : ∀ s x, SlotsKept s (f s x)) (l : List α) (s : State) : SlotsKept s (l.foldl f s) := by
  induction l generalizing s with
  | nil => exact refl s
  | cons x l ih => exact (h s x).trans (ih _)

theorem modSlot (s : State) (q n : Nat) {f : Slot → Slot}
    (hf : ∀ e, (f e).queue = e.queue ∧ (f e).seq = e.seq ∧ (f e).unwaited = e.unwaited) : SlotsKept s (s.modSlot q n f) := fun a b => by
  rw [State.slot_modSlot _ _ _ _ _ fun e => ⟨(hf e).1, (hf e).2.1⟩]
  cases s.slot? a b with
  | none => rfl
  | some e =>
    simp only [Option.map_some]
    split
    · rw [(hf e).2.2]
    · rfl

/-- What is kept of a slot that is there. -/
theorem found (h : SlotsKept s t) {q n : Nat} {e : Slot} (he : s.slot? q n = some e) :
    ∃ x, t.slot? q n = some x ∧ x.unwaited = e.unwaited := by
  have hk := h q n
  rw [he, Option.map_some, Option.map_eq_some_iff] at hk
  obtain ⟨x, hx, hu⟩ := hk
  exact ⟨x, hx, hu⟩

/-- What is kept of a slot, field by field. -/
theorem field (h : SlotsKept s t) {α : Type} (f : Slot → α) (hf : ∀ e : Slot, f e.unwaited = f e) (q n : Nat) :
    (t.slot? q n).map f = (s.slot? q n).map f := by
  have hfun : f = f ∘ Slot.unwaited := funext fun e => (hf e).symm
  rw [hfun, ← Option.map_map, h q n, Option.map_map]

end SlotsKept

theorem State.followWait_slots (s : State) (e : Slot) : SlotsKept s (s.followWait e) := by
  unfold State.followWait
  split
  · exact .modSlot _ _ _ fun _ => by exact ⟨rfl, rfl, rfl⟩
  · exact SlotsKept.after (.of_slots ((State.account_touches ..).frame .slots (by decide)))
      (.modSlot s e.queue e.seq fun _ => by exact ⟨rfl, rfl, rfl⟩)
  · exact .refl s

/-- The account of waits leaves everything else of every slot. -/
theorem State.track_slots (s : State) : SlotsKept s s.track := by
  unfold State.track
  refine SlotsKept.trans (.of_slots ?_) (.foldl State.followWait_slots _ _)
  exact (Touches.foldl (ps := [.commons, .clusters]) (.refl ..) fun _ _ =>
    .foldl (.refl ..) fun _ _ => (State.modShares_touches ..).mono (by decide)).frame .slots (by decide)

/-! ### Requests -/

theorem State.issuePool_reqs (s : State) (id : Nat) (r : MemReq) :
    (∃ pl nr, (s.issuePool id r).reqs.get? id = some { r with place := pl, near := nr })
      ∧ ∀ j, j ≠ id → (s.issuePool id r).reqs.get? j = s.reqs.get? j := by
  have hset : ∀ (u : State) (x : MemReq), (u.setReq id x).reqs = u.reqs.put id x := fun _ _ => rfl
  unfold State.issuePool
  set x : MemReq := { r with place := .missQueue, near := Config.freeBits 1 s.free % 2 == 1 }
  have hreqs : (s.setReq id x).draw.reqs = s.reqs.put id x := rfl
  have hget : (s.setReq id x).draw.reqs.get? id = some x := by rw [hreqs, tbl_get_put_same]
  have hothers : ∀ j, j ≠ id → (s.setReq id x).draw.reqs.get? j = s.reqs.get? j := fun j hj => by
    rw [hreqs, tbl_get_put_ne _ _ hj]
  unfold State.tryIssue
  rw [hget]
  dsimp only
  split
  · split
    · next tag u _ hcharge =>
      have hcharged : u.reqs = (s.setReq id x).draw.reqs := (State.charge_touches hcharge).frame .reqs (by decide)
      have hsend : (u.sendReq id x tag).reqs = u.reqs.put id { x with place := .port x.portNo tag } := by
        unfold State.sendReq
        dsimp only
        split <;> rfl
      refine ⟨⟨_, _, by rw [hsend, tbl_get_put_same]⟩, fun j hj => ?_⟩
      rw [hsend, tbl_get_put_ne _ _ hj, hcharged, hothers j hj]
    · exact ⟨⟨_, _, hget⟩, hothers⟩
  · exact ⟨⟨_, _, hget⟩, hothers⟩

/-- A write back makes one new request, and leaves the others. -/
theorem State.writeBack_reqs (s : State) (p cluster addr bytes : Nat) (words : List (BitVec 288)) :
    (∃ x, (s.writeBack p cluster addr bytes words).reqs.get? s.reqNo = some x ∧ x.write = true ∧ x.address = addr ∧ x.bytes = bytes
        ∧ x.words = words) ∧ ∀ j, j ≠ s.reqNo → (s.writeBack p cluster addr bytes words).reqs.get? j = s.reqs.get? j := by
  unfold State.writeBack
  dsimp only
  set r : MemReq := { who := .writeBack, partition := p, cluster := cluster, address := addr, bytes := bytes, write := true,
                      words := words, place := .missQueue }
  obtain ⟨⟨pl, nr, hget⟩, hothers⟩ := (s.addReq r).issuePool_reqs s.reqNo r
  refine ⟨⟨_, hget, rfl, rfl, rfl, rfl⟩, fun j hj => ?_⟩
  rw [hothers j hj]
  exact tbl_get_put_ne _ _ hj

end Sys2Proof.Machine
end

section
/-!
PROOFS (this file, a sitting of its own). Uncorrectable words, poison, and the mirrors (R375, R376, R379, R380, R391, R393, R394).
-/
namespace Sys2Proof.Machine

open Sys2Proof

/-! ### Tiles on a core -/

/-- The account of waits leaves the cores. -/
theorem State.core_track (s : State) (k : Nat) : s.track.core k = s.core k :=
  State.core_of_cores ((State.track_touches s).frame .cores (by decide)) k

/-- The parts that an error of a tile may change. -/
abbrev tileErrorParts : List Part := [.errs, .ic, .cores, .clusters, .commons, .slots, .ctxs]

/-- R379, R380: a tile that fails is forced off its core, which the other cores do not see. -/
theorem State.failTile_does (s : State) (k error cause : Nat) (syn : BitVec 32) :
    OnlyChanges tileErrorParts s (s.failTile k error cause syn)
      ∧ (s.failTile k error cause syn).core k = { (s.core k).force with failed := true, replay := false }
      ∧ ∀ j, j ≠ k → (s.failTile k error cause syn).core j = s.core j := by
  unfold State.failTile
  dsimp only
  set a := s.logError (errOfCore k) { s.coreRecord k error 5 with syndrome := syn.toNat }
  set u := a.modSlot (s.core k).queue (s.core k).seq fun e =>
    { e with partialCause := if e.failedPhase.isNone && e.partialCause == 0 then cause else e.partialCause }
  have hcore : ∀ j, u.core j = s.core j := State.core_of_cores (Eq.trans ((State.modSlot_touches ..).frame .cores (by decide))
    ((State.logError_touches ..).frame .cores (by decide)))
  refine ⟨?_, ?_, fun j hj => ?_⟩
  · exact ((State.logError_touches ..).frame.mono (by decide)).trans (((State.modSlot_touches ..).frame.mono (by decide)).trans
      (((State.modCore_touches ..).frame.mono (by decide)).trans ((State.track_touches _).frame.mono (by decide))))
  · rw [State.core_track, State.core_modCore_same, hcore]
  · rw [State.core_track, State.core_modCore_ne _ _ hj, hcore]

/-! ### A launch that is ended while it runs -/

/-- What an ending makes of a core: a tile of the launch is forced, and a basting of it is forgotten. -/
theorem Core.forceFor_running {c : Core} {q n : Nat} (hm : c.mode = .running) (hq : c.queue = q) (hn : c.seq = n) :
    (c.forceFor q n).mode = .abandoning := by
  have hserves : c.serves q n = true := by simp [Core.serves, hm, hq, hn]
  have hforce : c.force.mode = .abandoning := by simp [Core.force, hm]
  unfold Core.forceFor
  simp only [hserves, if_true]
  split
  · exact hforce
  · exact hforce

/-- An ending of a launch that runs and has staged nothing. -/
theorem State.endSlot_launch {s : State} {q n : Nat} {e : Slot} (he : s.slot? q n = some e) (ha : e.admitted = true)
    (hlaunch : e.isLaunch = true) (hrun : e.state = .running) (hst : e.stagings = []) (w : EndWhy) :
    s.endSlot q n w = (s.modSlot q n fun x => { x with
      status := (w.status e.promise.isSome).1, cause := (w.status e.promise.isSome).2, state := .ended }).forceLaunch q n := by
  rw [State.endSlot, he]
  dsimp only
  rw [hrun, if_neg (by decide), if_neg (by simp [ha]), if_neg (by simp [hlaunch]), if_neg (by simp)]
  rw [State.discardStagings, hst, List.foldl_nil]

theorem dropLines_false_frame (s : State) (t : Line → Bool) : OnlyChanges [.lines] s (s.dropLines false t) := by
  intro p hp
  cases p with
  | lines => exact absurd List.mem_cons_self hp
  | _ => rfl

/-- Poison that a tile consumes ends its launch, whatever its record says. -/
theorem State.poison_does {s : State} {k : Nat} {e : Slot} (hm : (s.core k).mode = .running)
    (he : s.slot? (s.core k).queue (s.core k).seq = some e) (ha : e.admitted = true) (hlaunch : e.isLaunch = true)
    (hrun : e.state = .running) (hst : e.stagings = []) (i : Nat) (r : ErrRecord) (cause : Nat) :
    OnlyChanges tileErrorParts s ((s.logError i r).endSlot (s.core k).queue (s.core k).seq (.poison cause)).track
      ∧ (((s.logError i r).endSlot (s.core k).queue (s.core k).seq (.poison cause)).track.core k).mode = .abandoning
      ∧ (((s.logError i r).endSlot (s.core k).queue (s.core k).seq (.poison cause)).track.slot? (s.core k).queue (s.core k).seq).map
          (fun x => (x.state, x.status, x.cause)) = some (.ended, (EndWhy.poison cause).status e.promise.isSome) := by
  set u := s.logError i r with hu
  have hutouch : OnlyChanges [.errs, .ic] s u := (State.logError_touches ..).frame.mono (by decide)
  have hue : u.slot? (s.core k).queue (s.core k).seq = some e :=
    (State.slot_of_slots (hutouch .slots (by decide)) _ _).trans he
  have hend := State.endSlot_launch hue ha hlaunch hrun hst (.poison cause)
  set v := u.modSlot (s.core k).queue (s.core k).seq fun x => { x with
    status := ((EndWhy.poison cause).status e.promise.isSome).1, cause := ((EndWhy.poison cause).status e.promise.isSome).2
    state := .ended } with hv
  have hvslot : (v.forceLaunch (s.core k).queue (s.core k).seq).slot? (s.core k).queue (s.core k).seq = some { e with
      status := ((EndWhy.poison cause).status e.promise.isSome).1, cause := ((EndWhy.poison cause).status e.promise.isSome).2
      state := .ended } :=
    (State.slot_of_slots rfl _ _).trans (State.slot_modSlot_same hue fun _ => ⟨rfl, rfl⟩)
  have hvcore : v.cores = s.cores := Eq.trans ((State.modSlot_touches ..).frame .cores (by decide)) (hutouch .cores (by decide))
  rw [hend]
  refine ⟨(hutouch.mono (by decide)).trans (((State.modSlot_touches ..).frame.mono (by decide)).trans
    (((State.forceLaunch_touches ..).frame.mono (by decide)).trans ((State.track_touches _).frame.mono (by decide)))), ?_, ?_⟩
  · rw [State.core_track, State.core, State.forceLaunch, hvcore, tbl_get_mapV_core]
    cases hc : s.cores.get? k with
    | none => simp [State.core, Tbl.getD, hc] at hm
    | some c =>
      have hcore : s.core k = c := by simp [State.core, Tbl.getD, hc]
      rw [Option.map_some, Option.getD_some]
      exact Core.forceFor_running (by rw [← hcore]; exact hm) (by rw [hcore]) (by rw [hcore])
  · rw [(State.track_slots _).field (fun x => (x.state, x.status, x.cause)) (fun _ => rfl), hvslot]
    rfl

theorem State.allocWords_stream {r : MemReq} (h : r.hint = .stream) (s : State) :
    ∀ (line : Nat) (ws : List (BitVec 288)), State.allocWords s r line ws = s
  | _, [] => rfl
  | _, [_] => rfl
  | line, w0 :: w1 :: t => by
    rw [State.allocWords, h]
    exact State.allocWords_stream h s (line + 1) t

theorem State.ctNow_of_time {s t : State} (h : t.time = s.time) : t.ctNow = s.ctNow := by simp only [State.ctNow, State.outScale, h]

/-- A read of a gather that finds all its words clean, streaming past the cache, makes its strand ready. -/
theorem State.goOnRead_gather (s : State) (id : Nat) {r : MemReq} {k n : Nat} {words : List (BitVec 288)} (hw : r.who = .gather k n)
    (hh : r.hint = .stream) (hg : firstBad words = none) :
    ∃ x : MemReq, x.place = .ready ∧ s.goOnRead id r words
      = (((s.setReq id x).modCore k fun c => { c with strands := c.strands.put n .ready }).noteStall k) := by
  have hfinish : s.goOnRead id r words = s.finishRead id r words := by simp only [State.goOnRead, hg]
  refine ⟨{ r with place := .ready, poison := (firstPoison r.needAt r.needBytes r.address words).isSome
                   poisonAt := (firstPoison r.needAt r.needBytes r.address words).getD 0, words := [] }, rfl, ?_⟩
  rw [hfinish, State.finishRead, State.allocWords_stream hh]
  simp only [hw]
  rfl

/-- Settles O40: a word by the line, tile or tier in which it stands, poison by the ending of the launch, a mirror by the read that
waits for it. -/
theorem uncorrectableWordsAndPoisonAreContained : Obligations.UncorrectableWordsAndPoisonAreContained := by
  unfold Obligations.UncorrectableWordsAndPoisonAreContained
  refine ⟨fun s c line half syn l hl hf => ?clean, fun s c line half syn l hl hf => ?dirty, fun s k syn hl hk ha hr => ?replayed,
    fun s k syn hl hk ha hr => ?lost, fun s k syn hl ha => ?input, fun s c addr syn hl hc hf => ?tier,
    fun s k e from_ hl hm he ha hlaunch hrun hst => ?poison, fun s k e hl hm => ?tileError,
    fun s c f pg w mirror back id r i k n hl hreq hid hwho hhint hdata hread hback hgood => ?mirror⟩
  case clean =>
    refine completes_live (f := fun s => s.lineError c line half false syn) hl rfl ?_
    rw [State.lineError, hf]
    dsimp only
    rw [if_pos (by decide)]
    exact ⟨((State.logError_touches ..).frame.mono (by decide)).trans ((dropLines_false_frame _ _).mono (by decide)), rfl, rfl⟩
  case dirty =>
    refine completes_live (f := fun s => s.lineError c line half true syn) hl rfl ?_
    rw [State.lineError, hf]
    dsimp only
    rw [if_neg (by decide)]
    refine ⟨((State.logError_touches ..).frame.mono (by decide)).trans (((State.logError_touches ..).frame.mono (by decide)).trans
      ((State.modLine_touches ..).frame.mono (by decide))), ?_⟩
    have hkey : l.line = line := by
      have h := List.find?_some hf
      simp only [Bool.and_eq_true, beq_iff_eq] at h
      exact h.1.2
    refine List.mem_map.mpr ⟨l, List.mem_of_find?_eq_some hf, ?_⟩
    rw [if_pos (by simp [hkey])]
  case replayed =>
    refine completes_when hl rfl (by simp [hk]) ?_
    rw [State.tileStateError]
    dsimp only
    rw [if_neg (by simp [ha]), if_neg (by simp [hr])]
    have hcore : ∀ j, (s.logError (errOfCore k) { s.coreRecord k 2 4 with syndrome := syn.toNat }).core j = s.core j :=
      State.core_of_cores ((State.logError_touches ..).frame .cores (by decide))
    refine ⟨((State.logError_touches ..).frame.mono (by decide)).trans (((State.modCore_touches ..).frame.mono (by decide)).trans
      ((State.track_touches _).frame.mono (by decide))), ?_, fun j hj => ?_⟩
    · rw [State.core_track, State.core_modCore_same, hcore]
    · rw [State.core_track, State.core_modCore_ne _ _ hj, hcore]
  case lost =>
    refine completes_when hl rfl (by simp [hk]) ?_
    rw [State.tileStateError]
    dsimp only
    rw [if_neg (by simp [ha]), if_pos (by simpa using hr)]
    exact s.failTile_does k 0x15 2 syn
  case input =>
    refine completes_when hl rfl ha ?_
    exact s.failTile_does k 0x14 2 syn
  case tier =>
    refine completes_when hl rfl (by simp [hc]) ?_
    set raw := encodeWord (BitVec.ofNat 256 (Config.freeBits 256 s.free)) with hraw
    set u := (s.draw.logError (errOfCluster c) { clusterRecord c 2 3 (addr / 32 * 32) syn with partition := 0xFF }).logError
      (errOfCluster c) { clusterRecord c 4 3 (addr / 32 * 32) syn with partition := 0xFF } with hu
    have herr : s.tierError c (addr / 32 * 32) syn
        = (u.writeBack 0xFF c (addr / 32 * 32) 32 [poisonWord (dataOf raw)]).quarantineAt (addr / 32 * 32) := by
      rw [State.tierError, hf]
      rfl
    have hno : u.reqNo = s.reqNo := Eq.trans ((State.logError_touches ..).frame .reqNo (by decide))
      ((State.logError_touches ..).frame .reqNo (by decide))
    obtain ⟨⟨x, hget, hw, ha, hb, hwords⟩, -⟩ := u.writeBack_reqs 0xFF c (addr / 32 * 32) 32 [poisonWord (dataOf raw)]
    refine ⟨x, ?_, ha, hb, hw, _, hwords⟩
    rw [herr, (State.quarantineAt_touches ..).frame .reqs (by decide), ← hno]
    exact hget
  case poison =>
    refine completes_when hl rfl (by simp [hm]) ?_
    cases from_ <;> exact State.poison_does hm he ha hlaunch hrun hst _ _ _
  case tileError =>
    refine completes_when hl rfl (by simp [hm]) ?_
    exact s.failTile_does k _ 1 0
  case mirror =>
    refine completes_live hl rfl ?_
    rw [hreq]
    simp only [hdata, hread, hback, if_true]
    set a := s.writeBack r.partition r.cluster (r.address + 32 * i) 32 [mirror] with ha
    set b := a.logError (errOfCluster r.cluster) { clusterRecord r.cluster 5 11 (r.address + 32 * i) (syndromes (r.words.getD i 0)) with
      partition := r.partition } with hb
    obtain ⟨x, hx, hrest⟩ := b.goOnRead_gather id hwho hhint hgood
    have htouch := s.writeBack_touches r.partition r.cluster (r.address + 32 * i) 32 [mirror]
    obtain ⟨⟨y, hy, hyw, hya, -, hywords⟩, -⟩ := s.writeBack_reqs r.partition r.cluster (r.address + 32 * i) 32 [mirror]
    have hct : a.ctNow = s.ctNow := State.ctNow_of_time (htouch.frame .time (by decide))
    have herrs : b.errs = a.errs.store (256 + r.cluster) { clusterRecord r.cluster 5 11 (r.address + 32 * i)
      (syndromes (r.words.getD i 0)) with partition := r.partition, ct := a.ctNow } := rfl
    have hbreqs : b.reqs = a.reqs := (State.logError_touches ..).frame .reqs (by decide)
    set v := (b.setReq id x).modCore k fun c => { c with strands := c.strands.put n .ready } with hv
    have hreqs : (v.noteStall k).reqs = b.reqs.put id x := rfl
    rw [hrest, hreqs]
    refine ⟨?_, ?_, ⟨y, ?_, hyw, hya, hywords⟩, ?_⟩
    · rw [tbl_get_put_same, Option.map_some, hx]
    · have hstall : ((v.noteStall k).core k).strands = (v.core k).strands := by
        rw [State.noteStall, State.core_modCore_same]
        split <;> rfl
      rw [hstall, hv, State.core_modCore_same]
      exact tbl_get_put_same _ _ _
    · rw [tbl_get_put_ne _ _ (Ne.symm hid), hbreqs]
      exact hy
    · rw [← hct, ← show a.errs = s.errs from htouch.frame .errs (by decide)]
      exact herrs

end Sys2Proof.Machine
end

section
/-!
PROOFS (this file, a sitting of its own). Links, and the abort notices of other endpoints (R403, R404, R446).
-/
namespace Sys2Proof.Machine

open Sys2Proof

theorem State.logError_lastAborts (s : State) (i : Nat) (r : ErrRecord) : (s.logError i r).errs.lastAborts = s.errs.lastAborts := by
  show (s.errs.store i { r with ct := s.ctNow }).lastAborts = s.errs.lastAborts
  simp only [Errors.store]
  split_ifs <;> rfl

/-- Messages that waited leave in the order in which they came. -/
theorem foldl_emit (l : List Out) (s : State) : l.foldl State.emit s = { s with out := l.reverse ++ s.out } := by
  induction l generalizing s with
  | nil => rfl
  | cons o l ih => simp [ih, State.emit]

/-- Where no core runs a tile, no gather can go on. -/
theorem State.kickAll_idle {s : State} (h : (s.cores.all fun c => c.2.mode != .running) = true) : s.kickAll = s := by
  have hkick : ∀ k, s.kick k = s := by
    intro k
    have hm : (s.core k).mode != .running := by
      cases hc : s.cores.get? k with
      | none => simp [State.core, Tbl.getD, hc]
      | some c =>
        have hcore : s.core k = c := by simp [State.core, Tbl.getD, hc]
        rw [hcore]
        exact List.all_eq_true.mp h _ (tbl_mem_get hc)
    rw [State.kick]
    dsimp only
    rw [if_pos hm]
  have hfold : ∀ l : List Nat, l.foldl State.kick s = s := by
    intro l
    induction l with
    | nil => rfl
    | cons k l ih => rw [List.foldl_cons, hkick, ih]
  exact hfold _

/-- R404: what an abort does to a partition whose one slot is a launch that runs. -/
theorem State.abortPart_one (a : State) {p : Nat} {e : Slot} (hs : a.slots = [e]) (hp : e.partition = p) (ha : e.admitted = true)
    (hlaunch : e.isLaunch = true) (hrun : e.state = .running) (hst : e.stagings = []) :
    ((a.abortPart p).part p).received = satAdd 16 (a.part p).received 1 ∧ (a.abortPart p).errs.lastAborts = a.errs.lastAborts
      ∧ ((a.abortPart p).slot? e.queue e.seq).map (fun x => (x.state, x.status, x.cause))
          = some (.ended, EndWhy.peer.status e.promise.isSome) := by
  set u := a.modPart p fun u => { u with received := satAdd 16 u.received 1 } with hu
  set b := u.logPart p 0x61 6 with hb
  have hlog := State.logPart_touches u p 0x61 6
  have hbslots : b.slots = [e] := Eq.trans (hlog.frame .slots (by decide)) hs
  have hbe : b.slot? e.queue e.seq = some e := by simp [State.slot?, hbslots]
  have habort : a.abortPart p = b.endSlot e.queue e.seq .peer := by
    show b.endWhere (fun e => e.partition == p && e.admitted && e.isLaunch) .peer = _
    simp [State.endWhere, hbslots, hp, ha, hlaunch, hrun]
  rw [habort, State.endSlot_launch hbe ha hlaunch hrun hst .peer]
  have hmod := State.modSlot_touches b e.queue e.seq fun x => { x with
    status := (EndWhy.peer.status e.promise.isSome).1, cause := (EndWhy.peer.status e.promise.isSome).2, state := .ended }
  have hforce := State.forceLaunch_touches (b.modSlot e.queue e.seq fun x => { x with
    status := (EndWhy.peer.status e.promise.isSome).1, cause := (EndWhy.peer.status e.promise.isSome).2, state := .ended })
    e.queue e.seq
  refine ⟨?_, ?_, ?_⟩
  · rw [part_of_parts (hforce.frame .parts (by decide)), part_of_parts (hmod.frame .parts (by decide)),
      part_of_parts (hlog.frame .parts (by decide)), hu, State.part_modPart_same]
  · rw [hforce.frame .errs (by decide), hmod.frame .errs (by decide)]
    exact State.logError_lastAborts ..
  · have hend := State.slot_modSlot_same hbe (f := fun x => { x with
      status := (EndWhy.peer.status e.promise.isSome).1, cause := (EndWhy.peer.status e.promise.isSome).2, state := .ended })
      fun _ => ⟨rfl, rfl⟩
    rw [State.slot_of_slots (s := b.modSlot e.queue e.seq _) (by rfl), hend]
    rfl

/-- Settles O35: a link by the level and the messages of its port, a notice by the ending of the one launch of its group. -/
theorem linksHoldAndAbortNoticesEnd : Obligations.LinksHoldAndAbortNoticesEnd := by
  unfold Obligations.LinksHoldAndAbortNoticesEnd
  refine ⟨fun s n hl h1 => ?held, fun s n hl hn h1 hp hc => ?up,
    fun s g origin serial p e hl ho hseen hg hs hp ha hlaunch hrun hst => ?notice⟩
  case held =>
    refine completes_when hl rfl (by simp [h1]) ?_
    refine ⟨((modFport_frame s n _).mono (by decide)).trans ((setIc_frame _ _).mono (by decide)), ?_, ?_, ?_,
      Ic.src_setLevel_true_level _ (by omega) _⟩
    all_goals rw [State.holdLink, State.fport_icLevel, State.fport_modFport_same]
    rfl
  case up =>
    refine completes_when hl rfl (by simp [hn, h1]) ?_
    set a := (s.modFport n fun f => { f with state := 1, encrypted := true, upSince := some s.time.now, held := [] }).icLevel (416 + n)
      false with ha
    have hrest : ((s.fport n).held.foldl State.emit a).portless = [] := by
      rw [foldl_emit]
      exact hp
    have hup : (((s.fport n).held.foldl State.emit a).restart ((s.fport n).held.foldl State.emit a).portless).kickAll
        = { a with out := (s.fport n).held.reverse ++ a.out } := by
      rw [hrest, foldl_emit]
      exact State.kickAll_idle hc
    rw [hup]
    have hport : ({ a with out := (s.fport n).held.reverse ++ a.out } : State).fport n
        = { s.fport n with state := 1, encrypted := true, upSince := some s.time.now, held := [] } :=
      State.fport_modFport_same s n fun f => { f with state := 1, encrypted := true, upSince := some s.time.now, held := [] }
    refine ⟨fun p hp => ?_, by rw [hport], by rw [hport], by rw [hport], rfl, ?_⟩
    · cases p with
      | fports | ic | out => simp at hp
      | _ => rfl
    · show ((s.ic.setLevel (416 + n) false s.time.now).src (416 + n)).level = false
      rw [Ic.setLevel_false, Ic.src_setSrc_same]
  case notice =>
    refine completes_when hl rfl (by simp only [hseen, hg]; simp [ho]) ?_
    set a : State := { s with errs := { s.errs with lastAborts := (g, origin, serial) :: s.errs.lastAborts } } with ha0
    obtain ⟨hreceived, haborts, hslot⟩ := a.abortPart_one hs hp ha hlaunch hrun hst
    have hgroup : (a.inGroup g).foldl State.abortPart a = a.abortPart p := by
      rw [show a.inGroup g = [p] from hg, List.foldl_cons, List.foldl_nil]
    have htouch := State.track_touches (a.abortPart p)
    dsimp only
    rw [hgroup]
    refine ⟨?_, ?_, ?_⟩
    · rw [part_of_parts (htouch.frame .parts (by decide)), hreceived]
      rfl
    · rw [htouch.frame .errs (by decide), haborts]
    · rw [(State.track_slots _).field (fun x => (x.state, x.status, x.cause)) (fun _ => rfl)]
      exact hslot

end Sys2Proof.Machine
end

section
/-!
PROOFS (this file, a sitting of its own). Frame boundaries, milliseconds and power windows (R93, R129, R186, R194, R206, R288, R292,
R293, R413, R418, R425).
-/
namespace Sys2Proof.Machine

open Sys2Proof

/-! ### What issuing a request charges -/

/-- A partition without what an issued request is charged to. -/
def Partition.uncharged (u : Partition) : Partition := { u with regs := [], tel := {} }

/-- `t` has every partition as in `s` but for what issued requests are charged to. -/
def Charged (s t : State) : Prop := ∀ p, (t.part p).uncharged = (s.part p).uncharged

namespace Charged

variable {s t u : State}

theorem refl (s : State) : Charged s s := fun _ => rfl

theorem trans (h : Charged s t) (k : Charged t u) : Charged s u := fun p => (k p).trans (h p)

theorem of_parts (h : t.parts = s.parts) : Charged s t := fun p => by rw [part_of_parts h]

theorem foldl {α : Type} {f : State → α → State} (h : ∀ s x, Charged s (f s x)) (l : List α) (s : State) : Charged s (l.foldl f s) := by
  induction l generalizing s with
  | nil => exact refl s
  | cons x l ih => exact (h s x).trans (ih _)

theorem modPart (s : State) (p : Nat) {f : Partition → Partition} (hf : ∀ u, (f u).uncharged = u.uncharged) :
    Charged s (s.modPart p f) := fun x => by
  by_cases hx : x = p
  · subst hx
    rw [State.part_modPart_same]
    exact hf _
  · rw [State.part_modPart_ne _ _ hx]

/-- What is kept of a partition, field by field. -/
theorem keeps (h : Charged s t) (p : Nat) {α : Type} (f : Partition → α) (hf : ∀ u : Partition, f u.uncharged = f u) :
    f (t.part p) = f (s.part p) := by
  rw [← hf, h p, hf]

end Charged

theorem State.charge_charged {s t : State} {r : MemReq} (h : s.charge r = some t) : Charged s t := by
  unfold State.charge at h
  dsimp only at h
  split_ifs at h
  · exact Option.some.inj h ▸ .refl s
  all_goals
    rw [← Option.some.inj h]
    exact .modPart _ _ fun _ => by rfl

theorem State.tryIssue_charged (s : State) (id : Nat) : Charged s (s.tryIssue id) := by
  unfold State.tryIssue
  split
  · split
    · split
      · next hcharge => exact (State.charge_charged hcharge).trans (.of_parts ((State.sendReq_touches ..).frame .parts (by decide)))
      · exact .refl s
    · exact .refl s
  · exact .refl s

theorem State.pumpPorts_charged (l : List Nat) (s : State) : Charged s (l.foldl State.pumpPort s) :=
  .foldl (fun s _ => .foldl State.tryIssue_charged _ s) l s

/-! ### Tables that change entry by entry -/

theorem State.part_mapV (s : State) (f : Nat → Partition → Partition) (p : Nat) :
    ({ s with parts := s.parts.mapV f } : State).part p = ((s.parts.get? p).map (f p)).getD {} := by
  rw [State.part, Tbl.getD, tbl_get_mapV]

/-- A partition after the part of the boundary that acts on it alone (R186, R194, R206, R413). -/
theorem State.part_framePart (s : State) (f p : Nat) (t : State) (ht : t.parts = s.parts.mapV fun p u => s.framePart f p u) :
    (t.part p).promiseLimit = (s.part p).pendLimit.getD (s.part p).promiseLimit
      ∧ (t.part p).startAllow = (s.part p).pendAllow.getD (s.part p).startAllow
      ∧ (t.part p).sliceNs = (s.part p).pendSlice.getD (s.part p).sliceNs
      ∧ (t.part p).holds = ((s.part p).holds.filter fun h => !h.releasing && f ≤ h.last)
      ∧ (t.part p).quads = (s.part p).quads ∧ (t.part p).ways = (s.part p).ways
      ∧ (t.part p).pendLayout = (s.part p).pendLayout ∧ (t.part p).clearQuads = (s.part p).clearQuads := by
  have hpart : t.part p = ((s.parts.get? p).map fun u => s.framePart f p u).getD {} := by
    rw [State.part, ht, Tbl.getD, tbl_get_mapV]
  have hs : s.part p = (s.parts.get? p).getD {} := rfl
  rw [hpart, hs]
  cases s.parts.get? p <;> exact ⟨rfl, rfl, rfl, rfl, rfl, rfl, rfl, rfl⟩

/-! ### Layouts (R288) -/

/-- A partition without its layout and what follows from a change of it. -/
def Partition.unlaid (u : Partition) : Partition :=
  { u with quads := [], ways := [], pendLayout := none, clearQuads := [], clearWays := [], affinity := [] }

theorem foldl_chill_unlaid (l : List Nat) (u : Partition) : (l.foldl Partition.chill u).unlaid = u.unlaid := by
  induction l generalizing u with
  | nil => rfl
  | cons c l ih => exact (ih _).trans rfl

theorem Partition.relayout_unlaid (u : Partition) (l : LayoutChange) (n : Nat) : (u.relayout l n).unlaid = u.unlaid := by
  have h := foldl_chill_unlaid ((List.range n).filter fun c => u.waysIn c != l.ways.getD c {}) u
  exact h

theorem State.frameLayout_unlaid (s : State) (k p : Nat) : ((s.frameLayout k).part p).unlaid = (s.part p).unlaid := by
  unfold State.frameLayout
  split
  · rfl
  · split
    · rfl
    · by_cases hp : p = k
      · subst hp
        rw [State.part_modPart_same, Partition.relayout_unlaid]
      · rw [State.part_modPart_ne _ _ hp]

theorem State.frameLayouts_unlaid (l : List Nat) (s : State) (p : Nat) :
    ((l.foldl State.frameLayout s).part p).unlaid = (s.part p).unlaid := by
  induction l generalizing s with
  | nil => rfl
  | cons k l ih => exact (ih _).trans (s.frameLayout_unlaid k p)

theorem State.frameLayout_ne (s : State) {k p : Nat} (h : p ≠ k) : (s.frameLayout k).part p = s.part p := by
  unfold State.frameLayout
  split
  · rfl
  · split
    · rfl
    · exact State.part_modPart_ne _ _ h

/-- A partition without a change that waits keeps its layout. -/
theorem State.frameLayouts_none (l : List Nat) {s : State} {p : Nat} (h : (s.part p).pendLayout = none) :
    (l.foldl State.frameLayout s).part p = s.part p := by
  induction l generalizing s with
  | nil => rfl
  | cons k l ih =>
    have hk : (s.frameLayout k).part p = s.part p := by
      by_cases hp : p = k
      · subst hp
        rw [State.frameLayout, h]
      · exact s.frameLayout_ne hp
    rw [List.foldl_cons, ih (by rw [hk]; exact h), hk]

/-- Whether launches still stand in the way of a change of layout. -/
def State.layoutBlocked (s : State) (p : Nat) (l : LayoutChange) : Bool :=
  (List.range s.nClusters).any fun c => (s.part p).losesIn l c && s.placedIn p c

theorem State.frameLayout_touches' (s : State) (k : Nat) : OnlyChanges [.parts] s (s.frameLayout k) :=
  (State.frameLayout_touches s k).frame.mono (by decide)

/-- A change of layout that nothing stands in the way of takes place once. -/
theorem State.frameLayouts_relayout {p : Nat} {c : LayoutChange} (l : List Nat) {s : State} (hp : p ∈ l)
    (hc : (s.part p).pendLayout = some c) (hb : s.layoutBlocked p c = false) :
    (l.foldl State.frameLayout s).part p = (s.part p).relayout c s.nClusters := by
  induction l generalizing s with
  | nil => cases hp
  | cons k l ih =>
    by_cases hk : p = k
    · subst hk
      have hlay : s.frameLayout p = s.modPart p fun u => u.relayout c s.nClusters := by
        rw [State.frameLayout, hc]
        exact if_neg (by simpa [State.layoutBlocked] using hb)
      have hpart : (s.frameLayout p).part p = (s.part p).relayout c s.nClusters := by rw [hlay, State.part_modPart_same]
      rw [List.foldl_cons, State.frameLayouts_none l (by rw [hpart]; rfl), hpart]
    · have hpart := s.frameLayout_ne hk
      have htouch := s.frameLayout_touches' k
      have hslots : (s.frameLayout k).slots = s.slots := htouch .slots (by decide)
      have hn : (s.frameLayout k).nClusters = s.nClusters := by
        simp only [State.nClusters, show (s.frameLayout k).fuses = s.fuses from htouch .fuses (by decide)]
      have hb' : (s.frameLayout k).layoutBlocked p c = false := by
        rw [← hb]
        simp only [State.layoutBlocked, State.placedIn, hpart, hslots, hn]
      rw [List.foldl_cons, ih ((List.mem_cons.mp hp).resolve_left hk) (by rw [hpart]; exact hc) hb', hpart, hn]

/-! ### The accounts of contexts -/

/-- A context without its account. -/
def Context.unaccounted (c : Context) : Context := { c with acct := {} }

/-- Every context of `s` stands in `t` as it was, but for its account. -/
def CtxsKept (s t : State) : Prop := ∀ k, (t.ctx? k).map Context.unaccounted = (s.ctx? k).map Context.unaccounted

namespace CtxsKept

variable {s t u : State}

theorem refl (s : State) : CtxsKept s s := fun _ => rfl

theorem trans (h : CtxsKept s t) (k : CtxsKept t u) : CtxsKept s u := fun x => (k x).trans (h x)

theorem of_ctxs (h : t.ctxs = s.ctxs) : CtxsKept s t := fun k => by simp only [State.ctx?, h]

theorem foldl {α : Type} {f : State → α → State} (h : ∀ s x, CtxsKept s (f s x)) (l : List α) (s : State) : CtxsKept s (l.foldl f s) := by
  induction l generalizing s with
  | nil => exact refl s
  | cons x l ih => exact (h s x).trans (ih _)

theorem account (s : State) (k : Nat) (f : Account → Account) : CtxsKept s (s.account k f) := fun x => by
  by_cases hx : x = k
  · subst hx
    rw [State.account, State.ctx_modCtx_same]
    cases s.ctx? x <;> rfl
  · have hne : (s.account k f).ctx? x = s.ctx? x := by
      unfold State.account State.modCtx
      split
      · exact tbl_get_put_ne _ _ hx
      · rfl
    rw [hne]

/-- What is kept of a context, field by field. -/
theorem field (h : CtxsKept s t) {α : Type} (f : Context → α) (hf : ∀ c : Context, f c.unaccounted = f c) (k : Nat) :
    (t.ctx? k).map f = (s.ctx? k).map f := by
  have hfun : f = f ∘ Context.unaccounted := funext fun c => (hf c).symm
  rw [hfun, ← Option.map_map, h k, Option.map_map]

end CtxsKept

theorem State.followWait_ctxs (s : State) (e : Slot) : CtxsKept s (s.followWait e) := by
  unfold State.followWait
  split
  · exact .of_ctxs rfl
  · exact .account (s.modSlot e.queue e.seq _) _ _
  · exact .refl s

theorem State.track_ctxs (s : State) : CtxsKept s s.track := by
  unfold State.track
  refine CtxsKept.trans (.of_ctxs ?_) (.foldl State.followWait_ctxs _ _)
  exact (Touches.foldl (ps := [.commons, .clusters]) (.refl ..) fun _ _ =>
    .foldl (.refl ..) fun _ _ => (State.modShares_touches ..).mono (by decide)).frame .ctxs (by decide)

theorem State.chargeWaits_ctxs (s : State) : CtxsKept s s.chargeWaits := by
  refine .foldl (fun s e => ?_) _ _
  split
  · exact .refl s
  · exact .account (s.modSlot e.queue e.seq _) _ _

/-! ### The frame boundary -/

/-- What the boundary changes in every partition and context, before layouts and requests follow. -/
def State.framed (s : State) (f : Nat) : State :=
  { s with
    parts := s.parts.mapV fun p u => s.framePart f p u
    ctxs := s.ctxs.mapV fun _ c => { c with share := c.pendShare.getD c.share, pendShare := none }
    power := s.power.frame }

/-- The layouts that take effect after it. -/
def State.laidOut (s : State) (f : Nat) : State := ((s.framed f).parts.map (·.1)).foldl State.frameLayout (s.framed f)

theorem State.laidOut_touches (s : State) (f : Nat) : OnlyChanges [.parts] (s.framed f) (s.laidOut f) :=
  (Touches.foldl (ps := [.parts]) (.refl ..) fun s k => s.frameLayout_touches k).frame

theorem State.frameEffects_eq (s : State) (f : Nat) :
    s.frameEffects f = ((List.range (s.laidOut f).nPorts).foldl State.pumpPort (s.laidOut f)).track := rfl

theorem State.pumpPorts_touches (s : State) (l : List Nat) : Touches [.out, .parts, .reqs] s (l.foldl State.pumpPort s) :=
  .foldl (.refl ..) fun s k => s.pumpPort_touches k

/-- What follows the layouts charges partitions only. -/
theorem State.frameEffects_charged (s : State) (f : Nat) : Charged (s.laidOut f) (s.frameEffects f) :=
  (State.pumpPorts_charged _ _).trans (.of_parts ((State.track_touches _).frame .parts (by decide)))

theorem State.frameEffects_power (s : State) (f : Nat) : (s.frameEffects f).power = s.power.frame :=
  Eq.trans ((State.track_touches _).frame .power (by decide)) (Eq.trans ((State.pumpPorts_touches ..).frame .power (by decide))
    (s.laidOut_touches f .power (by decide)))

theorem State.frameEffects_time (s : State) (f : Nat) : (s.frameEffects f).time = s.time :=
  (State.frameEffects_touches s f).frame .time (by decide)

theorem State.frameEffects_share {s : State} {k : Nat} {c : Context} (h : s.ctx? k = some c) (f : Nat) :
    ((s.frameEffects f).ctx? k).map (·.share) = some (c.pendShare.getD c.share) := by
  rw [State.frameEffects_eq, (State.track_ctxs _).field (fun c => c.share) (fun _ => rfl)]
  have hctxs : ((List.range (s.laidOut f).nPorts).foldl State.pumpPort (s.laidOut f)).ctxs = (s.framed f).ctxs :=
    Eq.trans ((State.pumpPorts_touches ..).frame .ctxs (by decide)) (s.laidOut_touches f .ctxs (by decide))
  have hget : s.ctxs.get? k = some c := h
  rw [State.ctx?, hctxs, State.framed, tbl_get_mapV, hget]
  rfl

/-! ### The obligation -/

/-- Settles O36: what the boundary changes table by table; the layouts that follow, the requests that are issued and the account of
waits keep it. -/
theorem boundariesBringChangesIntoEffect : Obligations.BoundariesBringChangesIntoEffect := by
  unfold Obligations.BoundariesBringChangesIntoEffect
  refine ⟨fun s hl hd => ?frame, fun s p l hl hd hp hb => ?layout, fun s w ws hl hu hm => ?ms, fun s p u j js hl hu hw hp => ?window⟩
  case frame =>
    refine completes_when hl rfl hd ?_
    set u : State := { s with time := { s.time with frameDone := frameOf s.time.ct + 1 } } with hu
    have hcharged := u.frameEffects_charged (frameOf s.time.ct)
    have hlaid := State.frameLayouts_unlaid ((u.framed (frameOf s.time.ct)).parts.map (·.1)) (u.framed (frameOf s.time.ct))
    have hframed := fun p => u.part_framePart (frameOf s.time.ct) p (u.framed (frameOf s.time.ct)) rfl
    have hfield : ∀ {α : Type} (g : Partition → α), (∀ x : Partition, g x.uncharged = g x) → (∀ x : Partition, g x.unlaid = g x) →
        ∀ p, g ((u.frameEffects (frameOf s.time.ct)).part p) = g ((u.framed (frameOf s.time.ct)).part p) := by
      intro α g hg hg' p
      rw [hcharged.keeps p g hg, ← hg', State.laidOut, hlaid p, hg']
    refine ⟨u.frameEffects_time _, u.frameEffects_power _, fun p => ⟨?_, ?_, ?_⟩, fun k c hk => State.frameEffects_share (s := u) hk _,
      fun p => ?_⟩
    · exact (hfield Partition.promiseLimit (fun _ => rfl) (fun _ => rfl) p).trans (hframed p).1
    · exact (hfield Partition.startAllow (fun _ => rfl) (fun _ => rfl) p).trans (hframed p).2.1
    · exact (hfield Partition.sliceNs (fun _ => rfl) (fun _ => rfl) p).trans (hframed p).2.2.1
    · exact (hfield Partition.holds (fun _ => rfl) (fun _ => rfl) p).trans (hframed p).2.2.2.1
  case layout =>
    refine completes_when hl rfl hd ?_
    set u : State := { s with time := { s.time with frameDone := frameOf s.time.ct + 1 } } with hu
    set v := u.framed (frameOf s.time.ct) with hv
    obtain ⟨-, -, -, -, hquads, hways, hpend, hclear⟩ := u.part_framePart (frameOf s.time.ct) p v rfl
    have hblocked : v.layoutBlocked p l = false := by
      rw [← hb]
      have hloses : ∀ c, (v.part p).losesIn l c = (s.part p).losesIn l c := fun c => by
        simp only [Partition.losesIn, Partition.waysIn, hquads, hways]
        rfl
      simp only [State.layoutBlocked, hloses]
      rfl
    have hkey : p ∈ v.parts.map (·.1) := by
      cases hget : v.parts.get? p with
      | none =>
        have hnone : (v.part p).pendLayout = none := by rw [State.part, Tbl.getD, hget]; rfl
        rw [hpend] at hnone
        exact absurd (hnone.symm.trans hp) (by simp)
      | some x => exact List.mem_map.mpr ⟨_, tbl_mem_get hget, rfl⟩
    have hpart := State.frameLayouts_relayout (v.parts.map (·.1)) hkey (hpend.trans hp) hblocked
    have hcharged := u.frameEffects_charged (frameOf s.time.ct)
    have hfield : ∀ {α : Type} (g : Partition → α), (∀ x : Partition, g x.uncharged = g x) →
        g ((u.frameEffects (frameOf s.time.ct)).part p) = g ((v.part p).relayout l v.nClusters) := by
      intro α g hg
      rw [hcharged.keeps p g hg, State.laidOut, hpart]
    refine ⟨hfield Partition.quads fun _ => rfl, hfield Partition.ways fun _ => rfl, hfield Partition.pendLayout fun _ => rfl,
      fun q hq hql => ?_⟩
    show q ∈ ((u.frameEffects (frameOf s.time.ct)).part p).clearQuads
    rw [hfield Partition.clearQuads fun _ => rfl, Partition.relayout, List.mem_eraseDups, List.mem_append]
    refine .inr (List.mem_filter.mpr ⟨by rw [hquads]; exact hq, by simpa using hql⟩)
  case ms =>
    refine completes_when hl rfl (by simp [hu, hm]) ?_
    have hctxs := s.chargeWaits_ctxs
    have htouch := s.chargeWaits_touches
    have htime : s.chargeWaits.time = s.time := htouch.frame .time (by decide)
    have hparts : s.chargeWaits.parts = s.parts := htouch.frame .parts (by decide)
    have hqueues : s.chargeWaits.queues = s.queues := htouch.frame .queues (by decide)
    have hpower : s.chargeWaits.power = s.power := htouch.frame .power (by decide)
    refine ⟨?_, rfl, ?_, fun p => ?_, fun q => ?_, fun k c hk => ?_⟩
    · dsimp only
      rw [htime]
    · dsimp only
      rw [hpower]
    · have hs : s.part p = (s.parts.get? p).getD {} := rfl
      rw [State.part, Tbl.getD, hs]
      dsimp only
      rw [tbl_get_mapV, hparts]
      cases s.parts.get? p <;> exact ⟨rfl, rfl⟩
    · have hs : s.queue q = (s.queues.get? q).getD {} := rfl
      rw [State.queue, Tbl.getD, hs]
      dsimp only
      rw [tbl_get_mapV, hqueues]
      cases s.queues.get? q <;> rfl
    · have hfield := hctxs.field (fun c => c.faultTotal) (fun _ => rfl) k
      rw [hk] at hfield
      rw [State.ctx?]
      dsimp only
      rw [tbl_get_mapV, Option.map_map]
      exact hfield
  case window =>
    refine completes_when hl rfl (by simp [hu, hw]) ?_
    refine ⟨fun p hp => ?_, rfl, ?_⟩
    · cases p with
      | time | parts => simp at hp
      | _ => rfl
    · rw [State.part, Tbl.getD, tbl_get_mapV, hp]
      have hwatts : j * 10 / 5 * 5 = 10 * j := by omega
      simp [hwatts]

end Sys2Proof.Machine
end

section
/-!
PROOFS (this file, a sitting of its own). The end of a slot: it stands FINISHED, or its queue's RETIRED_SEQ covers it (R159); and the
slots that finish at once (R150, R151, R96, R97).
-/
namespace Sys2Proof.Machine

open Sys2Proof

/-! ### Retirement -/

theorem State.slot_dropSlot (s : State) (q n a b : Nat) :
    (s.dropSlot q n).slot? a b = if a = q ∧ b = n then none else s.slot? a b := by
  simp only [State.slot?, State.dropSlot, List.find?_filter]
  split
  · next h =>
    obtain ⟨rfl, rfl⟩ := h
    rw [List.find?_eq_none]
    intro e _
    by_cases hk : e.queue = a ∧ e.seq = b
    · simp [hk]
    · have hb : (e.queue == a && e.seq == b) = false := by simpa using hk
      simp [hb]
  · next h =>
    refine congrArg (fun p => s.slots.find? p) (funext fun e => ?_)
    by_cases hk : e.queue = a ∧ e.seq = b
    · have hne : ¬(e.queue = q ∧ e.seq = n) := by rw [hk.1, hk.2]; exact h
      have hb : (e.queue == q && e.seq == n) = false := by simpa using hne
      rw [hb]
      simp [hk]
    · have hb : (e.queue == a && e.seq == b) = false := by simpa using hk
      simp [hb]

/-- The slots and the queue's state that retiring one slot leaves. -/
theorem State.retireOne_does (s : State) (e : Slot) :
    (∀ a b, (s.retireOne e).slot? a b = if a = e.queue ∧ b = e.seq then none else s.slot? a b)
      ∧ ((s.retireOne e).queue e.queue).retiredSeq = e.seq
      ∧ ((s.retireOne e).queue e.queue).state = (s.queue e.queue).state := by
  set a := s.modQueue e.queue fun u => { u with retiredSeq := e.seq, interruptF := u.interruptF || flagInterrupt e.flags } with ha
  set b := a.modPart e.partition fun p => { p with tel := p.tel.retired e } with hb
  have hun := State.unbind_touches b e
  have hdrop := State.dropSlot_touches (b.unbind e) e.queue e.seq
  have hret : s.retireOne e = (b.unbind e).dropSlot e.queue e.seq := rfl
  have hqueue : (s.retireOne e).queue e.queue = a.queue e.queue := by
    rw [hret]
    exact (State.queue_of_queues (hdrop.frame .queues (by decide)) _).trans
      ((State.queue_of_queues (hun.frame .queues (by decide)) _).trans rfl)
  refine ⟨fun x y => ?_, ?_, ?_⟩
  · rw [hret, State.slot_dropSlot, State.slot_of_slots (s := s) (t := b.unbind e) (Eq.trans (hun.frame .slots (by decide)) rfl)]
  · rw [hqueue, ha, State.queue_modQueue_same]
  · rw [hqueue, ha, State.queue_modQueue_same]

/-- Retiring the next slot of a queue keeps that a slot has ended. -/
theorem State.retireOne_ended {s : State} {q n status cause : Nat} {e : Slot} (h : s.SlotEnded q n status cause)
    (he : s.slot? q ((s.queue q).retiredSeq + 1) = some e) : (s.retireOne e).SlotEnded q n status cause := by
  obtain ⟨hq, hseq⟩ := State.slot_key he
  obtain ⟨hslots, hretired, -⟩ := s.retireOne_does e
  rw [hq, hseq] at hslots
  rw [hq] at hretired
  by_cases hn : n = (s.queue q).retiredSeq + 1
  · refine .inr ⟨by rw [hslots, if_pos ⟨rfl, hn⟩], ?_⟩
    rw [hretired, hseq, hn]
  · have hsame : (s.retireOne e).slot? q n = s.slot? q n := by rw [hslots, if_neg (by simp [hn])]
    rcases h with ⟨x, hx, hrest⟩ | ⟨hnone, hle⟩
    · exact .inl ⟨x, by rw [hsame, hx], hrest⟩
    · exact .inr ⟨by rw [hsame, hnone], by rw [hretired, hseq]; omega⟩

theorem State.retireLoop_ended (k : Nat) {s : State} {q n status cause : Nat} (h : s.SlotEnded q n status cause) :
    (State.retireLoop k s q).SlotEnded q n status cause := by
  induction k generalizing s with
  | zero => exact h
  | succ k ih =>
    unfold State.retireLoop
    split
    · next e he =>
      split
      · exact ih (State.retireOne_ended h he)
      · exact h
    · exact h

theorem State.retireLoop_state (k : Nat) (s : State) (q : Nat) : ((State.retireLoop k s q).queue q).state = (s.queue q).state := by
  induction k generalizing s with
  | zero => rfl
  | succ k ih =>
    unfold State.retireLoop
    split
    · next e he =>
      obtain ⟨hq, -⟩ := State.slot_key he
      obtain ⟨-, -, hst⟩ := s.retireOne_does e
      rw [hq] at hst
      split
      · rw [ih, hst]
      · rfl
    · rfl

/-- What a retirement may touch while its queue does not drain. -/
abbrev retireParts : List Part := [.errs, .parts, .queues, .slots, .graphs, .folios, .atc, .out, .msix, .fports]

/-- A queue that does not drain is not settled. -/
theorem State.settleQueue_of_not_draining {s : State} {q : Nat} (h : (s.queue q).state ≠ .draining) : s.settleQueue q = s := by
  rw [State.settleQueue]
  exact if_pos (by simp [h])

theorem SlotEnded_of {s t : State} {q n status cause : Nat} (h : s.SlotEnded q n status cause) (hs : t.slots = s.slots)
    (hq : (t.queue q).retiredSeq = (s.queue q).retiredSeq) : t.SlotEnded q n status cause := by
  rcases h with ⟨x, hx, hrest⟩ | ⟨hnone, hle⟩
  · exact .inl ⟨x, by rw [State.slot_of_slots hs]; exact hx, hrest⟩
  · exact .inr ⟨by rw [State.slot_of_slots hs]; exact hnone, by rw [hq]; exact hle⟩

/-- The retirements of a queue that does not drain, with the word that tells them. -/
theorem State.retireReady_does {s : State} {q : Nat} (h : (s.queue q).state ≠ .draining) :
    Touches retireParts s (s.retireReady q)
      ∧ ∀ n status cause, s.SlotEnded q n status cause → (s.retireReady q).SlotEnded q n status cause := by
  set a := State.retireLoop s.slots.length s q with ha
  set b := if (a.queue q).retiredSeq == (s.queue q).retiredSeq then a else a.writeWord q false with hb
  have hloop : Touches retireParts s a := (State.retireLoop_touches ..).mono (by decide)
  have hstate : (a.queue q).state = (s.queue q).state := State.retireLoop_state ..
  have hword := a.writeWord_written q false
  have hbstate : (b.queue q).state ≠ .draining := by
    rw [hb]
    split
    · rwa [hstate]
    · rw [hword.keeps Queue.state fun _ => rfl, hstate]
      exact h
  have hready : s.retireReady q = b := State.settleQueue_of_not_draining hbstate
  rw [hready]
  refine ⟨?_, fun n status cause hend => ?_⟩
  · rw [hb]
    exact .ite hloop ((State.writeWord_touches ..).after hloop)
  · have haend := State.retireLoop_ended s.slots.length hend
    rw [hb]
    split
    · exact haend
    · exact SlotEnded_of haend ((State.writeWord_touches ..).frame .slots (by decide)) (hword.keeps Queue.retiredSeq fun _ => rfl)

/-! ### The end of a slot (R159) -/

theorem setReqs_frame (s : State) (x : Tbl MemReq) : OnlyChanges [.reqs] s { s with reqs := x } := by
  intro p hp
  cases p with
  | reqs => exact absurd List.mem_cons_self hp
  | _ => rfl

theorem State.pushRecord_written (s : State) (q : Nat) (w : GuestWrite) :
    ((s.pushRecord q w).queue q).state = (s.queue q).state := by
  unfold State.pushRecord
  split_ifs
  · rfl
  · rw [State.queue_modQueue_same]
  · exact (State.pushWrite_written ..).keeps Queue.state fun _ => rfl

/-- A slot that finishes has ended, and of the state only the parts of its end change. -/
theorem State.finishSlot_does {s : State} {q n : Nat} {e : Slot} (he : s.slot? q n = some e) (hq : (s.queue q).state ≠ .draining)
    (status cause : Nat) (earliest : Nat := 0) :
    (s.finishSlot q n status cause earliest).SlotEnded q n status cause
      ∧ OnlyChanges finishParts s (s.finishSlot q n status cause earliest) := by
  obtain ⟨heq, hen⟩ := State.slot_key he
  set x : Slot := { e with status := status, cause := cause, state := .finished, adviceOut := false, fills := 0 } with hx
  set a := s.modSlot q n fun _ => x with ha
  set b : State := { a with reqs := a.reqs.filter fun y => y.2.who != ReqFor.spine q n } with hb
  set c := b.modPart e.partition fun p =>
    { p with adm := p.adm.finished x
             holds := p.holds.map fun (h : Hold) => if h.queue == q && h.seq == n then { h with releasing := true } else h } with hc
  set d := if x.wantsFinal then c.pushRecord q (.final (c.finalRecord x earliest)) else c with hd
  have hfinish : s.finishSlot q n status cause earliest = d.retireReady q := by
    rw [State.finishSlot, he]
  have hslot : a.slot? q n = some x := by
    have hmem := State.slot_mem he
    simp only [State.slot?, ha, State.modSlot, List.find?_map]
    have hcomp : ((fun e : Slot => e.queue == q && e.seq == n) ∘ fun e => if e.queue == q && e.seq == n then x else e)
        = fun e => e.queue == q && e.seq == n := by
      funext y
      simp only [Function.comp]
      split
      · next hy => rw [hy, hx, heq, hen]; simp
      · rfl
    rw [hcomp]
    have hfind : s.slots.find? (fun e => e.queue == q && e.seq == n) = some e := he
    rw [hfind, Option.map_some, heq, hen]
    simp
  have hcd : OnlyChanges [.queues, .slots, .parts, .reqs, .out, .msix, .fports] s c :=
    ((State.modSlot_touches ..).frame.mono (by decide)).trans (((setReqs_frame a _).mono (by decide)).trans
      ((modPart_frame _ _ _).mono (by decide)))
  have hframe : OnlyChanges [.queues, .slots, .parts, .reqs, .out, .msix, .fports] s d := by
    rw [hd]
    split
    · exact hcd.trans ((State.pushRecord_touches ..).frame.mono (by decide))
    · exact hcd
  have hdslots : d.slots = a.slots := by
    rw [hd]
    split
    · exact (State.pushRecord_touches ..).frame .slots (by decide)
    · rfl
  have hdstate : (d.queue q).state ≠ .draining := by
    have hcq : (c.queue q).state = (s.queue q).state := rfl
    rw [hd]
    split
    · rw [State.pushRecord_written, hcq]
      exact hq
    · rwa [hcq]
  obtain ⟨hready, hends⟩ := State.retireReady_does hdstate
  rw [hfinish]
  refine ⟨hends n status cause (.inl ⟨x, by rw [State.slot_of_slots hdslots]; exact hslot, rfl, rfl, rfl⟩), ?_⟩
  exact (hframe.mono (by decide)).trans (hready.frame.mono (by decide))

/-! ### The slots that finish at once -/

/-- A command of one slot, under its own condition. -/
theorem completes_onSlot {i : Instr} {s : State} {q n : Nat} {e : Slot} {t : State → Slot → Bool} {f : State → Slot → State → State}
    {P : State → Prop} (hl : s.live = true) (he : s.slot? q n = some e)
    (hi : exec i s = .next (s.whenLive fun s => s.onSlot q n (t s) (f s))) (ht : t s e = true) (hp : P (f s e s)) : Completes i s P := by
  refine completes_live hl hi ?_
  rw [State.onSlot, he]
  dsimp only
  rw [ht, State.when_true]
  exact hp

/-- A slot that finishes with S_OK. -/
theorem State.finishOk_does {s : State} {q n : Nat} {e x : Slot} (he : s.slot? q n = some e) (hq : (s.queue q).state ≠ .draining)
    (hxq : x.queue = q) (hxn : x.seq = n) :
    (s.finishOk x).SlotEnded q n Status.ok 0 ∧ OnlyChanges finishParts s (s.finishOk x) := by
  rw [State.finishOk, hxq, hxn]
  exact State.finishSlot_does he hq Status.ok 0

/-- A fence is open or not whatever the state of its own slot. -/
theorem State.fenceOpen_modSlot {s : State} {q n : Nat} {e : Slot} (h : (q, n) ∉ e.covers) :
    (s.modSlot q n fun x => { x with state := .running }).fenceOpen e = s.fenceOpen e := by
  simp only [State.fenceOpen, State.modSlot, List.any_map]
  congr 2
  funext x
  simp only [Function.comp]
  split
  · next hx =>
    simp only [Bool.and_eq_true, beq_iff_eq] at hx
    simp [hx.1, hx.2, h]
  · rfl

/-- A FENCE starts: it finishes at once when there is nothing to wait for, else it runs. -/
theorem State.startFence_does {i : Instr} {s : State} {q n scope : Nat} {e : Slot} (h : s.Working q n e)
    (hi : exec i s = .next (s.whenLive fun s => s.startFence q n scope)) (hop : e.opcode = Op.fence) (ha : e.admitted = true)
    (hst : e.state = .admitted) (hscope : le (args e.raw) 0 1 = scope) (hc : (q, n) ∉ e.covers) :
    Completes i s fun t =>
      if s.fenceOpen e = true then t.SlotEnded q n Status.ok 0 ∧ OnlyChanges finishParts s t
      else t = s.modSlot q n fun x => { x with state := .running } := by
  obtain ⟨hl, he, hq⟩ := h
  obtain ⟨heq, hen⟩ := State.slot_key he
  refine completes_live hl hi ?_
  rw [State.startFence, State.onSlot, he]
  dsimp only
  rw [show (e.opcode == Op.fence && e.admitted && e.state == .admitted && le (args e.raw) 0 1 == scope) = true by
    simp [hop, ha, hst, hscope], State.when_true, State.fenceOpen_modSlot hc]
  set a := s.modSlot q n fun x => { x with state := .running } with ha'
  have hslot : a.slot? q n = some { e with state := .running } := State.slot_modSlot_same he fun _ => ⟨rfl, rfl⟩
  split
  · next hopen =>
    rw [hopen, State.when_true]
    obtain ⟨hend, hframe⟩ := State.finishOk_does hslot (hq : (a.queue q).state ≠ .draining) heq hen
    exact ⟨hend, ((State.modSlot_touches ..).frame.mono (by decide)).trans hframe⟩
  · next hclosed =>
    rw [show s.fenceOpen e = false by simpa using hclosed]
    rfl

/-- Settles O20: each by the condition of its command, and what the end of a slot does. -/
theorem nopsFencesAndAcknowledgedAdviceFinish : Obligations.NopsFencesAndAcknowledgedAdviceFinish := by
  unfold Obligations.NopsFencesAndAcknowledgedAdviceFinish
  refine ⟨fun s q n e h hm => ?nop, fun s q n e h hop ha hst hs hc ho => ?queue, fun s q n e h hop ha hst hs hc ho => ?queueRuns,
    fun s q n e h hop ha hst hs hc ho => ?context, fun s q n e h hop ha hst hs hc ho => ?contextRuns,
    fun s q n e h hop hst ho => ?finish, fun s q n e h ha hst hf => ?ack, fun s q n e h ha hf => ?ackLeft⟩
  case nop =>
    obtain ⟨hl, he, hq⟩ := h
    obtain ⟨heq, hen⟩ := State.slot_key he
    refine completes_onSlot (f := fun _ e s => s.finishOk e) hl he rfl hm ?_
    exact State.finishOk_does he hq heq hen
  case queue => simpa only [ho, if_true] using State.startFence_does h rfl hop ha hst hs hc
  case queueRuns => simpa only [ho, Bool.false_eq_true, if_false] using State.startFence_does h rfl hop ha hst hs hc
  case context => simpa only [ho, if_true] using State.startFence_does h rfl hop ha hst hs hc
  case contextRuns => simpa only [ho, Bool.false_eq_true, if_false] using State.startFence_does h rfl hop ha hst hs hc
  case finish =>
    obtain ⟨hl, he, hq⟩ := h
    obtain ⟨heq, hen⟩ := State.slot_key he
    refine completes_onSlot (f := fun _ e s => s.finishOk e) hl he rfl (by simp [hop, hst, ho]) ?_
    exact State.finishOk_does he hq heq hen
  case ack =>
    obtain ⟨hl, he, hq⟩ := h
    obtain ⟨heq, hen⟩ := State.slot_key he
    refine completes_onSlot (t := fun _ e => e.adviceOut) hl he rfl ha ?_
    set a := s.modSlot q n fun x => { x with adviceOut := false } with ha'
    have hslot : a.slot? q n = some { e with adviceOut := false } := State.slot_modSlot_same he fun _ => ⟨rfl, rfl⟩
    have hsettle : a.settleAdvice q n = a.finishOk { e with adviceOut := false } := by
      rw [State.settleAdvice, State.onSlot, hslot]
      simp [hst, hf]
    rw [hsettle]
    obtain ⟨hend, hframe⟩ := State.finishOk_does (x := { e with adviceOut := false }) hslot (hq : (a.queue q).state ≠ .draining) heq hen
    exact ⟨hend, ((State.modSlot_touches ..).frame.mono (by decide)).trans hframe⟩
  case ackLeft =>
    obtain ⟨hl, he, hq⟩ := h
    refine completes_onSlot (t := fun _ e => e.adviceOut) hl he rfl ha ?_
    set a := s.modSlot q n fun x => { x with adviceOut := false } with ha'
    have hslot : a.slot? q n = some { e with adviceOut := false } := State.slot_modSlot_same he fun _ => ⟨rfl, rfl⟩
    rw [State.settleAdvice, State.onSlot, hslot]
    simp [hf, State.when]

end Sys2Proof.Machine
end

section
/-!
PROOFS (this file, a sitting of its own). ADVISE and PREFETCH (R96, R97): the message to the extent manager, and what acts on the
cluster caches.
-/
namespace Sys2Proof.Machine

open Sys2Proof

theorem State.sendAdvice_slot {s : State} {e x : Slot} (hx : s.slot? e.queue e.seq = some x) (kind whenCt : Nat) :
    (s.sendAdvice e kind whenCt).slot? e.queue e.seq = some { x with state := .running, adviceOut := true } :=
  (State.slot_modSlot_same hx fun _ => ⟨rfl, rfl⟩ :
    (s.modSlot e.queue e.seq fun x => { x with state := .running, adviceOut := true }).slot? e.queue e.seq = _)

/-- A slot with fills under way is not settled. -/
theorem State.settleAdvice_filling {s : State} {q n : Nat} {x : Slot} (hx : s.slot? q n = some x) (h : x.fills ≠ 0) :
    s.settleAdvice q n = s := by
  rw [State.settleAdvice, State.onSlot, hx]
  simp [h, State.when]

theorem State.sendAdvice_does {s : State} {q n : Nat} {e x : Slot} (hx : s.slot? q n = some x) (heq : e.queue = q) (hen : e.seq = n)
    (hraw : x.raw = e.raw) (kind whenCt : Nat) :
    (s.sendAdvice e kind whenCt).AdviceSent q n e kind whenCt ∧ OnlyChanges [.slots, .out] s (s.sendAdvice e kind whenCt) := by
  subst heq hen
  refine ⟨⟨rfl, { x with state := .running, adviceOut := true },
    State.sendAdvice_slot hx kind whenCt, rfl, rfl, hraw⟩, ?_⟩
  exact ((State.modSlot_touches ..).frame.mono (by decide)).trans ((emit_frame _ _).mono (by decide))

theorem flushLine_lines (s : State) (l : Line) : (s.flushLine l).lines = s.lines :=
  (State.flushLine_touches ..).frame .lines (by decide)

/-- The lines that dropping them leaves, flushed or not. -/
theorem State.dropLines_lines (s : State) (flush : Bool) (t : Line → Bool) :
    (s.dropLines flush t).lines = s.lines.filter fun l => !t l := by
  have hfold : ∀ (ls : List Line) (s : State), (ls.foldl State.flushLine s).lines = s.lines := by
    intro ls
    induction ls with
    | nil => exact fun _ => rfl
    | cons l ls ih => exact fun s => (ih _).trans (flushLine_lines s l)
  cases flush with
  | false => rfl
  | true => exact congrArg (List.filter fun l => !t l) (hfold (s.lines.filter t) s)

theorem setLines_frame (s : State) (x : List Line) : OnlyChanges [.lines] s { s with lines := x } := by
  intro p hp
  cases p with
  | lines => exact absurd List.mem_cons_self hp
  | _ => rfl

theorem placedLines_one (n : Nat) : placedLines [(64 * n, 64)] 0 = [(0, n)] := by
  have hlast : (64 * n + 63) / 64 - n + 1 = 1 := by omega
  simp [placedLines, linesOf, hlast]

/-- The fills of a range of one line whose PREFETCH names one cluster. -/
theorem State.fillRange_one {s : State} {e : Slot} {n c : Nat} (hr : s.rangeOf e = some [(64 * n, 64)]) (hc : s.prefetchClusters e = [c]) :
    s.fillRange e = (s.modSlot e.queue e.seq fun x => { x with state := .running }).fillLine e
      (le (args e.raw) 29 1 == 1 || flagKeep e.flags) c n := by
  have hr' : (s.modSlot e.queue e.seq fun x => { x with state := .running }).rangeOf e = some [(64 * n, 64)] := hr
  rw [State.fillRange, hr', hc, Option.getD_some, placedLines_one]
  simp

/-- The fill of a line that the partition does not hold. -/
theorem State.fillLine_absent {s : State} {q n line : Nat} {e x : Slot} (hx : s.slot? q n = some x) (heq : e.queue = q)
    (hen : e.seq = n) (hst : x.state = .running) (hline : s.line? e.partition line = none) (keep : Bool) (c : Nat) :
    s.FillAsked (s.fillLine e keep c line) q n line (x.fills + 1)
      ∧ OnlyChanges [.slots, .reqs, .reqNo, .free, .parts, .out] s (s.fillLine e keep c line)
      ∧ (s.fillLine e keep c line).slot? q n = some { x with fills := x.fills + 1 } := by
  subst heq hen
  rw [State.fillLine, hline, Option.isSome_none, if_neg Bool.false_ne_true]
  dsimp only
  set r : MemReq := { who := .fill e.queue e.seq, partition := e.partition, cluster := c, address := 64 * line,
                      context := e.context, bytes := 64, keep := keep, place := .missQueue } with hrdef
  set a := s.modSlot e.queue e.seq fun x => { x with fills := x.fills + 1 } with ha
  have hslot : a.slot? e.queue e.seq = some { x with fills := x.fills + 1 } := State.slot_modSlot_same hx fun _ => ⟨rfl, rfl⟩
  have hissue := State.issuePool_touches (a.addReq r) a.reqNo r
  have hslot' : ((a.addReq r).issuePool a.reqNo r).slot? e.queue e.seq = some { x with fills := x.fills + 1 } :=
    (State.slot_of_slots (hissue.frame .slots (by decide)) _ _).trans hslot
  obtain ⟨⟨pl, nr, hget⟩, -⟩ := State.issuePool_reqs (a.addReq r) a.reqNo r
  refine ⟨⟨⟨_, hget, rfl, rfl, rfl, rfl⟩, _, hslot', hst, rfl⟩, ?_, hslot'⟩
  exact ((State.modSlot_touches ..).frame.mono (by decide)).trans
    (((State.addReq_touches ..).frame.mono (by decide)).trans (hissue.frame.mono (by decide)))

/-- Settles O21: the message of R450, and the lines that R96 and R97 speak of. -/
theorem adviceGoesOutOrActsOnTheCaches : Obligations.AdviceGoesOutOrActsOnTheCaches := by
  unfold Obligations.AdviceGoesOutOrActsOnTheCaches
  refine ⟨fun s q n e h hm hv => ?normal, fun s q n e h hm hv => ?hot, fun s q n e h hm hv => ?cold, fun s q n e h hm hv => ?willNeed,
    fun s q n e h hm hv => ?near, fun s q n e h hm hv => ?dontNeed, fun s q n e h hm hv => ?release,
    fun s q n e line c h hm hv hr hc hl => ?fill, fun s q n e line c h hm hv hr hc hl hk hf h0 hout => ?held,
    fun s q n e line c h hm hv hr hc hl => ?both⟩
  all_goals
    obtain ⟨hlive, he, hq⟩ := h
    obtain ⟨heq, hen⟩ := State.slot_key he
  case normal =>
    refine completes_onSlot (f := fun s e t => t.sendAdvice e 0 (if 0 == 3 then t.inScale (le (args e.raw) 32 8) else 0))
      hlive he rfl (by simp [hm, hv]) ?_
    exact State.sendAdvice_does he heq hen rfl 0 0
  case hot =>
    refine completes_onSlot (f := fun s e t => t.sendAdvice e 1 (if 1 == 3 then t.inScale (le (args e.raw) 32 8) else 0))
      hlive he rfl (by simp [hm, hv]) ?_
    exact State.sendAdvice_does he heq hen rfl 1 0
  case cold =>
    refine completes_onSlot (f := fun s e t => t.sendAdvice e 2 (if 2 == 3 then t.inScale (le (args e.raw) 32 8) else 0))
      hlive he rfl (by simp [hm, hv]) ?_
    exact State.sendAdvice_does he heq hen rfl 2 0
  case willNeed =>
    refine completes_onSlot (f := fun s e t => t.sendAdvice e 3 (if 3 == 3 then t.inScale (le (args e.raw) 32 8) else 0))
      hlive he rfl (by simp [hm, hv]) ?_
    exact State.sendAdvice_does he heq hen rfl 3 _
  case near =>
    refine completes_onSlot (f := fun s e t => t.sendAdvice e 0x10 0) hlive he rfl (by simp [hm, hv]) ?_
    exact State.sendAdvice_does he heq hen rfl 0x10 0
  case dontNeed =>
    refine completes_onSlot (f := fun s e t => (t.dropLines true fun l => l.partition == e.partition
      && inSegments ((t.rangeOf e).getD []) l.line).finishOk e) hlive he rfl (by simp [hm, hv]) ?_
    set a := s.dropLines true fun l => l.partition == e.partition && inSegments ((s.rangeOf e).getD []) l.line with ha
    have hdrop := State.dropLines_touches s true fun l => l.partition == e.partition && inSegments ((s.rangeOf e).getD []) l.line
    have hslot : a.slot? q n = some e := (State.slot_of_slots (hdrop.frame .slots (by decide)) _ _).trans he
    have hqa : (a.queue q).state ≠ .draining := by
      rw [State.queue_of_queues (hdrop.frame .queues (by decide))]
      exact hq
    obtain ⟨hend, hframe⟩ := State.finishOk_does hslot hqa heq hen
    exact ⟨hend, Eq.trans (hframe .lines (by decide)) (State.dropLines_lines ..)⟩
  case release =>
    refine completes_onSlot (f := fun s e t => ({ t with
        lines := t.lines.map fun (l : Line) =>
          if l.partition == e.partition && inSegments ((t.rangeOf e).getD []) l.line then { l with keep := false } else l }
          : State).finishOk e)
      hlive he rfl (by simp [hm, hv]) ?_
    set a : State := { s with
      lines := s.lines.map fun (l : Line) =>
        if l.partition == e.partition && inSegments ((s.rangeOf e).getD []) l.line then { l with keep := false } else l } with ha
    obtain ⟨hend, hframe⟩ := State.finishOk_does (s := a) he hq heq hen
    refine ⟨hend, ((setLines_frame s _).mono (by decide)).trans (hframe.mono (by decide)), ?_⟩
    refine Eq.trans (hframe .lines (by decide)) (List.map_congr_left fun l _ => ?_)
    simp only [Bool.and_eq_true, beq_iff_eq]
  case fill =>
    refine completes_onSlot (f := fun _ e t => (t.fillRange e).settleAdvice q n) hlive he rfl (by simp [hm, hv]) ?_
    rw [State.fillRange_one hr hc, heq, hen]
    set a := s.modSlot q n fun x => { x with state := .running } with ha
    have hslot : a.slot? q n = some { e with state := .running } := State.slot_modSlot_same he fun _ => ⟨rfl, rfl⟩
    obtain ⟨hask, hframe, hafter⟩ := State.fillLine_absent (s := a) hslot heq hen rfl hl (le (args e.raw) 29 1 == 1 || flagKeep e.flags) c
    rw [State.settleAdvice_filling hafter (Nat.succ_ne_zero _)]
    exact ⟨hask, ((State.modSlot_touches ..).frame.mono (by decide)).trans hframe⟩
  case held =>
    refine completes_onSlot (f := fun _ e t => (t.fillRange e).settleAdvice q n) hlive he rfl (by simp [hm, hv]) ?_
    rw [State.fillRange_one hr hc, heq, hen]
    set a := s.modSlot q n fun x => { x with state := .running } with ha
    have hslot : a.slot? q n = some { e with state := .running } := State.slot_modSlot_same he fun _ => ⟨rfl, rfl⟩
    have hfill : a.fillLine e (le (args e.raw) 29 1 == 1 || flagKeep e.flags) c line = a := by
      have hline : (a.line? e.partition line).isSome = true := hl
      rw [State.fillLine, if_pos hline, hk, hf]
      rfl
    have hsettle : a.settleAdvice q n = a.finishOk { e with state := .running } := by
      rw [State.settleAdvice, State.onSlot, hslot]
      simp [h0, hout, State.when]
    rw [hfill, hsettle]
    obtain ⟨hend, hframe⟩ := State.finishOk_does (x := { e with state := .running }) hslot hq heq hen
    exact ⟨hend, ((State.modSlot_touches ..).frame.mono (by decide)).trans hframe⟩
  case both =>
    refine completes_onSlot (f := fun _ e t => (t.fillRange e).sendAdvice e 0x10 0) hlive he rfl (by simp [hm, hv]) ?_
    rw [State.fillRange_one hr hc, heq, hen]
    set a := s.modSlot q n fun x => { x with state := .running } with ha
    have hslot : a.slot? q n = some { e with state := .running } := State.slot_modSlot_same he fun _ => ⟨rfl, rfl⟩
    obtain ⟨⟨⟨r, hget, hreq⟩, -⟩, hframe, hafter⟩ :=
      State.fillLine_absent (s := a) hslot heq hen rfl hl (le (args e.raw) 29 1 == 1 || flagKeep e.flags) c
    obtain ⟨hsent, hsend⟩ := State.sendAdvice_does (e := e) hafter heq hen rfl 0x10 0
    refine ⟨⟨⟨r, Eq.trans (congrArg (fun x => x.get? s.reqNo) (hsend .reqs (by decide))) hget, hreq⟩, ?_⟩, hsent, ?_⟩
    · subst heq hen
      exact ⟨_, State.sendAdvice_slot hafter 0x10 0, rfl, rfl⟩
    · exact ((State.modSlot_touches ..).frame.mono (by decide)).trans (hframe.trans (hsend.mono (by decide)))

end Sys2Proof.Machine
end

section
/-!
PROOFS (this file, a sitting of its own). Launches and chains (R104, R152, R153), and the sequence table (R227, R228).
-/
namespace Sys2Proof.Machine

open Sys2Proof

/-- A slot that is refused has ended with the status and cause of the refusal. -/
theorem State.refuseSlot_does {s : State} {q n : Nat} {e : Slot} (he : s.slot? q n = some e) (hq : (s.queue q).state ≠ .draining)
    (status cause : Nat) (earliest : Nat := 0) :
    (s.refuseSlot q n status cause earliest).SlotEnded q n status cause
      ∧ OnlyChanges finishParts s (s.refuseSlot q n status cause earliest) := by
  set a := s.modQueue q fun u => { u with admittedSeq := max u.admittedSeq n } with ha
  have hqa : (a.queue q).state ≠ .draining := by
    rw [ha, State.queue_modQueue_same]
    exact hq
  obtain ⟨hend, hframe⟩ := State.finishSlot_does (s := a) he hqa status cause earliest
  exact ⟨hend, ((State.modQueue_touches _ _ _).frame.mono (by decide)).trans hframe⟩

theorem State.refuseArgs_does {s : State} {q n : Nat} {e : Slot} (he : s.slot? q n = some e) (hq : (s.queue q).state ≠ .draining) :
    (s.refuseArgs e).SlotEnded q n Status.badSlot 7 ∧ OnlyChanges finishParts s (s.refuseArgs e) := by
  obtain ⟨rfl, rfl⟩ := State.slot_key he
  exact State.refuseSlot_does he hq Status.badSlot 7

/-- The slot that its admission leaves (R30). -/
theorem State.admitSlot_slot {s : State} {q n : Nat} {e : Slot} (he : s.slot? q n = some e) :
    (s.admitSlot q n).slot? q n
      = some { e with order := s.admitted + 1, entry := s.freeEntry, admitCt := s.time.ct, state := .admitted } :=
  State.slot_modSlot_same (s := { s with admitted := s.admitted + 1 }) (f := fun e =>
    { e with order := s.admitted + 1, entry := s.freeEntry, admitCt := s.time.ct, state := .admitted }) he fun _ => ⟨rfl, rfl⟩

theorem State.admitSlot_queue (s : State) (q n : Nat) :
    (s.admitSlot q n).queue q = { s.queue q with admittedSeq := max (s.queue q).admittedSeq n } := by
  rw [State.admitSlot]
  dsimp only
  rw [State.queue_modQueue_same]
  rfl

theorem State.admitSlot_state (s : State) (q n : Nat) : ((s.admitSlot q n).queue q).state = (s.queue q).state := by
  rw [State.admitSlot_queue]

theorem State.endRead_slot {s : State} {e x : Slot} (hx : s.slot? e.queue e.seq = some x) :
    (s.endRead e).slot? e.queue e.seq = some { x with unreadable := false } :=
  State.slot_modSlot_same (s := { s with reqs := s.reqs.filter fun x => x.2.who != ReqFor.spine e.queue e.seq })
    (f := fun x => { x with unreadable := false }) hx fun _ => ⟨rfl, rfl⟩

/-- A slot that is admitted and finishes at once. -/
theorem State.admitFinish_does {s : State} {q n : Nat} {e : Slot} (he : s.slot? q n = some e) (hq : (s.queue q).state ≠ .draining)
    {x : Slot} (hxq : x.queue = q) (hxn : x.seq = n) :
    ((s.admitSlot q n).finishOk x).SlotEnded q n Status.ok 0
      ∧ OnlyChanges (.admitted :: finishParts) s ((s.admitSlot q n).finishOk x) := by
  obtain ⟨hend, hframe⟩ := State.finishOk_does (x := x) (State.admitSlot_slot he) (by rwa [State.admitSlot_state]) hxq hxn
  exact ⟨hend, ((State.admitSlot_touches ..).frame.mono (by decide)).trans (hframe.mono (by decide))⟩

/-! ### Launches and chains -/

theorem State.startLaunch_does {s : State} {q n : Nat} {e : Slot} (he : s.slot? q n = some e) :
    OnlyChanges [.slots] s (s.startLaunch e) ∧ ∃ x, (s.startLaunch e).slot? q n = some x ∧ x.state = .running
      ∧ x.phaseStates = e.phasesFor e.variant ∧ x.raw = e.raw := by
  obtain ⟨rfl, rfl⟩ := State.slot_key he
  exact ⟨(State.modSlot_touches ..).frame, _, State.slot_modSlot_same he fun _ => ⟨rfl, rfl⟩, rfl, rfl, rfl⟩

/-- What a slot's end says of it survives an operation that keeps the slots but for their waits. -/
theorem SlotEnded_of_kept {s t : State} {q n status cause : Nat} (h : s.SlotEnded q n status cause) (hs : SlotsKept s t)
    (hq : t.queues = s.queues) : t.SlotEnded q n status cause := by
  rcases h with ⟨x, hx, hst, hstatus, hcause⟩ | ⟨hnone, hle⟩
  · obtain ⟨y, hy, hyx⟩ := hs.found hx
    exact .inl ⟨y, hy, (congrArg Slot.state hyx).trans hst, (congrArg Slot.status hyx).trans hstatus,
      (congrArg Slot.cause hyx).trans hcause⟩
  · refine .inr ⟨?_, by rw [State.queue_of_queues hq]; exact hle⟩
    have := hs q n
    rw [hnone] at this
    simpa using this

/-- Settles O22: the phases of the slot's variant, the chain table of its context, and the end of the slot. -/
theorem launchesAndChainsStartAndFinish : Obligations.LaunchesAndChainsStartAndFinish := by
  unfold Obligations.LaunchesAndChainsStartAndFinish
  refine ⟨fun s q n e hl he hm => ?launch, fun s q n e hl he hm hi => ?run, fun s q n e b c h ha hr hd hb hs hc => ?store,
    fun s q n e b h ha hr hd hb hs => ?refused, fun s q n e h hi hst hcores hw hstag hqual => ?finish⟩
  case launch => exact completes_onSlot (f := fun _ e s => s.startLaunch e) hl he rfl hm (State.startLaunch_does he)
  case run =>
    exact completes_onSlot (f := fun _ e s => s.startLaunch e) hl he rfl (by simp [hm, hi]) (State.startLaunch_does he)
  case store =>
    obtain ⟨hl, he, hq⟩ := h
    obtain ⟨heq, hen⟩ := State.slot_key he
    refine completes_onSlot hl he rfl (by simp [ha, hr, hd]) ?_
    dsimp only
    rw [hb]
    dsimp only
    rw [if_pos hs]
    set k := ctxKey e.partition e.context with hk
    set a := s.modCtx k fun c => { c with chain := c.chain.put (le (args e.raw) 2 2) b } with ha'
    have hactxs : a.ctxs = s.ctxs.put k { c with chain := c.chain.put (le (args e.raw) 2 2) b } := by
      rw [ha', State.modCtx, show s.ctxs.get? k = some c from hc]
    have haslot : a.slot? q n = some e := (State.slot_of_slots ((State.modCtx_touches ..).frame .slots (by decide)) _ _).trans he
    set d := a.endRead e with hd'
    have hdslot : d.slot? q n = some { e with unreadable := false } := by
      rw [← heq, ← hen] at haslot ⊢
      exact State.endRead_slot haslot
    have hdq : (d.queue q).state ≠ .draining := by
      rw [State.queue_of_queues ((State.endRead_touches ..).frame .queues (by decide)),
        State.queue_of_queues ((State.modCtx_touches ..).frame .queues (by decide))]
      exact hq
    obtain ⟨hend, hframe⟩ := State.admitFinish_does hdslot hdq heq hen
    have hctxs := Eq.trans (hframe .ctxs (by decide)) ((State.endRead_touches a e).frame .ctxs (by decide))
    refine ⟨hend, ((State.modCtx_touches ..).frame.mono (by decide)).trans
      (((State.endRead_touches ..).frame.mono (by decide)).trans (hframe.mono (by decide))), ?_, fun j hj => ?_⟩
    · rw [State.ctx?, hctxs, hactxs, tbl_get_put_same]
    · rw [State.ctx?, hctxs, hactxs, tbl_get_put_ne _ _ hj]
      rfl
  case refused =>
    obtain ⟨hl, he, hq⟩ := h
    refine completes_onSlot hl he rfl (by simp [ha, hr, hd]) ?_
    dsimp only
    rw [hb]
    dsimp only
    rw [if_neg (by simp [hs])]
    exact State.refuseArgs_does he hq
  case finish =>
    obtain ⟨hl, he, hq⟩ := h
    refine completes_onSlot hl he rfl (by simp [hi, hst, hcores, hw]) ?_
    dsimp only
    rw [if_neg (by simp [hqual])]
    have hpub : s.publishOutputs e = (s, e.status, e.cause) := by rw [State.publishOutputs, hstag]; rfl
    rw [hpub]
    dsimp only
    obtain ⟨hend, hframe⟩ := State.finishSlot_does he hq e.status e.cause
    have htrack := State.track_touches (s.finishSlot q n e.status e.cause)
    exact ⟨SlotEnded_of_kept hend (State.track_slots _) (htrack.frame .queues (by decide)),
      (hframe.mono (by decide)).trans (htrack.frame.mono (by decide))⟩

/-! ### The sequence table -/

theorem setSeqs_frame (s : State) (x : Tbl SeqEntry) : OnlyChanges [.seqs] s { s with seqs := x } := by
  intro p hp
  cases p with
  | seqs => exact absurd List.mem_cons_self hp
  | _ => rfl

/-- An entry is among those that a slot names exactly when the slot names it. -/
theorem State.named_contains {s : State} {e : Slot} {i : Nat} {x : SeqEntry} (hs : Tbl.Sorted s.seqs) (hx : s.seqs.get? i = some x)
    (t : SeqEntry → Bool) :
    (((s.seqsOf e.partition e.context).filter fun y => t y.2).map (·.1)).contains i = e.names x (t x) := by
  rw [Bool.eq_iff_iff]
  simp only [State.seqsOf, List.contains_iff_mem, List.mem_map, List.mem_filter, Bool.and_eq_true, Slot.names, Prod.exists,
    exists_and_right, exists_eq_right, beq_iff_eq]
  constructor
  · rintro ⟨y, ⟨hmem, hkey⟩, ht⟩
    obtain rfl : y = x := Option.some.inj ((tbl_get_of_mem hs hmem).symm.trans hx)
    exact ⟨hkey, ht⟩
  · rintro ⟨hkey, ht⟩
    exact ⟨x, ⟨tbl_mem_get hx, hkey⟩, ht⟩

/-- SEQ_RETIRE makes RETIRING the entries that it names, and no other. -/
theorem State.seqRetire_does {i : Instr} {s : State} {q n mode j : Nat} {e : Slot} {x : SeqEntry} {t : Bytes → SeqEntry → Bool}
    (h : s.Working q n e) (hi : exec i s = .next (s.whenLive fun s => s.seqRetire q n mode t)) (ha : e.awaits Op.seqRetire = true)
    (hmode : le (args e.raw) 8 1 = mode) (hs : Tbl.Sorted s.seqs) (hx : s.seqs.get? j = some x) :
    Completes i s fun t' => OnlyChanges (.seqs :: .admitted :: finishParts) s t'
      ∧ t'.seqs.get? j = some (if e.names x (t (args e.raw) x) then { x with state := 3 } else x) := by
  obtain ⟨hl, he, hq⟩ := h
  obtain ⟨heq, hen⟩ := State.slot_key he
  refine completes_onSlot (t := fun _ e => e.awaits Op.seqRetire && le (args e.raw) 8 1 == mode) hl he hi (by simp [ha, hmode]) ?_
  dsimp only
  set named := ((s.seqsOf e.partition e.context).filter fun x => t (args e.raw) x.2).map (·.1) with hnamed
  set a : State := { s with seqs := s.seqs.mapV fun i x => if named.contains i then { x with state := 3 } else x } with ha'
  set b := (a.admitSlot q n).modSlot q n fun x => { x with named := named, state := .running } with hb
  have hab : OnlyChanges (.seqs :: .admitted :: finishParts) s b := ((setSeqs_frame _ _).mono (by decide)).trans
    (((State.admitSlot_touches ..).frame.mono (by decide)).trans ((State.modSlot_touches ..).frame.mono (by decide)))
  have hbseqs : b.seqs = a.seqs := Eq.trans ((State.modSlot_touches ..).frame .seqs (by decide))
    ((State.admitSlot_touches a q n).frame .seqs (by decide))
  have hget : a.seqs.get? j = some (if e.names x (t (args e.raw) x) then { x with state := 3 } else x) := by
    rw [ha']
    dsimp only
    rw [tbl_get_mapV, hx, Option.map_some, State.named_contains hs hx]
  cases hempty : named.isEmpty with
  | false => exact ⟨hab, by rw [State.when_false, hbseqs, hget]⟩
  | true =>
    rw [State.when_true]
    have hbq : (b.queue q).state ≠ .draining := by
      rw [State.queue_of_queues ((State.modSlot_touches ..).frame .queues (by decide)), State.admitSlot_state]
      exact hq
    obtain ⟨-, hframe⟩ := State.finishOk_does (s := b) (x := e)
      (State.slot_modSlot_same (f := fun x => { x with named := named, state := .running }) (State.admitSlot_slot (s := a) he) fun _ => ⟨rfl, rfl⟩) hbq heq hen
    exact ⟨hab.trans (hframe.mono (by decide)), by rw [hframe .seqs (by decide), hbseqs, hget]⟩

/-- Settles O23: the first free entry is filled, the entries named are RETIRING, and an entry that is not held is freed. -/
theorem sequenceTableEntriesComeAndGo : Obligations.SequenceTableEntriesComeAndGo := by
  unfold Obligations.SequenceTableEntriesComeAndGo
  refine ⟨fun s q n e i h ha hk hkv hquota hi => ?filled, fun s q n e h ha hk => ?dup, fun s q n e h ha hk hkv hquota => ?quota,
    fun s q n e i x h ha hm hs hx => ?one, fun s q n e i x h ha hm hs hx => ?group, fun s q n e i x h ha hm hs hx => ?context,
    fun s i x hl hs hx hst hheld => ?freed⟩
  case filled =>
    obtain ⟨hl, he, hq⟩ := h
    obtain ⟨heq, hen⟩ := State.slot_key he
    refine completes_onSlot hl he rfl ha ?_
    dsimp only
    rw [hk, hkv, if_neg (by simp), if_neg (by omega), hi]
    dsimp only
    obtain ⟨hend, hframe⟩ := State.admitFinish_does (s := { s with seqs := s.seqs.put i (seqEntryOf e) }) he hq heq hen
    refine ⟨hend, ((setSeqs_frame _ _).mono (by decide)).trans (hframe.mono (by decide)), ?_, fun k hk => ?_⟩
    · rw [hframe .seqs (by decide), tbl_get_put_same]
    · rw [hframe .seqs (by decide), tbl_get_put_ne _ _ hk]
  case dup =>
    obtain ⟨hl, he, hq⟩ := h
    refine completes_onSlot hl he rfl ha ?_
    dsimp only
    rw [hk, if_pos (by simp)]
    exact State.refuseArgs_does he hq
  case quota =>
    obtain ⟨hl, he, hq⟩ := h
    refine completes_onSlot hl he rfl ha ?_
    dsimp only
    rw [hk, hkv, if_neg (by simp), if_pos hquota]
    exact State.refuseSlot_does he hq Status.quota 0
  case one => exact State.seqRetire_does (t := fun a x => x.key == le a 0 8) h rfl ha hm hs hx
  case group => exact State.seqRetire_does (t := fun a x => x.group == le a 10 2) h rfl ha hm hs hx
  case context => exact State.seqRetire_does (t := fun _ _ => true) h rfl ha hm hs hx
  case freed =>
    refine completes_when (b := fun s => (s.seqs.get? i).any (fun x => x.state == 3) && !s.seqHeld i) hl rfl
      (by simp [hx, hst, hheld]) ?_
    set a : State := { s with
      seqs := s.seqs.del i
      slots := s.slots.map fun e => { e with named := e.named.filter (· != i) } } with ha
    have hfold : ∀ (l : List Slot), (l.foldl (fun s e =>
        s.onSlot e.queue e.seq (fun x => x.state == .running && x.named.isEmpty) fun x s => s.finishOk x) a).seqs = a.seqs :=
      fun l => (Touches.foldl (ps := slotParts) (.refl _ a) fun _ _ =>
        State.onSlot_touches (.refl ..) fun _ _ => State.finishOk_touches ..).frame .seqs (by decide)
    refine ⟨?_, fun k hk => ?_⟩
    · exact (congrArg (fun t => Tbl.get? t i) (hfold _)).trans (tbl_get_del_same i hs)
    · exact (congrArg (fun t => Tbl.get? t k) (hfold _)).trans (tbl_get_del_ne _ hk)

end Sys2Proof.Machine
end

section
/-!
PROOFS (this file, a sitting of its own). Slots that arrive, and the reads of their checks (R30, R110, R147, R155, R156).
-/
namespace Sys2Proof.Machine

open Sys2Proof SlotField

theorem setSlots_frame (s : State) (x : List Slot) : OnlyChanges [.slots] s { s with slots := x } := by
  intro p hp
  cases p with
  | slots => exact absurd List.mem_cons_self hp
  | _ => rfl

/-! ### A slot at the end of the table -/

theorem State.slot_append_none {s : State} {e : Slot} (h : s.slot? e.queue e.seq = none) :
    ({ s with slots := s.slots ++ [e] } : State).slot? e.queue e.seq = some e := by
  have hnone : s.slots.find? (fun x => x.queue == e.queue && x.seq == e.seq) = none := h
  simp only [State.slot?, List.find?_append, hnone, Option.none_or, List.find?_cons, beq_self_eq_true, Bool.and_self]

theorem State.slot_append_some (s : State) (e : Slot) :
    ∃ x, ({ s with slots := s.slots ++ [e] } : State).slot? e.queue e.seq = some x := by
  rw [← Option.isSome_iff_exists, State.slot?, List.find?_isSome]
  exact ⟨e, by simp, by simp⟩

/-- A slot that is put into the table and refused at once has ended. -/
theorem State.refuseNew_does {s : State} {e : Slot} (hq : (s.queue e.queue).state ≠ .draining) (status cause : Nat) :
    (({ s with slots := s.slots ++ [e] } : State).refuseSlot e.queue e.seq status cause).SlotEnded e.queue e.seq status cause
      ∧ OnlyChanges finishParts s (({ s with slots := s.slots ++ [e] } : State).refuseSlot e.queue e.seq status cause) := by
  obtain ⟨x, hx⟩ := s.slot_append_some e
  obtain ⟨hend, hframe⟩ := State.refuseSlot_does hx hq status cause
  exact ⟨hend, ((setSlots_frame _ _).mono (by decide)).trans hframe⟩

/-! ### Arrival -/

/-- The slot that an image makes in its queue. -/
theorem Queue.arrived_key (u : Queue) (q : Nat) (b : Bytes) : (u.arrived q b).queue = q ∧ (u.arrived q b).seq = u.nextSeq :=
  ⟨rfl, rfl⟩

/-- The image of a slot that arrives, in the format of its queue. -/
def Queue.image (u : Queue) (b : Bytes) : Bytes := if u.attrs.format == 1 then scopeAsQueue (slotOf13 b) else b

/-- A slot that arrives at a queue that is stopped or guilty is refused with that cause, whatever it holds. -/
theorem State.checkArrival_stopped {s : State} {q : Nat} {b : Bytes} (h : (s.queue q).state = .stopped) :
    s.checkArrival q b = ({ s with slots := s.slots ++ [(s.queue q).arrived q ((s.queue q).image b)] } : State).refuseSlot q
      (s.queue q).nextSeq Status.queueStopped 1 := by
  rw [State.checkArrival, h]
  rfl

theorem State.checkArrival_guilty {s : State} {q : Nat} {b : Bytes} (h : (s.queue q).state = .guilty) :
    s.checkArrival q b = ({ s with slots := s.slots ++ [(s.queue q).arrived q ((s.queue q).image b)] } : State).refuseSlot q
      (s.queue q).nextSeq Status.queueStopped 2 := by
  rw [State.checkArrival, h]
  rfl

/-- In a queue that is active the checks of R147 on the fields decide. -/
theorem State.checkArrival_active {s : State} {q : Nat} {b : Bytes} (h : (s.queue q).state = .active)
    (hf : (s.queue q).attrs.format = 0) :
    s.checkArrival q b =
      let a : State := { s with slots := s.slots ++ [(s.queue q).arrived q b] }
      match slotFieldCause false (s.queue q).attrs.promiseOk b with
      | some c => a.refuseSlot q (s.queue q).nextSeq Status.badSlot c
      | none => if a.argsOk ((s.queue q).arrived q b) then a.checkOpcode ((s.queue q).arrived q b)
        else a.refuseArgs ((s.queue q).arrived q b) := by
  have hzero : ((0 : Nat) == 1) = false := rfl
  rw [State.checkArrival]
  dsimp only
  rw [h, hf, if_neg (by decide), if_neg (by decide), hzero, if_neg Bool.false_ne_true, if_neg Bool.false_ne_true]
  rw [show (none : Option Nat).orElse (fun _ => slotFieldCause false (s.queue q).attrs.promiseOk b)
    = slotFieldCause false (s.queue q).attrs.promiseOk b from rfl]
  cases slotFieldCause false (s.queue q).attrs.promiseOk b <;> rfl

/-- What a refusal says of a slot does not turn on the number of the next fetch. -/
theorem State.SlotEnded.next {s : State} {q n status cause : Nat} (h : s.SlotEnded q n status cause) (k : Nat) :
    (s.modQueue q fun u => { u with nextSeq := k }).SlotEnded q n status cause :=
  SlotEnded_of h rfl (by rw [State.queue_modQueue_same])

/-- An arrival whose slot is refused. -/
theorem State.arrival_refused {s : State} {q : Nat} {b : Bytes} {e : Slot} {status cause : Nat} (hl : s.live = true)
    (hf : (s.queue q).fetching = true) (hq : (s.queue q).state ≠ .draining) (heq : e.queue = q) (hen : e.seq = (s.queue q).nextSeq)
    (h : ∀ a : State, a = s.modQueue q (fun u => { u with fetching := false }) →
      a.checkArrival q b = ({ a with slots := a.slots ++ [e] } : State).refuseSlot q (s.queue q).nextSeq status cause) :
    Completes (.slotArrival q (.data b)) s fun t =>
      t.SlotEnded q (s.queue q).nextSeq status cause ∧ OnlyChanges finishParts s t
        ∧ (t.queue q).nextSeq = (s.queue q).nextSeq + 1 := by
  refine completes_when (b := fun s => (s.queue q).fetching) hl rfl hf ?_
  dsimp only
  set a := s.modQueue q fun u => { u with fetching := false } with ha
  rw [h a rfl]
  have haq : (a.queue e.queue).state ≠ .draining := by
    rw [heq, ha, State.queue_modQueue_same]
    exact hq
  obtain ⟨hend, hframe⟩ := State.refuseNew_does haq status cause
  rw [heq, hen] at hend hframe
  refine ⟨hend.next _, ?_, by rw [State.queue_modQueue_same]⟩
  exact ((State.modQueue_touches ..).frame.mono (by decide)).trans
    (hframe.trans ((State.modQueue_touches ..).frame.mono (by decide)))

theorem Completes.ended_framed {i : Instr} {s : State} {P Q R : State → Prop} (h : Completes i s fun t => P t ∧ Q t ∧ R t) :
    Completes i s fun t => P t ∧ Q t := by
  obtain ⟨t, ht, hp, hq, -⟩ := h
  exact ⟨t, ht, hp, hq⟩

/-- A NOP that arrives in order is admitted. -/
theorem State.checkOpcode_nop {s : State} {e : Slot} (h : e.opcode = Op.nop) (hraw : fOpcode e.raw = Op.nop) :
    s.argsOk e = true ∧ s.checkOpcode e = (s.modSlot e.queue e.seq fun x => { x with
      covers := s.coversOf e, usesExtents := [] }).admitSlot e.queue e.seq := by
  have hrun : isRun e.raw = false := by simp [isRun, hraw, Op.nop, Op.chain]
  constructor
  · simp [State.argsOk, h, Op.nop, Op.chain, Op.advise, Op.prefetch, Op.fence, Op.seqAdmit, Op.seqRetire, Op.folioOpen, Op.folioClose,
      Op.folioPublish]
  · simp [State.checkOpcode, h, hrun, Op.nop, Op.chain, Op.advise, Op.prefetch, Op.fence, Op.seqAdmit, Op.seqRetire, Op.launch,
      Op.folioPublish]

/-- Settles O24: the fetch and the arrival by the queue's state, and the reads by what they return. -/
theorem slotsAreFetchedCheckedAndRead : Obligations.SlotsAreFetchedCheckedAndRead := by
  unfold Obligations.SlotsAreFetchedCheckedAndRead
  refine ⟨fun s q hl hf hp => ?fetch, fun s q b hl hf hst hfmt hc hop hnew => ?nop, fun s q b c hl hf hst hfmt hc => ?field,
    fun s q b hl hf hst => ?stopped, fun s q b hl hf hst => ?guilty, fun s q hl hf hst => ?poison,
    fun s q n e b h hst hr hb => ?consts, fun s q n e h hst hr => ?constsLost, fun s q n e b h hst hr hb => ?overrides,
    fun s q n e h hst hr => ?overridesLost, fun s q n e b i f h ha hr hb hi hlen hok => ?list,
    fun s q n e b i f h ha hr hb hi hok => ?listBad⟩
  case fetch =>
    refine completes_when (b := fun s => s.mayFetch q) hl rfl hf ?_
    dsimp only
    set a := s.modQueue q fun u => { u with fetching := true } with ha
    rw [State.viaPath, hp, if_pos (by simp)]
    refine ⟨((State.modQueue_touches ..).frame.mono (by decide)).trans ((emit_frame _ _).mono (by decide)), ?_, rfl, fun x hx => ?_⟩
    · exact (State.queue_modQueue_same .. : a.queue q = _)
    · exact (State.queue_modQueue_ne s _ hx : a.queue x = _)
  case nop =>
    refine completes_when (b := fun s => (s.queue q).fetching) hl rfl hf ?_
    dsimp only
    set a := s.modQueue q fun u => { u with fetching := false } with ha
    have haq : a.queue q = { s.queue q with fetching := false } := State.queue_modQueue_same ..
    rw [State.checkArrival_active (by rw [haq]; exact hst) (by rw [haq]; exact hfmt), haq]
    dsimp only
    rw [hc]
    dsimp only
    set e := ({ s.queue q with fetching := false } : Queue).arrived q b with he
    set c : State := { a with slots := a.slots ++ [e] } with hc'
    obtain ⟨hargs, hcheck⟩ := State.checkOpcode_nop (s := c) (e := e) hop hop
    rw [if_pos hargs, hcheck]
    have hslot : c.slot? q (s.queue q).nextSeq = some e := State.slot_append_none (s := a) (e := e) hnew
    set d := c.modSlot q (s.queue q).nextSeq fun x => { x with covers := c.coversOf e, usesExtents := [] } with hd
    have hdslot : d.slot? q (s.queue q).nextSeq = some { e with covers := c.coversOf e, usesExtents := [] } :=
      State.slot_modSlot_same hslot fun _ => ⟨rfl, rfl⟩
    have hdq : d.queue q = { s.queue q with fetching := false } := haq
    refine ⟨?_, ?_, ?_⟩
    · exact ((State.modQueue_touches ..).frame.mono (by decide)).trans (((setSlots_frame a _).mono (by decide)).trans
        (((State.modSlot_touches ..).frame.mono (by decide)).trans (((State.admitSlot_touches ..).frame.mono (by decide)).trans
          ((State.modQueue_touches ..).frame.mono (by decide)))))
    · rw [State.queue_modQueue_same]
      exact congrArg (fun u : Queue => { u with nextSeq := (s.queue q).nextSeq + 1 }) ((State.admitSlot_queue d q _).trans (by rw [hdq]))
    · exact ⟨_, State.admitSlot_slot hdslot, by simp [Slot.admitted], rfl, rfl, rfl, rfl⟩
  case field =>
    refine State.arrival_refused hl hf (by simp [hst]) rfl rfl (e := (s.queue q).arrived q b) fun a ha => ?_
    have haq : a.queue q = { s.queue q with fetching := false } := by rw [ha, State.queue_modQueue_same]
    rw [State.checkArrival_active (by rw [haq]; exact hst) (by rw [haq]; exact hfmt), haq]
    dsimp only
    rw [hc]
    rfl
  case stopped =>
    refine Completes.ended_framed (State.arrival_refused hl hf (by simp [hst]) rfl rfl
      (e := (s.queue q).arrived q ((s.queue q).image b)) fun a ha => ?_)
    have haq : a.queue q = { s.queue q with fetching := false } := by rw [ha, State.queue_modQueue_same]
    rw [State.checkArrival_stopped (by rw [haq]; exact hst), haq]
    rfl
  case guilty =>
    refine Completes.ended_framed (State.arrival_refused hl hf (by simp [hst]) rfl rfl
      (e := (s.queue q).arrived q ((s.queue q).image b)) fun a ha => ?_)
    have haq : a.queue q = { s.queue q with fetching := false } := by rw [ha, State.queue_modQueue_same]
    rw [State.checkArrival_guilty (by rw [haq]; exact hst), haq]
    rfl
  case poison =>
    refine completes_when (b := fun s => (s.queue q).fetching) hl rfl hf ?_
    dsimp only
    rw [if_neg (by simp [hst]), if_neg (by simp [hst])]
    set a := s.modQueue q fun u => { u with fetching := false, nextSeq := u.nextSeq + 1 } with ha
    have haq : (a.queue q).state ≠ .draining := by
      rw [ha, State.queue_modQueue_same]
      simp [hst]
    obtain ⟨hend, hframe⟩ := State.refuseNew_does (s := a) (e := {
      queue := q
      seq := (s.queue q).nextSeq
      partition := (a.queue q).partition
      context := (a.queue q).attrs.context }) haq Status.badSlot 13
    exact ⟨hend, ((State.modQueue_touches ..).frame.mono (by decide)).trans hframe⟩
  case consts =>
    obtain ⟨hl, he, hq⟩ := h
    refine completes_onSlot hl he rfl (by simp [hst, hr]) ?_
    rw [hb]
  case constsLost =>
    obtain ⟨hl, he, hq⟩ := h
    refine completes_onSlot hl he rfl (by simp [hst, hr]) ?_
    rw [State.readResult, ite_self]
    exact State.refuseSlot_does he hq Status.badSlot 10
  case overrides =>
    obtain ⟨hl, he, hq⟩ := h
    refine completes_onSlot hl he rfl (by simp [hst, hr]) ?_
    rw [hb]
  case overridesLost =>
    obtain ⟨hl, he, hq⟩ := h
    refine completes_onSlot hl he rfl (by simp [hst, hr]) ?_
    rw [State.readResult]
    split_ifs <;> exact State.refuseSlot_does he hq Status.badSlot 11
  case list =>
    obtain ⟨hl, he, hq⟩ := h
    obtain ⟨heq, hen⟩ := State.slot_key he
    refine completes_onSlot hl he rfl (by simp [ha, hr]) ?_
    dsimp only
    rw [hb, hi]
    dsimp only
    rw [hok, if_pos (by simp [hlen])]
    have hslot : (s.endRead e).slot? q n = some { e with unreadable := false } := by
      rw [← heq, ← hen] at he ⊢
      exact State.endRead_slot he
    refine ⟨?_, _, State.admitSlot_slot (State.slot_modSlot_same hslot (f := fun x => { x with
        publishing := some (pageList b (f.length / pageBytes)), covers := s.coversOf e }) fun _ => ⟨rfl, rfl⟩), ?_, rfl, rfl⟩
    · exact ((State.endRead_touches ..).frame.mono (by decide)).trans (((State.modSlot_touches ..).frame.mono (by decide)).trans
        ((State.admitSlot_touches ..).frame.mono (by decide)))
    · simp [Slot.admitted]
  case listBad =>
    obtain ⟨hl, he, hq⟩ := h
    refine completes_onSlot hl he rfl (by simp [ha, hr]) ?_
    dsimp only
    rw [hb, hi]
    dsimp only
    rw [hok, if_neg (by simp)]
    exact State.refuseArgs_does he hq

end Sys2Proof.Machine
end

section
/-!
PROOFS (this file, a sitting of its own). Folio versions: opened, drafted, closed, published and mirrored (R246, R247, R249, R250, R255).
-/
namespace Sys2Proof.Machine

open Sys2Proof SlotField

/-! ### The end of a slot that binds nothing -/

/-- No slot of the table binds a graph or a folio version. -/
def State.Unbound (s : State) : Prop := ∀ e ∈ s.slots, e.image = none ∧ e.bindings = []

theorem State.Unbound.of_slots {s t : State} (h : s.Unbound) (hs : t.slots = s.slots) : t.Unbound := by
  rw [State.Unbound, hs]
  exact h

/-- Retirements of slots that bind nothing leave the folios. -/
theorem State.retireLoop_unbound (k : Nat) {s : State} (q : Nat) (h : s.Unbound) : (State.retireLoop k s q).folios = s.folios := by
  induction k generalizing s with
  | zero => rfl
  | succ k ih =>
    unfold State.retireLoop
    split
    · next e he =>
      split
      · obtain ⟨himage, hbind⟩ := h e (State.slot_mem he)
        have hunbind : ∀ u : State, u.unbind e = u := fun u => by rw [State.unbind, himage, hbind]; rfl
        have hone : (s.retireOne e).folios = s.folios := by rw [State.retireOne, hunbind]; rfl
        have hslots : (s.retireOne e).slots = s.slots.filter fun x => !(x.queue == e.queue && x.seq == e.seq) := by
          rw [State.retireOne, hunbind]; rfl
        refine (ih fun x hx => ?_).trans hone
        rw [hslots] at hx
        exact h x (List.mem_of_mem_filter hx)
      · rfl
    · rfl

theorem State.retireReady_unbound {s : State} {q : Nat} (h : s.Unbound) (hq : (s.queue q).state ≠ .draining) :
    (s.retireReady q).folios = s.folios := by
  have hloop := State.retireLoop_unbound s.slots.length q h
  rw [State.retireReady]
  rw [State.settleQueue_of_not_draining]
  · split_ifs
    · exact hloop
    · exact Eq.trans ((State.writeWord_touches ..).frame .folios (by decide)) hloop
  · split_ifs
    · rwa [State.retireLoop_state]
    · rwa [(State.writeWord_written ..).keeps Queue.state fun _ => rfl, State.retireLoop_state]

/-- The end of a slot that binds nothing leaves the folios. -/
theorem State.finishSlot_unbound {s : State} {q n : Nat} (h : s.Unbound) (hq : (s.queue q).state ≠ .draining) (status cause : Nat) :
    (s.finishSlot q n status cause).folios = s.folios := by
  rw [State.finishSlot]
  cases he : s.slot? q n with
  | none => rfl
  | some e =>
    dsimp only
    set x : Slot := { e with status := status, cause := cause, state := .finished, adviceOut := false, fills := 0 } with hx
    set a := s.modSlot q n fun _ => x with ha
    have haUnbound : a.Unbound := by
      intro y hy
      obtain ⟨z, hz, rfl⟩ := List.mem_map.mp hy
      split
      · exact h e (State.slot_mem he)
      · exact h z hz
    set b : State := { a with reqs := a.reqs.filter fun y => y.2.who != ReqFor.spine q n } with hb
    set c := b.modPart e.partition fun p =>
      { p with adm := p.adm.finished x
               holds := p.holds.map fun (h : Hold) => if h.queue == q && h.seq == n then { h with releasing := true } else h } with hc
    have hcq : (c.queue q).state ≠ .draining := hq
    split_ifs
    · have hpush := State.pushRecord_touches c q (.final (c.finalRecord x 0))
      exact (State.retireReady_unbound (haUnbound.of_slots (hpush.frame .slots (by decide)))
        (by rwa [State.pushRecord_written])).trans (hpush.frame .folios (by decide))
    · exact State.retireReady_unbound (s := c) haUnbound hcq

/-- The end of a folio command: what it tells of the slot, and the parts that it touches. -/
theorem State.finishFolio_does {s : State} {q n : Nat} {e x : Slot} (hx : s.slot? q n = some x) (hq : (s.queue q).state ≠ .draining)
    (heq : e.queue = q) (hen : e.seq = n) (i v status : Nat) :
    (s.finishFolio e i v status).SlotEnded q n status 0 ∧ OnlyChanges finishParts s (s.finishFolio e i v status)
      ∧ (s.Unbound → (s.finishFolio e i v status).folios = s.folios) := by
  subst heq hen
  rw [State.finishFolio]
  split_ifs
  · obtain ⟨hend, hframe⟩ := State.finishSlot_does hx hq status 0
    exact ⟨hend, hframe, fun h => State.finishSlot_unbound h hq status 0⟩
  · set a := s.pushWrite e.queue (.folioResult (le (args e.raw) 16 8) (s.folioResult e i v status)) with ha
    have hpush := State.pushWrite_touches s e.queue (.folioResult (le (args e.raw) 16 8) (s.folioResult e i v status))
    have haq : (a.queue e.queue).state ≠ .draining := by
      rwa [ha, (State.pushWrite_written ..).keeps Queue.state fun _ => rfl]
    obtain ⟨hend, hframe⟩ := State.finishSlot_does ((State.slot_of_slots (hpush.frame .slots (by decide)) _ _).trans hx) haq status 0
    refine ⟨hend, (hpush.frame.mono (by decide)).trans hframe, fun h => ?_⟩
    exact (State.finishSlot_unbound (h.of_slots (hpush.frame .slots (by decide))) haq status 0).trans (hpush.frame .folios (by decide))

/-! ### Running a folio command -/

theorem State.Alone.working {s : State} {q n : Nat} {e : Slot} (h : s.Alone q n e) : s.Working q n e ∧ s.Unbound := by
  obtain ⟨hl, hslots, heq, hen, himage, hbind, hq⟩ := h
  refine ⟨⟨hl, ?_, hq⟩, fun x hx => ?_⟩
  · simp [State.slot?, hslots, heq, hen]
  · rw [hslots, List.mem_singleton] at hx
    rw [hx]
    exact ⟨himage, hbind⟩

/-- A folio command whose handle names a folio and whose result has a place. -/
theorem completes_onFolio {i : Instr} {s : State} {q n op j : Nat} {m : Bool} {e : Slot} {x : Folio} {t : Bytes → Bool}
    {f : Slot → Nat → Folio → State → State} {P : State → Prop} (h : s.Working q n e)
    (hi : exec i s = .next (s.whenLive fun s => s.onFolio q n op m t f)) (hm : s.mayStart op e = true) (ht : t (args e.raw) = true)
    (hx : s.namedFolio (le (args e.raw) 0 8) = some (j, x)) (hmap : le (args e.raw) 16 8 = 0 ∨ m = true) (hp : P (f e j x s)) :
    Completes i s P := by
  obtain ⟨hl, he, -⟩ := h
  refine completes_onSlot (t := fun s e => s.mayStart op e && t (args e.raw)) hl he hi (by simp [hm, ht]) ?_
  rw [hx]
  dsimp only
  rw [if_neg (by rcases hmap with h0 | h1 <;> simp [*])]
  exact hp

/-- A context's holds, as its slot sees them. -/
theorem State.holdsOf_ctx {s : State} {e : Slot} {c : Context} (h : s.ctx? (ctxKey e.partition e.context) = some c) :
    s.holdsOf e = c.holds := by
  rw [State.holdsOf, h]
  rfl

theorem State.ctxs_modCtx {s : State} {k : Nat} {c : Context} (h : s.ctxs.get? k = some c) (f : Context → Context) :
    (s.modCtx k f).ctxs = s.ctxs.put k (f c) := by
  simp only [State.modCtx, h]

/-! ### The number of the current version -/

/-- The current version of a folio that stays registered. -/
def State.CurrentIs (s : State) (i v : Nat) : Prop := ∃ f, s.folios.get? i = some f ∧ f.registered = true ∧ f.current = v

namespace State.CurrentIs

variable {s t : State} {i v : Nat}

theorem of_folios (h : s.CurrentIs i v) (ht : t.folios = s.folios) : t.CurrentIs i v := by
  rw [State.CurrentIs, ht]
  exact h

theorem modFolio (h : s.CurrentIs i v) {f : Folio → Folio}
    (hf : ∀ x, (f x).registered = x.registered ∧ (f x).current = x.current) : (s.modFolio i f).CurrentIs i v := by
  obtain ⟨x, hx, hr, hc⟩ := h
  refine ⟨f x, by rw [State.folios_modFolio hx, tbl_get_put_same], (hf x).1.trans hr, (hf x).2.trans hc⟩

theorem startMirror (h : s.CurrentIs i v) (w : Nat) : (s.startMirror i w).CurrentIs i v := by
  unfold State.startMirror
  split
  · exact h
  · dsimp only
    split_ifs
    · exact h
    · exact h.modFolio fun _ => ⟨rfl, rfl⟩
    · exact (h.modFolio fun _ => ⟨rfl, rfl⟩ : (s.modFolio i fun f => f.modSlot w fun x => { x with mirror := 0 }).CurrentIs i v)

theorem sweepFolio (h : s.CurrentIs i v) : (s.sweepFolio i).CurrentIs i v := by
  obtain ⟨x, hx, hr, hc⟩ := h
  refine ⟨x.swept, by rw [State.folios_sweepFolio hx, tbl_get_put_same], (Folio.swept_registered hr).1, ?_⟩
  rw [Folio.swept, Folio.settle, hr]
  exact hc

theorem draftToOpen (h : s.CurrentIs i v) (e : Slot) (w : Nat) : (s.draftToOpen e i w).CurrentIs i v := by
  rw [State.draftToOpen, State.addOpen]
  refine CurrentIs.of_folios ?_ ((State.modCtx_touches ..).frame .folios (by decide))
  refine CurrentIs.modFolio ?_ fun _ => ⟨rfl, rfl⟩
  exact h.of_folios ((State.modCtx_touches ..).frame .folios (by decide))

end State.CurrentIs

/-- The publication step makes the version current. -/
theorem State.publish_current {s : State} {i : Nat} {f : Folio} (hf : s.folios.get? i = some f) (hr : f.registered = true)
    (v base source : Nat) : (s.publish i v base source).CurrentIs i v := by
  have hmod : (s.modFolio i fun f => f.publish v base source).CurrentIs i v := by
    refine ⟨f.publish v base source, by rw [State.folios_modFolio hf, tbl_get_put_same], ?_, rfl⟩
    rw [Folio.publish]
    dsimp only [Folio.modSlot]
    split_ifs <;> exact hr
  exact (hmod.startMirror v).sweepFolio

/-- The version slot that a change of it leaves. -/
theorem Folio.slot_modSlot {f : Folio} {v : Nat} {x : VSlot} (h : f.slot? v = some x) {g : VSlot → VSlot}
    (hg : ∀ y, (g y).live = y.live ∧ (g y).version = y.version) : (f.modSlot v g).slot? v = some (g x) := by
  have hkey : (fun y : VSlot => y.live && y.version == v) ∘ (fun y => if y.live && y.version == v then g y else y)
      = fun y => y.live && y.version == v := by
    funext y
    simp only [Function.comp]
    split
    · rw [(hg y).1, (hg y).2]
    · rfl
  have hfind : f.slots.find? (fun y => y.live && y.version == v) = some x := h
  have hx : (x.live && x.version == v) = true := List.find?_some (p := fun y : VSlot => y.live && y.version == v) hfind
  rw [Folio.slot?, Folio.modSlot, List.find?_map, hkey, hfind, Option.map_some, if_pos hx]

/-! ### Closing (R247) -/

/-- The first element that satisfies a test satisfies a narrower one first, when it satisfies it at all. -/
theorem List.find?_narrow {α : Type} {l : List α} {p r : α → Bool} {a : α} (h : l.find? p = some a) (ha : r a = true)
    (hr : ∀ x, r x = true → p x = true) : l.find? r = some a := by
  obtain ⟨-, as, bs, rfl, hnot⟩ := List.find?_eq_some_iff_append.mp h
  refine List.find?_eq_some_iff_append.mpr ⟨ha, as, bs, rfl, fun x hx => ?_⟩
  have hpx := hnot x hx
  cases hrx : r x with
  | false => rfl
  | true => simp [hr x hrx] at hpx

/-- One open of a version less, with at least one left. -/
theorem State.closeOpens_openOf {s : State} {k i v : Nat} {c : Context} {h : FolioHold} (hc : s.ctxs.get? k = some c)
    (ho : c.openOf i v = some h) (h2 : 2 ≤ h.opens) :
    ((s.closeOpens k i v 1).ctxs.get? k).bind (fun c => c.openOf i v) = some { h with opens := h.opens - 1 } := by
  set less : FolioHold → FolioHold := fun x => if x.folio == i && x.version == v && !x.draft then { x with opens := x.opens - 1 } else x
    with hless
  have hfind : c.holds.find? (fun x => x.folio == i && x.version == v && !x.draft) = some h := ho
  have hp : (h.folio == i && h.version == v && !h.draft) = true :=
    List.find?_some (p := fun x : FolioHold => x.folio == i && x.version == v && !x.draft) hfind
  have hctxs : (s.closeOpens k i v 1).ctxs
      = s.ctxs.put k { c with holds := (c.holds.map less).filter fun x => x.draft || x.opens != 0 } := by
    have hmod := State.ctxs_modCtx hc fun c => { c with holds := (c.holds.map less).filter fun x => x.draft || x.opens != 0 }
    rw [← hmod]
    have hone : min 1 h.opens = 1 := by omega
    rw [State.closeOpens]
    dsimp only
    rw [(State.sweepFolio_touches ..).frame .ctxs (by decide), (State.modFolio_touches ..).frame .ctxs (by decide)]
    have hheld : ((c.holds.find? fun x => x.folio == i && x.version == v && !x.draft).map (·.opens)).getD 0 = h.opens := by
      rw [hfind]
      rfl
    rw [hc]
    dsimp only
    rw [hheld, hone]
  rw [hctxs, tbl_get_put_same, Option.bind_some, Context.openOf]
  dsimp only
  rw [List.find?_filter, List.find?_map]
  have hkey : ∀ x, ((less x).folio == i && (less x).version == v && !(less x).draft) = (x.folio == i && x.version == v && !x.draft) := by
    intro x
    rw [hless]
    dsimp only
    split <;> rfl
  have hh : less h = { h with opens := h.opens - 1 } := if_pos hp
  rw [List.find?_narrow hfind, Option.map_some, hh]
  · simp only [Function.comp, hp, hh]
    simp
    omega
  · intro x hx
    simp only [Function.comp, hkey, Bool.and_eq_true, decide_eq_true_eq] at hx
    simp [hx]

/-! ### Mirrors (R255) -/

/-- Settles O25: the holds of the context, the version slots of the folio, and the number of its current version. -/
theorem folioVersionsOpenCloseAndPublish : Obligations.FolioVersionsOpenCloseAndPublish := by
  unfold Obligations.FolioVersionsOpenCloseAndPublish
  refine ⟨fun s q n e m i f v c h hm hk hi hmap hv hpub hrev hqua hc hlen ho => ?read,
    fun s q n e m i f v h hm hk hi hmap hv hpub hrev hqua => ?quarantined,
    fun s q n e m i f f' v c h hm hk hi hmap hv hc hlen ht => ?draft,
    fun s q n e m i f c x h hm hi hmap hv hc ho hd h2 => ?close, fun s q n e m i f h hm hi hmap hv => ?conflict,
    fun s q n e m i f c d h hm hi hmap hv hp hc hd => ?publish, fun s i v f x hl hf hx hmir hall => ?mirror⟩
  case read =>
    obtain ⟨hw, hun⟩ := h.working
    obtain ⟨hget, -⟩ := State.folio_of_named hi
    obtain ⟨heq, hen⟩ := State.slot_key hw.2.1
    refine completes_onFolio hw rfl hm (by simpa using hk) hi hmap ?_
    have hmine : c.holds.find? (fun h => h.folio == i && h.version == v.version && !h.draft) = none := ho
    rw [hv]
    dsimp only
    rw [State.holdsOf_ctx hc, hmine, hpub, hrev, hqua, if_neg (by simp), if_neg (by simp), if_neg (by simp), if_neg (by simp; omega)]
    have hopen := State.addOpen_touches s e i v.version
    have hslots := hopen.frame .slots (by decide)
    obtain ⟨hend, hframe, hfolios⟩ := State.finishFolio_does (e := e) ((State.slot_of_slots hslots _ _).trans hw.2.1)
      (by rw [State.queue_of_queues (hopen.frame .queues (by decide))]; exact hw.2.2) heq hen i v.version Status.ok
    refine ⟨hend, (hopen.frame.mono (by decide)).trans (hframe.mono (by decide)), ?_, ?_⟩
    · refine (congrArg (Tbl.get? · _) (hframe .ctxs (by decide))).trans ?_
      have hmod : (s.modFolio i fun f => f.modSlot v.version fun x => { x with opens := x.opens + 1 }).ctxs.get?
          (ctxKey e.partition e.context) = some c :=
        (congrArg (Tbl.get? · _) ((State.modFolio_touches ..).frame .ctxs (by decide))).trans hc
      rw [State.addOpen]
      rw [State.ctxs_modCtx hmod, tbl_get_put_same, ho]
      rfl
    · rw [hfolios (hun.of_slots hslots)]
      have hmod := (State.modCtx_touches (s.modFolio i fun f => f.modSlot v.version fun x => { x with opens := x.opens + 1 })
        (ctxKey e.partition e.context) fun c => if (c.openOf i v.version).isSome then
          { c with holds := c.holds.map fun h =>
              if h.folio == i && h.version == v.version && !h.draft then { h with opens := h.opens + 1 } else h }
          else { c with holds := c.holds ++ [{ folio := i, version := v.version, opens := 1, draft := false }] }).frame
        .folios (by decide)
      refine (congrArg (Tbl.get? · i) hmod).trans ?_
      rw [State.folios_modFolio hget, tbl_get_put_same]
  case quarantined =>
    obtain ⟨heq, hen⟩ := State.slot_key h.2.1
    refine completes_onFolio h rfl hm (by simpa using hk) hi hmap ?_
    rw [hv]
    dsimp only
    rw [hpub, hrev, hqua, if_neg (by simp), if_neg (by simp), if_pos rfl]
    obtain ⟨hend, hframe, -⟩ := State.finishFolio_does (e := e) h.2.1 h.2.2 heq hen i v.version Status.folioQuarantined
    exact ⟨hend, hframe⟩
  case draft =>
    obtain ⟨hw, hun⟩ := h.working
    obtain ⟨heq, hen⟩ := State.slot_key hw.2.1
    refine completes_onFolio hw rfl hm (by simpa using hk) hi hmap ?_
    have hbase : f.draftBase (le (args e.raw) 8 4) = some none := by rw [hv]; rfl
    rw [hbase]
    dsimp only
    have hadd : s.addDraft e i f none = some (({ s with folios := s.folios.put i f' } : State).modCtx
        (ctxKey e.partition e.context) fun c => { c with holds := c.holds ++ [{ folio := i, version := v, opens := 0, draft := true }] },
        v) := by
      have htake : f.take { base := 0, vstate := .draft, holderP := e.partition, holderX := e.context, pages := [] } = some (f', v) := ht
      rw [State.addDraft]
      dsimp only [Option.map_none, Option.getD_none]
      rw [htake]
    rw [State.holdsOf_ctx hc, hadd, if_neg (by simp), if_neg (by simp), if_neg (by omega)]
    dsimp only
    have hopen := State.addDraft_touches hadd
    have hslots := hopen.frame .slots (by decide)
    obtain ⟨hend, hframe, hfolios⟩ := State.finishFolio_does (e := e) ((State.slot_of_slots hslots _ _).trans hw.2.1)
      (by rw [State.queue_of_queues (hopen.frame .queues (by decide))]; exact hw.2.2) heq hen i v Status.ok
    refine ⟨hend, (hopen.frame.mono (by decide)).trans (hframe.mono (by decide)), ?_, ?_⟩
    · rw [hfolios (hun.of_slots hslots)]
      exact (congrArg (Tbl.get? · i) ((State.modCtx_touches ..).frame .folios (by decide))).trans (tbl_get_put_same ..)
    · refine (congrArg (Tbl.get? · _) (hframe .ctxs (by decide))).trans ?_
      rw [State.ctxs_modCtx (s := { s with folios := s.folios.put i f' }) hc, tbl_get_put_same]
  case close =>
    obtain ⟨heq, hen⟩ := State.slot_key h.2.1
    refine completes_onFolio h rfl hm rfl hi hmap ?_
    dsimp only
    have hany : (c.holds.any fun h => h.folio == i && h.version == le (args e.raw) 8 4 && h.draft) = false := by
      have hnone : c.holds.find? (fun h => h.folio == i && h.version == le (args e.raw) 8 4 && h.draft) = none := hd
      rw [List.find?_eq_none] at hnone
      simpa using hnone
    rw [if_neg (by simpa using hv), State.holdsOf_ctx hc, if_neg (by simp [hany])]
    have hclose := State.closeOpens_touches s (ctxKey e.partition e.context) i (le (args e.raw) 8 4) 1
    obtain ⟨hend, hframe, -⟩ := State.finishFolio_does (e := e)
      ((State.slot_of_slots (hclose.frame .slots (by decide)) _ _).trans h.2.1)
      (by rw [State.queue_of_queues (hclose.frame .queues (by decide))]; exact h.2.2) heq hen i (le (args e.raw) 8 4) Status.ok
    refine ⟨hend, (hclose.frame.mono (by decide)).trans (hframe.mono (by decide)), ?_⟩
    rw [State.ctx?, hframe .ctxs (by decide)]
    exact State.closeOpens_openOf hc ho h2
  case conflict =>
    obtain ⟨heq, hen⟩ := State.slot_key h.2.1
    refine completes_onFolio h rfl hm rfl hi hmap ?_
    rw [if_pos (by simpa using hv)]
    obtain ⟨hend, hframe, -⟩ := State.finishFolio_does (e := e) h.2.1 h.2.2 heq hen i f.current Status.conflict
    exact ⟨hend, hframe⟩
  case publish =>
    obtain ⟨hw, hun⟩ := h.working
    obtain ⟨hget, hreg⟩ := State.folio_of_named hi
    obtain ⟨heq, hen⟩ := State.slot_key hw.2.1
    refine completes_onFolio hw rfl hm rfl hi hmap ?_
    dsimp only
    rw [if_neg (by simp [hv]), hp]
    dsimp only
    have hany : (c.holds.any fun h => h.folio == i && h.version == le (args e.raw) 8 4 && h.draft) = true := by
      have hfind : c.holds.find? (fun h => h.folio == i && h.version == le (args e.raw) 8 4 && h.draft) = some d := hd
      rw [List.any_eq_true]
      exact ⟨d, List.mem_of_find?_eq_some hfind,
        List.find?_some (p := fun h : FolioHold => h.folio == i && h.version == le (args e.raw) 8 4 && h.draft) hfind⟩
    rw [State.holdsOf_ctx hc, if_pos hany]
    set v := le (args e.raw) 8 4 with hvdef
    set a := s.publish i v (le (args e.raw) 12 4) (le (args e.raw) 32 8) with ha
    have hpub := State.publish_touches s i v (le (args e.raw) 12 4) (le (args e.raw) 32 8)
    have hopen := State.draftToOpen_touches a e i v
    have hslots : (a.draftToOpen e i v).slots = s.slots := Eq.trans (hopen.frame .slots (by decide)) (hpub.frame .slots (by decide))
    have hqueues : (a.draftToOpen e i v).queues = s.queues := Eq.trans (hopen.frame .queues (by decide)) (hpub.frame .queues (by decide))
    have hcur : (a.draftToOpen e i v).CurrentIs i v := (State.publish_current hget hreg v _ _).draftToOpen e v
    obtain ⟨hend, hframe, hfolios⟩ := State.finishFolio_does (e := e) ((State.slot_of_slots hslots _ _).trans hw.2.1)
      (by rw [State.queue_of_queues hqueues]; exact hw.2.2) heq hen i v Status.ok
    refine ⟨hend, (hpub.frame.mono (by decide)).trans ((hopen.frame.mono (by decide)).trans (hframe.mono (by decide))), ?_⟩
    obtain ⟨g, hg, -, hgc⟩ := hcur
    rw [hfolios (hun.of_slots hslots), hg, Option.map_some, hgc]
  case mirror =>
    have hlack : (x.pages.filter fun p => p.2.mirror.isNone).map (·.1) = [] := by
      rw [List.filter_eq_nil_iff.mpr, List.map_nil]
      intro p hp
      have hsome := List.all_eq_true.mp hall p hp
      simpa using Option.isSome_iff_ne_none.mp hsome
    refine completes_live hl rfl ?_
    rw [hf]
    dsimp only
    rw [hx]
    dsimp only
    rw [hmir, hlack, beq_self_eq_true, State.when_true, State.giveMirrors, hf, Option.bind_some, hx]
    have hfull : (some x).any (fun x => x.pages.all fun p => p.2.mirror.isSome) = true := hall
    rw [hfull, if_pos rfl, if_pos rfl]
    have hfolios := State.folios_modFolio hf fun f => f.modSlot v fun x => { x with mirror := 2 }
    refine ⟨((State.modFolio_touches ..).frame.mono (by decide)).trans ((State.dropFolioAtc_touches ..).frame.mono (by decide)), ?_,
      fun j hj => ?_⟩
    · refine (congrArg (fun y : Tbl Folio => (y.get? i).bind fun f => f.slot? v) hfolios).trans ?_
      rw [tbl_get_put_same, Option.bind_some]
      exact Folio.slot_modSlot hx fun _ => ⟨rfl, rfl⟩
    · exact (congrArg (Tbl.get? · j) hfolios).trans (tbl_get_put_ne _ _ hj)

end Sys2Proof.Machine
end

section
/-!
PROOFS (this file, a sitting of its own). The writes of a queue, its stops and resumptions, and its guilt (R161, R165, R169, R172, R173,
R176).
-/
namespace Sys2Proof.Machine

open Sys2Proof

/-! ### What the end of a slot leaves of its queue -/

/-- A queue that does not drain keeps its state, and the queues under handling stay those they were. -/
structure Steady (q : Nat) (s t : State) : Prop where
  state : (s.queue q).state ≠ .draining → (t.queue q).state = (s.queue q).state
  handling : (s.queue q).state ≠ .draining → t.errs.handlingQ = s.errs.handlingQ

namespace Steady

variable {q : Nat} {s t u : State}

theorem refl (s : State) : Steady q s s := ⟨fun _ => rfl, fun _ => rfl⟩

theorem trans (h : Steady q s t) (k : Steady q t u) : Steady q s u := by
  refine ⟨fun hq => ?_, fun hq => ?_⟩
  · exact (k.state (by rwa [h.state hq])).trans (h.state hq)
  · exact (k.handling (by rwa [h.state hq])).trans (h.handling hq)

theorem after (k : Steady q t u) (h : Steady q s t) : Steady q s u := h.trans k

theorem of_queue (hq : (t.queue q).state = (s.queue q).state) (he : t.errs.handlingQ = s.errs.handlingQ) : Steady q s t :=
  ⟨fun _ => hq, fun _ => he⟩

theorem of_touches {ps : List Part} (h : Touches ps s t) (hps : Part.queues ∉ ps ∧ Part.errs ∉ ps) : Steady q s t := by
  have herrs : t.errs = s.errs := h.frame .errs hps.2
  exact .of_queue (by rw [State.queue_of_queues (h.frame .queues hps.1)]) (by rw [herrs])

theorem of_written {ps : List Part} (h : Written q s t) (hf : Touches ps s t) (hps : Part.errs ∉ ps) : Steady q s t := by
  have herrs : t.errs = s.errs := hf.frame .errs hps
  exact .of_queue (h.keeps Queue.state fun _ => rfl) (by rw [herrs])

theorem foldl {α : Type} {f : State → α → State} (h : ∀ s x, Steady q s (f s x)) (l : List α) (s : State) : Steady q s (l.foldl f s) := by
  induction l generalizing s with
  | nil => exact refl s
  | cons x l ih => exact (h s x).trans (ih _)

end Steady

theorem State.sweepFolio_steady (q : Nat) (s : State) (i : Nat) : Steady q s (s.sweepFolio i) := by
  unfold State.sweepFolio
  split
  · exact .refl s
  · next f _ =>
    set a : State := { s with folios := s.folios.put i _ } with ha
    have hfold := Steady.foldl (q := q) (f := fun (s : State) v => s.dropFolioAtc i v)
      (fun s v => .of_touches (State.dropFolioAtc_touches s i v) (by decide))
    exact (Steady.of_queue rfl rfl : Steady q s a).trans ((hfold _ a).trans (.of_queue rfl rfl))

theorem State.unbindFolio_steady (q : Nat) (s : State) (i v : Nat) : Steady q s (s.unbindFolio i v) :=
  (State.sweepFolio_steady q _ i).after (.of_touches (State.modFolio_touches ..) (by decide))

theorem State.unbind_steady (q : Nat) (s : State) (e : Slot) : Steady q s (s.unbind e) := by
  unfold State.unbind
  refine Steady.after (.foldl (fun s r => ?_) _ _) ?_
  · cases r with
    | folioRead f v => exact State.unbindFolio_steady q s f v
    | folioOutput f v x => exact State.unbindFolio_steady q s f v
    | _ => exact .refl s
  · split
    · exact .of_touches (State.unbindGraph_touches ..) (by decide)
    · exact .refl s

theorem State.discardVersion_steady (q : Nat) (s : State) (i v : Nat) : Steady q s (s.discardVersion i v) := by
  refine Steady.trans ?_ (t := ((s.modFolio i fun f => { f with
    slots := f.slots.map fun x => if x.live && x.version == v then {} else x }).dropFolioAtc i v).sweepFolio i) (.of_queue rfl rfl)
  exact (State.sweepFolio_steady q _ i).after ((Steady.of_touches (State.dropFolioAtc_touches ..) (by decide)).after
    (.of_touches (State.modFolio_touches ..) (by decide)))

theorem State.retireOne_steady (q : Nat) (s : State) (e : Slot) : Steady q s (s.retireOne e) := by
  refine (Steady.of_touches (State.dropSlot_touches ..) (by decide)).after ((State.unbind_steady q _ e).after ?_)
  refine (Steady.of_touches (State.modPart_touches ..) (by decide)).after (.of_queue ?_ rfl)
  by_cases h : q = e.queue
  · rw [h, State.queue_modQueue_same]
  · rw [State.queue_modQueue_ne _ _ h]

theorem State.retireLoop_steady (k q : Nat) (s : State) : Steady q s (State.retireLoop k s q) := by
  induction k generalizing s with
  | zero => exact .refl s
  | succ k ih =>
    unfold State.retireLoop
    split
    · split
      · exact (State.retireOne_steady q s _).trans (ih _)
      · exact .refl s
    · exact .refl s

theorem State.retireReady_steady (q : Nat) (s : State) : Steady q s (s.retireReady q) := by
  set a := State.retireLoop s.slots.length s q with ha
  set b := if (a.queue q).retiredSeq == (s.queue q).retiredSeq then a else a.writeWord q false with hb
  have hloop : Steady q s a := State.retireLoop_steady ..
  have hword : Steady q s b := by
    rw [hb]
    split
    · exact hloop
    · exact hloop.trans (.of_written (State.writeWord_written ..) (State.writeWord_touches ..) (by decide))
  have hready : (s.queue q).state ≠ .draining → s.retireReady q = b := fun hq =>
    State.settleQueue_of_not_draining (by rwa [hword.state hq])
  exact ⟨fun hq => by rw [hready hq]; exact hword.state hq, fun hq => by rw [hready hq]; exact hword.handling hq⟩

theorem State.pushRecord_steady (q : Nat) (s : State) (w : GuestWrite) : Steady q s (s.pushRecord q w) :=
  .of_queue (State.pushRecord_written ..) (congrArg Errors.handlingQ ((State.pushRecord_touches ..).frame .errs (by decide)))

theorem State.finishSlot_steady (q : Nat) (s : State) (n status cause earliest : Nat) :
    Steady q s (s.finishSlot q n status cause earliest) := by
  unfold State.finishSlot
  split
  · exact .refl s
  · refine (State.retireReady_steady q _).after ?_
    split
    · exact (State.pushRecord_steady q _ _).after (.of_queue rfl rfl)
    · exact .of_queue rfl rfl

theorem State.refuseSlot_steady (q : Nat) (s : State) (n status cause : Nat) : Steady q s (s.refuseSlot q n status cause) :=
  (State.finishSlot_steady ..).after (.of_queue (by rw [State.queue_modQueue_same]) rfl)

theorem State.endSlot_steady (q : Nat) (s : State) (n : Nat) (w : EndWhy) : Steady q s (s.endSlot q n w) := by
  unfold State.endSlot
  split
  · exact .refl s
  · dsimp only
    split_ifs
    · exact .refl s
    · exact State.refuseSlot_steady ..
    · exact State.finishSlot_steady ..
    · exact .refl s
    · exact (Steady.foldl (fun s (x : Nat × Nat) => State.discardVersion_steady q s x.1 x.2) _ _).after (.of_queue rfl rfl)

theorem Queue.of_settled {u v : Queue} (h : u.settled = v.settled) {α : Type} (f : Queue → α) (hf : ∀ u : Queue, f u.settled = f u) :
    f u = f v := by
  rw [← hf, h, hf]

/-- The slots that an ending leaves of a launch that runs. -/
theorem State.endSlot_slots {s : State} {q n : Nat} {e : Slot} (he : s.slot? q n = some e) (ha : e.admitted = true)
    (hlaunch : e.isLaunch = true) (hrun : e.state = .running) (w : EndWhy) :
    (s.endSlot q n w).slots = (s.modSlot q n fun x => { x with
      status := (w.status e.promise.isSome).1, cause := (w.status e.promise.isSome).2, state := .ended }).slots := by
  rw [State.endSlot, he]
  dsimp only
  rw [hrun, if_neg (by decide), if_neg (by simp [ha]), if_neg (by simp [hlaunch]), if_neg (by simp)]
  exact (State.discardStagings_touches ..).frame .slots (by decide)

/-! ### What a failed access leaves of its queue -/

/-- A queue without its list of writes and what is held back of them. -/
def Queue.unheld (u : Queue) : Queue := { u.settled with held := [] }

theorem Queue.holdWrites_unheld (u : Queue) (ws : List GuestWrite) : (u.holdWrites ws).unheld = u.unheld := by
  have hone : ∀ (u : Queue) w, (u.holdOne w).unheld = u.unheld := by
    intro u w
    cases w <;> rfl
  unfold Queue.holdWrites
  induction ws generalizing u with
  | nil => rfl
  | cons w ws ih => exact (ih _).trans (hone u w)

theorem Queue.stopWrites_unheld (u : Queue) (a : QueueArea) : (u.stopWrites a).unheld = { u with fetching := false }.unheld := by
  unfold Queue.stopWrites
  dsimp only
  generalize (if a == .fetch then u.writes.take 1 else []) = kept
  have hwrites := Queue.holdWrites_unheld { u with writes := kept, fetching := false } (u.writes.drop kept.length)
  split_ifs
  · exact hwrites
  · exact hwrites

/-- What a slot read that fails leaves of its queue. -/
theorem Queue.failed_fetch (u : Queue) :
    ((u.markPath .fetch).stopWrites .fetch).partition = u.partition ∧ ((u.markPath .fetch).stopWrites .fetch).pathFetch = true
      ∧ ((u.markPath .fetch).stopWrites .fetch).fetching = false ∧ ((u.markPath .fetch).stopWrites .fetch).nextSeq = u.nextSeq
      ∧ ((u.markPath .fetch).stopWrites .fetch).retiredSeq = u.retiredSeq := by
  have h := Queue.stopWrites_unheld (u.markPath .fetch) .fetch
  exact ⟨(congrArg Queue.partition h :), (congrArg Queue.pathFetch h :), (congrArg Queue.fetching h :), (congrArg Queue.nextSeq h :),
    (congrArg Queue.retiredSeq h :)⟩

/-- A queue that takes a state, with all else of it but its writes. -/
theorem State.setQState_does (s : State) (q : Nat) (st : QState) :
    ((s.setQState q st).queue q).settled = { s.queue q with state := st }.settled
      ∧ (∀ x, x ≠ q → (s.setQState q st).queue x = s.queue x) := by
  have h := State.setQState_written s q st
  exact ⟨h.own.trans (by rw [State.queue_modQueue_same]), fun x hx => (h.others x hx).trans (State.queue_modQueue_ne _ _ hx)⟩

/-- The queue of a slot read that fails, before it is blocked. -/
def State.failedFetch (s : State) (q : Nat) : State :=
  (s.modQueue q fun u => (u.markPath .fetch).stopWrites .fetch).modQueue q fun u => { u with blockPoint := u.nextSeq }

/-- A queue that is blocked, with its interrupt and its indication (R172). -/
theorem State.block_does (s : State) (q : Nat) :
    OnlyChanges [.queues, .out, .fports, .msix, .ic, .parts] s ((s.setQState q .blocked).noteBlocked q)
      ∧ (((s.setQState q .blocked).noteBlocked q).queue q).settled = { s.queue q with state := .blocked }.settled
      ∧ (((s.setQState q .blocked).noteBlocked q).part (s.queue q).partition).events.queuePath
        = min ((s.part (s.queue q).partition).events.queuePath + 1) 0xFFFF
      ∧ ∀ x, x ≠ q → ((s.setQState q .blocked).noteBlocked q).queue x = s.queue x := by
  obtain ⟨hown, hothers⟩ := s.setQState_does q .blocked
  have hset := State.setQState_touches s q .blocked
  set c := s.setQState q .blocked with hc
  have hnote : (c.noteBlocked q).queues = c.queues := (State.noteBlocked_touches c q).frame .queues (by decide)
  have hpart : (c.queue q).partition = (s.queue q).partition := Queue.of_settled hown Queue.partition fun _ => rfl
  have hparts : c.parts = s.parts := hset.frame .parts (by decide)
  refine ⟨(hset.frame.mono (by decide)).trans ((State.noteBlocked_touches c q).frame.mono (by decide)), ?_, ?_, fun x hx => ?_⟩
  · rw [State.queue_of_queues hnote]
    exact hown
  · rw [State.noteBlocked, hpart, State.part_modPart_same]
    show satAdd 16 (c.part _).events.queuePath 1 = _
    rw [part_of_parts hparts]
    rfl
  · rw [State.queue_of_queues hnote, hothers x hx]

/-- A resumption that begins keeps all of its queue but its writes, what was held back of them, and its tail (R173). -/
theorem State.startResume_written (s : State) (q : Nat) :
    Written q (s.modQueue q fun u => { u with
      resuming := some u.tail, held := [], absorbedF := false, stepF := false, interruptF := false }) (s.startResume q) := by
  have hfold : ∀ (ws : List GuestWrite) (s : State), Written q s (ws.foldl (fun s w => s.pushWrite q w) s) := by
    intro ws
    induction ws with
    | nil => exact .refl
    | cons w ws ih => exact fun s => (State.pushWrite_written s q w).trans (ih _)
  unfold State.startResume
  dsimp only
  split
  · exact (hfold _ _).trans ((State.pushWrite_written ..).trans (State.pushWrite_written ..))
  · exact (hfold _ _).trans (State.pushWrite_written ..)

/-- The queue that is blamed, before its slots end. -/
def State.becomeGuilty (s : State) (q : Nat) : State :=
  (({ s with errs := { s.errs with handlingQ := s.errs.handlingQ.filter (· != q) } } : State).modQueue q fun u =>
    { u with resuming := none }).setQState q .guilty

theorem State.becomeGuilty_does (s : State) (q : Nat) :
    ((s.becomeGuilty q).queue q).state = .guilty ∧ (s.becomeGuilty q).errs.handlingQ = s.errs.handlingQ.filter (· != q)
      ∧ (s.becomeGuilty q).slots = s.slots := by
  have hset := State.setQState_touches (({ s with errs := { s.errs with
    handlingQ := s.errs.handlingQ.filter (· != q) } } : State).modQueue q fun u => { u with resuming := none }) q .guilty
  exact ⟨Queue.of_settled (State.setQState_does _ q .guilty).1 Queue.state fun _ => rfl, congrArg Errors.handlingQ (hset.frame .errs (by decide)),
    hset.frame .slots (by decide)⟩

/-- The head of a list of writes goes out as a write to guest memory. -/
theorem State.issueHead_guest {s : State} {q : Nat} {w : GuestWrite} {rest : List GuestWrite} (hw : (s.queue q).writes = w :: rest)
    (hv : (s.queue q).vectorOf w = none) (hp : (s.queue q).attrs.path = 0) : s.issueHead q = s.emit (.guest q w) := by
  rw [State.issueHead, hw, List.length_cons, State.issueWrites, hw]
  dsimp only
  rw [hv, State.viaPath, hp]
  rfl

theorem State.issueHead_nil {s : State} {q : Nat} (hw : (s.queue q).writes = []) : s.issueHead q = s := by
  rw [State.issueHead, hw]
  rfl

/-- A command on a queue's page by a requester that the page is bound to. -/
theorem completes_onQueuePage {i : Instr} {s : State} {r : Requester} {q reg : Nat} {f : State → State} {P : State → Prop}
    (hl : s.live = true) (hr : s.reachesQueue r q = true) (hi : exec i s = .next (s.onQueuePage r q reg f)) (hp : P (f s)) :
    Completes i s P := by
  refine ⟨_, hi, ?_⟩
  rw [State.onQueuePage, State.access_live hl, hr, if_pos rfl]
  exact hp

/-- Settles O19: the list of writes, the state that a queue takes, and what the ending of its slots leaves of it. -/
theorem queuesWriteStopAndResume : Obligations.QueuesWriteStopAndResume := by
  unfold Obligations.QueuesWriteStopAndResume
  refine ⟨fun s q w w' rest hl hw hr hv hp => ?next, fun s q w hl hw hr => ?last, fun s q w hl hw hv => ?lost,
    fun s q hl hf hst => ?fail, fun s r q hl hr hst => ?stop, fun s r q hl hr hst hg hm => ?resume,
    fun s r q hl hr hst hm => ?ignored, fun s r q hl hr hst hn => ?begin, fun s q copied hl hq hst => ?guilty,
    fun s q e hl hq hst hs he ha hlaunch hrun => ?copy⟩
  case next =>
    refine completes_when (b := fun s => !(s.queue q).writes.isEmpty) hl rfl (by simp [hw]) ?_
    dsimp only
    set a := s.modQueue q fun u => { u with writes := u.writes.tail } with ha
    have haq : a.queue q = { s.queue q with writes := w' :: rest } := by rw [ha, State.queue_modQueue_same, hw]; rfl
    rw [State.issueHead_guest (w := w') (rest := rest) (by rw [haq]) (by rw [haq]; exact hv) (by rw [haq]; exact hp)]
    have hdone : ((a.emit (.guest q w')).queue q).resumeDone = false := by
      show (a.queue q).resumeDone = false
      rw [haq]
      simp [Queue.resumeDone, hr]
    rw [hdone, State.when_false]
    refine ⟨((State.modQueue_touches ..).frame.mono (by decide)).trans ((emit_frame _ _).mono (by decide)), ?_, rfl, fun x hx => ?_⟩
    · exact congrArg Queue.writes haq
    · exact (State.queue_modQueue_ne s _ hx : a.queue x = _)
  case last =>
    refine completes_when (b := fun s => !(s.queue q).writes.isEmpty) hl rfl (by simp [hw]) ?_
    dsimp only
    set a := s.modQueue q fun u => { u with writes := u.writes.tail } with ha
    have haq : a.queue q = { s.queue q with writes := [] } := by rw [ha, State.queue_modQueue_same, hw]; rfl
    rw [State.issueHead_nil (by rw [haq]), haq]
    rw [show ({ s.queue q with writes := [] } : Queue).resumeDone = false by simp [Queue.resumeDone, hr], State.when_false]
    exact ⟨(State.modQueue_touches ..).frame, haq, fun x hx => State.queue_modQueue_ne s _ hx⟩
  case lost =>
    refine completes_when (b := fun s => (s.queue q).writes.head?.any fun w => ((s.queue q).vectorOf w).isSome) hl rfl
      (by simp [hw, hv]) ?_
    dsimp only
    set a := s.modQueue q fun u => { u with writes := u.writes.tail, intLost := true } with ha
    have haq : a.queue q = { s.queue q with writes := [], intLost := true } := by rw [ha, State.queue_modQueue_same, hw]; rfl
    rw [State.issueHead_nil (by rw [haq])]
    exact ⟨(State.modQueue_touches ..).frame, haq, fun x hx => State.queue_modQueue_ne s _ hx⟩
  case fail =>
    refine completes_when (b := fun s => (s.queue q).accessing .fetch) hl rfl hf ?_
    dsimp only
    rw [hst, if_pos (show (QueueArea.fetch == QueueArea.fetch) = true from rfl)]
    dsimp only
    rw [← State.failedFetch]
    obtain ⟨hpart, hpath, hfetching, hnext, hretired⟩ := (s.queue q).failed_fetch
    have hfailed : (s.failedFetch q).queue q = { ((s.queue q).markPath .fetch).stopWrites .fetch with
        blockPoint := (((s.queue q).markPath .fetch).stopWrites .fetch).nextSeq } := by
      rw [State.failedFetch, State.queue_modQueue_same, State.queue_modQueue_same]
    have hothers : ∀ x, x ≠ q → (s.failedFetch q).queue x = s.queue x := fun x hx => by
      rw [State.failedFetch, State.queue_modQueue_ne _ _ hx, State.queue_modQueue_ne _ _ hx]
    have hframe : OnlyChanges [.queues] s (s.failedFetch q) :=
      (State.modQueue_touches s q _).frame.trans (State.modQueue_touches _ q _).frame
    obtain ⟨hblock, hown, hevents, hothers'⟩ := (s.failedFetch q).block_does q
    have hparts : (s.failedFetch q).parts = s.parts := hframe .parts (by decide)
    rw [hfailed] at hown hevents
    dsimp only at hevents
    rw [hpart, part_of_parts hparts] at hevents
    exact ⟨(hframe.mono (by decide)).trans hblock, (Queue.of_settled hown Queue.state fun _ => rfl), (Queue.of_settled hown Queue.pathFetch fun _ => rfl).trans hpath,
      (Queue.of_settled hown Queue.fetching fun _ => rfl).trans hfetching, (Queue.of_settled hown Queue.blockPoint fun _ => rfl).trans hnext,
      (Queue.of_settled hown Queue.retiredSeq fun _ => rfl).trans hretired, hevents, fun x hx => (hothers' x hx).trans (hothers x hx)⟩
  case stop =>
    refine completes_onQueuePage hl hr rfl ?_
    rw [hst, beq_self_eq_true, State.when_true]
    set a := s.modQueue q fun u => { u with guestStop := true } with ha
    have haq : a.queue q = { s.queue q with guestStop := true } := State.queue_modQueue_same ..
    obtain ⟨hown, hothers⟩ := a.setQState_does q .stopped
    rw [haq] at hown
    refine ⟨((State.modQueue_touches s q _).frame.mono (by decide)).trans ((State.setQState_touches ..).frame.mono (by decide)), (Queue.of_settled hown Queue.state fun _ => rfl),
      (Queue.of_settled hown Queue.guestStop fun _ => rfl), (Queue.of_settled hown Queue.tail fun _ => rfl), (Queue.of_settled hown Queue.nextSeq fun _ => rfl), fun x hx => ?_⟩
    exact (hothers x hx).trans (State.queue_modQueue_ne s _ hx)
  case resume =>
    refine completes_onQueuePage hl hr rfl ?_
    dsimp only
    rw [if_neg (by simp [hst]), hst, hg, hm, show (QState.stopped == QState.stopped && true && !false) = true from rfl, State.when_true]
    set a := s.modQueue q fun u => { u with guestStop := false } with ha
    have haq : a.queue q = { s.queue q with guestStop := false } := State.queue_modQueue_same ..
    obtain ⟨hown, hothers⟩ := a.setQState_does q .active
    rw [haq] at hown
    refine ⟨((State.modQueue_touches s q _).frame.mono (by decide)).trans ((State.setQState_touches ..).frame.mono (by decide)), (Queue.of_settled hown Queue.state fun _ => rfl),
      (Queue.of_settled hown Queue.guestStop fun _ => rfl), (Queue.of_settled hown Queue.tail fun _ => rfl), fun x hx => ?_⟩
    exact (hothers x hx).trans (State.queue_modQueue_ne s _ hx)
  case ignored =>
    refine completes_onQueuePage hl hr rfl ?_
    dsimp only
    rw [if_neg (by simp [hst]), hm]
    simp [State.when]
  case begin =>
    refine completes_onQueuePage hl hr rfl ?_
    dsimp only
    rw [if_pos (by simp [hst, hn])]
    have hown := s.startResume_written q
    refine ⟨(State.startResume_touches ..).frame.mono (by decide), ?_, ?_, ?_, ?_⟩
    · exact (hown.keeps Queue.state fun _ => rfl).trans (by rw [State.queue_modQueue_same]; exact hst)
    · exact (hown.keeps Queue.resuming fun _ => rfl).trans (by rw [State.queue_modQueue_same])
    · exact (hown.keeps Queue.held fun _ => rfl).trans (by rw [State.queue_modQueue_same])
    · exact (hown.keeps Queue.retiredSeq fun _ => rfl).trans (by rw [State.queue_modQueue_same])
  case guilty =>
    refine completes_when (b := fun s => s.errs.handlingQ.contains q
      && ((s.queue q).state == .active || (s.queue q).state == .stopped || (s.queue q).state == .blocked)) hl rfl ?_ ?_
    · rcases hst with h | h | h <;> simp [hq, h]
    · obtain ⟨hstate, hhand, -⟩ := s.becomeGuilty_does q
      have hsteady := Steady.foldl (q := q) (f := fun s (e : Slot) =>
        if e.admitted then s.endSlot q e.seq (.guilty (if copied then 2 else 1)) else s.refuseSlot q e.seq Status.queueStopped 2)
        (fun s e => by split; exacts [State.endSlot_steady .., State.refuseSlot_steady ..])
        ((s.becomeGuilty q).slots.filter fun e => e.queue == q) (s.becomeGuilty q)
      have hdrain : ((s.becomeGuilty q).queue q).state ≠ .draining := by rw [hstate]; decide
      refine ⟨(hsteady.state hdrain).trans hstate, ?_⟩
      have hmem := (hsteady.handling hdrain).trans hhand
      rw [show s.becomeGuilty q = _ from rfl] at hmem
      exact fun h => absurd (hmem ▸ h) (by simp)
  case copy =>
    refine completes_when (b := fun s => s.errs.handlingQ.contains q
      && ((s.queue q).state == .active || (s.queue q).state == .stopped || (s.queue q).state == .blocked)) hl rfl (by simp [hq, hst]) ?_
    show ∃ x, (((s.becomeGuilty q).slots.filter fun e => e.queue == q).foldl (fun s (e : Slot) =>
      if e.admitted then s.endSlot q e.seq (.guilty (if true = true then 2 else 1)) else s.refuseSlot q e.seq Status.queueStopped 2)
      (s.becomeGuilty q)).slots = [x] ∧ _
    obtain ⟨-, -, hslots⟩ := s.becomeGuilty_does q
    have hmine : (s.becomeGuilty q).slots.filter (fun e => e.queue == q) = [e] := by simp [hslots, hs, he]
    rw [hmine, List.foldl_cons, List.foldl_nil, if_pos ha, if_pos rfl]
    have hslot : (s.becomeGuilty q).slot? q e.seq = some e := by simp [State.slot?, hslots, hs, he]
    refine ⟨{ e with status := Status.queueGuilty, cause := 2, state := .ended }, ?_, he, rfl, rfl, rfl, rfl⟩
    rw [State.endSlot_slots hslot ha hlaunch hrun, State.modSlot, hslots, hs]
    simp only [List.map_cons, List.map_nil, he, beq_self_eq_true, Bool.and_self, if_true]
    rfl

end Sys2Proof.Machine
end

section
/-!
PROOFS (this file, a sitting of its own). Phases and tiles start (R113, R212, R219, R224).
-/
namespace Sys2Proof.Machine

open Sys2Proof

/-! ### A phase that has started -/

/-- Phase `k` of a slot has started. -/
def Slot.HasStarted (e : Slot) (k : Nat) : Prop := (e.phaseStates[k]?).map (·.started) = some true

/-- Phase `k` of slot `n` of queue `q` has started. -/
def State.PhaseStarted (s : State) (q n k : Nat) : Prop := ∃ x, s.slot? q n = some x ∧ x.HasStarted k

namespace State.PhaseStarted

variable {s t : State} {q n k : Nat}

theorem of_slots (h : s.PhaseStarted q n k) (hs : t.slots = s.slots) : t.PhaseStarted q n k := by
  obtain ⟨x, hx, hk⟩ := h
  exact ⟨x, (State.slot_of_slots hs q n).trans hx, hk⟩

theorem of_kept (h : s.PhaseStarted q n k) (hs : SlotsKept s t) : t.PhaseStarted q n k := by
  obtain ⟨x, hx, hk⟩ := h
  obtain ⟨y, hy, hyx⟩ := hs.found hx
  have hphases : y.phaseStates = x.phaseStates := (congrArg Slot.phaseStates hyx :)
  exact ⟨y, hy, by rw [Slot.HasStarted, hphases]; exact hk⟩

theorem modSlot (h : s.PhaseStarted q n k) {a b : Nat} {f : Slot → Slot} (hf : ∀ e, (f e).queue = e.queue ∧ (f e).seq = e.seq)
    (hk : ∀ e : Slot, e.HasStarted k → (f e).HasStarted k) : (s.modSlot a b f).PhaseStarted q n k := by
  obtain ⟨x, hx, hxk⟩ := h
  rw [State.PhaseStarted, State.slot_modSlot _ _ _ _ _ hf, hx]
  refine ⟨_, rfl, ?_⟩
  dsimp only
  split
  · exact hk x hxk
  · exact hxk

theorem told (h : s.PhaseStarted q n k) : ((s.slot? q n).bind fun x => x.phaseStates[k]?).map (·.started) = some true := by
  obtain ⟨x, hx, hk⟩ := h
  rw [hx]
  exact hk

end State.PhaseStarted

/-- A change of one phase that does not undo its start. -/
theorem Slot.HasStarted.modPhase {e : Slot} {k : Nat} (h : e.HasStarted k) (j : Nat) {f : PhaseState → PhaseState}
    (hf : ∀ ps, ps.started = true → (f ps).started = true) : (e.modPhase j f).HasStarted k := by
  obtain ⟨ps, hps, hst⟩ := Option.map_eq_some_iff.mp h
  rw [Slot.HasStarted, Slot.modPhase]
  dsimp only
  rw [List.getElem?_modify, hps]
  by_cases hj : j = k
  · simp [hj, hf ps hst]
  · simp [hj, hst]

theorem Slot.failShard_key (e : Slot) (p sh c : Nat) : (e.failShard p sh c).queue = e.queue ∧ (e.failShard p sh c).seq = e.seq
    ∧ (e.failShard p sh c).phaseStates = e.phaseStates := by
  unfold Slot.failShard
  split
  · exact ⟨rfl, rfl, rfl⟩
  · split <;> exact ⟨rfl, rfl, rfl⟩

theorem Slot.foldl_failShard_key (l : List Nat) (p c : Nat) (e : Slot) :
    (l.foldl (fun e sh => e.failShard p sh c) e).queue = e.queue ∧ (l.foldl (fun e sh => e.failShard p sh c) e).seq = e.seq
      ∧ (l.foldl (fun e sh => e.failShard p sh c) e).phaseStates = e.phaseStates := by
  induction l generalizing e with
  | nil => exact ⟨rfl, rfl, rfl⟩
  | cons x l ih =>
    obtain ⟨hq, hn, hp⟩ := ih (e.failShard p x c)
    obtain ⟨hq', hn', hp'⟩ := e.failShard_key p x c
    exact ⟨hq.trans hq', hn.trans hn', hp.trans hp'⟩

theorem Slot.foldl_modTile_key (l : List Nat) (f : Slot → Nat → TileState → TileState) (e : Slot) :
    (l.foldl (fun e t => e.modTile t (f e t)) e).queue = e.queue ∧ (l.foldl (fun e t => e.modTile t (f e t)) e).seq = e.seq
      ∧ (l.foldl (fun e t => e.modTile t (f e t)) e).phaseStates = e.phaseStates := by
  induction l generalizing e with
  | nil => exact ⟨rfl, rfl, rfl⟩
  | cons x l ih => exact ih _

theorem Slot.HasStarted.of_phases {e x : Slot} {k : Nat} (h : e.HasStarted k) (hx : x.phaseStates = e.phaseStates) : x.HasStarted k := by
  rw [Slot.HasStarted, hx]
  exact h

/-- What a change of a slot keeps: its place, and that a phase has started. -/
structure Slot.StillStarted (k : Nat) (e x : Slot) : Prop where
  queue : x.queue = e.queue
  seq : x.seq = e.seq
  started : e.HasStarted k → x.HasStarted k

theorem Slot.rerunPhase_started (k j : Nat) (e : Slot) : e.StillStarted k (e.rerunPhase j) := by
  unfold Slot.rerunPhase
  split
  · exact ⟨rfl, rfl, id⟩
  · next m _ =>
    dsimp only
    obtain ⟨hq, hn, hp⟩ := Slot.foldl_modTile_key m.tileIndices
      (fun _ _ x => { x with place := .waiting, commitCt := none, rerun := true, replayed := false }) e
    set a := m.tileIndices.foldl (fun (e : Slot) t => e.modTile t fun x =>
      { x with place := .waiting, commitCt := none, rerun := true, replayed := false }) e
    obtain ⟨hq', hn', hp'⟩ := Slot.foldl_modTile_key m.tileIndices (fun e t x => { x with preds := e.predsLeft t }) a
    set b := m.tileIndices.foldl (fun (e : Slot) t => e.modTile t fun x => { x with preds := e.predsLeft t }) a
    refine ⟨hq'.trans hq, hn'.trans hn, fun h => ?_⟩
    exact ((h.of_phases (hp'.trans hp)).modPhase j (f := fun ps => { ps with rerun := true }) fun _ => id).of_phases rfl

theorem Slot.endPhase_started (k j : Nat) (e : Slot) : e.StillStarted k (e.endPhase j) := by
  have hdone : ∀ x : Slot, x.queue = e.queue → x.seq = e.seq → x.phaseStates = e.phaseStates →
      e.StillStarted k (x.modPhase j fun ps => { ps with ended := true }) := fun x hq hn hp =>
    ⟨hq, hn, fun h => (h.of_phases hp).modPhase j fun _ => id⟩
  unfold Slot.endPhase
  split
  · exact ⟨rfl, rfl, id⟩
  · dsimp only
    split_ifs
    · exact hdone e rfl rfl rfl
    · exact hdone _ rfl rfl rfl
    · exact ⟨rfl, rfl, fun h => h.of_phases rfl⟩
    · exact Slot.rerunPhase_started k j e
    · exact hdone _ rfl rfl rfl
    · exact hdone _ rfl rfl rfl

theorem Slot.endPhases_started (k : Nat) (e : Slot) : e.StillStarted k e.endPhases := by
  unfold Slot.endPhases
  generalize List.range e.phaseStates.length = l
  induction l generalizing e with
  | nil => exact ⟨rfl, rfl, id⟩
  | cons j l ih =>
    have hone : e.StillStarted k (if (e.phaseStates[j]?).any (fun ps => ps.open) && (e.uncommitted j).isEmpty then e.endPhase j else e) := by
      split
      · exact Slot.endPhase_started k j e
      · exact ⟨rfl, rfl, id⟩
    obtain ⟨hq, hn, hs⟩ := ih (if (e.phaseStates[j]?).any (fun ps => ps.open) && (e.uncommitted j).isEmpty then e.endPhase j else e)
    exact ⟨hq.trans hone.queue, hn.trans hone.seq, fun h => hs (hone.started h)⟩

theorem State.settleLaunch_started {s : State} {q n k : Nat} (h : s.PhaseStarted q n k) : (s.settleLaunch q n).PhaseStarted q n k := by
  unfold State.settleLaunch
  split
  · exact h
  · split
    · exact h
    · have hend : (s.modSlot q n Slot.endPhases).PhaseStarted q n k :=
        h.modSlot (fun e => ⟨(Slot.endPhases_started k e).queue, (Slot.endPhases_started k e).seq⟩)
          fun e => (Slot.endPhases_started k e).started
      dsimp only
      split
      · exact hend
      · split
        · exact hend.modSlot (fun _ => ⟨rfl, rfl⟩) fun _ hk => hk
        · exact hend

theorem State.startReshards_started {s : State} {q n k : Nat} (h : s.PhaseStarted q n k) (e : Slot) (j : Nat) (m : PhaseMap) :
    (s.startReshards e j m).PhaseStarted q n k := by
  have hjobs : ∀ (jobs : List (Nat × MoverJob)), (jobs.foldl (fun (s : State) (j : Nat × MoverJob) =>
      s.modCluster j.1 fun x => { x with mover := x.mover ++ [j.2] }) s).slots = s.slots := fun jobs =>
    (Touches.foldl (ps := [.clusters]) (.refl _ s) fun _ _ => State.modCluster_touches ..).frame .slots (by decide)
  unfold State.startReshards
  dsimp only
  apply State.PhaseStarted.modSlot
  · exact h.of_slots (hjobs _)
  · exact fun _ => ⟨rfl, rfl⟩
  · exact fun x hk => hk.modPhase j fun _ => id

/-! ### The targets of a tile that commits none -/

theorem Slot.guestPages_of {e x : Slot} (hi : x.image = e.image) (hb : x.bindings = e.bindings) (t : Nat) :
    x.guestPages t = e.guestPages t := by
  simp only [Slot.guestPages, Slot.tileDef?, hi, hb]

theorem Slot.outputPages_of {e x : Slot} (hi : x.image = e.image) (hb : x.bindings = e.bindings) (t : Nat) :
    x.outputPages t = e.outputPages t := by
  simp only [Slot.outputPages, Slot.tileDef?, hi, hb]

theorem State.pinTargets_none {s : State} {k : Nat} (h : s.unpinnedTargets k = []) : s.pinTargets k = s := by
  unfold State.pinTargets
  split
  · rfl
  · split
    · rfl
    · rw [h]
      split <;> rfl

/-- A tile without first reads and without targets to pin issues nothing. -/
theorem State.kick_none {s : State} {k : Nat} (h : s.unpinnedTargets k = []) (hr : (s.core k).startReads = []) : s.kick k = s := by
  unfold State.kick
  dsimp only
  split
  · rfl
  · rw [State.pinTargets_none h, hr]
    split <;> rfl

theorem State.unpinnedTargets_none {s : State} {k : Nat} {x : Slot} (hx : s.slot? (s.core k).queue (s.core k).seq = some x)
    (hg : x.guestPages (s.core k).tile = []) (ho : x.outputPages (s.core k).tile = []) : s.unpinnedTargets k = [] := by
  rw [State.unpinnedTargets, hx]
  dsimp only
  rw [hg, ho]
  rfl

/-! ### What is kept of every slot -/

/-- Every slot of `s` stands in `t` with the same `f`. -/
structure SlotsAgree {α : Type} (f : Slot → α) (s t : State) : Prop where
  slot : ∀ q n, (t.slot? q n).map f = (s.slot? q n).map f

namespace SlotsAgree

variable {α : Type} {f : Slot → α} {s t u : State}

theorem refl (s : State) : SlotsAgree f s s := ⟨fun _ _ => rfl⟩

theorem trans (h : SlotsAgree f s t) (k : SlotsAgree f t u) : SlotsAgree f s u :=
  ⟨fun q n => (k.slot q n).trans (h.slot q n)⟩

theorem after (k : SlotsAgree f t u) (h : SlotsAgree f s t) : SlotsAgree f s u := h.trans k

theorem of_slots (h : t.slots = s.slots) : SlotsAgree f s t := ⟨fun q n => by rw [State.slot_of_slots h]⟩

theorem of_touches {ps : List Part} (h : Touches ps s t) (hp : Part.slots ∉ ps) : SlotsAgree f s t := of_slots (h.frame .slots hp)

theorem foldl {β : Type} {g : State → β → State} (h : ∀ s x, SlotsAgree f s (g s x)) (l : List β) (s : State) :
    SlotsAgree f s (l.foldl g s) := by
  induction l generalizing s with
  | nil => exact refl s
  | cons x l ih => exact (h s x).trans (ih _)

theorem modSlot (s : State) (q n : Nat) {g : Slot → Slot} (hg : ∀ e, (g e).queue = e.queue ∧ (g e).seq = e.seq)
    (hf : ∀ e, f (g e) = f e) : SlotsAgree f s (s.modSlot q n g) := by
  refine ⟨fun a b => ?_⟩
  rw [State.slot_modSlot _ _ _ _ _ hg]
  cases s.slot? a b with
  | none => rfl
  | some e =>
    simp only [Option.map_some]
    split
    · rw [hf]
    · rfl

theorem found (h : SlotsAgree f s t) {q n : Nat} {e : Slot} (he : s.slot? q n = some e) : ∃ x, t.slot? q n = some x ∧ f x = f e := by
  have hk := h.slot q n
  rw [he, Option.map_some, Option.map_eq_some_iff] at hk
  obtain ⟨x, hx, hu⟩ := hk
  exact ⟨x, hx, hu⟩

end SlotsAgree

/-- What the pages of a tile turn on. -/
theorem State.saveLive_bound (cs : List Cand) (s : State) : SlotsAgree (fun e => (e.image, e.bindings)) s (s.saveLive cs) :=
  .foldl (fun s (c : Cand) => .modSlot s c.queue c.seq (g := fun e => e.modTile c.tile fun x => { x with saved := true })
    (fun _ => ⟨rfl, rfl⟩) fun _ => rfl) _ _

/-- A slot after its tile has been given to a core (R212, R219). -/
def Slot.givenTo (e : Slot) (k t now : Nat) : Slot :=
  let x := match e.firstPred t with
    | some f => e.modTile f fun x => { x with saved := false, doneCore := k }
    | none => e
  { x.modTile t fun y => { y with place := .running k } with firstStart := x.firstStart.orElse fun _ => some now }

theorem Slot.givenTo_does (e : Slot) (k t now : Nat) :
    (e.givenTo k t now).queue = e.queue ∧ (e.givenTo k t now).seq = e.seq ∧ (e.givenTo k t now).image = e.image
      ∧ (e.givenTo k t now).bindings = e.bindings ∧ ((e.givenTo k t now).tile t).place = .running k := by
  unfold Slot.givenTo
  cases e.firstPred t <;> exact ⟨rfl, rfl, rfl, rfl, congrArg TileState.place (tbl_getD_put_same _ _ _ _)⟩

/-- What a core that has been given a tile stands for. -/
theorem State.startTile_does {s : State} {q n k t : Nat} {e : Slot} (he : s.slot? q n = some e) (hg : e.guestPages t = [])
    (ho : e.outputPages t = []) :
    ((s.startTile k e t []).core k).queue = q ∧ ((s.startTile k e t []).core k).seq = n ∧ ((s.startTile k e t []).core k).tile = t
      ∧ ((s.startTile k e t []).core k).partition = e.partition
      ∧ ((s.startTile k e t []).core k).context = some (ctxKey e.partition e.context)
      ∧ ((s.startTile k e t []).core k).mode =
        (let time := switchTime ((s.core k).lastContext.any (· != ctxKey e.partition e.context))
            (s.liveSize (s.liveLeft k { queue := q, seq := n, tile := t })) (e.restoreBytes t)
         if time = 0 then .running else .switching (s.time.now + time))
      ∧ (((s.startTile k e t []).slot? q n).map fun y => (y.tile t).place) = some (.running k)
      ∧ ∀ j, j ≠ k → (s.startTile k e t []).core j = s.core j := by
  obtain ⟨rfl, rfl⟩ := State.slot_key he
  set key := ctxKey e.partition e.context with hkey
  set left := s.liveLeft k { queue := e.queue, seq := e.seq, tile := t } with hleft
  set time := switchTime ((s.core k).lastContext.any (· != key)) (s.liveSize left) (e.restoreBytes t) with htime
  set old := (s.core k).lastContext with hold
  set a := s.saveLive left with ha
  set b := (if s.preempts k key then a.account (old.getD key) fun x => { x with ordinary := satAdd 32 x.ordinary 1 } else a) with hb
  set c := b.account key fun x => { x with switchNs := satAdd 64 x.switchNs time } with hc
  set d := c.modSlot e.queue e.seq fun x => x.givenTo k t c.time.ct with hd
  set f := d.modCore k fun x =>
    { x.idle with
      mode := if time == 0 then .running else .switching (d.time.now + time), queue := e.queue, seq := e.seq, tile := t,
      context := some key, lastContext := old, partition := e.partition, startNs := d.time.now + time,
      startReads := [], basted := none, switchedAt := d.time.now,
      slice := x.sliceFor key e.promise.isNone d.time.now } with hf
  set g := (if e.promise.isNone && f.shareOf key == 0 then
    f.modShares e.partition (clusterOfCore k) fun h => { h with lastZero := key } else f) with hg'
  have hstart : s.startTile k e t [] = (((g.startCopies e t).pinTargets k).kick k).track := rfl
  have hab : Touches [.ctxs] a b := by
    rw [hb]
    split
    · exact State.account_touches ..
    · exact .refl ..
  have hac : Touches [.ctxs] a c := hab.trans (State.account_touches ..)
  have hsc : Touches [.slots, .ctxs] s c := (State.saveLive_touches s left |>.mono (by decide)).trans (hac.mono (by decide))
  have hfg : Touches [.commons, .clusters] f g := by
    rw [hg']
    split
    · exact State.modShares_touches ..
    · exact .refl ..
  have htime : d.time = s.time := hsc.frame .time (by decide)
  have hdcores : d.cores = s.cores := hsc.frame .cores (by decide)
  obtain ⟨x, hx, himage, hbind⟩ : ∃ x, c.slot? e.queue e.seq = some x ∧ x.image = e.image ∧ x.bindings = e.bindings := by
    obtain ⟨x, hx, hpair⟩ := (State.saveLive_bound left s).found he
    obtain ⟨himage, hbind⟩ := Prod.mk.inj hpair
    exact ⟨x, (State.slot_of_slots (hac.frame .slots (by decide)) _ _).trans hx, himage, hbind⟩
  have hgiven := fun y : Slot => y.givenTo_does k t c.time.ct
  have hdslot : d.slot? e.queue e.seq = some (x.givenTo k t c.time.ct) :=
    State.slot_modSlot_same hx fun y => ⟨(hgiven y).1, (hgiven y).2.1⟩
  obtain ⟨-, -, himage', hbind', hplace⟩ := hgiven x
  have hgslots : g.slots = d.slots := Eq.trans (hfg.frame .slots (by decide)) rfl
  have hgcore : g.core k = f.core k := State.core_of_cores (hfg.frame .cores (by decide)) k
  have hfcore : f.core k = { (s.core k).idle with
      mode := if time == 0 then .running else .switching (s.time.now + time), queue := e.queue, seq := e.seq, tile := t,
      context := some key, lastContext := old, partition := e.partition, startNs := s.time.now + time,
      startReads := [], basted := none, switchedAt := s.time.now,
      slice := (s.core k).sliceFor key e.promise.isNone s.time.now } := by
    rw [hf, State.core_modCore_same, htime, State.core_of_cores hdcores]
  have hgslot : g.slot? e.queue e.seq = some (x.givenTo k t c.time.ct) := (State.slot_of_slots hgslots _ _).trans hdslot
  have hpin : g.unpinnedTargets k = [] := by
    refine State.unpinnedTargets_none (x := x.givenTo k t c.time.ct) ?_ ?_ ?_
    · rw [hgcore, hfcore]
      exact hgslot
    · rw [hgcore, hfcore, Slot.guestPages_of (himage'.trans himage) (hbind'.trans hbind)]
      exact hg
    · rw [hgcore, hfcore, Slot.outputPages_of (himage'.trans himage) (hbind'.trans hbind)]
      exact ho
  have hcopies : g.startCopies e t = g := by rw [State.startCopies, ho, List.foldl_nil]
  have hkick : g.kick k = g := State.kick_none hpin (by rw [hgcore, hfcore])
  rw [hstart, hcopies, State.pinTargets_none hpin, hkick]
  have hcores : ∀ j, g.track.core j = f.core j := fun j =>
    (State.core_of_cores ((State.track_touches g).frame .cores (by decide)) j).trans
      (State.core_of_cores (hfg.frame .cores (by decide)) j)
  rw [hcores, hfcore]
  refine ⟨rfl, rfl, rfl, rfl, rfl, ?_, ?_, fun j hj => ?_⟩
  · simp only [beq_iff_eq]
  · rw [(State.track_slots g).field (fun y => (y.tile t).place) fun _ => rfl, hgslot, Option.map_some, hplace]
  · rw [hcores, hf, State.core_modCore_ne _ _ hj, State.core_of_cores hdcores]

/-- Settles O26: what a start makes of the phase and of the tile, and what a core without reads to issue goes on with. -/
theorem phasesAndTilesStart : Obligations.PhasesAndTilesStart := by
  unfold Obligations.PhasesAndTilesStart
  refine ⟨fun s q n phase e k ps m hl he hd hk hps hm hst hr hf => ?phase, fun s k x e hl hfree hlow hx he hg ho => ?tile,
    fun s k hl hrun => ?baste, fun s k at_ hl hm hat hr ht => ?switch⟩
  case phase =>
    refine completes_onSlot hl he rfl hd ?_
    dsimp only
    rw [hk]
    dsimp only
    rw [show (e.phaseStates[k]?).bind (fun ps => (e.map? ps.map).map fun m => (ps, m)) = some (ps, m) by
      rw [hps, Option.bind_some, hm, Option.map_some]]
    dsimp only
    rw [hst, hr, hf, show (!false && true && (none : Option Nat).isNone) = true from rfl, State.when_true]
    set a := s.modSlot q n fun e => e.modPhase k fun ps => { ps with started := true, builtCt := s.ctNow } with ha
    have hstart : a.PhaseStarted q n k := by
      refine ⟨_, State.slot_modSlot_same he fun _ => ⟨rfl, rfl⟩, ?_⟩
      simp [Slot.HasStarted, Slot.modPhase, hps]
    set bad := a.failPlaced e m with hbad
    set b := a.modSlot q n fun e => bad.foldl (fun e sh => e.failShard phase sh 3) e with hb
    have hfail : b.PhaseStarted q n k := hstart.modSlot
      (fun e => ⟨(Slot.foldl_failShard_key bad phase 3 e).1, (Slot.foldl_failShard_key bad phase 3 e).2.1⟩)
      fun e hk => hk.of_phases (Slot.foldl_failShard_key bad phase 3 e).2.2
    set c := (if m.usesSeqTable then
      (b.buildWork e m).1.modSlot q n fun x => x.modPhase k fun ps => { ps with lists := (b.buildWork e m).2 } else b) with hc
    have hwork : c.PhaseStarted q n k := by
      rw [hc]
      split
      · exact (hfail.of_slots ((State.buildWork_touches ..).frame .slots (by decide))).modSlot (fun _ => ⟨rfl, rfl⟩)
          fun _ hk => hk.modPhase k fun _ => id
      · exact hfail
    set d := c.modSlot q n fun e => m.tileIndices.foldl (fun e t => e.modTile t fun x => { x with preds := e.predsLeft t }) e with hd'
    have hpreds : d.PhaseStarted q n k := by
      refine hwork.modSlot (fun e => ?_) fun e hk => ?_
      · obtain ⟨hq, hn, -⟩ := Slot.foldl_modTile_key m.tileIndices (fun e t x => { x with preds := e.predsLeft t }) e
        exact ⟨hq, hn⟩
      · exact hk.of_phases (Slot.foldl_modTile_key m.tileIndices (fun e t x => { x with preds := e.predsLeft t }) e).2.2
    have hresh : (if bad.isEmpty then d.startReshards e k m else d).PhaseStarted q n k := by
      split
      · exact State.startReshards_started hpreds e k m
      · exact hpreds
    exact ((State.settleLaunch_started hresh).of_kept (State.track_slots _)).told
  case tile =>
    obtain ⟨heq, hen⟩ := State.slot_key he
    refine completes_when (b := fun s => s.coreFree k && !s.lowerFirst k) hl rfl (by simp [hfree, hlow]) ?_
    rw [hx]
    dsimp only
    rw [he]
    exact State.startTile_does he hg ho
  case baste =>
    refine completes_when (b := fun s => (s.core k).mode == .running) hl rfl (by simp [hrun]) ?_
    exact ⟨(State.modCore_touches ..).frame, fun j hj => State.core_modCore_ne s _ hj, State.core_modCore_same ..⟩
  case switch =>
    refine completes_live hl rfl ?_
    rw [hm]
    dsimp only
    rw [decide_eq_true hat, State.when_true]
    set a := s.modCore k fun c => { c with mode := .running } with ha
    have hak : a.core k = { s.core k with mode := .running } := State.core_modCore_same ..
    have hkick : a.kick k = a := by
      refine State.kick_none ?_ (by rw [hak]; exact hr)
      rw [← ht]
      simp only [State.unpinnedTargets, State.guestPinned, State.folioPinned, hak]
      rfl
    rw [hkick]
    exact ⟨(State.modCore_touches ..).frame, hak, fun j hj => State.core_modCore_ne s _ hj⟩

end Sys2Proof.Machine
end

section
/-!
PROOFS (this file, a sitting of its own). Tiles run, commit, are abandoned and are forced (R66, R83, R118, R198, R222, R223).
-/
namespace Sys2Proof.Machine

open Sys2Proof

/-! ### What the start of a request leaves of slots and cores -/

/-- A slot without what an answer that did not come leaves on it (R273). -/
def Slot.resolved (e : Slot) : Slot := { e with unreadable := false, unresolved := none }

theorem State.unresolveReq_slots (s : State) (id cause : Nat) : SlotsAgree Slot.resolved s (s.unresolveReq id cause) := by
  unfold State.unresolveReq
  split
  · exact .refl s
  · next r _ =>
    have hwho : SlotsAgree Slot.resolved s (match r.who with
        | .commitWrite _ _ => s.dropReq id
        | .spine q n => (s.dropReq id).modSlot q n fun e => { e with unreadable := true }
        | _ => s.setReq id { r with place := .faulted }) := by
      split
      · exact .of_slots rfl
      · exact SlotsAgree.after (.modSlot _ _ _ (fun _ => ⟨rfl, rfl⟩) fun _ => by rfl) (.of_slots rfl)
      · exact .of_slots rfl
    dsimp only
    split
    · exact SlotsAgree.after (.modSlot _ _ _ (fun _ => ⟨rfl, rfl⟩) fun _ => by rfl) hwho
    · exact hwho

theorem State.unresolve_slots (s : State) (id cause : Nat) : SlotsAgree Slot.resolved s (s.unresolve id cause) := by
  unfold State.unresolve
  split
  · exact (SlotsAgree.of_touches (State.countUnresolved_touches ..) (by decide)).after (State.unresolveReq_slots ..)
  · exact .refl s

theorem State.windowAccess_slots (s : State) (id : Nat) (r : MemReq) (c : Context) :
    SlotsAgree Slot.resolved s (s.windowAccess id r c) := by
  unfold State.windowAccess
  dsimp only
  split
  · exact State.unresolve_slots ..
  · generalize (if r.write = true then 1 else 0) = right
    split
    · exact State.unresolve_slots ..
    · split
      · exact State.unresolve_slots ..
      · split
        · exact (SlotsAgree.of_touches (State.commitStreamNow_touches ..) (by decide)).after
            (.of_touches (State.dropReq_touches ..) (by decide))
        · split
          · exact (SlotsAgree.of_touches (State.strandNow_touches ..) (by decide)).after
              (.of_touches (State.setReq_touches ..) (by decide))
          · exact (SlotsAgree.of_touches (State.viaPort_touches ..) (by decide)).after
              ((SlotsAgree.of_touches (State.strandNow_touches ..) (by decide)).after
                (.of_touches (State.setReq_touches ..) (by decide)))

/-- The start of a request of the guest's space leaves every slot but for the answers that do not come. -/
theorem State.startGuest_slots (s : State) (id : Nat) : SlotsAgree Slot.resolved s (s.startGuest id) := by
  unfold State.startGuest
  split
  · exact .refl s
  · split
    · exact State.unresolve_slots ..
    · split
      · exact State.windowAccess_slots ..
      · split
        · split_ifs
          · exact .of_touches (State.hostAccess_touches ..) (by decide)
          · exact .of_touches (State.askHost_touches ..) (by decide)
          · exact .of_touches (State.hostAccess_touches ..) (by decide)
          · exact .of_touches (State.askHost_touches ..) (by decide)
        · exact .of_touches (State.askHost_touches ..) (by decide)

/-! ### What is kept of every core -/

/-- Every core of `s` stands in `t` with the same `f`. -/
structure CoresAgree {α : Type} (f : Core → α) (s t : State) : Prop where
  core : ∀ k, f (t.core k) = f (s.core k)

namespace CoresAgree

variable {α : Type} {f : Core → α} {s t u : State}

theorem refl (s : State) : CoresAgree f s s := ⟨fun _ => rfl⟩

theorem trans (h : CoresAgree f s t) (k : CoresAgree f t u) : CoresAgree f s u := ⟨fun j => (k.core j).trans (h.core j)⟩

theorem after (k : CoresAgree f t u) (h : CoresAgree f s t) : CoresAgree f s u := h.trans k

theorem of_touches {ps : List Part} (h : Touches ps s t) (hp : Part.cores ∉ ps) : CoresAgree f s t :=
  ⟨fun j => by rw [State.core_of_cores (h.frame .cores hp)]⟩

theorem foldl {β : Type} {g : State → β → State} (h : ∀ s x, CoresAgree f s (g s x)) (l : List β) (s : State) :
    CoresAgree f s (l.foldl g s) := by
  induction l generalizing s with
  | nil => exact refl s
  | cons x l ih => exact (h s x).trans (ih _)

theorem modCore (s : State) (k : Nat) {g : Core → Core} (hf : ∀ c, f (g c) = f c) : CoresAgree f s (s.modCore k g) := by
  refine ⟨fun j => ?_⟩
  by_cases h : j = k
  · rw [h, State.core_modCore_same, hf]
  · rw [State.core_modCore_ne _ _ h]

end CoresAgree

/-- A core without its strands, the time of its stall, and its pins. -/
def Core.seated (c : Core) : Core := { c with strands := [], idleSince := none, pins := [] }

theorem State.noteStall_cores (s : State) (k : Nat) : CoresAgree Core.seated s (s.noteStall k) :=
  .modCore s k fun c => by split <;> rfl

theorem State.strandNow_cores (s : State) (r : MemReq) (st : Strand) : CoresAgree Core.seated s (s.strandNow r st) := by
  unfold State.strandNow State.strandOf
  cases r.who with
  | gather k n => exact (State.noteStall_cores _ k).after (.modCore s k fun _ => rfl)
  | commit k => exact (State.noteStall_cores _ k).after (.modCore s k fun _ => rfl)
  | _ => exact .refl s

theorem State.commitStreamNow_cores (s : State) (k : Nat) : CoresAgree Core.seated s (s.commitStreamNow k) := by
  unfold State.commitStreamNow
  split
  · exact .refl s
  · exact (State.noteStall_cores _ k).after (.modCore s k fun _ => rfl)

theorem State.pin_cores (s : State) (core k : Nat) : CoresAgree Core.seated s (s.pin core k) := by
  unfold State.pin
  split
  · split
    · exact .refl s
    · next a _ _ =>
      exact (CoresAgree.modCore { s with atc := s.atc.put k { a with pinned := a.pinned + 1 } } core
        (g := fun c => { c with pins := k :: c.pins }) fun _ => rfl).after ⟨fun _ => rfl⟩
  · exact .refl s

theorem State.askHost_cores (s : State) (id : Nat) (r : MemReq) (c : Context) : CoresAgree Core.seated s (s.askHost id r c) := by
  have hstrand : CoresAgree Core.seated s ((s.setReq id { r with place := .translating }).strandNow r .waiting) :=
    (State.strandNow_cores ..).after (.of_touches (State.setReq_touches ..) (by decide))
  unfold State.askHost
  dsimp only
  split
  · exact hstrand.trans ⟨fun _ => rfl⟩
  · split
    · exact hstrand
    · exact hstrand.trans ⟨fun _ => rfl⟩

theorem State.hostAccess_cores (s : State) (id : Nat) (r : MemReq) (k : Nat) (a : Atc) :
    CoresAgree Core.seated s (s.hostAccess id r k a) := by
  unfold State.hostAccess
  dsimp only
  split
  · exact (State.commitStreamNow_cores ..).after ((State.pin_cores ..).after ⟨fun _ => rfl⟩)
  · exact ⟨fun _ => rfl⟩
  · exact (CoresAgree.of_touches (State.emit_touches ..) (by decide)).after ((State.strandNow_cores ..).after
      ((CoresAgree.of_touches (State.setReq_touches ..) (by decide)).after ⟨fun _ => rfl⟩))

theorem State.unresolve_cores (s : State) (id cause : Nat) : CoresAgree Core.seated s (s.unresolve id cause) :=
  .of_touches (State.unresolve_touches ..) (by decide)

theorem State.windowAccess_cores (s : State) (id : Nat) (r : MemReq) (c : Context) :
    CoresAgree Core.seated s (s.windowAccess id r c) := by
  unfold State.windowAccess
  dsimp only
  split
  · exact State.unresolve_cores ..
  · generalize (if r.write = true then 1 else 0) = right
    split
    · exact State.unresolve_cores ..
    · split
      · exact State.unresolve_cores ..
      · split
        · exact (State.commitStreamNow_cores ..).after (.of_touches (State.dropReq_touches ..) (by decide))
        · split
          · exact (State.strandNow_cores ..).after (.of_touches (State.setReq_touches ..) (by decide))
          · exact (CoresAgree.of_touches (State.viaPort_touches ..) (by decide)).after
              ((State.strandNow_cores ..).after (.of_touches (State.setReq_touches ..) (by decide)))

theorem State.startGuest_cores (s : State) (id : Nat) : CoresAgree Core.seated s (s.startGuest id) := by
  unfold State.startGuest
  split
  · exact .refl s
  · split
    · exact State.unresolve_cores ..
    · split
      · exact State.windowAccess_cores ..
      · split
        · split_ifs
          · exact State.hostAccess_cores ..
          · exact State.askHost_cores ..
          · exact State.hostAccess_cores ..
          · exact State.askHost_cores ..
        · exact State.askHost_cores ..

/-! ### What a commit makes visible -/

/-- The host writes and fabric writes of a commit leave the slots and the seats of the cores. -/
theorem State.commitGuest_agrees (s : State) (k : Nat) (e : Slot) :
    SlotsAgree Slot.resolved s (s.commitGuest k e) ∧ CoresAgree Core.seated s (s.commitGuest k e) := by
  have hwrite : ∀ (s : State) (addr : Nat) (data : Bytes),
      SlotsAgree Slot.resolved s (s.guestWrite k e addr data) ∧ CoresAgree Core.seated s (s.guestWrite k e addr data) := by
    intro s addr data
    unfold State.guestWrite
    split
    · exact ⟨.refl s, .refl s⟩
    · split
      · rw [State.startReq]
        dsimp only
        exact ⟨(State.startGuest_slots ..).after (.of_touches (State.addReq_touches ..) (by decide)),
          (State.startGuest_cores ..).after (.of_touches (State.addReq_touches ..) (by decide))⟩
      · split
        · exact ⟨.of_slots rfl, ⟨fun _ => rfl⟩⟩
        · exact ⟨.refl s, .refl s⟩
  unfold State.commitGuest
  constructor
  · refine .foldl (fun s w => ?_) _ _
    split
    · exact .foldl (fun s (x : Nat × Bytes) => (hwrite s x.1 x.2).1) _ _
    · exact .refl s
  · refine .foldl (fun s w => ?_) _ _
    split
    · exact .foldl (fun s (x : Nat × Bytes) => (hwrite s x.1 x.2).2) _ _
    · exact .refl s

theorem State.makeVisible_agrees (s : State) (k : Nat) (e : Slot) :
    SlotsAgree Slot.resolved s (s.makeVisible k e) ∧ CoresAgree Core.seated s (s.makeVisible k e) := by
  unfold State.makeVisible
  dsimp only
  generalize s.stagedPieces k = ps
  have hstaged : Touches [.free, .out, .ic, .errs, .parts, .reqs, .reqNo, .lines] s
      ((ps.map (·.1)).eraseDups.foldl (fun s l => s.commitStaged e.partition (clusterOfCore k) ps l) s) :=
    .foldl (.refl ..) fun _ _ => State.commitStaged_touches ..
  obtain ⟨hslots, hcores⟩ := State.commitGuest_agrees
    ((ps.map (·.1)).eraseDups.foldl (fun s l => s.commitStaged e.partition (clusterOfCore k) ps l) s) k e
  constructor
  · exact (SlotsAgree.of_touches (State.applySeq_touches ..) (by decide)).after
      ((SlotsAgree.of_touches (State.issueReductions_touches ..) (by decide)).after
        ((SlotsAgree.of_touches (State.applyUses_touches ..) (by decide)).after (hslots.after (.of_touches hstaged (by decide)))))
  · exact (CoresAgree.of_touches (State.applySeq_touches ..) (by decide)).after
      ((CoresAgree.of_touches (State.issueReductions_touches ..) (by decide)).after
        ((CoresAgree.of_touches (State.applyUses_touches ..) (by decide)).after (hcores.after (.of_touches hstaged (by decide)))))

theorem State.unpinAll_cores (s : State) (k : Nat) : CoresAgree Core.seated s (s.unpinAll k) := by
  have hfold : ∀ (l : List Nat) (s : State), CoresAgree Core.seated s (l.foldl (fun (s : State) k => match s.atc.get? k with
      | some a => { s with atc := s.atc.put k { a with pinned := a.pinned - 1 } }
      | none => s) s) := fun l s => .foldl (fun s k => by split <;> exact ⟨fun _ => rfl⟩) l s
  unfold State.unpinAll
  exact (CoresAgree.modCore _ k fun _ => by rfl).after (hfold _ _)

/-! ### The tiles of a slot as its phases end -/

/-- The phase maps that a slot's phases run. -/
def Slot.maps (e : Slot) : List Nat := e.phaseStates.map (·.map)

/-- None of a slot's phases is run again when its samples diverge (R62). -/
def Slot.NoRerun (e : Slot) : Prop := (e.maps.all fun i => (e.map? i).all fun m => m.policy != 2) = true

theorem Slot.NoRerun.of {e x : Slot} (h : e.NoRerun) (hi : x.image = e.image) (hm : x.maps = e.maps) : x.NoRerun := by
  unfold Slot.NoRerun Slot.map? at h ⊢
  rw [hi, hm]
  exact h

theorem Slot.noRerun_iff (e : Slot) :
    e.NoRerun ↔ (e.phaseStates.all fun ps => (e.map? ps.map).all fun m => m.policy != 2) = true := by
  rw [Slot.NoRerun, Slot.maps, List.all_map]
  rfl

theorem Slot.maps_modPhase (e : Slot) (k : Nat) {f : PhaseState → PhaseState} (hf : ∀ ps, (f ps).map = ps.map) :
    (e.modPhase k f).maps = e.maps := by
  unfold Slot.maps Slot.modPhase
  refine List.ext_getElem? fun i => ?_
  simp only [List.getElem?_map, List.getElem?_modify]
  cases e.phaseStates[i]? with
  | none => rfl
  | some ps =>
    simp only [Option.map_some]
    split <;> simp [hf]

theorem Slot.tile_modTile_same (e : Slot) (t : Nat) (f : TileState → TileState) : (e.modTile t f).tile t = f (e.tile t) :=
  tbl_getD_put_same _ _ _ _

theorem Slot.tile_modTile_ne (e : Slot) {t u : Nat} (h : u ≠ t) (f : TileState → TileState) : (e.modTile t f).tile u = e.tile u :=
  tbl_getD_put_ne _ _ _ h

/-- Changes of tiles that put them nowhere but back leave a tile where it is, or waiting. -/
theorem Slot.foldl_modTile_place (l : List Nat) (f : Slot → Nat → TileState → TileState) (t : Nat)
    (hf : ∀ e u x, (f e u x).place = x.place ∨ (f e u x).place = .waiting) (e : Slot) :
    ((l.foldl (fun e u => e.modTile u (f e u)) e).tile t).place = (e.tile t).place
      ∨ ((l.foldl (fun e u => e.modTile u (f e u)) e).tile t).place = .waiting := by
  induction l generalizing e with
  | nil => exact .inl rfl
  | cons u l ih =>
    rw [List.foldl_cons]
    rcases ih (e.modTile u (f e u)) with h | h
    · rw [h]
      by_cases hu : t = u
      · rw [hu, Slot.tile_modTile_same]
        exact hf e u _
      · rw [Slot.tile_modTile_ne _ hu]
        exact .inl rfl
    · exact .inr h

theorem Slot.rerunPhase_place (e : Slot) (j t : Nat) :
    ((e.rerunPhase j).tile t).place = (e.tile t).place ∨ ((e.rerunPhase j).tile t).place = .waiting := by
  unfold Slot.rerunPhase
  split
  · exact .inl rfl
  · next m _ =>
    dsimp only
    set a := m.tileIndices.foldl (fun (e : Slot) t => e.modTile t fun x =>
      { x with place := .waiting, commitCt := none, rerun := true, replayed := false }) e with ha
    have hback := Slot.foldl_modTile_place m.tileIndices
      (fun _ _ x => { x with place := .waiting, commitCt := none, rerun := true, replayed := false }) t (fun _ _ _ => .inr rfl) e
    rcases Slot.foldl_modTile_place m.tileIndices (fun e t x => { x with preds := e.predsLeft t }) t (fun _ _ _ => .inl rfl) a with h | h
    · rw [← ha, ← h] at hback
      exact hback
    · exact .inr h

theorem Slot.endPhase_place (e : Slot) (j t : Nat) :
    ((e.endPhase j).tile t).place = (e.tile t).place ∨ ((e.endPhase j).tile t).place = .waiting := by
  unfold Slot.endPhase
  split
  · exact .inl rfl
  · dsimp only
    split_ifs
    · exact .inl rfl
    · exact .inl rfl
    · exact .inl rfl
    · exact e.rerunPhase_place j t
    · exact .inl rfl
    · exact .inl rfl

/-- The end of phases leaves a tile that waits waiting. -/
theorem Slot.endPhases_waiting {e : Slot} {t : Nat} (h : (e.tile t).place = .waiting) : (e.endPhases.tile t).place = .waiting := by
  unfold Slot.endPhases
  generalize List.range e.phaseStates.length = l
  induction l generalizing e with
  | nil => exact h
  | cons j l ih =>
    rw [List.foldl_cons]
    refine ih ?_
    split
    · rcases e.endPhase_place j t with hp | hp
      · rw [hp, h]
      · exact hp
    · exact h

/-- What the end of phases keeps of a slot none of whose phases is run again. -/
structure Slot.Ending (e x : Slot) : Prop where
  tiles : x.tiles = e.tiles
  promise : x.promise = e.promise
  image : x.image = e.image
  maps : x.maps = e.maps

theorem Slot.endPhase_ending {e : Slot} (h : e.NoRerun) (j : Nat) : e.Ending (e.endPhase j) := by
  have hdone : ∀ x : Slot, e.Ending x → e.Ending (x.modPhase j fun ps => { ps with ended := true }) := fun x hx =>
    ⟨hx.tiles, hx.promise, hx.image, (Slot.maps_modPhase x j (f := fun ps => { ps with ended := true }) fun _ => rfl).trans hx.maps⟩
  unfold Slot.endPhase
  split
  · exact ⟨rfl, rfl, rfl, rfl⟩
  · next ps m hm =>
    have hpolicy : (m.policy == 2) = false := by
      obtain ⟨ps', hps, hmap⟩ := Option.bind_eq_some_iff.mp hm
      obtain ⟨m', hm', hpair⟩ := Option.map_eq_some_iff.mp hmap
      obtain ⟨rfl, rfl⟩ := Prod.mk.inj hpair
      have hall := List.all_eq_true.mp (e.noRerun_iff.mp h) ps' (List.mem_of_getElem? hps)
      rw [hm'] at hall
      simpa using hall
    dsimp only
    rw [hpolicy, if_neg Bool.false_ne_true]
    split_ifs
    · exact hdone e ⟨rfl, rfl, rfl, rfl⟩
    · exact hdone _ ⟨rfl, rfl, rfl, rfl⟩
    · exact hdone _ ⟨rfl, rfl, rfl, rfl⟩

theorem Slot.endPhases_ending {e : Slot} (h : e.NoRerun) : e.Ending e.endPhases := by
  unfold Slot.endPhases
  generalize List.range e.phaseStates.length = l
  induction l generalizing e with
  | nil => exact ⟨rfl, rfl, rfl, rfl⟩
  | cons j l ih =>
    rw [List.foldl_cons]
    have hone : e.Ending (if (e.phaseStates[j]?).any (fun ps => ps.open) && (e.uncommitted j).isEmpty then e.endPhase j else e) := by
      split
      · exact Slot.endPhase_ending h j
      · exact ⟨rfl, rfl, rfl, rfl⟩
    obtain ⟨ht, hp, hi, hm⟩ := ih (h.of hone.image hone.maps)
    exact ⟨ht.trans hone.tiles, hp.trans hone.promise, hi.trans hone.image, hm.trans hone.maps⟩

/-! ### A tile that has committed, or waits again -/

/-- Tile `t` of a slot without a promise has committed, and no phase of it is run again. -/
def Slot.DoneWith (t : Nat) (x : Slot) : Prop := (x.tile t).place = .committed ∧ x.promise = none ∧ x.NoRerun

theorem Slot.DoneWith.of {t : Nat} {x y : Slot} (h : x.DoneWith t) (ht : y.tiles = x.tiles) (hp : y.promise = x.promise)
    (hi : y.image = x.image) (hm : y.maps = x.maps) : y.DoneWith t := by
  obtain ⟨hplace, hpromise, hrerun⟩ := h
  exact ⟨by rw [Slot.tile, ht]; exact hplace, hp.trans hpromise, hrerun.of hi hm⟩

/-- Slot `n` of queue `q` satisfies `P`. -/
def State.SlotIs (s : State) (q n : Nat) (P : Slot → Prop) : Prop := ∃ x, s.slot? q n = some x ∧ P x

namespace State.SlotIs

variable {s t : State} {q n : Nat} {P Q : Slot → Prop}

theorem of_slots (h : s.SlotIs q n P) (hs : t.slots = s.slots) : t.SlotIs q n P := by
  obtain ⟨x, hx, hp⟩ := h
  exact ⟨x, (State.slot_of_slots hs q n).trans hx, hp⟩

theorem of_touches {ps : List Part} (h : s.SlotIs q n P) (ht : Touches ps s t) (hp : Part.slots ∉ ps) : t.SlotIs q n P :=
  h.of_slots (ht.frame .slots hp)

theorem modSlot (h : s.SlotIs q n P) {f : Slot → Slot} (hf : ∀ e, (f e).queue = e.queue ∧ (f e).seq = e.seq)
    (hp : ∀ e, P e → Q (f e)) : (s.modSlot q n f).SlotIs q n Q := by
  obtain ⟨x, hx, hpx⟩ := h
  exact ⟨f x, State.slot_modSlot_same hx hf, hp x hpx⟩

theorem track (h : s.SlotIs q n P) (hp : ∀ e x : Slot, x.unwaited = e.unwaited → P e → P x) : s.track.SlotIs q n P := by
  obtain ⟨x, hx, hpx⟩ := h
  obtain ⟨y, hy, hyx⟩ := (State.track_slots s).found hx
  exact ⟨y, hy, hp x y hyx hpx⟩

/-- The settling of a launch: the end of its phases, and of itself. -/
theorem settleLaunch (h : s.SlotIs q n P) (hend : ∀ e, P e → P e.endPhases)
    (hstate : ∀ (e : Slot) st status cause, P e → P { e with state := st, status := status, cause := cause }) :
    (s.settleLaunch q n).SlotIs q n P := by
  unfold State.settleLaunch
  split
  · exact h
  · split
    · exact h
    · have hphases : (s.modSlot q n Slot.endPhases).SlotIs q n P :=
        h.modSlot (fun e => ⟨(Slot.endPhases_started 0 e).queue, (Slot.endPhases_started 0 e).seq⟩) hend
      dsimp only
      split
      · exact hphases
      · split
        · exact hphases.modSlot (fun _ => ⟨rfl, rfl⟩) fun e he => hstate e _ _ _ he
        · exact hphases

end State.SlotIs

/-- The successors of a tile that commits lose a predecessor, and nothing else of the slot changes. -/
theorem Slot.foldl_readySuccs (started : Nat → Bool) (t : Nat) (l : List Nat) {e : Slot} (h : (e.tile t).place = .committed) :
    let x := l.foldl (fun (e : Slot) u =>
      if started u && (e.tile u).place == .waiting then e.modTile u fun x => { x with preds := x.preds - 1 } else e) e
    x.queue = e.queue ∧ x.seq = e.seq ∧ (x.tile t).place = .committed ∧ x.promise = e.promise ∧ x.image = e.image
      ∧ x.phaseStates = e.phaseStates := by
  induction l generalizing e with
  | nil => exact ⟨rfl, rfl, h, rfl, rfl, rfl⟩
  | cons u l ih =>
    dsimp only
    rw [List.foldl_cons]
    split
    · next hu =>
      have hne : t ≠ u := by
        rintro rfl
        simp [h] at hu
      exact ih (e := e.modTile u fun x => { x with preds := x.preds - 1 }) (by rw [Slot.tile_modTile_ne _ hne]; exact h)
    · exact ih h

/-- The tile that commits is done in its launch. -/
theorem Slot.tileDone_does (e : Slot) (k t ct : Nat) (c : Counts) :
    (e.tileDone k t ct c).queue = e.queue ∧ (e.tileDone k t ct c).seq = e.seq ∧ ((e.tileDone k t ct c).tile t).place = .committed
      ∧ (e.tileDone k t ct c).promise = e.promise ∧ (e.tileDone k t ct c).image = e.image ∧ (e.tileDone k t ct c).maps = e.maps := by
  unfold Slot.tileDone
  dsimp only
  set a := e.modTile t fun x => { x with place := .committed, commitCt := some ct, doneCore := k } with ha
  obtain ⟨hq, hn, ht, hp, hi, hps⟩ := Slot.foldl_readySuccs
    (fun u => ((a.phaseOf u).bind fun i => a.phaseStates[i]?).any (·.started)) t (((a.tileDef? t).map (·.succs)).getD []) (e := a)
    (by rw [ha, Slot.tile_modTile_same])
  generalize List.foldl _ a _ = x at hq hn ht hp hi hps ⊢
  have hmaps : x.maps = e.maps := by rw [Slot.maps, hps]; rfl
  split
  · split
    · exact ⟨hq, hn, ht, hp, hi, hmaps⟩
    · exact ⟨hq, hn, ht, hp, hi, (Slot.maps_modPhase x _ (f := fun ps => { ps with
        sampled := ps.sampled + c.sampled, diverged := ps.diverged + c.diverged }) fun _ => rfl).trans hmaps⟩
  · exact ⟨hq, hn, ht, hp, hi, hmaps⟩

/-! ### Cores that end their tile, and cores that are forced -/

theorem State.endTile_core (s : State) (k : Nat) : (s.endTile k).core k = (s.core k).idle.lowerBin := by
  have hfence : ∀ u : State, u.settleFences.core k = u.core k := fun u =>
    State.core_of_cores ((State.settleFences_touches u).frame .cores (by decide)) k
  rw [State.endTile, hfence]
  dsimp only
  rw [State.core_modCore_same]
  split <;> rfl

theorem Core.lowerBin_idle (c : Core) :
    c.idle.lowerBin.mode = .free ∧ c.idle.lowerBin.staged = [] ∧ c.idle.lowerBin.reductions = [] := by
  unfold Core.lowerBin
  split <;> exact ⟨rfl, rfl, rfl⟩

theorem Core.force_running {c : Core} (h : c.mode = .running) :
    c.force = { c with mode := .abandoning, forced := true, strands := c.strands.mapV fun _ _ => .idle, idleSince := none } := by
  rw [Core.force, h]

/-- A core that is forced and counted for its context (R216, R223). -/
theorem State.forceCounted_does {s : State} {k : Nat} (h : (s.core k).mode = .running) :
    OnlyChanges [.cores, .ctxs] s (s.forceCounted k) ∧ ((s.forceCounted k).core k).mode = .abandoning
      ∧ ((s.forceCounted k).core k).forced = true ∧ ∀ j, j ≠ k → (s.forceCounted k).core j = s.core j := by
  obtain ⟨a, hsa, heq⟩ : ∃ a, Touches [.ctxs] s a ∧ s.forceCounted k = a.modCore k Core.force := by
    unfold State.forceCounted
    split
    · exact ⟨_, State.account_touches .., rfl⟩
    · exact ⟨s, .refl _ s, rfl⟩
  rw [heq]
  have hcores : a.cores = s.cores := hsa.frame .cores (by decide)
  have hforce : (a.modCore k Core.force).core k = (s.core k).force := by rw [State.core_modCore_same, State.core_of_cores hcores]
  refine ⟨(hsa.frame.mono (by decide)).trans ((State.modCore_touches ..).frame.mono (by decide)), ?_, ?_, fun j hj => ?_⟩
  · rw [hforce, Core.force_running h]
  · rw [hforce, Core.force_running h]
  · rw [State.core_modCore_ne _ _ hj, State.core_of_cores hcores]

theorem Core.forceFor_does {c : Core} {q n : Nat} (hm : c.mode = .running) (hs : c.serves q n = true) :
    (c.forceFor q n).mode = .abandoning ∧ (c.forceFor q n).forced = true ∧ (c.forceFor q n).serves q n = true := by
  have hserves : (c.queue == q && c.seq == n) = true := by
    simpa [Core.serves, hm] using hs
  unfold Core.forceFor
  simp only [hs, if_true, Core.force_running hm]
  split <;> exact ⟨rfl, rfl, hserves⟩

theorem Core.forceFor_idle {c : Core} {q n : Nat} (hs : c.serves q n = false) : (c.forceFor q n).serves q n = false := by
  unfold Core.forceFor
  simp only [hs, Bool.false_eq_true, if_false]
  split <;> exact hs

/-- A launch on no core is on none after it is forced. -/
theorem State.coresOf_forceLaunch {s : State} {q n : Nat} (h : s.coresOf q n = []) : (s.forceLaunch q n).coresOf q n = [] := by
  unfold State.coresOf at h ⊢
  rw [List.map_eq_nil_iff, List.filter_eq_nil_iff] at h ⊢
  intro x hx
  obtain ⟨y, hy, rfl⟩ := List.mem_map.mp (show x ∈ s.cores.map (fun y => (y.1, y.2.forceFor q n)) from hx)
  have hidle : y.2.serves q n = false := by simpa using h y hy
  simp [Core.forceFor_idle hidle]

theorem State.runOps_others (s : State) (k : Nat) (m : PhaseMap) (rerun : Bool) (work : List TileOp) :
    Touches [.cores, .free] s (s.runOps k m rerun work) ∧ ∀ j, j ≠ k → (s.runOps k m rerun work).core j = s.core j := by
  unfold State.runOps
  induction work generalizing s with
  | nil => exact ⟨.refl _ s, fun _ _ => rfl⟩
  | cons op work ih =>
    rw [List.foldl_cons]
    set a : State := { s.modCore k fun c => c.tileOp m rerun s.free op with free := s.free + opDraws op } with ha
    have hone : OnlyChanges [.cores, .free] s a := by
      intro p hp
      cases p with
      | cores | free => exact absurd (by decide) hp
      | _ => rfl
    obtain ⟨htouch, hothers⟩ := ih a
    exact ⟨(Touches.of_frame hone).trans htouch, fun j hj => (hothers j hj).trans (State.core_modCore_ne s (fun c => c.tileOp m rerun s.free op) hj : a.core j = _)⟩

theorem Slot.failShard_rest (e : Slot) (p sh c : Nat) :
    (e.failShard p sh c).tiles = e.tiles ∧ (e.failShard p sh c).promise = e.promise ∧ (e.failShard p sh c).image = e.image := by
  unfold Slot.failShard
  split
  · exact ⟨rfl, rfl, rfl⟩
  · split <;> exact ⟨rfl, rfl, rfl⟩

/-- The tile on a core goes back to wait. -/
theorem State.returnTile_waiting {s : State} {k : Nat} {e : Slot} (he : s.slot? (s.core k).queue (s.core k).seq = some e) :
    (s.returnTile k).SlotIs (s.core k).queue (s.core k).seq fun x => (x.tile (s.core k).tile).place = .waiting := by
  unfold State.returnTile
  dsimp only
  set a := s.modSlot (s.core k).queue (s.core k).seq fun e => e.modTile (s.core k).tile fun x => { x with
    place := .waiting, replayed := x.replayed || (s.core k).replay
    doneCore := if (s.core k).replay then k else x.doneCore } with ha
  have hwait : a.SlotIs (s.core k).queue (s.core k).seq fun x => (x.tile (s.core k).tile).place = .waiting := by
    refine ⟨_, State.slot_modSlot_same (f := fun e => e.modTile (s.core k).tile fun x => { x with
      place := .waiting, replayed := x.replayed || (s.core k).replay
      doneCore := if (s.core k).replay then k else x.doneCore }) he fun _ => ⟨rfl, rfl⟩, ?_⟩
    dsimp only
    rw [Slot.tile_modTile_same]
  split
  · refine hwait.modSlot (fun x => ⟨(x.failShard_key ..).1, (x.failShard_key ..).2.1⟩) fun x hx => ?_
    rw [Slot.tile, (x.failShard_rest ..).1]
    exact hx
  · exact hwait

theorem State.failAfterCommit_done {s : State} {e : Slot} {u : Nat} (h : s.SlotIs e.queue e.seq (Slot.DoneWith u)) (k t : Nat) :
    (s.failAfterCommit k e t).SlotIs e.queue e.seq (Slot.DoneWith u) := by
  unfold State.failAfterCommit
  split
  · refine h.modSlot (fun x => ?_) fun x hx => ?_
    · split
      · exact ⟨(x.failShard_key ..).1, (x.failShard_key ..).2.1⟩
      · exact ⟨rfl, rfl⟩
    · split
      · obtain ⟨ht, hp, hi⟩ := x.failShard_rest ((x.phaseOf t).elim 0 x.phaseNo) (x.shardOf t) 3
        exact hx.of ht hp hi (by rw [Slot.maps, (x.failShard_key ..).2.2]; rfl)
      · exact hx
  · exact h

theorem State.writeQuality_done {s : State} {q n t : Nat} (h : s.SlotIs q n (Slot.DoneWith t)) :
    (s.writeQuality q n).SlotIs q n (Slot.DoneWith t) ∧ (s.writeQuality q n).cores = s.cores
      ∧ ((s.writeQuality q n).queue q).tiles = (s.queue q).tiles := by
  obtain ⟨x, hx, hdone⟩ := h
  refine ⟨?_, (State.writeQuality_touches s q n).frame .cores (by decide), ?_⟩
  all_goals
    unfold State.writeQuality State.onSlot
    rw [hx]
    dsimp only
    cases x.state == .ended && isCompletion x.status && !x.qualityDone
  · exact ⟨x, hx, hdone⟩
  · rw [State.when_true]
    split
    · refine State.SlotIs.of_touches ?_ (State.pushWrite_touches ..) (by decide)
      exact ⟨_, State.slot_modSlot_same (f := fun e => { e with qualityDone := true }) hx fun _ => ⟨rfl, rfl⟩, hdone.of rfl rfl rfl rfl⟩
    · exact ⟨x, hx, hdone⟩
  · rfl
  · rw [State.when_true]
    split
    · exact (State.pushWrite_written ..).keeps Queue.tiles fun _ => rfl
    · rfl

theorem State.countTile_tiles (s : State) (k : Nat) (e : Slot) :
    ((s.countTile k e).queue e.queue).tiles = (s.queue e.queue).tiles + 1 := by
  rw [State.countTile]
  rw [State.queue_of_queues ((State.modCtx_touches ..).frame .queues (by decide)),
    State.queue_of_queues ((State.modPart_touches ..).frame .queues (by decide)), State.queue_modQueue_same]
  rfl

theorem State.monitorOne_none {s : State} {q n : Nat} (h : s.SlotIs q n fun x => x.promise = none) : s.monitorOne q n = s := by
  obtain ⟨x, hx, hp⟩ := h
  rw [State.monitorOne, hx]
  dsimp only
  rw [hp]

/-- Settles O27: the strand, the staged bytes, the place of the tile, and what is forced of the core. -/
theorem tilesRunCommitAndAreForced : Obligations.TilesRunCommitAndAreForced := by
  unfold Obligations.TilesRunCommitAndAreForced
  refine ⟨fun s k id r n hl hr hw hm hp hs hb => ?gather,
    fun s k e i ps m d work hl he hc ht hpin hcop hi hps hm' hd hst => ?commitStart,
    fun s k e hl he hm hpin hmiss hp hre => ?commitEnd, fun s k e hl he hm => ?abandon, fun s k hl hf hpark hclaim => ?forced,
    fun s k at_ key c hl hf hst hid hat hcl hkey hc => ?idle, fun s q n e p hl he hd hs ht hr hp hhem hcores => ?hem,
    fun s q n e p k c hl he hd hs ht hr hp hhem hc hserves hmode => ?hemCore⟩
  case gather =>
    refine completes_live hl rfl ?_
    rw [hr]
    dsimp only
    rw [hw]
    dsimp only
    have hplace : (r.place == .ready || r.place == .host) = true := by rcases hp with h | h <;> simp [h]
    rw [hm, hplace, beq_self_eq_true, beq_self_eq_true, show (true && true && true) = true from rfl, State.when_true]
    have hbusy : ((s.dropReq id).reqs.any fun x => x.2.who == .gather k n) = false := hb
    rw [hbusy, if_neg Bool.false_ne_true]
    set a := (s.dropReq id).modCore k fun c => { c with
      strands := c.strands.put n .ready
      uses := (c.uses ++ if r.guest then [] else linesOf r.address r.bytes).eraseDups
      poisonAt := if c.poisonAt == 0 then r.poisonAt else c.poisonAt } with ha
    have hgathers : (a.noteStall k).issueGathers k [] = a.noteStall k := by
      unfold State.issueGathers
      split <;> rfl
    rw [hgathers]
    have hreqs : (a.noteStall k).reqs = s.reqs.del id := rfl
    refine ⟨?_, by rw [hreqs, tbl_get_del_same _ hs], fun j hj => by rw [hreqs, tbl_get_del_ne _ hj], ?_, fun j hj => ?_⟩
    · exact ((State.dropReq_touches ..).frame.mono (by decide)).trans (((State.modCore_touches ..).frame.mono (by decide)).trans
        ((State.noteStall_touches ..).frame.mono (by decide)))
    · rw [State.noteStall, State.core_modCore_same]
      have hstrands : (a.core k).strands.get? n = some .ready := by
        rw [ha, State.core_modCore_same]
        exact tbl_get_put_same ..
      split <;> exact hstrands
    · rw [State.noteStall, State.core_modCore_ne _ _ hj, ha, State.core_modCore_ne _ _ hj]
      rfl
  case commitStart =>
    refine completes_live hl rfl ?_
    dsimp only
    rw [he]
    dsimp only
    rw [hc, State.when_true, ht, hpin, hcop, if_neg (by simp)]
    rw [show (((e.phaseOf (s.core k).tile).bind fun i => e.phaseStates[i]?).bind fun ps => (e.map? ps.map).map fun m => (m, ps.rerun))
      = some (m, ps.rerun) by rw [hi, Option.bind_some, hps, Option.bind_some, hm', Option.map_some], hd]
    dsimp only
    rw [if_neg (by omega)]
    obtain ⟨hran, hothers⟩ := State.runOps_others s k m ps.rerun work
    set ran := s.runOps k m ps.rerun work with hranDef
    set a := ran.modCore k fun c => { c with mode := .committing } with ha
    set b := a.modSlot (s.core k).queue (s.core k).seq fun e => e.modTile (s.core k).tile fun x => { x with place := .committing k } with hb
    have hfill := State.fillStaged_touches b k
    have hcores : ∀ j, (b.fillStaged k).core j = a.core j := fun j => State.core_of_cores (hfill.frame .cores (by decide)) j
    have hak : a.core k = { ran.core k with mode := .committing } := State.core_modCore_same ..
    have hslot : a.slot? (s.core k).queue (s.core k).seq = some e := (State.slot_of_slots (hran.frame .slots (by decide)) _ _).trans he
    refine ⟨by rw [hcores, hak], by rw [hcores, hak], by rw [hcores, hak], ?_, fun j hj => ?_⟩
    · rw [State.slot_of_slots (hfill.frame .slots (by decide)), hb,
        State.slot_modSlot_same hslot (f := fun e => e.modTile (s.core k).tile fun x => { x with place := .committing k })
          fun _ => ⟨rfl, rfl⟩, Option.map_some,
        Slot.tile_modTile_same]
    · rw [hcores, ha, State.core_modCore_ne _ _ hj, hothers j hj]
  case commitEnd =>
    obtain ⟨heq, hen⟩ := State.slot_key he
    refine completes_live hl rfl ?_
    dsimp only
    rw [he]
    dsimp only
    rw [hm, beq_self_eq_true, State.when_true, hpin, hmiss, if_neg Bool.false_ne_true, if_neg (by simp)]
    set t := (s.core k).tile with ht
    obtain ⟨hvslots, hvcores⟩ := s.makeVisible_agrees k e
    have hvqueues : (s.makeVisible k e).queues = s.queues := (s.makeVisible_touches k e).frame .queues (by decide)
    set v := s.makeVisible k e with hv
    have hvt : (v.core k).tile = t := (congrArg Core.tile (hvcores.core k) :)
    have hvslot : v.SlotIs e.queue e.seq fun x => x.promise = none ∧ x.NoRerun := by
      obtain ⟨x, hx, hxe⟩ := hvslots.found (by rw [heq, hen]; exact he : s.slot? e.queue e.seq = some e)
      exact ⟨x, hx, (congrArg Slot.promise hxe : _).trans hp,
        (e.noRerun_iff.mpr hre).of (congrArg Slot.image hxe :) (congrArg Slot.maps hxe :)⟩
    have hcount : (v.countTile k e).SlotIs e.queue e.seq (Slot.DoneWith t) := by
      have hdone : (v.modSlot e.queue e.seq fun x => x.tileDone k (v.core k).tile v.time.ct (v.core k).counts).SlotIs
          e.queue e.seq (Slot.DoneWith t) := by
        rw [hvt]
        refine hvslot.modSlot (fun x => ⟨(x.tileDone_does ..).1, (x.tileDone_does ..).2.1⟩) fun x hx => ?_
        obtain ⟨-, -, hplace, hpromise, himage, hmaps⟩ := x.tileDone_does k t v.time.ct (v.core k).counts
        exact ⟨hplace, hpromise.trans hx.1, hx.2.of himage hmaps⟩
      exact hdone.of_slots ((State.modCtx_touches ..).frame .slots (by decide))
    set c := v.countTile k e with hc
    have hctiles : (c.queue e.queue).tiles = (s.queue e.queue).tiles + 1 := by
      rw [hc, State.countTile_tiles, State.queue_of_queues hvqueues]
    set d := (((c.warmFor k e t).chargeTile k false).unpinAll k).endTile k with hd
    have hdk : d.core k = ((((c.warmFor k e t).chargeTile k false).unpinAll k).core k).idle.lowerBin := State.endTile_core ..
    have hddone : d.SlotIs e.queue e.seq (Slot.DoneWith t) :=
      (((hcount.of_touches (State.warmFor_touches ..) (by decide)).of_touches (State.chargeTile_touches ..) (by decide)).of_touches
        (State.unpinAll_touches ..) (by decide)).of_touches (State.endTile_touches ..) (by decide)
    have hdqueues : d.queues = c.queues := Eq.trans ((State.endTile_touches ..).frame .queues (by decide)) (Eq.trans
      ((State.unpinAll_touches ..).frame .queues (by decide)) (Eq.trans ((State.chargeTile_touches ..).frame .queues (by decide))
        ((State.warmFor_touches ..).frame .queues (by decide))))
    set f := (d.answerWaits.failAfterCommit k e t).settleLaunch e.queue e.seq with hf
    have hfdone : f.SlotIs e.queue e.seq (Slot.DoneWith t) := by
      refine (State.failAfterCommit_done (hddone.of_touches (State.answerWaits_touches ..) (by decide)) k t).settleLaunch
        (fun x hx => ?_) fun x _ _ _ hx => hx.of rfl rfl rfl rfl
      obtain ⟨ht, hp, hi, hm⟩ := Slot.endPhases_ending hx.2.2
      exact hx.of ht hp hi hm
    have hfdq : Touches [.out, .lines, .dirWaits, .slots] d f :=
      (State.settleLaunch_touches ..).after ((State.failAfterCommit_touches ..).after ((State.answerWaits_touches d).mono (by decide)))
    obtain ⟨g, hg, hgdone, hgcores, hgtiles⟩ : ∃ g, g = (if e.finalTile == some t then f.writeQuality e.queue e.seq else f)
        ∧ g.SlotIs e.queue e.seq (Slot.DoneWith t) ∧ g.cores = f.cores ∧ (g.queue e.queue).tiles = (f.queue e.queue).tiles := by
      refine ⟨_, rfl, ?_⟩
      split
      · exact State.writeQuality_done hfdone
      · exact ⟨hfdone, rfl, rfl⟩
    rw [← hg, State.monitorOne_none (by obtain ⟨x, hx, hd⟩ := hgdone; exact ⟨x, hx, hd.2.1⟩)]
    have hend : (g.modSlot e.queue e.seq fun x => { x with tack := x.tack || x.switchDecided }).track.SlotIs e.queue e.seq
        (Slot.DoneWith t) :=
      (hgdone.modSlot (f := fun x => { x with tack := x.tack || x.switchDecided }) (Q := Slot.DoneWith t) (fun _ => ⟨rfl, rfl⟩)
        fun x hx => hx.of rfl rfl rfl rfl).track fun e x hx h =>
        h.of (congrArg Slot.tiles hx :) (congrArg Slot.promise hx :) (congrArg Slot.image hx :) (congrArg Slot.maps hx :)
    have htrack := State.track_touches (g.modSlot e.queue e.seq fun x => { x with tack := x.tack || x.switchDecided })
    have hcore : (g.modSlot e.queue e.seq fun x => { x with tack := x.tack || x.switchDecided }).track.core k = d.core k :=
      State.core_of_cores (Eq.trans (htrack.frame .cores (by decide)) (Eq.trans hgcores (hfdq.frame .cores (by decide)))) k
    obtain ⟨hfree, hstaged, hred⟩ := ((((c.warmFor k e t).chargeTile k false).unpinAll k).core k).lowerBin_idle
    refine ⟨by rw [hcore, hdk]; exact hfree, by rw [hcore, hdk]; exact hstaged, by rw [hcore, hdk]; exact hred, ?_, ?_⟩
    · obtain ⟨x, hx, hplace, -⟩ := hend
      rw [hx, Option.map_some, hplace]
    · rw [State.queue_of_queues (htrack.frame .queues (by decide))]
      refine Eq.trans hgtiles ?_
      rw [State.queue_of_queues (hfdq.frame .queues (by decide)), State.queue_of_queues hdqueues, hctiles]
  case abandon =>
    obtain ⟨heq, hen⟩ := State.slot_key he
    refine completes_when (b := fun s => (s.core k).mode == .abandoning) hl rfl (by simp [hm]) ?_
    dsimp only
    set q := (s.core k).queue with hq
    set n := (s.core k).seq with hn
    set t := (s.core k).tile with ht
    set a := ((s.dropTileReqs k).unpinAll k).chargeTile k true with ha
    have hseat : CoresAgree Core.seated s a := (CoresAgree.of_touches (State.chargeTile_touches ..) (by decide)).after
      ((State.unpinAll_cores ..).after (.of_touches (State.dropTileReqs_touches ..) (by decide)))
    have haslot : a.slot? q n = some e := by
      refine Eq.trans (State.slot_of_slots ?_ q n) he
      exact Eq.trans ((State.chargeTile_touches ..).frame .slots (by decide)) (Eq.trans ((State.unpinAll_touches ..).frame .slots (by decide))
        ((State.dropTileReqs_touches ..).frame .slots (by decide)))
    have hkq : (a.core k).queue = q := (congrArg Core.queue (hseat.core k) :)
    have hkn : (a.core k).seq = n := (congrArg Core.seq (hseat.core k) :)
    have hkt : (a.core k).tile = t := (congrArg Core.tile (hseat.core k) :)
    have hback : (a.returnTile k).SlotIs q n fun x => (x.tile t).place = .waiting := by
      have hreturn := State.returnTile_waiting (s := a) (k := k) (e := e) (by rw [hkq, hkn]; exact haslot)
      rwa [hkq, hkn, hkt] at hreturn
    set b := (a.returnTile k).endTile k with hb
    have hbk : b.core k = ((a.returnTile k).core k).idle.lowerBin := State.endTile_core ..
    set c := b.modSlot q n fun e => { e with tack := e.tack || e.switchDecided } with hc
    have hcslot : c.SlotIs q n fun x => (x.tile t).place = .waiting :=
      (hback.of_touches (State.endTile_touches ..) (by decide)).modSlot (fun _ => ⟨rfl, rfl⟩) fun _ h => h
    have hend : (c.settleLaunch q n).track.SlotIs q n fun x => (x.tile t).place = .waiting :=
      (hcslot.settleLaunch (fun _ h => Slot.endPhases_waiting h) fun _ _ _ _ h => h).track fun e x hx h => by
        have htiles : x.tiles = e.tiles := (congrArg Slot.tiles hx :)
        rw [Slot.tile, htiles]
        exact h
    have hcores : (c.settleLaunch q n).track.core k = b.core k := State.core_of_cores (Eq.trans
      ((State.track_touches _).frame .cores (by decide)) ((State.settleLaunch_touches c q n).frame .cores (by decide))) k
    obtain ⟨hfree, hstaged, -⟩ := ((a.returnTile k).core k).lowerBin_idle
    refine ⟨by rw [hcores, hbk]; exact hfree, by rw [hcores, hbk]; exact hstaged, ?_⟩
    obtain ⟨x, hx, hplace⟩ := hend
    rw [heq, hen, hx, Option.map_some, hplace]
  case forced =>
    have hrun : (s.core k).mode = .running := by
      simp only [State.forceable, Bool.and_eq_true, beq_iff_eq] at hf
      exact hf.1
    refine completes_when (f := fun _ s => s.forceCounted k) (b := fun s => s.forceable k
      && ((s.core k).strands.any fun e => e.2 == .parked)
      && (s.claimants k).any fun x => s.precedes k x (s.core k).cand && !s.worseCore k x) hl rfl (by simp [hf, hpark, hclaim]) ?_
    exact State.forceCounted_does hrun
  case idle =>
    have hrun : (s.core k).mode = .running := by
      simp only [State.forceable, Bool.and_eq_true, beq_iff_eq] at hf
      exact hf.1
    refine completes_when (f := fun _ s => s.forceCounted k) (b := fun s => s.forceable k && (s.core k).stalled
      && ((s.core k).idleSince.any fun t => t + 8192 ≤ s.time.now) && !(s.claimants k).isEmpty) hl rfl
      (by simp [hf, hst, hid, hat, hcl]) ?_
    obtain ⟨hframe, hmode, hforced, hothers⟩ := State.forceCounted_does hrun
    refine ⟨hframe, hmode, hforced, ?_, hothers⟩
    rw [State.forceCounted, hkey]
    show ((s.account key fun a => { a with forced := satAdd 32 a.forced 1 }).ctxs.get? key).map (·.acct.forced) = _
    rw [State.account, State.ctxs_modCtx hc, tbl_get_put_same]
    rfl
  case hem =>
    refine completes_onSlot (t := fun s e => e.switchDecided && !e.switched && !e.tack && e.state == .running
      && e.promise.any fun p => p.hem + 4096 ≤ s.time.ct) hl he rfl (by simp [hd, hs, ht, hr, hp, hhem]) ?_
    dsimp only
    rw [State.coresOf_forceLaunch hcores]
    have hslot : (s.forceLaunch q n).slot? q n = some e := he
    show Option.map _ (State.slot? (State.modSlot _ q n fun e => { e with tack := true }) q n) = _
    rw [State.slot_modSlot_same (f := fun e => { e with tack := true }) hslot fun _ => ⟨rfl, rfl⟩]
    rfl
  case hemCore =>
    refine completes_onSlot (t := fun s e => e.switchDecided && !e.switched && !e.tack && e.state == .running
      && e.promise.any fun p => p.hem + 4096 ≤ s.time.ct) hl he rfl (by simp [hd, hs, ht, hr, hp, hhem]) ?_
    dsimp only
    obtain ⟨hab, hforced, hserve⟩ := Core.forceFor_does hmode hserves
    have hget : (s.forceLaunch q n).cores.get? k = some (c.forceFor q n) := by
      show Tbl.get? (Tbl.mapV s.cores fun _ c => c.forceFor q n) k = _
      rw [tbl_get_mapV, hc]
      rfl
    have hbusy : ((s.forceLaunch q n).coresOf q n).isEmpty = false := by
      rw [List.isEmpty_eq_false_iff_exists_mem]
      exact ⟨k, List.mem_map.mpr ⟨(k, c.forceFor q n), List.mem_filter.mpr ⟨tbl_mem_get hget, hserve⟩, rfl⟩⟩
    have hcore : (s.forceLaunch q n).core k = c.forceFor q n := by rw [State.core, Tbl.getD, hget]; rfl
    rw [hbusy, if_neg Bool.false_ne_true, hcore]
    exact ⟨(State.forceLaunch_touches ..).frame.mono (by decide), hab, hforced⟩

end Sys2Proof.Machine
end

section
/-!
PROOFS (this file, a sitting of its own). The deadline monitor, the switch of a launch to its fallback, and the commons (R106, R197,
R203, R298).
-/
namespace Sys2Proof.Machine

open Sys2Proof

/-- A fold keeps what each of its steps keeps. -/
theorem foldl_keeps {α β γ : Type} {g : α → β → α} {f : α → γ} (h : ∀ a b, f (g a b) = f a) (l : List β) (a : α) :
    f (l.foldl g a) = f a := by
  induction l generalizing a with
  | nil => rfl
  | cons b l ih => rw [List.foldl_cons, ih, h]

/-! ### The variant of a launch -/

/-- Which variant a launch runs, and whether it switched to it. -/
def Slot.picked (e : Slot) : Bool × Nat := (e.switched, e.variant)

theorem Slot.rerunPhase_picked (e : Slot) (k : Nat) : (e.rerunPhase k).picked = e.picked := by
  unfold Slot.rerunPhase
  split
  · rfl
  · next m _ =>
    have hall : ∀ (g : Slot → Nat → TileState → TileState) (e : Slot),
        (m.tileIndices.foldl (fun (e : Slot) t => e.modTile t (g e t)) e).picked = e.picked :=
      fun g e => foldl_keeps (g := fun (e : Slot) t => e.modTile t (g e t)) (f := Slot.picked) (fun _ _ => rfl) m.tileIndices e
    exact (hall (fun e t x => { x with preds := e.predsLeft t }) _).trans
      (hall (fun _ _ x => { x with place := .waiting, commitCt := none, rerun := true, replayed := false }) e)

theorem Slot.endPhase_picked (e : Slot) (k : Nat) : (e.endPhase k).picked = e.picked := by
  unfold Slot.endPhase
  split
  · rfl
  · dsimp only
    split_ifs
    · rfl
    · rfl
    · rfl
    · exact e.rerunPhase_picked k
    · rfl
    · rfl

theorem Slot.endPhases_picked (e : Slot) : e.endPhases.picked = e.picked :=
  foldl_keeps (f := Slot.picked) (fun e k => by
    split
    · exact e.endPhase_picked k
    · rfl) _ e

/-! ### The commons -/

theorem setCommons_frame (s : State) (c : Commons) : OnlyChanges [.commons] s { s with commons := c } := by
  intro p hp
  cases p with
  | commons => exact absurd List.mem_cons_self hp
  | _ => rfl

/-- Who holds the commons, who is to have them, and since when. -/
def State.turn (s : State) : Option Nat × Option Nat × Nat := (s.commons.running, s.commons.switching, s.commons.sliceNs)

theorem State.turn_of_commons {s t : State} (h : t.commons = s.commons) : t.turn = s.turn := by
  rw [State.turn, State.turn, h]

theorem State.turn_modShares (s : State) (p c : Nat) (f : Shares → Shares) : (s.modShares p c f).turn = s.turn := by
  unfold State.modShares
  split
  · rfl
  · rfl

/-- The upkeep of shares and waits does not hand the commons over. -/
theorem State.turn_track (s : State) : s.track.turn = s.turn := by
  unfold State.track
  refine (foldl_keeps (fun s e => State.turn_of_commons ((State.followWait_touches s e).frame .commons (by decide))) _ _).trans ?_
  exact foldl_keeps (fun s p => foldl_keeps (fun s c => s.turn_modShares ..) _ s) _ s

/-- Settles O28, clause by clause: what the monitor makes of the one late launch, the switch through the launch that is forced and
settled, and the commons through what keeps their turn. -/
theorem monitorSwitchesAndCommons : Obligations.MonitorSwitchesAndCommons := by
  unfold Obligations.MonitorSwitchesAndCommons
  refine ⟨fun s e p hl hct hgrid hslots hp hlaunch hrun hfail hlate hcan => ?decides,
    fun s e p hl hct hgrid hslots hp hlaunch hrun hfail hlate hcan hsw hbreak hover => ?overruns,
    fun s q n e p g vi v hl he hd hs ht hrun hfail hp hg hv hvi => ?switches,
    fun s x e hl hw hkey hsw hrun hres => ?commons, fun s key hl hsw hbusy => ?done⟩
  case decides =>
    have hslot : s.slot? e.queue e.seq = some e := by simp [State.slot?, hslots]
    refine completes_when hl rfl (by simp [hct, hgrid]) ?_
    have hone : s.monitorOne e.queue e.seq = s.modSlot e.queue e.seq fun e => { e with switchDecided := true, tack := false } := by
      rw [State.monitorOne, hslot]
      dsimp only
      rw [hp]
      simp [hlaunch, hrun, hfail, Nat.not_le.mpr hlate, hcan]
    rw [hslots]
    show OnlyChanges [.slots] s (s.monitorOne e.queue e.seq) ∧ (s.monitorOne e.queue e.seq).slots = _
    rw [hone]
    exact ⟨(State.modSlot_touches ..).frame, by simp [State.modSlot, hslots]⟩
  case overruns =>
    have hslot : s.slot? e.queue e.seq = some e := by simp [State.slot?, hslots]
    refine completes_when hl rfl (by simp [hct, hgrid]) ?_
    have hone : s.monitorOne e.queue e.seq = ((s.modSlot e.queue e.seq fun e => { e with overrun := true }).modPart e.partition
        fun u => { u with adm := { u.adm with overrun := satAdd 16 u.adm.overrun 1 } }).icFire 6 := by
      rw [State.monitorOne, hslot]
      dsimp only
      rw [hp]
      rcases hsw with hsw | hsw <;> simp [hlaunch, hrun, hfail, Nat.not_le.mpr hlate, hcan, hsw, hbreak, hover]
    rw [hslots]
    show OnlyChanges [.slots, .parts, .ic] s (s.monitorOne e.queue e.seq) ∧ (s.monitorOne e.queue e.seq).slots = _
      ∧ ((s.monitorOne e.queue e.seq).part e.partition).adm.overrun = _ ∧ ((s.monitorOne e.queue e.seq).ic.src 6).state = _
    rw [hone]
    set a := s.modSlot e.queue e.seq fun e => { e with overrun := true } with ha
    refine ⟨(((State.modSlot_touches ..).frame.mono (by decide)).trans ((State.modPart_touches ..).frame.mono (by decide))).trans
      ((State.icFire_touches ..).frame.mono (by decide)), by simp [ha, State.modSlot, hslots, State.modPart, State.icFire], ?_,
      Ic.src_fire_fired ..⟩
    exact congrArg (fun u : Partition => u.adm.overrun) (State.part_modPart_same a e.partition fun u =>
      { u with adm := { u.adm with overrun := satAdd 16 u.adm.overrun 1 } })
  case switches =>
    refine completes_onSlot (t := fun _ e => e.switchDecided && !e.switched && e.tack && e.state == .running
      && e.failedPhase.isNone) hl he rfl (by simp [hd, hs, ht, hrun, hfail]) ?_
    rw [hp, hg, hv]
    dsimp only
    rw [hvi]
    dsimp only
    set a := (s.forceLaunch q n).modSlot q n fun e => e.toFallback g vi v p with ha
    set b := a.modPart e.partition fun u => { u with adm := { u.adm with fallbacks := satAdd 16 u.adm.fallbacks 1 } } with hb
    have haslot : a.SlotIs q n fun x => x.picked = (true, vi) :=
      ⟨_, State.slot_modSlot_same (f := fun e => e.toFallback g vi v p) he fun _ => ⟨rfl, rfl⟩, rfl⟩
    have hend : (b.settleLaunch q n).track.SlotIs q n fun x => x.picked = (true, vi) :=
      ((haslot.of_slots rfl : b.SlotIs q n _).settleLaunch (fun x h => x.endPhases_picked.trans h) fun _ _ _ _ h => h).track
        fun e x hx h => Eq.trans (congrArg Slot.picked hx :) h
    have hparts : (b.settleLaunch q n).track.parts = b.parts :=
      Eq.trans ((State.track_touches _).frame .parts (by decide)) ((State.settleLaunch_touches ..).frame .parts (by decide))
    obtain ⟨x, hx, hpick⟩ := hend
    refine ⟨by rw [hx]; exact congrArg some hpick, ?_⟩
    rw [part_of_parts hparts, hb, State.part_modPart_same]
    show min (((a.part e.partition).adm.fallbacks) + 1) _ = _
    rfl
  case commons =>
    refine completes_live hl rfl ?_
    dsimp only
    rw [State.when, if_pos (by simp [hw, hkey, hsw, hrun, hres])]
    generalize (s.cores.filter _).map _ = cores
    have hforce : Touches [.ctxs, .cores] s (cores.foldl State.forceCounted s) :=
      .foldl (.refl ..) fun _ _ => State.forceCounted_touches ..
    have hcommons : (cores.foldl State.forceCounted s).commons = s.commons := hforce.frame .commons (by decide)
    exact ⟨(hforce.frame.mono (by decide)).trans ((setCommons_frame _ _).mono (by decide)), by rw [hcommons]⟩
  case done =>
    refine completes_live hl rfl ?_
    rw [hsw]
    dsimp only
    rw [State.when, if_pos (by rw [hbusy]; rfl)]
    have haccount : Touches [.ctxs] s (s.account key fun a => { a with switchNs := satAdd 64 a.switchNs (s.commonsTime key) }) :=
      State.account_touches ..
    set a := s.account key fun a => { a with switchNs := satAdd 64 a.switchNs (s.commonsTime key) }
    set b := ({ a with slots := a.slots.map (Slot.saveAll a.nCores) } : State).dropLines true fun l => l.partition == 63 with hb
    set c := ({ b with
      cores := b.cores.mapV fun k c => if (b.part 63).hasCore k then { c with scratch := [], lastContext := none } else c
      commons := { b.commons with running := some key, switching := none, sliceNs := b.time.now } } : State) with hc
    set d := c.modPart 63 fun p => { p with affinity := p.affinity.mapV fun _ a => { a with warmth := [] } } with hd
    have htime : b.time = s.time :=
      Eq.trans ((State.dropLines_touches ..).frame .time (by decide)) (haccount.frame .time (by decide))
    have hturn : d.track.turn = (some key, none, s.time.now) := (State.turn_track d).trans (by rw [← htime]; rfl)
    have hlines : d.track.lines = b.lines := (State.track_touches d).frame .lines (by decide)
    simp only [State.turn, Prod.mk.injEq] at hturn
    obtain ⟨hrun, hnone, hsince⟩ := hturn
    refine ⟨hrun, hnone, hsince, fun l hlin => ?_⟩
    rw [hlines] at hlin
    simpa using State.lines_dropLines _ _ _ l hlin

end Sys2Proof.Machine
end

section
/-!
PROOFS (this file, a sitting of its own). The word code RS(36,32) (R370 to R374): the product in GF(2^8) is what doublings make of
it, the syndromes are additive, a code word has none, and one wrong symbol is told by its four syndromes.
-/
namespace Sys2Proof.Machine

open Sys2Proof

/-! ### The field -/

theorem xor_common {n : Nat} (a u v : BitVec n) : u ^^^ v = (a ^^^ u) ^^^ (a ^^^ v) := by
  rw [BitVec.xor_comm a u, BitVec.xor_assoc, ← BitVec.xor_assoc a a v, BitVec.xor_self, BitVec.zero_xor]

theorem gfDouble_zero : gfDouble 0 = 0 := by decide

theorem gfDouble_xor (a b : BitVec 8) : gfDouble (a ^^^ b) = gfDouble a ^^^ gfDouble b := by
  have hmsb : (a ^^^ b).msb = (a.msb ^^ b.msb) := BitVec.msb_xor
  unfold gfDouble
  rw [hmsb, BitVec.shiftLeft_xor_distrib]
  cases a.msb <;> cases b.msb
  · simp
  · simp only [Bool.false_xor, if_true, Bool.false_eq_true, if_false]
    ac_rfl
  · simp only [Bool.xor_false, if_true, Bool.false_eq_true, if_false]
    ac_rfl
  · simp only [Bool.xor_self, if_true, Bool.false_eq_true, if_false]
    rw [BitVec.xor_comm (a <<< 1) 0x1D#8, BitVec.xor_comm (b <<< 1) 0x1D#8]
    exact xor_common _ _ _

theorem gfDouble_iterate_xor (n : Nat) (a b : BitVec 8) : gfDouble^[n] (a ^^^ b) = gfDouble^[n] a ^^^ gfDouble^[n] b := by
  induction n with
  | zero => rfl
  | succ n ih => rw [Function.iterate_succ_apply', ih, gfDouble_xor, ← Function.iterate_succ_apply' gfDouble,
      ← Function.iterate_succ_apply' gfDouble]

theorem gfDouble_iterate_zero (n : Nat) : gfDouble^[n] 0 = 0 := Function.iterate_fixed gfDouble_zero n

theorem gfMulAux_gfDouble_left (n : Nat) (a b : BitVec 8) : gfMulAux n (gfDouble a) b = gfDouble (gfMulAux n a b) := by
  induction n generalizing a b with
  | zero => exact gfDouble_zero.symm
  | succ n ih =>
    rw [gfMulAux, gfMulAux, gfDouble_xor, ih]
    congr 1
    split
    · rfl
    · exact gfDouble_zero.symm

theorem gfMulAux_xor_right (n : Nat) (a b c : BitVec 8) : gfMulAux n a (b ^^^ c) = gfMulAux n a b ^^^ gfMulAux n a c := by
  induction n generalizing a b c with
  | zero => exact BitVec.xor_self.symm
  | succ n ih =>
    rw [gfMulAux, gfMulAux, gfMulAux, BitVec.ushiftRight_xor_distrib, ih, BitVec.getLsbD_xor]
    cases b.getLsbD 0 <;> cases c.getLsbD 0
    · simp
    · simp only [Bool.false_xor, if_true, Bool.false_eq_true, if_false]
      ac_rfl
    · simp only [Bool.xor_false, if_true, Bool.false_eq_true, if_false]
      ac_rfl
    · simp only [Bool.xor_self, if_true, Bool.false_eq_true, if_false]
      exact (BitVec.zero_xor).trans (xor_common _ _ _)

theorem gfMul_xor_right (a b c : BitVec 8) : gfMul a (b ^^^ c) = gfMul a b ^^^ gfMul a c := gfMulAux_xor_right 8 a b c

theorem gfMul_one (a : BitVec 8) : gfMul a 1 = a := by revert a; decide

/-- x^8 is 0x1D in the field (R370). -/
theorem gfMul_reduction (a : BitVec 8) : gfMul a 0x1D = gfDouble^[8] a := by revert a; decide

/-- The product without its highest bit, and with it. -/
theorem gfMul_eq_seven (a b : BitVec 8) : gfMul a b = gfMulAux 7 a b ^^^ (if b.msb then gfDouble^[7] a else 0) := by
  have hmsb : b.msb = b.getLsbD 7 := rfl
  rw [hmsb]
  simp [gfMul, gfMulAux, BitVec.xor_assoc, Function.iterate_succ_apply]

/-- The first `n` steps of a product read the lowest `n` bits of the factor. -/
theorem gfMulAux_congr (n : Nat) (a : BitVec 8) {b c : BitVec 8} (h : ∀ i < n, b.getLsbD i = c.getLsbD i) :
    gfMulAux n a b = gfMulAux n a c := by
  induction n generalizing a b c with
  | zero => rfl
  | succ n ih =>
    rw [gfMulAux, gfMulAux, h 0 (by omega), ih _ (b := b >>> 1) (c := c >>> 1) fun i hi => ?_]
    rw [BitVec.getLsbD_ushiftRight, BitVec.getLsbD_ushiftRight, h _ (by omega)]

theorem gfMul_shiftLeft (a b : BitVec 8) : gfMul a (b <<< 1) = gfMulAux 7 (gfDouble a) b := by
  rw [gfMul, gfMulAux, gfMulAux_congr 7 (c := b) (gfDouble a) fun i hi => ?_]
  · simp
  · rw [BitVec.getLsbD_ushiftRight, BitVec.getLsbD_shiftLeft]
    simp [show 1 + i < 8 by omega]

/-- Doubling a factor doubles the product. -/
theorem gfMul_gfDouble (a b : BitVec 8) : gfMul a (gfDouble b) = gfDouble (gfMul a b) := by
  have hred : gfMul a (gfDouble b) = gfMul a (b <<< 1) ^^^ (if b.msb then gfMul a 0x1D else 0) := by
    unfold gfDouble
    cases b.msb
    · simp
    · simp [gfMul_xor_right]
  rw [hred, gfMul_shiftLeft, gfMul_eq_seven a b, gfDouble_xor, gfMulAux_gfDouble_left]
  congr 1
  cases b.msb
  · exact gfDouble_zero.symm
  · exact (gfMul_reduction a).trans (Function.iterate_succ_apply' gfDouble 7 a)

theorem gfMul_iterate (n : Nat) (a b : BitVec 8) : gfMul a (gfDouble^[n] b) = gfDouble^[n] (gfMul a b) := by
  induction n with
  | zero => rfl
  | succ n ih => rw [Function.iterate_succ_apply', gfMul_gfDouble, ih, ← Function.iterate_succ_apply' gfDouble]

theorem gfPow_eq_iterate (j : Nat) : gfPow j = gfDouble^[j] 1 := by
  induction j with
  | zero => rfl
  | succ j ih => rw [gfPow, ih, ← Function.iterate_succ_apply' gfDouble]

theorem gfMul_gfPow (a : BitVec 8) (j : Nat) : gfMul a (gfPow j) = gfDouble^[j] a := by
  rw [gfPow_eq_iterate, gfMul_iterate, gfMul_one]

/-- α has order 255. -/
theorem gfDouble_period (a : BitVec 8) : gfDouble^[255] a = a := by
  rw [← gfMul_gfPow, show gfPow 255 = 1 by decide +kernel, gfMul_one]

theorem gfDouble_iterate_injective (n : Nat) : Function.Injective gfDouble^[n] := by
  refine Function.Injective.iterate (fun a b h => ?_) n
  rw [← gfDouble_period a, ← gfDouble_period b, Function.iterate_succ_apply gfDouble 254 a,
    Function.iterate_succ_apply gfDouble 254 b, h]

/-- α^15 and α^17 move every element but 0. -/
theorem gfDouble_moves {e : BitVec 8} (he : e ≠ 0) : gfDouble^[15] e ≠ e ∧ gfDouble^[17] e ≠ e := by
  rw [← gfMul_gfPow, ← gfMul_gfPow]
  revert e
  decide +kernel

/-- No power of α below 36 but the first fixes an element other than 0: the power would divide 255, and so 15 or 17. -/
theorem gfDouble_moves_of_lt {e : BitVec 8} (he : e ≠ 0) {n : Nat} (hn : n < 36) (h0 : n ≠ 0) : gfDouble^[n] e ≠ e := by
  intro h
  have hgcd : Function.IsPeriodicPt gfDouble (n.gcd 255) e := Function.IsPeriodicPt.gcd h (gfDouble_period e)
  have hdvd : ∀ n < 36, n ≠ 0 → n.gcd 255 ∣ 15 ∨ n.gcd 255 ∣ 17 := by decide
  rcases hdvd n hn h0 with hd | hd
  · exact (gfDouble_moves he).1 (hgcd.trans_dvd hd)
  · exact (gfDouble_moves he).2 (hgcd.trans_dvd hd)

theorem gfDouble_iterate_inj {e : BitVec 8} (he : e ≠ 0) {i j : Nat} (hij : i < j) (hj : j < 36) :
    gfDouble^[i] e ≠ gfDouble^[j] e := by
  intro h
  rw [show j = i + (j - i) by omega, Function.iterate_add_apply] at h
  exact gfDouble_moves_of_lt he (n := j - i) (by omega) (by omega) (gfDouble_iterate_injective i h).symm

/-! ### Syndromes are additive -/

/-- Where symbol `j` of a word stands (R371). -/
def symbolBase (j : Nat) : Nat := if j < 4 then 256 + 8 * j else 8 * (j - 4)

theorem symbolAt_eq (w : BitVec 288) (j : Nat) : symbolAt w j = w.extractLsb' (symbolBase j) 8 := by
  unfold symbolAt symbolBase
  split
  · rfl
  · rfl

theorem symbolAt_xor (w v : BitVec 288) (j : Nat) : symbolAt (w ^^^ v) j = symbolAt w j ^^^ symbolAt v j := by
  rw [symbolAt_eq, symbolAt_eq, symbolAt_eq, BitVec.extractLsb'_xor]

/-- Horner's rule by doublings: the syndrome k multiplies by α^k at every symbol. -/
theorem syndromeAux_succ (w : BitVec 288) (k j : Nat) (acc : BitVec 8) :
    syndromeAux w (gfPow k) (j + 1) acc = syndromeAux w (gfPow k) j (gfDouble^[k] acc ^^^ symbolAt w j) := by
  rw [syndromeAux, gfMul_gfPow]

theorem syndromeAux_xor (w v : BitVec 288) (k n : Nat) (a b : BitVec 8) :
    syndromeAux (w ^^^ v) (gfPow k) n (a ^^^ b) = syndromeAux w (gfPow k) n a ^^^ syndromeAux v (gfPow k) n b := by
  induction n generalizing a b with
  | zero => rfl
  | succ n ih =>
    rw [syndromeAux_succ, syndromeAux_succ, syndromeAux_succ, ← ih, gfDouble_iterate_xor, symbolAt_xor]
    congr 1
    ac_nf

theorem syndrome_xor (w v : BitVec 288) (k : Nat) : syndrome (w ^^^ v) k = syndrome w k ^^^ syndrome v k := by
  rw [syndrome, syndrome, syndrome, ← syndromeAux_xor]
  rfl

theorem syndromes_xor (w v : BitVec 288) : syndromes (w ^^^ v) = syndromes w ^^^ syndromes v := by
  rw [syndromes, syndrome_xor, syndrome_xor, syndrome_xor, syndrome_xor, ← BitVec.xor_append, ← BitVec.xor_append, ← BitVec.xor_append]
  rfl

/-- Syndrome 0 is the lowest byte of the four. -/
theorem syndrome_zero_of_syndromes {w v : BitVec 288} (h : syndromes w = syndromes v) : syndrome w 0 = syndrome v 0 := by
  have hlow : ∀ u : BitVec 288, (syndromes u).extractLsb' 0 8 = syndrome u 0 := fun u => by
    rw [syndromes, BitVec.extractLsb'_append_eq_right]
  rw [← hlow w, ← hlow v, h]

/-! ### A word with one symbol -/

/-- The word that has `e` as symbol `j` and is 0 elsewhere. -/
def lonely (e : BitVec 8) (j : Nat) : BitVec 288 := e.zeroExtend 288 <<< symbolBase j

theorem symbolAt_lonely (e : BitVec 8) {i j : Nat} (hi : i < 36) (hj : j < 36) :
    symbolAt (lonely e j) i = if i = j then e else 0 := by
  rw [symbolAt_eq, lonely]
  apply BitVec.eq_of_getLsbD_eq
  intro t ht
  rw [BitVec.getLsbD_extractLsb', BitVec.getLsbD_shiftLeft, BitVec.getLsbD_setWidth]
  have hin : symbolBase i + t < 288 := by
    unfold symbolBase
    split <;> omega
  split
  · next h =>
    subst h
    simp [ht, hin, show t < 288 by omega]
  · next h =>
    have hapart : symbolBase i + t < symbolBase j ∨ 8 ≤ symbolBase i + t - symbolBase j := by
      unfold symbolBase
      split <;> split <;> omega
    rcases hapart with ha | ha
    · simp [ha]
    · simp [BitVec.getLsbD_of_ge e _ ha]

theorem syndromeAux_zero {w : BitVec 288} {n : Nat} (k : Nat) (h : ∀ i < n, symbolAt w i = 0) (a : BitVec 8) :
    syndromeAux w (gfPow k) n a = gfDouble^[k * n] a := by
  induction n generalizing a with
  | zero => rfl
  | succ n ih =>
    rw [syndromeAux_succ, h n (by omega), show gfDouble^[k] a ^^^ 0 = gfDouble^[k] a from BitVec.xor_zero,
      ih fun i hi => h i (by omega), ← Function.iterate_add_apply]
    rfl

/-- The syndromes of one symbol: S_k = e α^(kj) (R372). -/
theorem syndrome_lonely (e : BitVec 8) {j : Nat} (hj : j < 36) (k : Nat) : syndrome (lonely e j) k = gfDouble^[k * j] e := by
  have hdown : ∀ n, n ≤ 36 → j < n → syndromeAux (lonely e j) (gfPow k) n 0 = gfDouble^[k * j] e := by
    intro n hn hlt
    induction n with
    | zero => omega
    | succ n ih =>
      rw [syndromeAux_succ, gfDouble_iterate_zero, symbolAt_lonely e (by omega) hj]
      split
      · next h =>
        subst h
        rw [show (0 : BitVec 8) ^^^ e = e from BitVec.zero_xor]
        refine syndromeAux_zero k (fun i hi => ?_) e
        rw [symbolAt_lonely e (by omega) hj, if_neg (by omega)]
      · exact ih (by omega) (by omega)
  exact hdown 36 le_rfl hj

/-! ### Code words -/

/-- The remainder of the division by g(x), taken at α^k by Horner's rule. -/
def remainderAt (k : Nat) (r : BitVec 8 × BitVec 8 × BitVec 8 × BitVec 8) : BitVec 8 :=
  gfDouble^[3 * k] r.1 ^^^ gfDouble^[2 * k] r.2.1 ^^^ gfDouble^[k] r.2.2.1 ^^^ r.2.2.2

/-- α^0 to α^3 are roots of g(x) (R370): x^4 is there what the lower terms of g are. -/
theorem generator_root (f : BitVec 8) {k : Nat} (hk : k < 4) :
    remainderAt k (gfMul f 0x0F, gfMul f 0x36, gfMul f 0x78, gfMul f 0x40) = gfDouble^[4 * k] f := by
  have hcoef : ∀ k < 4, (gfDouble^[3 * k] 0x0F ^^^ gfDouble^[2 * k] 0x36 ^^^ gfDouble^[k] 0x78 ^^^ 0x40 : BitVec 8)
      = gfDouble^[4 * k] 1 := by decide
  rw [remainderAt, ← gfMul_iterate, ← gfMul_iterate, ← gfMul_iterate, ← gfMul_xor_right, ← gfMul_xor_right, ← gfMul_xor_right,
    hcoef k hk, gfMul_iterate, gfMul_one]

/-- One step of the division multiplies the remainder by x and takes in a data byte times x^4. -/
theorem remainderAt_divStep (r : BitVec 8 × BitVec 8 × BitVec 8 × BitVec 8) (d : BitVec 8) {k : Nat} (hk : k < 4) :
    remainderAt k (divStep r d) = gfDouble^[k] (remainderAt k r) ^^^ gfDouble^[4 * k] d := by
  obtain ⟨r3, r2, r1, r0⟩ := r
  have hroot := generator_root (r3 ^^^ d) hk
  unfold remainderAt at hroot
  dsimp only at hroot
  unfold remainderAt divStep
  dsimp only
  generalize gfMul (r3 ^^^ d) 0x0F = a, gfMul (r3 ^^^ d) 0x36 = b, gfMul (r3 ^^^ d) 0x78 = c, gfMul (r3 ^^^ d) 0x40 = e at hroot ⊢
  have hpow : gfDouble^[k] (gfDouble^[3 * k] r3) = gfDouble^[4 * k] r3 ∧ gfDouble^[k] (gfDouble^[2 * k] r2) = gfDouble^[3 * k] r2
      ∧ gfDouble^[k] (gfDouble^[k] r1) = gfDouble^[2 * k] r1 := by
    refine ⟨?_, ?_, ?_⟩ <;> rw [← Function.iterate_add_apply] <;> congr 1 <;> omega
  obtain ⟨h3, h2, h1⟩ := hpow
  simp only [gfDouble_iterate_xor, h3, h2, h1] at hroot ⊢
  calc _ = (gfDouble^[3 * k] r2 ^^^ gfDouble^[2 * k] r1 ^^^ gfDouble^[k] r0)
      ^^^ (gfDouble^[3 * k] a ^^^ gfDouble^[2 * k] b ^^^ gfDouble^[k] c ^^^ e) := by ac_rfl
    _ = _ := by
      rw [hroot]
      ac_rfl

/-- Horner's rule over a list of symbols, highest first. -/
def hornerAt (k : Nat) (a : BitVec 8) (l : List (BitVec 8)) : BitVec 8 := l.foldl (fun a d => gfDouble^[k] a ^^^ d) a

theorem syndromeAux_eq_hornerAt (w : BitVec 288) (k m n : Nat) (a : BitVec 8) :
    syndromeAux w (gfPow k) (m + n) a
      = syndromeAux w (gfPow k) m (hornerAt k a ((List.range n).map fun i => symbolAt w (m + (n - 1 - i)))) := by
  induction n generalizing a with
  | zero => rfl
  | succ n ih =>
    rw [← Nat.add_assoc, syndromeAux_succ, ih, List.range_succ_eq_map, List.map_cons, List.map_map]
    congr 1
    rw [hornerAt, hornerAt, List.foldl_cons]
    congr 1
    refine List.map_congr_left fun i _ => ?_
    congr 1
    omega

/-- The division and Horner's rule go together: at a root of g(x) the remainder is the bytes so far times x^4. -/
theorem remainderAt_foldl {k : Nat} (hk : k < 4) (l : List (BitVec 8)) {a : BitVec 8} {r : BitVec 8 × BitVec 8 × BitVec 8 × BitVec 8}
    (h : remainderAt k r = gfDouble^[4 * k] a) : remainderAt k (l.foldl divStep r) = gfDouble^[4 * k] (hornerAt k a l) := by
  induction l generalizing a r with
  | nil => exact h
  | cons d l ih =>
    refine ih (a := gfDouble^[k] a ^^^ d) (r := divStep r d) ?_
    rw [remainderAt_divStep r d hk, h, gfDouble_iterate_xor, ← Function.iterate_add_apply, ← Function.iterate_add_apply, Nat.add_comm]

theorem symbolAt_encodeWord_data (d : BitVec 256) {i : Nat} (h : i < 32) :
    symbolAt (encodeWord d) (4 + i) = d.extractLsb' (8 * i) 8 := by
  rw [symbolAt_data, encodeWord_eq_append, BitVec.extractLsb'_cast, BitVec.extractLsb'_append_eq_of_add_le (by omega)]

/-- A code word has no syndrome (R372). -/
theorem syndrome_encodeWord (d : BitVec 256) {k : Nat} (hk : k < 4) : syndrome (encodeWord d) k = 0 := by
  set bytes := (List.range 32).map fun i => d.extractLsb' (8 * (31 - i)) 8 with hbytes
  have hdata : ((List.range 32).map fun i => symbolAt (encodeWord d) (4 + (32 - 1 - i))) = bytes :=
    List.map_congr_left fun i hi => symbolAt_encodeWord_data d (by omega)
  obtain ⟨h0, h1, h2, h3⟩ := checkSymbols_eq_extract_checkField d
  have hrem : remainderAt k (checkSymbols d) = gfDouble^[4 * k] (hornerAt k 0 bytes) := by
    refine remainderAt_foldl hk bytes ?_
    show gfDouble^[3 * k] 0 ^^^ gfDouble^[2 * k] 0 ^^^ gfDouble^[k] 0 ^^^ 0 = gfDouble^[4 * k] 0
    simp only [gfDouble_iterate_zero]
    rfl
  have h2k : ∀ a, gfDouble^[k] (gfDouble^[k] a) = gfDouble^[2 * k] a := fun a => by
    rw [← Function.iterate_add_apply, Nat.two_mul]
  have h3k : ∀ a, gfDouble^[k] (gfDouble^[2 * k] a) = gfDouble^[3 * k] a := fun a => by
    rw [← Function.iterate_add_apply, show k + 2 * k = 3 * k by omega]
  have h4k : ∀ a, gfDouble^[k] (gfDouble^[3 * k] a) = gfDouble^[4 * k] a := fun a => by
    rw [← Function.iterate_add_apply, show k + 3 * k = 4 * k by omega]
  rw [syndrome, show 36 = 4 + 32 from rfl, syndromeAux_eq_hornerAt, hdata, syndromeAux_succ, syndromeAux_succ, syndromeAux_succ,
    syndromeAux_succ, symbolAt_encodeWord_check d (by decide), symbolAt_encodeWord_check d (by decide),
    symbolAt_encodeWord_check d (by decide), symbolAt_encodeWord_check d (by decide)]
  generalize hornerAt k 0 bytes = a at hrem ⊢
  simp only [Nat.reduceMul, ← h0, ← h1, ← h2, ← h3, gfDouble_iterate_xor, syndromeAux, h2k, h3k, h4k]
  rw [← hrem, remainderAt]
  generalize gfDouble^[3 * k] (checkSymbols d).1 = t3, gfDouble^[2 * k] (checkSymbols d).2.1 = t2,
    gfDouble^[k] (checkSymbols d).2.2.1 = t1, (checkSymbols d).2.2.2 = t0
  calc t3 ^^^ t2 ^^^ t1 ^^^ t0 ^^^ t3 ^^^ t2 ^^^ t1 ^^^ t0 = (t3 ^^^ t2 ^^^ t1 ^^^ t0) ^^^ (t3 ^^^ t2 ^^^ t1 ^^^ t0) := by ac_rfl
    _ = 0 := BitVec.xor_self

/-! ### The outcomes of a read -/

theorem syndromes_encodeWord (d : BitVec 256) : syndromes (encodeWord d) = 0 := by
  rw [syndromes, syndrome_encodeWord d (by decide), syndrome_encodeWord d (by decide), syndrome_encodeWord d (by decide),
    syndrome_encodeWord d (by decide)]
  decide

theorem readWord_encodeWord (d : BitVec 256) : readWord (encodeWord d) = .clean := by
  rw [readWord, if_pos (syndromes_encodeWord d)]

/-- CHECK inverted. -/
def poisonMask : BitVec 288 := (BitVec.allOnes 32 ++ (0 : BitVec 256)).cast (by decide)

theorem poisonWord_eq (d : BitVec 256) : poisonWord d = encodeWord d ^^^ poisonMask := rfl

theorem syndromes_poisonWord (d : BitVec 256) : syndromes (poisonWord d) = syndromes poisonMask := by
  rw [poisonWord_eq, syndromes_xor, syndromes_encodeWord]
  exact BitVec.zero_xor

theorem readWord_poisonWord (d : BitVec 256) : readWord (poisonWord d) = .poison := by
  have hmask : syndromes poisonMask ≠ 0 := by decide +kernel
  have hpoison : syndromes (poisonWord d) = poisonSyndromes := by rw [poisonSyndromes, syndromes_poisonWord, syndromes_poisonWord]
  rw [readWord, if_neg (by rw [syndromes_poisonWord]; exact hmask), if_pos hpoison]

theorem dataOf_poisonWord (d : BitVec 256) : dataOf (poisonWord d) = d := by
  have hmask : dataOf poisonMask = 0 := by decide +kernel
  have hxor : dataOf (poisonWord d) = dataOf (encodeWord d) ^^^ dataOf poisonMask := BitVec.extractLsb'_xor
  rw [hxor, dataOf_encodeWord, hmask]
  exact BitVec.xor_zero

/-- The syndromes of a code word with one wrong symbol. -/
theorem syndrome_wrong (d : BitVec 256) (e : BitVec 8) {j : Nat} (hj : j < 36) {k : Nat} (hk : k < 4) :
    syndrome (encodeWord d ^^^ lonely e j) k = gfDouble^[k * j] e := by
  rw [syndrome_xor, syndrome_encodeWord d hk, syndrome_lonely e hj]
  exact BitVec.zero_xor

theorem errorSymbol_wrong (d : BitVec 256) {e : BitVec 8} (he : e ≠ 0) {j : Nat} (hj : j < 36) :
    errorSymbol (encodeWord d ^^^ lonely e j) = some j := by
  rw [errorSymbol, List.find?_range_eq_some]
  simp only [syndrome_wrong d e hj (show 0 < 4 by decide), syndrome_wrong d e hj (show 1 < 4 by decide),
    syndrome_wrong d e hj (show 2 < 4 by decide), syndrome_wrong d e hj (show 3 < 4 by decide), gfMul_gfPow,
    ← Function.iterate_add_apply, Nat.zero_mul, Nat.one_mul, Function.iterate_zero, id_eq]
  refine ⟨?_, List.mem_range.mpr hj, fun i hi => ?_⟩
  · have hzero : e ≠ 0#8 := he
    simp [hzero, show j + j = 2 * j by omega, show j + 2 * j = 3 * j by omega]
  · simp [(gfDouble_iterate_inj he hi hj).symm]

theorem readWord_wrong (d : BitVec 256) {e : BitVec 8} (he : e ≠ 0) {j : Nat} (hj : j < 36) :
    readWord (encodeWord d ^^^ lonely e j) = .correctable j := by
  have h0 : syndrome (encodeWord d ^^^ lonely e j) 0 = e := (syndrome_wrong d e hj (by decide)).trans (by rw [Nat.zero_mul]; rfl)
  have hclean : syndromes (encodeWord d ^^^ lonely e j) ≠ 0 := fun h => he <| by
    rw [← h0, syndrome_zero_of_syndromes (h.trans (syndromes_encodeWord d).symm), syndrome_encodeWord d (by decide)]
  have hpoison : syndromes (encodeWord d ^^^ lonely e j) ≠ poisonSyndromes := fun h => he <| by
    have hmask : syndrome poisonMask 0 = 0 := by decide +kernel
    rw [← h0, syndrome_zero_of_syndromes (h.trans (syndromes_poisonWord 0)), hmask]
  rw [readWord, if_neg hclean, if_neg hpoison, errorSymbol_wrong d he hj]

theorem correctWord_wrong (d : BitVec 256) (e : BitVec 8) {j : Nat} (hj : j < 36) :
    correctWord (encodeWord d ^^^ lonely e j) j = encodeWord d := by
  have h0 : syndrome (encodeWord d ^^^ lonely e j) 0 = e := (syndrome_wrong d e hj (by decide)).trans (by rw [Nat.zero_mul]; rfl)
  have hcorrect : correctWord (encodeWord d ^^^ lonely e j) j = encodeWord d ^^^ lonely e j ^^^ lonely e j := by
    rw [correctWord, h0]
    rfl
  rw [hcorrect, BitVec.xor_assoc, BitVec.xor_self, BitVec.xor_zero]

/-- Settles O14: a wrong symbol is what `lonely` puts in a code word, and the rest is the outcomes of reads. -/
theorem wordsAreCorrectedAndPoisonIsTold : Obligations.WordsAreCorrectedAndPoisonIsTold := by
  unfold Obligations.WordsAreCorrectedAndPoisonIsTold
  refine ⟨fun d j e hj he => ?_, fun d => ⟨readWord_encodeWord d, dataOf_encodeWord d, readWord_poisonWord d, dataOf_poisonWord d⟩⟩
  have hread := readWord_wrong d he hj
  have hcorrect := correctWord_wrong d e hj
  refine ⟨hread, hcorrect, ?_⟩
  show deliverWord (encodeWord d ^^^ lonely e j) = _
  rw [deliverWord, hread]
  exact hcorrect

end Sys2Proof.Machine
end

section
/-!
PROOFS (this file, a sitting of its own). The answers of the memory ports and of the line directory (R70, R75, R91, R450, R451).
-/
namespace Sys2Proof.Machine

open Sys2Proof

/-! ### Requests that a port leaves alone -/

/-- A request of the table that does not wait for its port stays as it is when requests are issued. -/
theorem State.tryIssue_req {s : State} {id : Nat} (h : (s.reqs.get? id).any (fun r => r.place == .missQueue) = false) (j : Nat) :
    (s.tryIssue j).reqs.get? id = s.reqs.get? id := by
  unfold State.tryIssue
  split
  · next r hr =>
    split
    · next hq =>
      have hne : id ≠ j := by
        rintro rfl
        simp [hr] at h hq
        exact h hq.1
      split
      · next tag u htag hu =>
        have hreqs : u.reqs = s.reqs := by
          unfold State.charge at hu
          dsimp only at hu
          split_ifs at hu <;> cases hu <;> rfl
        have hsend : (u.sendReq j r tag).reqs = u.reqs.put j { r with place := .port r.portNo tag } := by
          unfold State.sendReq
          dsimp only
          split
          · rfl
          · rfl
        rw [hsend, hreqs]
        exact tbl_get_put_ne _ _ hne
      · rfl
    · rfl
  · rfl

theorem State.pumpPort_req {s : State} {id : Nat} (h : (s.reqs.get? id).any (fun r => r.place == .missQueue) = false) (port : Nat) :
    (s.pumpPort port).reqs.get? id = s.reqs.get? id := by
  unfold State.pumpPort
  generalize List.map _ _ = l
  induction l generalizing s with
  | nil => rfl
  | cons j l ih =>
    have hj := State.tryIssue_req h j
    rw [List.foldl_cons, ih (by rw [hj]; exact h), hj]

theorem State.pumpPort_no_reqs {s : State} (h : s.reqs = []) (port : Nat) : s.pumpPort port = s := by
  rw [State.pumpPort, h]
  rfl

/-! ### Words that arrive clean -/

theorem State.arriveWords_clean (s : State) (r : MemReq) (addr : Nat) (ws : List (BitVec 288))
    (h : (ws.all fun w => readWord w == .clean) = true) : s.arriveWords r addr ws = (s, ws) := by
  induction ws generalizing addr with
  | nil => rfl
  | cons w ws ih =>
    rw [List.all_cons, Bool.and_eq_true] at h
    obtain ⟨hw, hws⟩ := h
    rw [State.arriveWords, State.arriveWord, beq_iff_eq.mp hw]
    dsimp only
    rw [ih _ hws]

/-- What is decrypted stays clean, and an odd last word stays as it is. -/
theorem decryptWords_clean (key : Option (BitVec 512)) (addr : Nat) (ws : List (BitVec 288))
    (h : (ws.all fun w => readWord w == .clean) = true) : ((decryptWords key addr ws).all fun w => readWord w == .clean) = true := by
  match ws with
  | [] => rfl
  | [_] => exact h
  | w0 :: w1 :: ws =>
    simp only [List.all_cons, Bool.and_eq_true, beq_iff_eq] at h
    obtain ⟨h0, h1, hws⟩ := h
    rw [decryptWords]
    unfold decryptPair
    simp [hasData, h0, h1, readWord_encodeWord, decryptWords_clean key (addr + 64) ws hws]

theorem firstBad_clean {ws : List (BitVec 288)} (h : (ws.all fun w => readWord w == .clean) = true) : firstBad ws = none := by
  rw [firstBad, Option.map_eq_none_iff, List.find?_eq_none]
  intro x hx
  have hclean := List.all_eq_true.mp h x.1 (List.fst_mem_of_mem_zipIdx hx)
  rw [beq_iff_eq.mp hclean]
  decide

theorem setPartsAccrued_frame (s : State) (p : Tbl Partition) (a : Tbl Nat) :
    OnlyChanges [.parts, .accrued] s { s with parts := p, accrued := a } := by
  intro x hx
  cases x with
  | parts => exact absurd (by decide) hx
  | accrued => exact absurd (by decide) hx
  | _ => rfl

/-- A read of a tile whose words are good is cached, and its strand is ready. -/
theorem State.goOnRead_good (s : State) (id : Nat) {r : MemReq} {k n : Nat} {words : List (BitVec 288)} (hw : r.who = .gather k n)
    (hg : firstBad words = none) :
    ∃ x : MemReq, x.place = .ready ∧ x.who = .gather k n
      ∧ s.goOnRead id r words = ((s.allocWords r (r.address / 64) words).setReq id x).strandNow x .ready := by
  refine ⟨{ r with place := .ready, poison := (firstPoison r.needAt r.needBytes r.address words).isSome
                   poisonAt := (firstPoison r.needAt r.needBytes r.address words).getD 0, words := [] }, rfl, hw, ?_⟩
  have hfinish : s.goOnRead id r words = s.finishRead id r words := by simp only [State.goOnRead, hg]
  rw [hfinish, State.finishRead]
  simp only [hw]

/-- Settles O30, command by command: clean words go to the tile, the ports issue what waits only, and the directory's answers. -/
theorem memoryPortsAndDirectoryAnswer : Obligations.MemoryPortsAndDirectoryAnswer := by
  unfold Obligations.MemoryPortsAndDirectoryAnswer
  refine ⟨fun s port tag id r k n words hl hat hw hwho hlen hclean => ?data, fun s port tag id r hl hat hw hsorted => ?ack,
    fun s port near p u g hl hct hport hacc hreqs hp hg => ?accrual, fun s line hl hc => ?inval, fun s line hl hc => ?snoop,
    fun s line hl hc => completes_live hl rfl (if_pos hc), fun s line hl hc => completes_live hl rfl (if_pos hc)⟩
  case data =>
    refine completes_live hl rfl ?_
    rw [hat]
    dsimp only
    rw [State.when, if_pos (by simp [hw, hlen]), s.arriveWords_clean r r.address words hclean]
    dsimp only
    set ws := decryptWords (s.keyAt r.address) r.address words with hws
    obtain ⟨x, hplace, hx, hread⟩ := State.goOnRead_good s id (r := { r with place := .ready }) hwho
      (firstBad_clean (decryptWords_clean (s.keyAt r.address) r.address words hclean))
    rw [← hws] at hread
    rw [hread]
    set a := s.allocWords { r with place := .ready } (r.address / 64) ws with ha
    set b := (a.setReq id x).strandNow x .ready with hb
    have hready : b.reqs.get? id = some x :=
      (congrArg (·.get? id) ((State.strandNow_touches (a.setReq id x) x .ready).frame .reqs (by decide))).trans (tbl_get_put_same ..)
    have herrs : (b.pumpPort port).errs = s.errs :=
      Eq.trans ((State.pumpPort_touches ..).frame .errs (by decide)) (Eq.trans ((State.strandNow_touches ..).frame .errs (by decide))
        ((State.allocWords_touches ..).frame .errs (by decide)))
    exact ⟨⟨x, (State.pumpPort_req (by rw [hready, Option.any_some, hplace]; rfl) port).trans hready, hplace, hx⟩, herrs.symm⟩
  case ack =>
    refine completes_live hl rfl ?_
    rw [hat]
    dsimp only
    rw [State.when, if_pos hw]
    have hgone : (s.dropReq id).reqs.get? id = none := tbl_get_del_same id hsorted
    refine ⟨((State.dropReq_touches ..).frame.mono (by decide)).trans ((State.pumpPort_touches ..).frame.mono (by decide)), ?_⟩
    rw [State.pumpPort_req (by rw [hgone]; rfl), hgone]
  case accrual =>
    refine completes_live hl rfl ?_
    dsimp only
    rw [State.when, if_pos (by simp [hct, hport, hacc]), State.pumpPort_no_reqs (by exact hreqs)]
    refine ⟨setPartsAccrued_frame _ _ _, tbl_get_put_same .., ?_⟩
    have hport : regKey port near / 2 = port ∧ (regKey port near % 2 == 0) = near := by
      unfold regKey
      cases near
      · exact ⟨by simp; omega, by simp⟩
      · exact ⟨by simp, by simp⟩
    simp only [State.regOf, State.part, Tbl.getD, tbl_get_mapV, hp, hg, Option.map_some, Option.getD_some, hport.1, hport.2,
      beq_self_eq_true, if_true, Regulator.accrue]
  case inval =>
    refine completes_live hl rfl ?_
    rw [hc, if_neg Bool.false_ne_true]
    exact ⟨((setLines_frame s _).mono (by decide)).trans ((State.emit_touches ..).frame.mono (by decide)), rfl, rfl⟩
  case snoop =>
    refine completes_live hl rfl ?_
    rw [hc, if_neg Bool.false_ne_true]
    exact ⟨(State.emit_touches ..).frame, rfl⟩

end Sys2Proof.Machine
end

section
/-!
PROOFS (this file, a sitting of its own). What answers to Translation Requests do (R264, R270, R274, R283).
-/
namespace Sys2Proof.Machine

open Sys2Proof

/-! ### Cores at rest -/

/-- No core runs a tile. -/
def State.Resting (s : State) : Prop := ∀ k, (s.core k).mode ≠ .running

namespace State.Resting

variable {s t : State}

theorem of_all (h : (s.cores.all fun c => c.2.mode != .running) = true) : s.Resting := by
  intro k
  cases hc : s.cores.get? k with
  | none =>
    simp only [State.core, Tbl.getD, hc, Option.getD_none]
    decide
  | some c =>
    have hcore : s.core k = c := by simp [State.core, Tbl.getD, hc]
    rw [hcore]
    simpa using List.all_eq_true.mp h _ (tbl_mem_get hc)

theorem of_agree (h : s.Resting) (ha : CoresAgree Core.seated s t) : t.Resting := fun k hk => by
  have hmode : (t.core k).mode = (s.core k).mode := (congrArg Core.mode (ha.core k) :)
  exact h k (hmode.symm.trans hk)

theorem of_cores (h : s.Resting) (hc : t.cores = s.cores) : t.Resting := fun k => by
  rw [State.core_of_cores hc]
  exact h k

theorem kickAll (h : s.Resting) : s.kickAll = s := by
  unfold State.kickAll
  generalize s.cores.map (·.1) = l
  induction l with
  | nil => rfl
  | cons k l ih =>
    have hkick : s.kick k = s := by
      rw [State.kick]
      dsimp only
      rw [if_pos (by simpa using h k)]
    rw [List.foldl_cons, hkick, ih]

end State.Resting

/-! ### A Translation Request that ends -/

theorem tbl_mem_put_of_sorted {α : Type} {t : Tbl α} {k : Nat} {a : α} {e : Nat × α} (hs : Tbl.Sorted t) (h : e ∈ Tbl.put t k a) :
    e = (k, a) ∨ e ∈ t ∧ e.1 ≠ k := by
  have hget := tbl_get_of_mem (tbl_sorted_put k a hs) h
  by_cases hk : e.1 = k
  · left
    rw [hk, tbl_get_put_same] at hget
    exact Prod.ext hk (Option.some.inj hget).symm
  · right
    rw [tbl_get_put_ne _ _ hk] at hget
    exact ⟨tbl_mem_get hget, hk⟩

/-- The requests that wait for a translation are those of `s`, without those that waited for the one that ends. -/
def State.WaitsLess (s u : State) (waiters : List Nat) : Prop :=
  ∀ e ∈ u.reqs, e.2.place = .translating → e ∈ s.reqs ∧ e.1 ∉ waiters

theorem State.waitsLess_put {s u : State} {i : Nat} {r : MemReq} (hs : Tbl.Sorted s.reqs) (hu : u.reqs = s.reqs.put i r)
    (hr : r.place ≠ .translating) : s.WaitsLess u [i] := by
  intro e he hp
  rw [hu] at he
  rcases tbl_mem_put_of_sorted hs he with rfl | ⟨hmem, hne⟩
  · exact absurd hp hr
  · exact ⟨hmem, by simpa using hne⟩

/-- With one translation less and none of its waiters left, nothing waits for a slot that did not before. -/
theorem State.slotless_del {s u : State} {die k : Nat} {x : XlatReq} (hless : s.slotless die = []) (hs : Tbl.Sorted s.xlats)
    (hx : s.xlats.get? k = some x) (hu : s.WaitsLess u x.waiters) (hux : u.xlats = s.xlats.del k) : u.slotless die = [] := by
  unfold State.slotless at hless ⊢
  rw [List.map_eq_nil_iff, List.filter_eq_nil_iff] at hless ⊢
  intro e he hcond
  simp only [Bool.and_eq_true, beq_iff_eq, Bool.not_eq_true', List.any_eq_false] at hcond
  obtain ⟨⟨hplace, hdie⟩, hnone⟩ := hcond
  obtain ⟨hmem, hfree⟩ := hu e he hplace
  refine hless e hmem ?_
  simp only [Bool.and_eq_true, beq_iff_eq, Bool.not_eq_true', List.any_eq_false]
  refine ⟨⟨hplace, hdie⟩, fun y hy => ?_⟩
  by_cases hk : y.1 = k
  · have hyx : y.2 = x := by
      have hget := tbl_get_of_mem hs hy
      rw [hk, hx] at hget
      exact (Option.some.inj hget).symm
    rw [hyx]
    simpa using hfree
  · refine hnone y ?_
    rw [hux]
    exact tbl_mem_get ((tbl_get_del_ne _ hk).trans (tbl_get_of_mem hs hy))

/-- The slot of a translation whose waiters are served is free again, and nothing else happens. -/
theorem State.freeXlat_served {s u : State} {die slot : Nat} {x : XlatReq} (hslot : slot < 256) (hless : s.slotless die = [])
    (hs : Tbl.Sorted s.xlats) (hx : s.xlats.get? (256 * die + slot) = some x) (hu : s.WaitsLess u x.waiters)
    (hux : u.xlats = s.xlats) (hrest : u.Resting) :
    (u.freeXlat (die * xlatPerDie + slot) []).kickAll = { u with xlats := u.xlats.del (256 * die + slot) } := by
  have hk : die * xlatPerDie + slot = 256 * die + slot := by
    rw [xlatPerDie]
    omega
  have hdie : (256 * die + slot) / xlatPerDie = die := by
    rw [xlatPerDie]
    omega
  have hnone : State.slotless { u with xlats := u.xlats.del (256 * die + slot) } die = [] :=
    State.slotless_del hless hs hx hu (by rw [hux])
  rw [hk]
  unfold State.freeXlat
  dsimp only [State.restart, List.foldl_nil]
  rw [hdie, hnone]
  exact State.Resting.kickAll (hrest.of_cores rfl)

/-- What a Translation Completion does before the slot of its request is free again. -/
def State.translated (s : State) (die : Nat) (x : XlatReq) : XlatAnswer → State
  | .granted target size read write =>
    if (!read && !write) || size < 4096 then
      x.waiters.foldl (fun s i => s.recordFault i x.page)
        (s.rebatch (ctxKey x.partition x.context) (s.retryingFor die x))
    else
      x.waiters.foldl (fun s i => s.serveWaiter die x.tagA (grantedEntry x.partition x.tagA (x.page * 4096) target size read write) i)
        (((s.retryingFor die x).foldl State.dropFault s).atcFill die
          (grantedEntry x.partition x.tagA (x.page * 4096) target size read write))
  | .noPermission =>
    x.waiters.foldl (fun s i => s.recordFault i x.page) (s.rebatch (ctxKey x.partition x.context) (s.retryingFor die x))
  | .unsupported =>
    x.waiters.foldl (fun s i => s.unresolveReq i 1)
      (((s.retryingFor die x).foldl State.dropFault s).countUnresolved x.partition x.context)

/-- A Translation Completion that is not overtaken: what it does, and the slot that is free again. -/
theorem completes_translation {s : State} {die slot : Nat} {x : XlatReq} {a : XlatAnswer} {P : State → Prop} (hl : s.live = true)
    (hslot : slot < 256) (hx : s.xlats.get? (256 * die + slot) = some x) (hf : x.folio = false) (hd : x.dead = false)
    (hre : x.reissue = false) (hp : P ((s.translated die x a).freeXlat (die * xlatPerDie + slot) []).kickAll) :
    Completes (.translationCompletion die slot a) s P := by
  refine completes_live hl rfl ?_
  have hk : die * xlatPerDie + slot = 256 * die + slot := by
    rw [xlatPerDie]
    omega
  rw [← hk] at hx
  have hlisted : (x.folio || decide (xlatPerDie ≤ slot)) = false := by simp [hf, hslot]
  dsimp only
  rw [hx]
  dsimp only
  rw [hlisted, hd, hre]
  cases a with
  | _ => exact hp

/-- A request of Spine whose translation is granted goes to host memory. -/
theorem State.serveWaiter_spine {s : State} {i q n : Nat} {r : MemReq} (hr : s.reqs.get? i = some r) (hwho : r.who = .spine q n)
    (hw : r.write = false) (die pasid : Nat) {a : Atc} (ha : a.read = true) :
    (s.serveWaiter die pasid a i).reqs = s.reqs.put i { r with place := .host } ∧ (s.serveWaiter die pasid a i).xlats = s.xlats
      ∧ (s.serveWaiter die pasid a i).cores = s.cores := by
  unfold State.serveWaiter
  rw [hr]
  dsimp only
  have hmay : (if r.write = true then a.write else a.read) = true := by rw [hw]; exact ha
  rw [if_pos hmay]
  split
  · unfold State.hostAccess State.strandNow State.forSlot
    simp only [hwho]
    exact ⟨rfl, rfl, rfl⟩
  · unfold State.hostOnce State.strandNow State.forSlot
    simp only [hr, hwho]
    exact ⟨rfl, rfl, rfl⟩

theorem State.dropFaults_touches (s : State) (l : List Nat) : Touches [.faults] s (l.foldl State.dropFault s) :=
  .foldl (.refl ..) fun _ _ => State.dropFault_touches ..

/-- The record of a fault: its page, and the request among those that wait for it. -/
theorem State.recordFault_does {s : State} {i page : Nat} {r : MemReq} (hr : s.reqs.get? i = some r) :
    (s.recordFault i page).reqs = s.reqs.put i { r with place := .faulted }
      ∧ CoresAgree Core.seated s (s.recordFault i page)
      ∧ ∃ f ∈ (s.recordFault i page).faults, f.page = page ∧ f.partition = r.partition ∧ f.context = r.context ∧ i ∈ f.waiters := by
  unfold State.recordFault
  rw [hr]
  dsimp only
  set a := s.strandNow r .parked with ha
  set b := a.setReq i { r with place := .faulted } with hb
  have hreqs : b.reqs = s.reqs.put i { r with place := .faulted } :=
    congrArg (·.put i { r with place := .faulted }) ((State.strandNow_touches s r .parked).frame .reqs (by decide))
  have hcores : CoresAgree Core.seated s b := ⟨fun k => (s.strandNow_cores r .parked).core k⟩
  split
  · next x hx =>
    have hkey := List.find?_some hx
    simp only [Bool.and_eq_true, beq_iff_eq] at hkey
    obtain ⟨⟨⟨hp, hc⟩, hpage⟩, -⟩ := hkey
    refine ⟨hreqs, ⟨hcores.core⟩, _, List.mem_map.mpr ⟨x, List.mem_of_find?_eq_some hx, rfl⟩, ?_⟩
    rw [if_pos (beq_self_eq_true x.id)]
    refine ⟨hpage, hp, hc, ?_⟩
    show i ∈ if x.waiters.contains i then x.waiters else x.waiters ++ [i]
    split
    · next h => simpa using h
    · simp
  · have hmod := State.modCtx_touches b (ctxKey r.partition r.context) fun c => { c with faultTotal := satAdd 64 c.faultTotal 1 }
    refine ⟨Eq.trans (hmod.frame .reqs (by decide)) hreqs, ⟨fun k => ?_⟩, _, List.mem_append_right _ List.mem_cons_self, rfl, rfl, rfl,
      List.mem_cons_self⟩
    exact (congrArg Core.seated (State.core_of_cores (hmod.frame .cores (by decide)) k)).trans (hcores.core k)

theorem State.atcSlot_of_atc {s t : State} (ha : t.atc = s.atc) (hp : t.parts = s.parts) (die p : Nat) :
    t.atcSlot die p = s.atcSlot die p := by
  unfold State.atcSlot State.atcHeld State.atcOldest
  simp only [ha, part_of_parts hp]

/-- A fill whose translation is unsupported leaves the cause on its slot. -/
theorem State.unresolveReq_fill {s : State} {i q n cause : Nat} {r : MemReq} {e : Slot} (hr : s.reqs.get? i = some r)
    (hwho : r.who = .fill q n) (he : s.slot? q n = some e) (hun : e.unresolved = none) :
    (s.unresolveReq i cause).reqs = s.reqs.put i { r with place := .faulted }
      ∧ ((s.unresolveReq i cause).slot? q n).map (·.unresolved) = some (some cause) := by
  have hcause : ∀ u : State, u.slots = s.slots → ((u.modSlot q n fun e =>
      { e with unresolved := e.unresolved.orElse fun _ => some cause }).slot? q n).map (·.unresolved) = some (some cause) := by
    intro u hu
    rw [State.slot_modSlot_same (f := fun e => { e with unresolved := e.unresolved.orElse fun _ => some cause })
      ((State.slot_of_slots hu q n).trans he) fun _ => ⟨rfl, rfl⟩]
    simp [hun]
  unfold State.unresolveReq State.launchOf
  simp only [hr, hwho]
  exact ⟨rfl, hcause _ rfl⟩

theorem setXlats_frame (s : State) (x : Tbl XlatReq) : OnlyChanges [.xlats] s { s with xlats := x } := by
  intro p hp
  cases p with
  | xlats => exact absurd List.mem_cons_self hp
  | _ => rfl

/-- Settles O31, answer by answer: what it does to the one request that waits, and the slot that is free again. -/
theorem translationCompletionsAreApplied : Obligations.TranslationCompletionsAreApplied := by
  unfold Obligations.TranslationCompletionsAreApplied
  refine ⟨fun s die slot x i r q n target size hl hslot hx hf hd hre hw hr hwho hwr hsize hsx hsr hless hrest => ?granted,
    fun s die slot x i r hl hslot hx hf hd hre hw hr hsx hsr hless hrest => ?refused,
    fun s die slot x i r q n e c hl hslot hx hf hd hre hw hr hwho he hun hc hsx hsr hless hrest => ?unsupported,
    fun s die slot x a hl hslot hx hf hd hre => ?overtaken,
    fun s die slot x e j v hl hslot hx hf hw hv he hj hsx hless hrest => ?list⟩
  case granted =>
    refine completes_translation hl hslot hx hf hd hre ?_
    set e := grantedEntry x.partition x.tagA (x.page * 4096) target size true false with he
    set a := ((s.retryingFor die x).foldl State.dropFault s).atcFill die e with ha
    have hsa : Touches [.faults, .atc] s a :=
      ((State.dropFaults_touches s _).mono (by decide)).trans ((State.atcFill_touches ..).mono (by decide))
    have hareqs : a.reqs = s.reqs := hsa.frame .reqs (by decide)
    have hserve : s.translated die x (.granted target size true false) = a.serveWaiter die x.tagA e i := by
      unfold State.translated
      dsimp only
      rw [if_neg (by simp [hsize]), hw]
      rfl
    obtain ⟨hreqs, hxlats, hcores⟩ := State.serveWaiter_spine (s := a) (by rw [hareqs]; exact hr) hwho hwr die x.tagA (a := e) rfl
    rw [hareqs] at hreqs
    rw [hserve, State.freeXlat_served hslot hless hsx hx (hw ▸ State.waitsLess_put hsr hreqs (by simp))
      (hxlats.trans (hsa.frame .xlats (by decide))) ((State.Resting.of_all hrest).of_cores (hcores.trans (hsa.frame .cores (by decide))))]
    refine ⟨?_, ?_⟩
    · show Tbl.get? (Tbl.del (a.serveWaiter die x.tagA e i).xlats _) _ = none
      rw [hxlats, hsa.frame .xlats (by decide)]
      exact tbl_get_del_same _ hsx
    · show ((a.serveWaiter die x.tagA e i).reqs.get? i).map _ = _
      rw [hreqs, tbl_get_put_same]
      rfl
  case refused =>
    refine completes_translation hl hslot hx hf hd hre ?_
    set a := s.rebatch (ctxKey x.partition x.context) (s.retryingFor die x) with ha
    have hsa : Touches [.ctxs, .faults] s a := State.rebatch_touches ..
    have hareqs : a.reqs = s.reqs := hsa.frame .reqs (by decide)
    have hserve : s.translated die x .noPermission = a.recordFault i x.page := by
      unfold State.translated
      dsimp only
      rw [hw]
      rfl
    obtain ⟨hreqs, hcores, hfault⟩ := State.recordFault_does (s := a) (page := x.page) (by rw [hareqs]; exact hr)
    rw [hareqs] at hreqs
    have hxlats : (a.recordFault i x.page).xlats = s.xlats :=
      Eq.trans ((State.recordFault_touches ..).frame .xlats (by decide)) (hsa.frame .xlats (by decide))
    rw [hserve, State.freeXlat_served hslot hless hsx hx (hw ▸ State.waitsLess_put hsr hreqs (by simp)) hxlats
      (((State.Resting.of_all hrest).of_cores (hsa.frame .cores (by decide))).of_agree hcores)]
    refine ⟨?_, ?_, hfault⟩
    · show Tbl.get? (Tbl.del (a.recordFault i x.page).xlats _) _ = none
      rw [hxlats]
      exact tbl_get_del_same _ hsx
    · show ((a.recordFault i x.page).reqs.get? i).map _ = _
      rw [hreqs, tbl_get_put_same]
      rfl
  case unsupported =>
    refine completes_translation hl hslot hx hf hd hre ?_
    set b := (s.retryingFor die x).foldl State.dropFault s with hb
    set a := b.countUnresolved x.partition x.context with ha
    have hsb : Touches [.faults] s b := State.dropFaults_touches ..
    have hsa : Touches [.faults, .ctxs] s a := (hsb.mono (by decide)).trans ((State.countUnresolved_touches ..).mono (by decide))
    have hareqs : a.reqs = s.reqs := hsa.frame .reqs (by decide)
    have hserve : s.translated die x .unsupported = a.unresolveReq i 1 := by
      unfold State.translated
      dsimp only
      rw [hw]
      rfl
    obtain ⟨hreqs, hslot'⟩ := State.unresolveReq_fill (s := a) (cause := 1) (by rw [hareqs]; exact hr) hwho
      ((State.slot_of_slots (hsa.frame .slots (by decide)) q n).trans he) hun
    rw [hareqs] at hreqs
    have htouch := State.unresolveReq_touches a i 1
    have hxlats : (a.unresolveReq i 1).xlats = s.xlats :=
      Eq.trans (htouch.frame .xlats (by decide)) (hsa.frame .xlats (by decide))
    rw [hserve, State.freeXlat_served hslot hless hsx hx (hw ▸ State.waitsLess_put hsr hreqs (by simp)) hxlats
      ((State.Resting.of_all hrest).of_cores (Eq.trans (htouch.frame .cores (by decide)) (hsa.frame .cores (by decide))))]
    refine ⟨?_, hslot', ?_⟩
    · show Tbl.get? (Tbl.del (a.unresolveReq i 1).xlats _) _ = none
      rw [hxlats]
      exact tbl_get_del_same _ hsx
    · show ((a.unresolveReq i 1).ctxs.get? _).map _ = _
      have hbc : b.ctxs.get? (ctxKey x.partition x.context) = some c := by
        rw [hsb.frame .ctxs (by decide)]
        exact hc
      rw [htouch.frame .ctxs (by decide), ha, State.countUnresolved, State.ctxs_modCtx hbc, tbl_get_put_same]
      rfl
  case overtaken =>
    refine completes_live hl rfl ?_
    have hk : die * xlatPerDie + slot = 256 * die + slot := by
      rw [xlatPerDie]
      omega
    have hlisted : (x.folio || decide (xlatPerDie ≤ slot)) = false := by simp [hf, hslot]
    dsimp only
    rw [hk, hx]
    dsimp only
    rw [hlisted, hd, hre]
    exact ⟨((setXlats_frame _ _).mono (by decide)).trans ((State.emit_touches ..).frame.mono (by decide)), rfl, rfl⟩
  case list =>
    have hk : die * xlatPerDie + slot = 256 * die + slot := by
      rw [xlatPerDie]
      omega
    refine completes_live hl rfl ?_
    dsimp only
    rw [hk, hx]
    dsimp only
    rw [State.when, if_pos (by simp [hf, hslot]), hv, Option.bind_some, he]
    dsimp only
    rw [hw]
    have hfill : State.atcFill { s with xlats := s.xlats.del (256 * die + slot) } die e
        = { s with xlats := s.xlats.del (256 * die + slot), atc := s.atc.put j { e with lastUse := s.reqNo } } := by
      unfold State.atcFill
      rw [State.atcSlot_of_atc (s := s) (t := { s with xlats := s.xlats.del (256 * die + slot) }) rfl rfl die e.partition, hj]
    rw [hfill]
    set u : State := { s with xlats := s.xlats.del (256 * die + slot), atc := s.atc.put j { e with lastUse := s.reqNo } } with hu
    have hnone : u.slotless die = [] :=
      State.slotless_del hless hsx hx (fun y hy hp => ⟨hy, by rw [hw]; exact List.not_mem_nil⟩) rfl
    have hrestart : (u.restart []).restart ((u.restart []).slotless die) = u := by
      show u.restart (u.slotless die) = u
      rw [hnone]
      rfl
    rw [hrestart, ((State.Resting.of_all hrest).of_cores (t := u) rfl).kickAll]
    refine ⟨?_, tbl_get_del_same _ hsx, rfl⟩
    intro p hp
    cases p with
    | xlats => exact absurd (by decide) hp
    | atc => exact absurd (by decide) hp
    | _ => rfl

end Sys2Proof.Machine
end

section
/-!
PROOFS (this file, a sitting of its own). Faults on their way to the host and to the fault ring, and what answers them (R270 to R273,
R275, R277).
-/
namespace Sys2Proof.Machine

open Sys2Proof

/-! ### Fault records -/

theorem setFaults_frame (s : State) (x : List FaultRec) : OnlyChanges [.faults] s { s with faults := x } := by
  intro p hp
  cases p with
  | faults => exact absurd List.mem_cons_self hp
  | _ => rfl

theorem State.fault_key {s : State} {id : Nat} {f : FaultRec} (h : s.fault? id = some f) : f.id = id :=
  beq_iff_eq.mp (List.find?_some h :)

theorem State.fault_of_faults {s t : State} (h : t.faults = s.faults) (id : Nat) : t.fault? id = s.fault? id := by
  rw [State.fault?, State.fault?, h]

/-- A change of one record, which keeps its number, is found under it. -/
theorem State.fault_modFault_same {s : State} {id : Nat} {f : FaultRec} (h : s.fault? id = some f) {g : FaultRec → FaultRec}
    (hg : ∀ x, (g x).id = x.id) : (s.modFault id g).fault? id = some (g f) := by
  have hk := State.fault_key h
  unfold State.fault? State.modFault at *
  dsimp only
  rw [List.find?_map]
  have hsame : ((fun x => x.id == id) ∘ fun x => if (x.id == id) = true then g x else x) = fun x : FaultRec => x.id == id := by
    funext x
    dsimp only [Function.comp_apply]
    split
    · rw [hg]
    · rfl
  rw [hsame, h, Option.map_some, if_pos (by rw [hk]; exact beq_self_eq_true id)]

theorem State.mem_batchOf {s : State} {die key : Nat} {f : FaultRec} (h : s.batchOf die key = [f]) : ctxKey f.partition f.context = key := by
  have hmem : f ∈ s.batchOf die key := by rw [h]; exact List.mem_cons_self
  have hcond := (List.mem_filter.mp hmem).2
  simp only [Bool.and_eq_true, beq_iff_eq] at hcond
  exact hcond.2

/-! ### Contexts -/

theorem ctxKey_parts (k : Nat) : ctxKey (k / 64) (k % 64) = k := Nat.div_add_mod k 64

/-- Every context of `s` stands in `t` with the figures that `f` gives, and no other. -/
structure CtxsAgree {α : Type} (f : Context → α) (s t : State) : Prop where
  ctx : ∀ k, (t.ctx? k).map f = (s.ctx? k).map f

namespace CtxsAgree

variable {α : Type} {f : Context → α} {s t u : State}

theorem refl (s : State) : CtxsAgree f s s := ⟨fun _ => rfl⟩

theorem trans (h : CtxsAgree f s t) (k : CtxsAgree f t u) : CtxsAgree f s u := ⟨fun x => (k.ctx x).trans (h.ctx x)⟩

theorem of_ctxs (h : t.ctxs = s.ctxs) : CtxsAgree f s t := ⟨fun k => by rw [State.ctx?, State.ctx?, h]⟩

theorem of_touches {ps : List Part} (h : Touches ps s t) (hp : Part.ctxs ∉ ps) : CtxsAgree f s t := of_ctxs (h.frame .ctxs hp)

theorem foldl {β : Type} {g : State → β → State} (h : ∀ s x, CtxsAgree f s (g s x)) (l : List β) (s : State) :
    CtxsAgree f s (l.foldl g s) := by
  induction l generalizing s with
  | nil => exact refl s
  | cons x l ih => exact (h s x).trans (ih _)

theorem modCtx (s : State) (k : Nat) {g : Context → Context} (hg : ∀ c, f (g c) = f c) : CtxsAgree f s (s.modCtx k g) := by
  refine ⟨fun x => ?_⟩
  by_cases hx : x = k
  · subst hx
    rw [State.ctx_modCtx_same, Option.map_map]
    exact congrArg (fun h => (s.ctx? x).map h) (funext hg)
  · unfold State.modCtx
    split
    · exact congrArg (Option.map f) (tbl_get_put_ne _ _ hx)
    · rfl

theorem found (h : CtxsAgree f s t) {k : Nat} {c : Context} (hc : s.ctx? k = some c) : ∃ d, t.ctx? k = some d ∧ f d = f c := by
  have hk := h.ctx k
  rw [hc, Option.map_some] at hk
  exact Option.map_eq_some_iff.mp hk

end CtxsAgree

/-- A context without the marks that its faults leave on it. -/
def Context.unmarked (c : Context) : Context := { c with overflow := false, overflows := 0, unresolved := 0, faultTotal := 0 }

theorem State.noteOverflow_ctxs (s : State) (p x : Nat) : CtxsAgree Context.unmarked s (s.noteOverflow p x) := .modCtx s _ fun _ => rfl

theorem State.countUnresolved_ctxs (s : State) (p x : Nat) : CtxsAgree Context.unmarked s (s.countUnresolved p x) :=
  .modCtx s _ fun _ => rfl

theorem State.bufferFault_ctxs (s : State) (id : Nat) : CtxsAgree Context.unmarked s (s.bufferFault id) := by
  unfold State.bufferFault
  split
  · exact .refl s
  · dsimp only
    exact (CtxsAgree.of_touches (State.modFault_touches ..) (by decide)).trans (State.noteOverflow_ctxs ..)

/-! ### Faults that wait for the host -/

/-- With no fault more and the contexts of the same kinds, none waits for the host that did not before. -/
theorem State.drainHost_idle {s t : State} (h : s.hostWaiting = []) (hf : ∀ f ∈ t.faults, f ∈ s.faults)
    (hc : CtxsAgree Context.unmarked s t) : t.drainHost = t := by
  have hnone : t.hostWaiting = [] := by
    unfold State.hostWaiting at h ⊢
    rw [List.filter_eq_nil_iff] at h ⊢
    intro k hk
    rw [List.mem_eraseDups, List.mem_map] at hk
    obtain ⟨f, hmem, hkey⟩ := hk
    obtain ⟨hin, hplace⟩ := List.mem_filter.mp hmem
    have hno := h k (List.mem_eraseDups.mpr (List.mem_map.mpr ⟨f, List.mem_filter.mpr ⟨hf f hin, hplace⟩, hkey⟩))
    cases hk : t.ctx? k with
    | none => simp
    | some d =>
      have hctx := hc.ctx k
      rw [hk, Option.map_some] at hctx
      obtain ⟨c, hc, hd⟩ := Option.map_eq_some_iff.mp hctx.symm
      have hfab : c.fabric = d.fabric := (congrArg Context.fabric hd :)
      rw [hc] at hno
      simpa [hfab] using hno
  rw [State.drainHost, hnone]
  rfl

/-- The answer to every waiter of a fault leaves the other records, and the contexts but for their marks. -/
theorem State.faultUnresolved_ctxs (s : State) (id cause : Nat) : CtxsAgree Context.unmarked s (s.faultUnresolved id cause) := by
  unfold State.faultUnresolved
  split
  · exact .refl s
  · next x _ =>
    have hreqs : Touches [.slots, .reqs] (s.countUnresolved x.partition x.context)
        (x.waiters.foldl (fun s w => s.unresolveReq w cause) (s.countUnresolved x.partition x.context)) :=
      .foldl (.refl ..) fun _ _ => State.unresolveReq_touches ..
    dsimp only
    refine CtxsAgree.trans ?_ (State.noteOverflow_ctxs ..)
    exact ((State.countUnresolved_ctxs s x.partition x.context).trans (.of_touches hreqs (by decide))).trans (.of_ctxs rfl)

theorem State.faultUnresolved_faults (s : State) (id cause : Nat) :
    (s.faultUnresolved id cause).faults = s.faults.filter fun x => x.id != id := by
  unfold State.faultUnresolved
  split
  · next h =>
    refine (List.filter_eq_self.mpr fun x hx => ?_).symm
    simpa using List.find?_eq_none.mp h x hx
  · next x _ =>
    have hreqs : Touches [.slots, .reqs] (s.countUnresolved x.partition x.context)
        (x.waiters.foldl (fun s w => s.unresolveReq w cause) (s.countUnresolved x.partition x.context)) :=
      .foldl (.refl ..) fun _ _ => State.unresolveReq_touches ..
    dsimp only
    rw [(State.noteOverflow_touches ..).frame .faults (by decide)]
    dsimp only
    rw [hreqs.frame .faults (by decide), (State.countUnresolved_touches ..).frame .faults (by decide)]

/-- A fault whose one waiter is a fill leaves the cause on the fill's slot. -/
theorem State.faultUnresolved_fill {s : State} {f : FaultRec} {i q n cause : Nat} {r : MemReq} {e : Slot} (hf : s.fault? f.id = some f)
    (hw : f.waiters = [i]) (hr : s.reqs.get? i = some r) (hwho : r.who = .fill q n) (he : s.slot? q n = some e)
    (hun : e.unresolved = none) : ((s.faultUnresolved f.id cause).slot? q n).map (·.unresolved) = some (some cause) := by
  have hcount := State.countUnresolved_touches s f.partition f.context
  obtain ⟨-, hslot⟩ := State.unresolveReq_fill (s := s.countUnresolved f.partition f.context) (cause := cause)
    (by rw [hcount.frame .reqs (by decide)]; exact hr) hwho ((State.slot_of_slots (hcount.frame .slots (by decide)) q n).trans he) hun
  unfold State.faultUnresolved
  rw [hf]
  dsimp only
  rw [hw, List.foldl_cons, List.foldl_nil, State.slot_of_slots ((State.noteOverflow_touches ..).frame .slots (by decide))]
  exact hslot

theorem State.pageRequest_one {s : State} {f : FaultRec} (hf : s.fault? f.id = some f) (hroom : s.pagesOut < s.pageAlloc) (pasid : Nat) :
    s.pageRequest [f.id] pasid = ({ s.modFault f.id fun x => { x with place := .delivered (s.groupNo % 512) } with
      groupNo := s.groupNo + 1 } : State).emit (.pageRequests (s.groupNo % 512) pasid [f.page * 4096]) := by
  have hfit : [f.id].take (s.pageAlloc - s.pagesOut) = [f.id] := List.take_of_length_le (by simp; omega)
  unfold State.pageRequest
  rw [hfit]
  simp [hf, State.modFault]

/-- The record and the context of an entry that is written to the fault ring. -/
theorem State.ringWrite_does {s : State} {f : FaultRec} {c : Context} (hf : s.fault? f.id = some f)
    (hc : s.ctx? (ctxKey f.partition f.context) = some c) :
    (s.ringWrite f.id).fault? f.id = some { f with place := .ring c.fseq, retryAt := 0, interval := 2048 }
      ∧ (s.ringWrite f.id).ctx? (ctxKey f.partition f.context)
        = some { c with fseq := c.fseq + 1, ringWrites := c.ringWrites ++ [c.fseq] } := by
  unfold State.ringWrite
  rw [hf]
  dsimp only
  rw [hc]
  dsimp only
  have hfault := State.fault_modFault_same (g := fun x => { x with place := .ring c.fseq, retryAt := 0, interval := 2048 }) hf
    fun _ => rfl
  set a := s.modFault f.id fun x => { x with place := .ring c.fseq, retryAt := 0, interval := 2048 } with ha
  have hctx : (a.modCtx (ctxKey f.partition f.context) fun c =>
      { c with fseq := c.fseq + 1, ringWrites := c.ringWrites ++ [c.fseq] }).ctx? (ctxKey f.partition f.context)
        = some { c with fseq := c.fseq + 1, ringWrites := c.ringWrites ++ [c.fseq] } := by
    rw [State.ctx_modCtx_same, show a.ctx? (ctxKey f.partition f.context) = some c from hc]
    rfl
  have hmod := State.modCtx_touches a (ctxKey f.partition f.context) fun c =>
    { c with fseq := c.fseq + 1, ringWrites := c.ringWrites ++ [c.fseq] }
  refine ⟨?_, ?_⟩
  · exact (State.fault_of_faults (Eq.trans ((State.viaPort_touches ..).frame .faults (by decide))
      (hmod.frame .faults (by decide))) f.id).trans hfault
  · exact (congrArg (Tbl.get? · _) ((State.viaPort_touches ..).frame .ctxs (by decide))).trans hctx

/-- The interrupt of a fault ring goes out as the message of its vector. -/
theorem State.sendFaultVector_on {b : State} {ctx : Nat} {c : Context} (hc : b.ctx? ctx = some c) (hmode : c.faultVector.mode = 1)
    (hen : b.msix.enable = true) (hmask : b.msix.funcMask = false)
    (hentry : (b.msix.entries.getD c.faultVector.entry {}).masked = false) :
    b.sendFaultVector ctx = b.emit (.msix c.faultVector.entry) := by
  rw [State.sendFaultVector, hc]
  dsimp only
  rw [State.sendVector, hmode, hen]
  dsimp only
  rw [hmask, hentry]
  rfl

/-- The flush of a batch of one record. -/
theorem completes_flush {s : State} {die ctx : Nat} {f : FaultRec} {P : State → Prop} (hl : s.live = true) (hb : s.batchOf die ctx = [f])
    (hold : f.firstNs + 5000 ≤ s.time.now)
    (hp : P ((s.deliverFaults (ctx / 64) (ctx % 64) [f.id]).noteOverflow (ctx / 64) (ctx % 64))) :
    Completes (.faultBatchFlush die ctx) s P := by
  refine completes_when hl rfl (by simp [hb, hold]) ?_
  rw [hb]
  exact hp

/-- Settles O32, command by command: where a batch goes, and what each answer does to the records it names. -/
theorem faultsAreDeliveredAndAnswered : Obligations.FaultsAreDeliveredAndAnswered := by
  unfold Obligations.FaultsAreDeliveredAndAnswered
  refine ⟨fun s die ctx f c hl hb hold hf hc hfab hpri hoff hroom => ?pages,
    fun s die ctx f c hl hb hold hf hc hfab hroom hbroken => ?ring, fun s ctx c n m rest hl hc hw => ?accepted,
    fun s ctx c n v hl hc hw hv hmode hen hmask hentry => ?vector, fun s ctx c n rest hl hc hw => ?failed,
    fun s group f hl hmine hw hf hwait hrest => ?success,
    fun s group f i r q n e hl hmine hw hf hr hwho he hun hwait hrest => ?invalid,
    fun s group f hl hmine hwait hrest => ?failure, fun s p hl hoff hwait => ?enable⟩
  case pages =>
    refine completes_flush hl hb hold ?_
    have hone : s.deliverFaults (ctx / 64) (ctx % 64) [f.id] = s.pageRequest [f.id] c.pasid := by
      rw [State.deliverFaults, ctxKey_parts, hc]
      dsimp only
      rw [hfab, hpri, hoff]
      rfl
    rw [hone]
    have htouch := State.noteOverflow_touches (s.pageRequest [f.id] c.pasid) (ctx / 64) (ctx % 64)
    refine ⟨((State.pageRequest_touches s [f.id] c.pasid).frame.mono (by decide)).trans (htouch.frame.mono (by decide)), ?_, ?_, ?_⟩
    · rw [State.fault_of_faults (htouch.frame .faults (by decide)), State.pageRequest_one hf hroom]
      have hfound := State.fault_modFault_same (g := fun x => { x with place := .delivered (s.groupNo % 512) }) hf fun _ => rfl
      exact congrArg (Option.map fun x : FaultRec => x.place) hfound
    · rw [htouch.frame .groupNo (by decide), State.pageRequest_one hf hroom]
      rfl
    · rw [htouch.frame .out (by decide), State.pageRequest_one hf hroom]
      rfl
  case ring =>
    refine completes_flush hl hb hold ?_
    have hone : s.deliverFaults (ctx / 64) (ctx % 64) [f.id] = s.ringWrite f.id := by
      rw [State.deliverFaults, ctxKey_parts, hc]
      dsimp only
      rw [hfab, if_neg (by decide), List.foldl_cons, hc, List.foldl_nil]
      dsimp only
      rw [hroom, hbroken]
      rfl
    rw [hone]
    have hkey := State.mem_batchOf hb
    obtain ⟨hfault, hctx⟩ := State.ringWrite_does hf (by rw [hkey]; exact hc)
    rw [hkey] at hctx
    have htouch := State.noteOverflow_touches (s.ringWrite f.id) (ctx / 64) (ctx % 64)
    obtain ⟨d, hd, hdc⟩ := (State.noteOverflow_ctxs (s.ringWrite f.id) (ctx / 64) (ctx % 64)).found hctx
    refine ⟨?_, ?_⟩
    · rw [State.fault_of_faults (htouch.frame .faults (by decide)), hfault]
      rfl
    · rw [hd]
      exact congrArg some (congrArg (fun x : Context => (x.fseq, x.ringWrites)) hdc :)
  case accepted =>
    refine completes_live hl rfl ?_
    rw [hc]
    dsimp only
    rw [hw]
    dsimp only
    rw [if_neg (by simp)]
    have hmod := State.modCtx_touches s ctx fun c => { c with ringWrites := m :: rest, ringBroken := false }
    refine ⟨(hmod.frame.mono (by decide)).trans ((setFaults_frame _ _).mono (by decide)), ?_, fun f hf hplace hkey => ?_⟩
    · show Option.map _ ((s.modCtx ctx _).ctx? ctx) = _
      rw [State.ctx_modCtx_same, hc]
      rfl
    · refine ⟨_, List.mem_map.mpr ⟨f, ?_, rfl⟩, ?_⟩
      · rw [hmod.frame .faults (by decide)]
        exact hf
      · rw [if_pos (by simp [hplace, hkey])]
        exact ⟨rfl, congrArg (fun u : Time => u.now + 2048) (hmod.frame .time (by decide))⟩
  case vector =>
    refine completes_live hl rfl ?_
    rw [hc]
    dsimp only
    rw [hw]
    dsimp only
    rw [if_pos (show [].isEmpty = true from rfl)]
    have hmod := State.modCtx_touches s ctx fun c => { c with ringWrites := [], ringBroken := false }
    have hctx : (s.modCtx ctx fun c => { c with ringWrites := [], ringBroken := false }).ctx? ctx
        = some { c with ringWrites := [], ringBroken := false } := by
      rw [State.ctx_modCtx_same, hc]
      rfl
    set a := s.modCtx ctx fun c => { c with ringWrites := [], ringBroken := false } with ha
    have hmsix : a.msix = s.msix := hmod.frame .msix (by decide)
    generalize List.map _ a.faults = l
    have hbctx : State.ctx? { a with faults := l } ctx = some { c with ringWrites := [], ringBroken := false } := hctx
    rw [State.sendFaultVector_on hbctx (hv ▸ hmode) (hmsix ▸ hen) (hmsix ▸ hmask) (hmsix ▸ hv ▸ hentry)]
    refine ⟨((hmod.frame.mono (by decide)).trans ((setFaults_frame a l).mono (by decide))).trans
      ((State.emit_touches ..).frame.mono (by decide)), ?_, ?_⟩
    · exact congrArg (Option.map fun x : Context => x.ringWrites) hctx
    · show Out.msix c.faultVector.entry :: a.out = _
      rw [hv, hmod.frame .out (by decide)]
  case failed =>
    refine completes_live hl rfl ?_
    rw [hc]
    dsimp only
    rw [hw]
    dsimp only
    have hmod := State.modCtx_touches s ctx fun c => { c with ringBroken := true, ringWrites := [], fseq := n }
    have hctx : (s.modCtx ctx fun c => { c with ringBroken := true, ringWrites := [], fseq := n }).ctx? ctx
        = some { c with ringBroken := true, ringWrites := [], fseq := n } := by
      rw [State.ctx_modCtx_same, hc]
      rfl
    set a := s.modCtx ctx fun c => { c with ringBroken := true, ringWrites := [], fseq := n }
    generalize List.map _ (List.filter _ s.faults) = lost
    have hlost : Touches [.ctxs, .faults] a (lost.foldl State.bufferFault a) :=
      .foldl (.refl ..) fun _ _ => State.bufferFault_touches ..
    obtain ⟨d, hd, hdc⟩ := (CtxsAgree.foldl State.bufferFault_ctxs lost a).found hctx
    refine ⟨(hmod.frame.mono (by decide)).trans (hlost.frame.mono (by decide)), ?_⟩
    rw [hd]
    exact congrArg some (congrArg (fun x : Context => (x.ringBroken, x.ringWrites, x.fseq)) hdc :)
  case success =>
    refine completes_when hl rfl (by simp [hmine]) ?_
    rw [hmine]
    have hdrop : s.retryHost f.id = s.dropFault f.id := by
      rw [State.retryHost, hf]
      dsimp only
      rw [hw]
      rfl
    show OnlyChanges [.faults] s (s.retryHost f.id).drainHost.kickAll ∧ (s.retryHost f.id).drainHost.kickAll.faults = _
    rw [hdrop, State.drainHost_idle (t := s.dropFault f.id) hwait (fun _ h => (List.mem_filter.mp h).1) (.of_ctxs rfl),
      ((State.Resting.of_all hrest).of_cores (t := s.dropFault f.id) rfl).kickAll]
    exact ⟨(State.dropFault_touches ..).frame, rfl⟩
  case invalid =>
    refine completes_when hl rfl (by simp [hmine]) ?_
    rw [hmine]
    show ((s.faultUnresolved f.id 1).drainHost.kickAll.faults.any _) = false
      ∧ ((s.faultUnresolved f.id 1).drainHost.kickAll.slot? q n).map _ = _
    have htouch := State.faultUnresolved_touches s f.id 1
    rw [State.drainHost_idle hwait (fun _ h => (List.mem_filter.mp (s.faultUnresolved_faults f.id 1 ▸ h)).1) (s.faultUnresolved_ctxs f.id 1),
      ((State.Resting.of_all hrest).of_cores (htouch.frame .cores (by decide))).kickAll]
    refine ⟨?_, State.faultUnresolved_fill hf hw hr hwho he hun⟩
    rw [State.faultUnresolved_faults, List.any_eq_false]
    intro x hx
    simpa using (List.mem_filter.mp hx).2
  case failure =>
    refine completes_when hl rfl (by simp [hmine]) ?_
    rw [hmine]
    dsimp only
    generalize List.map _ (List.filter _ s.faults) = all
    set a := s.modPart f.partition fun u => { u with priOff := true } with ha
    have hall : Touches [.ctxs, .slots, .faults, .reqs] a (all.foldl (fun s i => s.faultUnresolved i 2) a) :=
      .foldl (.refl ..) fun _ _ => State.faultUnresolved_touches ..
    set b := all.foldl (fun s i => s.faultUnresolved i 2) a with hb
    have hdrain := State.drainHost_touches b
    have hcores : b.drainHost.cores = s.cores := Eq.trans (hdrain.frame .cores (by decide)) (hall.frame .cores (by decide))
    have hparts : b.drainHost.parts = a.parts := Eq.trans (hdrain.frame .parts (by decide)) (hall.frame .parts (by decide))
    show (b.drainHost.kickAll.part f.partition).priOff = true
    rw [((State.Resting.of_all hrest).of_cores hcores).kickAll, part_of_parts hparts, ha, State.part_modPart_same]
  case enable =>
    refine completes_when hl rfl hoff ?_
    exact State.drainHost_idle (s := s) hwait (fun _ h => h) (.of_ctxs rfl)

end Sys2Proof.Machine
end

section
/-!
PROOFS (this file, a sitting of its own). Retries and polls of fabric faults, the ending of a launch at an unresolved fault, and
invalidations (R268, R272, R274).
-/
namespace Sys2Proof.Machine

open Sys2Proof

/-- A message through a port that is up leaves at once. -/
theorem State.viaPort_up {s : State} {mask p : Nat} (h : s.upPort mask = some p) (o : Out) : s.viaPort p o = s.emit o := by
  have hup := List.find?_some h
  rw [Bool.and_eq_true] at hup
  rw [State.viaPort, if_pos hup.2]

/-- A read through a window that covers it, with the right to read, leaves through a port of the window that is up. -/
theorem State.windowAccess_read {s : State} {id q n p : Nat} {r : MemReq} {c : Context} {w : OutWindow} (hwho : r.who = .fill q n)
    (hw : c.windows.get? (r.address / 2 ^ 60) = some w) (hlen : r.address % 2 ^ 60 + max 1 r.bytes ≤ w.length) (hread : r.write = false)
    (hright : w.wrights % 2 = 1) (hp : s.upPort w.ports = some p) :
    s.windowAccess id r c = (s.setReq id { r with place := .fabric, port := p, upNs := (s.fport p).upTime s.time.now }).emit
      (.fabricReq id w.endpoint w.remote (r.address % 2 ^ 60) r.bytes none p) := by
  have hright' : bitAt w.wrights (if r.write = true then 1 else 0) = true := by
    rw [hread]
    simp [bitAt, bitsAt, hright]
  unfold State.windowAccess
  rw [hw]
  dsimp only
  rw [if_neg (by omega), hright', if_neg (by decide)]
  simp only [hwho, hp, hread, State.strandNow]
  exact State.viaPort_up (s := s.setReq id _) hp _

/-- Settles O33, command by command: the retry through the window, the polls, the ending of the launch, and invalidations. -/
theorem fabricFaultsAndInvalidations : Obligations.FabricFaultsAndInvalidations := by
  unfold Obligations.FabricFaultsAndInvalidations
  refine ⟨fun s id f n i r c w p q e hl hf hplace hne hat hwait hr hrp hguest hwho hc hfab hw hlen hread hright hp => ?retry,
    fun s ctx c p hl hc hfab hbusy hct hgrid hp => ?poll, fun s ctx c count hl hc hfab hnone hrest => ?count,
    fun s q n e cause hl he hun ha hlaunch hrun hst => ?ends, fun s tag pasid base length hl => ?request,
    fun s tag i hl hi hreqs hcores => ?done⟩
  case retry =>
    refine completes_live hl rfl ?_
    rw [hf]
    dsimp only
    rw [hplace]
    dsimp only
    rw [State.when, if_pos (by simp [hne, hat])]
    have hfault := State.fault_modFault_same (g := fun g => { g with
      interval := min 65536 (2 * f.interval), retryAt := s.time.now + min 65536 (2 * f.interval) }) hf fun _ => rfl
    set a := s.modFault id fun g => { g with
      interval := min 65536 (2 * f.interval), retryAt := s.time.now + min 65536 (2 * f.interval) } with ha
    have hretry : a.retryFabric id = a.windowAccess i r c := by
      have hareq : a.reqs.get? i = some r := hr
      have hactx : a.ctx? (ctxKey r.partition r.context) = some c := hc
      rw [State.retryFabric, hfault]
      simp [hwait, hareq, hrp, State.restart, hguest, State.startGuest, hactx, hfab]
    rw [hretry, State.windowAccess_read (s := a) hwho hw hlen hread hright hp]
    refine ⟨((State.modFault_touches ..).frame.mono (by decide)).trans (((setReqs_frame _ _).mono (by decide)).trans
      ((State.emit_touches ..).frame.mono (by decide))), ?_, rfl⟩
    exact congrArg (Option.map fun g : FaultRec => (g.interval, g.retryAt)) hfault
  case poll =>
    refine completes_live hl rfl ?_
    rw [hc]
    dsimp only
    rw [State.when, if_pos (by simp [hfab, hct, hgrid]; simpa using hbusy), hp]
    exact State.viaPort_up hp _
  case count =>
    refine completes_live hl rfl ?_
    rw [hc]
    dsimp only
    rw [State.when, if_pos hfab]
    have hmod := State.modCtx_touches s ctx fun c => { c with consumer := count, ringBroken := false }
    set a := s.modCtx ctx fun c => { c with consumer := count, ringBroken := false } with ha
    have hfaults : a.faults = s.faults := hmod.frame .faults (by decide)
    have hkeys : ∀ f ∈ a.faults, (ctxKey f.partition f.context == ctx) = false := fun f hf => by
      rw [hfaults] at hf
      exact Bool.eq_false_iff.mpr (List.any_eq_false.mp hnone f hf)
    have hdrain : a.drainFaults (ctx / 64) (ctx % 64) = a := by
      have hwaiting : a.waitingFaults (ctx / 64) (ctx % 64) = [] := by
        rw [State.waitingFaults, List.map_eq_nil_iff, List.filter_eq_nil_iff]
        intro f hf hcond
        simp only [Bool.and_eq_true, beq_iff_eq] at hcond
        obtain ⟨⟨hp, hx⟩, -⟩ := hcond
        have hkey := hkeys f hf
        rw [hp, hx, ctxKey_parts] at hkey
        simp at hkey
      rw [State.drainFaults, hwaiting]
      rfl
    rw [List.filter_eq_nil_iff.mpr fun f hf => by simp [hkeys f hf]]
    rw [List.map_nil, List.foldl_nil, hdrain]
    have hback := State.modCtx_touches a ctx fun x => { x with ringBroken := c.ringBroken }
    rw [((State.Resting.of_all hrest).of_cores (Eq.trans (hback.frame .cores (by decide)) (hmod.frame .cores (by decide)))).kickAll]
    refine ⟨hmod.frame.trans hback.frame, ?_⟩
    rw [State.ctx_modCtx_same, ha, State.ctx_modCtx_same, hc]
    rfl
  case ends =>
    refine completes_onSlot (t := fun _ e => e.unresolved == some cause && e.state != .finished) hl he rfl (by simp [hun, hrun]) ?_
    rw [State.endSlot_launch he ha hlaunch hrun hst]
    set a := s.modSlot q n fun x => { x with
      status := ((EndWhy.unresolved cause).status e.promise.isSome).1, cause := ((EndWhy.unresolved cause).status e.promise.isSome).2
      state := .ended } with ha'
    have haslot : a.slot? q n = some { e with
        status := ((EndWhy.unresolved cause).status e.promise.isSome).1, cause := ((EndWhy.unresolved cause).status e.promise.isSome).2
        state := .ended } := State.slot_modSlot_same he fun _ => ⟨rfl, rfl⟩
    refine ⟨((State.modSlot_touches ..).frame.mono (by decide)).trans ((State.forceLaunch_touches ..).frame.mono (by decide)), ?_⟩
    rw [State.slot_of_slots (show (a.forceLaunch q n).slots = a.slots from rfl), haslot]
    rfl
  case request =>
    refine completes_live hl rfl ?_
    refine ⟨?_, fun e => ?_, fun k x hx hf hn hm => ?_, _, rfl, rfl⟩
    · intro p hp
      cases p with
      | atc => exact absurd (by decide) hp
      | cores => exact absurd (by decide) hp
      | xlats => exact absurd (by decide) hp
      | invals => exact absurd (by decide) hp
      | _ => rfl
    · show e ∈ s.atc.filter _ ↔ _
      rw [List.mem_filter]
      exact and_congr_right fun _ => by rw [Bool.not_eq_true']
    · dsimp only [State.atcDrop]
      rw [tbl_get_mapV, hx]
      simp [hf, hn, hm]
  case done =>
    refine completes_live hl rfl ?_
    rw [hi]
    dsimp only
    rw [State.when, if_pos (by rw [hreqs, hcores]; rfl)]
    rfl

end Sys2Proof.Machine
end
